-- ==== Sys2Proof/Word.lean ====
section
/-! DEFINITION. The word types of the block and their plainest arithmetic (R6: little-endian, bit 0 least significant). -/

namespace Sys2Proof

/-- One byte of memory, of a packet or of a command. -/
abbrev Byte := BitVec 8

/-- One 64-bit control-space word (R462). -/
abbrev Word := BitVec 64

/-- A run of bytes, the first at the lowest offset (R6). -/
abbrev Bytes := List Byte

/-- A chip coordinate in the layout of R65. -/
abbrev Coord := BitVec 32

/-- A sparse table: entries by index, indices rising; an index that is not listed holds the table's default. -/
abbrev Tbl (α : Type) := List (Nat × α)

end Sys2Proof
end

