-- ==== Sys2Proof/Syntax.lean ====
section
/-! DEFINITION. The commands the block takes: one constructor for each row of spec/opcode_table.json, and the operands
they carry (requests, packets, answers of the memory controllers, identities of the entities an event is about). -/

namespace Sys2Proof

/-- The code of one line of a memory response (R40). -/
inductive Rsp where
  | ok | poison | denied | error
  deriving DecidableEq, Repr, Inhabited

/-- How the memory controllers answer the accesses a step makes on its own behalf: the lines listed are answered as
given, for reads and for writes, every other line OK (R40, R55); and how often the entry that COMMAND_FETCH takes fails its byte
parity, 0 to 2 times (R416); and the tamper and monitor inputs, by their bits of SEC_MON counted from bit 28, that have fallen
since the last row that saw them (R409). -/
structure Env where
  rd : List (Nat × Rsp) := []
  wr : List (Nat × Rsp) := []
  par : Nat := 0
  fell : BitVec 36 := 0
  deriving DecidableEq, Repr, Inhabited

/-- A host request on an upstream memory port, with its one write data beat (R35, R37). -/
structure MpReq where
  addr : BitVec 48
  len : BitVec 2
  aop : BitVec 4 := 0
  tag : BitVec 12
  ctx : BitVec 12 := 0
  qos : BitVec 2 := 0
  cnum : BitVec 16 := 0
  data : Bytes := []
  mask : BitVec 256 := 0
  deriving DecidableEq, Repr, Inhabited

/-- A fetched command: its queue pair, or 8,192 for the fabric queue (R390), and its number in that queue (R120). -/
structure CmdId where
  q : Nat
  n : Nat
  deriving DecidableEq, Repr, Inhabited

/-- The packet header (R71). -/
structure Hdr where
  dest : BitVec 32
  src : Coord
  vc : BitVec 8
  opcode : BitVec 8
  group : BitVec 16
  length : BitVec 16
  member : BitVec 8
  flags : BitVec 8
  raddr : BitVec 64
  seq : BitVec 24
  rsv0 : BitVec 40 := 0
  nonce : BitVec 96 := 0
  tag : BitVec 128 := 0
  rsv1 : BitVec 32 := 0
  deriving DecidableEq, Repr, Inhabited

/-- A link packet: header and payload (R70, R71). -/
structure Packet where
  hdr : Hdr
  payload : Bytes
  deriving DecidableEq, Repr, Inhabited

/-- A packet as a link port receives it: the port, lp_rx_err on its last beat, whether its VC buffer had room for it
(R68, R74), and the packet. -/
structure Rx where
  port : Nat
  err : Bool := false
  room : Bool := true
  pk : Packet
  deriving DecidableEq, Repr, Inhabited

/-- The kinds of the tamper and monitor inputs (R399). -/
inductive MonKind where
  | tamper | vwarn | vtrip | cwarn | ctrip
  deriving DecidableEq, Repr, Inhabited

/-- The units that R417 resets one at a time. -/
inductive UnitId where
  | slice (p : Nat) | se (e : Nat) | pr (l : Nat) | relight (j : Nat) | seal (j : Nat) | frontEnd (qps : List Nat)
  | lantern | helm | pool
  deriving DecidableEq, Repr, Inhabited

/-- An error that an SRAM access or a scrub finds (R414, R423): array code, instance, word, and whether it is a double-bit
error that stays uncorrectable (for a mirrored table: in both copies). -/
structure SramErr where
  array : Nat
  inst : Nat
  word : Nat
  double : Bool
  deriving DecidableEq, Repr, Inhabited

/-- The commands of the block, one constructor a row of the table, in the table's order. -/
inductive Instr where
  | mpRead (p : Nat) (r : MpReq)
  | mpWrite (p : Nat) (r : MpReq)
  | mpWriteMasked (p : Nat) (r : MpReq)
  | mpAtomic (p : Nat) (r : MpReq)
  | mdResponse (p : Nat) (tag : Nat) (codes : List Rsp)
  | mergeFlushTimeout (p : Nat) (line : Nat)
  | degradedReadDone (op : Nat) (env : Env)
  | fetchDeadlineExpiry (op : Nat) (member : Nat) (env : Env)
  | fetchRetryTimer (op : Nat)
  | commandFetch (q : Nat) (env : Env)
  | doorbell (q : Nat) (v : Word)
  | irqHoldoffExpiry (q : Nat)
  | nop (c : CmdId) (env : Env)
  | fence (c : CmdId) (env : Env)
  | regionDefine (c : CmdId) (env : Env)
  | regionRetire (c : CmdId) (env : Env)
  | regionSound (c : CmdId) (env : Env)
  | soundingStream (r : Nat) (env : Env)
  | soundingComplete (r : Nat) (env : Env)
  | soundingTimeout (r : Nat) (env : Env)
  | watchOpen (c : CmdId) (env : Env)
  | watchPoll (c : CmdId) (env : Env)
  | pollTimeout (x : Nat) (env : Env)
  | windowOpen (c : CmdId) (env : Env)
  | encodingComplete (x : Nat) (env : Env)
  | encodingTimeout (x : Nat) (env : Env)
  | watchClose (c : CmdId) (env : Env)
  | closeBarrier (x : Nat) (env : Env)
  | closeTimeout (x : Nat) (env : Env)
  | watchAbandon (c : CmdId) (env : Env)
  | accumClear (c : CmdId) (env : Env)
  | accumWrite (c : CmdId) (env : Env)
  | reduceScatter (c : CmdId) (env : Env)
  | directDeadline (c : CmdId) (env : Env)
  | collectiveTimeout (c : CmdId) (env : Env)
  | collectiveRepeatTimer (c : CmdId)
  | allGather (c : CmdId) (env : Env)
  | datumAdvanceSet (c : CmdId) (env : Env)
  | datumAdvanceRecompute (c : CmdId) (env : Env)
  | datumAdvanceMargin (c : CmdId) (env : Env)
  | kernelRun (c : CmdId) (env : Env)
  | kernelLoad (c : CmdId) (env : Env)
  | bearingReadRunning (c : CmdId) (env : Env)
  | bearingReadMember (c : CmdId) (env : Env)
  | bearingSweepStart (c : CmdId) (env : Env)
  | bearingSweepAdopt (c : CmdId) (env : Env)
  | memberFence (c : CmdId) (env : Env)
  | memberAdoptSurvivor (c : CmdId) (env : Env)
  | memberAdoptSpare (c : CmdId) (env : Env)
  | adoptResend (g : Nat)
  | adoptTimeout (g : Nat) (env : Env)
  | relightStart (c : CmdId) (env : Env)
  | relightStateTransfer (g : Nat) (env : Env)
  | relightStripeDone (op : Nat) (env : Env)
  | relightTimeout (g : Nat) (env : Env)
  | restripe (c : CmdId) (env : Env)
  | restripeStream (r : Nat) (env : Env)
  | restripeTimeout (r : Nat) (env : Env)
  | degradedRead (c : CmdId) (env : Env)
  | copy (c : CmdId) (env : Env)
  | fill (c : CmdId) (env : Env)
  | keyInstallInstall (c : CmdId) (env : Env)
  | keyInstallActivate (c : CmdId) (env : Env)
  | keyInstallErase (c : CmdId) (env : Env)
  | counterResync (c : CmdId) (env : Env)
  | snuff (c : CmdId) (env : Env)
  | imagePatch (c : CmdId) (env : Env)
  | helmHandoverReady (env : Env)
  | helmHandoverTimeout (env : Env)
  | patchLibrarySwap (env : Env)
  | patchSlotTimeout (env : Env)
  | partitionSet (c : CmdId) (env : Env)
  | groupDefine (c : CmdId) (env : Env)
  | groupRelease (c : CmdId) (env : Env)
  | formationJoinResend (g : Nat)
  | formationTimeout (g : Nat) (env : Env)
  | injectArm (c : CmdId) (env : Env)
  | injectDisarm (c : CmdId) (env : Env)
  | injectArmExpiry
  | statsSnapshot (c : CmdId) (env : Env)
  | sli (e : Nat) | slih (e : Nat) | sadd (e : Nat) | saddi (e : Nat) | ssub (e : Nat) | smul (e : Nat)
  | sand (e : Nat) | sor (e : Nat) | sxor (e : Nat) | sshl (e : Nat) | sshr (e : Nat) | ssra (e : Nat)
  | scmp (e : Nat) | br (e : Nat) | bz (e : Nat) | bnz (e : Nat) | loop (e : Nat)
  | vadd (e : Nat) | vsub (e : Nat) | vmul (e : Nat) | vfma (e : Nat) | vmin (e : Nat) | vmax (e : Nat)
  | vrcp (e : Nat) | vrsq (e : Nat) | vsqrt (e : Nat) | vexp2 (e : Nat) | vlog2 (e : Nat)
  | vcmp (e : Nat) | vsel (e : Nat) | vand (e : Nat) | vor (e : Nat) | vxor (e : Nat)
  | vshl (e : Nat) | vshr (e : Nat) | viadd (e : Nat) | vcvt (e : Nat) | vbcast (e : Nat) | vext (e : Nat)
  | vidx (e : Nat) | ldv (e : Nat) | ldl (e : Nat) | stl (e : Nat) | waitl (e : Nat)
  | ldds (e : Nat) (env : Env) | cbegin (e : Nat) | cst (e : Nat) (env : Env) | st (e : Nat) (env : Env)
  | dadd (e : Nat) (env : Env) | cend (e : Nat) (env : Env) | qacc (e : Nat) | rand (e : Nat) | bolganNop (e : Nat)
  | chunkDispatch (part : Nat) (env : Env)
  | sliceExpiry (e : Nat)
  | kernelTimeout (e : Nat) (env : Env)
  | commitPhaseTimeout (e : Nat) (env : Env)
  | unitPrepare (g : Nat) (u : BitVec 64) (env : Env)
  | hostUnitTimeout (p : Nat) (g : Nat) (u : BitVec 64)
  | deltaPacketTimeout (p : Nat) (k : Nat)
  | unitReady (g : Nat) (src : Nat) (u : BitVec 64)
  | doneNoticeTimer (g : Nat)
  | parityRebuild (op : Nat) (env : Env)
  | poolAudit
  | stageFullResume (port : Nat) (env : Env)
  | pressureEpisode10ms
  | pressureRepeatLog
  | pressureEpisodeEnd
  | bearingSweepPeriod (r : Nat) (env : Env)
  | sweepComplete (r : Nat) (env : Env)
  | parityScrubStart (r : Nat)
  | parityScrubStripe (op : Nat) (env : Env)
  | lanternPeriod
  | affinityMove (coord : Coord)
  | lanternSuspect (coord : Coord)
  | lanternLost (coord : Coord) (env : Env)
  | downIndication (port : Nat) (coord : Coord) (env : Env)
  | lpTxOff (port : Nat) (off : BitVec 8)
  | lpLinkUp (port : Nat) (up : Bool)
  | seqLossTimeout (src : Coord) (vc : Nat) (mcast : Option Nat) (upTo : Nat) (env : Env)
  | vc0RepeatTimer (msgid : Nat)
  | lantern (rx : Rx) (env : Env)
  | ack (rx : Rx) (env : Env)
  | prepare (rx : Rx) (env : Env)
  | apply (rx : Rx) (env : Env)
  | delta (rx : Rx) (env : Env)
  | poll (rx : Rx) (env : Env)
  | barrier (rx : Rx) (env : Env)
  | groupBearing (rx : Rx) (env : Env)
  | abandonNotice (rx : Rx) (env : Env)
  | tornNotice (rx : Rx) (env : Env)
  | reduce (rx : Rx) (env : Env)
  | reduceRepeat (rx : Rx) (env : Env)
  | gather (rx : Rx) (env : Env)
  | gatherRepeat (rx : Rx) (env : Env)
  | fetchLine (rx : Rx) (env : Env)
  | fetchFrag (rx : Rx) (env : Env)
  | fetchRebuild (rx : Rx) (env : Env)
  | fetchMap (rx : Rx) (env : Env)
  | fetchState (rx : Rx) (env : Env)
  | fetchTiles (rx : Rx) (env : Env)
  | fetchWatch (rx : Rx) (env : Env)
  | fetchRsp (rx : Rx) (env : Env)
  | fabricCmd (rx : Rx) (env : Env)
  | join (rx : Rx) (env : Env)
  | desc (rx : Rx) (env : Env)
  | endNotice (rx : Rx) (env : Env)
  | loss (rx : Rx) (env : Env)
  | settle (rx : Rx) (env : Env)
  | done (rx : Rx) (env : Env)
  | fenced (rx : Rx) (env : Env)
  | adopt (rx : Rx) (env : Env)
  | adopted (rx : Rx) (env : Env)
  | rlBegin (rx : Rx) (env : Env)
  | rlAnswer (rx : Rx) (env : Env)
  | rlEnd (rx : Rx) (env : Env)
  | rlCancel (rx : Rx) (env : Env)
  | rsBegin (rx : Rx) (env : Env)
  | rsAnswer (rx : Rx) (env : Env)
  | ctxEnable (x : Nat)
  | ctxDisable (x : Nat) (env : Env)
  | ctxReset (x : Nat) (env : Env)
  | teardownDone (x : Nat) (ns : Nat) (env : Env)
  | qpEnable (q : Nat) (v : Word)
  | qpReset (q : Nat)
  | serveOn
  | serveOff (env : Env)
  | seDrain (e : Nat)
  | seReadmit (e : Nat)
  | quiesce (p : Nat)
  | quiesceExpired (p : Nat) (clock : Bool)
  | linkEnable (en : Bool)
  | mcastEnable (en : Bool)
  | bseedWrite (g : Nat) (hi : Bool) (v : Word)
  | ldrDownloadGo (v : Word)
  | ldrAbort
  | ldrData (v : Word)
  | imageVerified
  | imageApplied
  | helmReportTimeout
  | injectWrite (d : Nat) (v : Word) (env : Env)
  | registerWrite (addr : Nat) (v : Word) (env : Env)
  | mainResetAssert
  | mainResetRelease
  | selfTestDone (fail0 : Word) (fail1 : Word)
  | coldReset
  | wrapperReset
  | powerLoss
  | dbgUnlock
  | kpWord (idx : BitVec 5) (data : Word) (err : Bool)
  | keyDerivationDone
  | kidCheck (env : Env)
  | tamperTrip (kind : MonKind) (bit : Nat) (env : Env)
  | monitorWarn (kind : MonKind) (bit : Nat) (env : Env)
  | ssReadFrame (header : BitVec 32) (edges : Nat)
  | ssSnuffFrame (words : List (BitVec 32)) (edges : Nat) (env : Env)
  | tbStrobe (v : Word)
  | tbLost
  | sramScrub (errs : List SramErr) (env : Env)
  | unitReset (u : UnitId) (kind code word : Nat) (env : Env)
  | watchdogTrip (machine : Nat) (inst : Nat) (env : Env)
  | helmRestart
  | unitGate (u : UnitId)
  | unitWake (u : UnitId)
  | powerEstimate
  | telemetrySample (env : Env)
  | quiesceCleared (p : Nat) (clock : Bool)
  | memClockResumed (p : Nat)
  | seSelfTestRerunDone (e : Nat) (ok : Bool)
  deriving DecidableEq, Repr

end Sys2Proof
end

