-- ==== Sys2Proof/Decode.lean ====
section
/-! DEFINITION. The reading of table words. No row of spec/opcode_table.json gives bits: the block has no instruction words
of its own there, and each row is an event or a command that reaches it through a port. So no word spells a row. (Command
slots, packet headers and Bolgan words have encodings of their own: Machine/Operands.lean reads them.) -/

namespace Sys2Proof

/-- The command that a word of the table's bits spells: none, since no row gives bits. -/
def decodeTableWord (_nbits _w : Nat) : Option Instr := none

end Sys2Proof
end

