-- ==== Sys2Proof/Config.lean ====
section
/-! DEFINITION. What an implementation fixes and the manual leaves open: constants without a body, so that no proof can
see a value of theirs. Each is named in the assumption log. -/

namespace Sys2Proof.Config

/-- KMAC256 of NIST SP 800-185, named and not given by R382, R384, R386, R391, R406: key, message, output length in bits,
customisation string. Log entry 5. -/
opaque kmac256 : Bytes → Bytes → Nat → Bytes → Bytes

/-- SHA3-384 of FIPS 202, named by R366. Log entry 5. -/
opaque sha3_384 : Bytes → Bytes

/-- ECDSA P-384 verification of FIPS 186-5, named by R366: public key, hash value, signature. Log entry 5. -/
opaque ecdsaVerify : Bytes → Bytes → Bytes → Bool

/-- ML-DSA-65 verification of FIPS 204 with an empty context string, named by R366: public key, message, signature.
Log entry 5. -/
opaque mldsaVerify : Bytes → Bytes → Bytes → Bool

/-- AES key unwrap, KW mode of NIST SP 800-38F, named by R392: wrapping key, wrapped key; none when the integrity check
fails. Log entry 5. -/
opaque aesUnwrap : Bytes → Bytes → Option Bytes

/-- AES-256-GCM sealing of NIST SP 800-38D, named by R394: key, IV, additional data, plaintext; ciphertext and tag.
Log entry 5. -/
opaque gcmSeal : Bytes → BitVec 96 → Bytes → Bytes → Bytes × BitVec 128

/-- AES-256-GCM opening, named by R394 and R396: key, IV, additional data, ciphertext, tag; none when the tag fails.
Log entry 5. -/
opaque gcmOpen : Bytes → BitVec 96 → Bytes → Bytes → BitVec 128 → Option Bytes

/-- A byte the manual leaves undefined (R154, R207, R210, R353: a PARITY partner; R40: a write's response data), by the free
counter of the state. Log entry 6. -/
opaque freeByte : Nat → Byte

/-- A byte of an SE's local store that nothing has loaded or stored since the chunk started, by its local address: R267 and
R268 give it no value, and R314 makes it the same on every SE. Log entry 101. -/
opaque storeByte : Nat → Byte

/-- The word of an array that an injected error meets (R430: the next word written), by the free counter. Log entry 6. -/
opaque freeWord : Nat → Word

/-- What the memory controller does for an ATOMIC (R35: the subcode is carried unchanged, never interpreted by the SCE):
subcode, old line, operand line; new line and returned line. Log entry 7. -/
opaque controllerAtomic : BitVec 4 → Bytes → Bytes → Bytes × Bytes

/-- Does a command, given by its slots, read a word of a shared table (R414 names no words): array code and word. Log entry 108. -/
opaque readsWord : Nat → Nat → Bytes → Bool

/-- The Helm's power estimate from unit activity before scaling, in mW (R445: the coefficients of a reference
implementation that the manual does not give), by the telemetry counters and T_CORE. Log entry 8. -/
opaque powerEstimate : Tbl Nat → Nat → Nat

end Sys2Proof.Config
end

