-- ==== Sys2Proof/Machine/State.lean ====
section
/-! DEFINITION. The state of the block: the build, host memory behind the memory controllers, every register, table,
queue and job the manual gives the SCE, and the queue of the commands that wait. Plain data. Each field's docstring gives
name | width | rule | reset value; "model" marks a field of the model's own. -/

namespace Sys2Proof.Machine

/-- Why the machine would stop with a fault. No command of the block raises one: the manual answers every failure with a
status, a response code, an error register or an event. -/
inductive Fault where
  /-- Raised by nobody: kept so that the outcome type has a name for an internal access beyond the 48-bit space (R35),
  which no command can form. Safe: the machine would stop. -/
  | outsideAddressSpace
  deriving DecidableEq, Repr

/-- Why a command has no meaning. -/
inductive Refusal where
  /-- Raised by an arm of the dispatch that has no meaning yet; safe. -/
  | notModelled (mnemonic : String)
  deriving DecidableEq, Repr

/-- What the integrator fixes at synthesis (R2, R34, R68). -/
structure Build where
  /-- Memory ports | 6 bits in GLB_ID | 00 R2 | DESIGN CHOICE 32, entry 3 -/
  nmp : Nat := 32
  /-- Link ports | 4 bits in GLB_ID | 00 R2 | DESIGN CHOICE 8, entry 3 -/
  nlp : Nat := 8
  /-- State engines | 7 bits in GLB_ID | 00 R2 | DESIGN CHOICE 64, entry 3 -/
  nse : Nat := 64
  /-- GLB_MPILV0 to 4, the interleave masks | 5 of 48 bits | 02 R34 | DESIGN CHOICE the masks of R34's example, entry 3 -/
  masks : List (BitVec 48) := [0x100, 0x200, 0x400, 0x800, 0x1000]
  /-- lp_mcast_cap tie-off | 1 | 03 R68 | DESIGN CHOICE 1, entry 3 -/
  mcastCap : Bool := true
  deriving DecidableEq, Repr, Inhabited

/-- Block states (R356), in the order of their codes. -/
inductive BlockState where
  | reset | dark | loading | pass | service | quarantine | snuffed
  deriving DecidableEq, Repr, Inhabited

/-- Region kinds (R146), in the order of their codes. -/
inductive Kind where
  | plain | coded | window | derived | accum | residual | parity | staging | ring | record
  deriving DecidableEq, Repr, Inhabited

/-- Region states (R146). -/
inductive RgnState where
  | free | active | unsounded | sounding | sounded
  deriving DecidableEq, Repr, Inhabited

/-- Group states (R319). -/
inductive GrpState where
  | free | forming | whole | degraded | relighting | restriping | broken
  deriving DecidableEq, Repr, Inhabited

/-- Member slot states (R318). -/
inductive SlotState where
  | unused | alive | suspect | lost | fenced | adopted
  deriving DecidableEq, Repr, Inhabited

/-- Context states (R102). -/
inductive CtxState where
  | disabled | active | teardown | frozen | retiring
  deriving DecidableEq, Repr, Inhabited

/-- Queue-pair states (R127). -/
inductive QpState where
  | disabled | active | stopped | fault
  deriving DecidableEq, Repr, Inhabited

/-- Watch phases (R194). -/
inductive Phase where
  | idle | opened | polling | polled | encoding | window | skip | closing
  deriving DecidableEq, Repr, Inhabited

/-- SE states (R295). -/
inductive SeState where
  | absent | idle | running | commit | drained | reset
  deriving DecidableEq, Repr, Inhabited

/-- Loader phases (R378). -/
inductive LdrPhase where
  | selftest | ready | receiving | verifying | applying | done | failed
  deriving DecidableEq, Repr, Inhabited

/-- Command statuses (R117), in the order of their codes. -/
inductive Status where
  | ok | okDegraded | aborted | authFail | range | nonfinite | memberLost | poisoned | denied | timeout | malformed
  | quota | unsupported | watchState
  deriving DecidableEq, Repr, Inhabited

/-- A peer's Lantern state (R94). -/
inductive PeerState where
  | unused | alive | suspect | lost
  deriving DecidableEq, Repr, Inhabited

/-- The classes of requests an MIU serves (R22), in the order of its round-robin; background work stands behind them
(R25). -/
inductive MdClass where
  | host | se | au | holder | relight | background
  deriving DecidableEq, Repr, Inhabited

/-- The memory behind the controllers: address and byte, addresses strictly rising, no byte equal to what an unlisted
address reads as. -/
abbrev Mem := List Host.Cell

/-! ### Global, clocks, loader, telemetry -/

/-- The GLB window (R377). -/
structure Glb where
  /-- GLB_STAT.STATE | 3 | 12 R356, R377 | RESET (0) -/
  state : BlockState := .reset
  /-- GLB_CTL.SERVE | 1 | 12 R377 | 0 -/
  serve : Bool := false
  /-- GLB_IMGID | 64 | 12 R377 | 0 -/
  imgId : Word := 0
  /-- GLB_HELMVER | 64 | 12 R377 | 0 -/
  helmVer : Word := 0
  /-- GLB_STAT.SVN | 32 | 12 R377 | 0 -/
  svn : Nat := 0
  /-- GLB_STAT.HSTATE | 16 | 12 R377 | 0 -/
  hstate : Nat := 0
  /-- GLB_STAT.IMG_OK | 1 | 12 R377 | 0 -/
  imgOk : Bool := false
  /-- GLB_STAT.HELM_OK | 1 | 12 R377 | 0 -/
  helmOk : Bool := false
  /-- GLB_STFAIL0 | 64 | 12 R377 | 0 -/
  stfail0 : Word := 0
  /-- GLB_STFAIL1 | 64 | 12 R377 | 0 -/
  stfail1 : Word := 0
  /-- rst_main_n asserted | 1 | 15 R437 | 1 right after a cold reset -/
  mainReset : Bool := true
  /-- pg_main, main domain power good | 1 | 15 R437 | DESIGN CHOICE 1, entry 4 -/
  power : Bool := true
  /-- the ROM self-test runs | 1 | 12 R359 | 0 -/
  testing : Bool := false
  /-- Helm instruction bank that runs | 1 | 12 R367 | 0 -/
  bank : Nat := 0
  /-- Helm instruction banks, the code copied into each | 2 of 1 MiB | 12 R367, R374 | DESIGN CHOICE empty, entry 111 -/
  banks : Tbl Bytes := []
  /-- ENTRY of the code of each bank | 2 of 32 | 12 R367, R374 | DESIGN CHOICE 0, entry 111 -/
  entries : Tbl Nat := []
  /-- the format of the state that a hand-over has written into Helm data memory | 16 | 12 R374 | none -/
  savedFmt : Option Nat := none
  /-- Helm restarts within the last second, times in µs | list | 14 R421 | none -/
  helmRestarts : List Nat := []
  /-- the Helm stays stopped | 1 | 14 R421 | 0 -/
  helmStopped : Bool := false
  deriving DecidableEq, Repr, Inhabited

/-- The CRP window (R456). -/
structure Crp where
  /-- CRP_RST.RSTCNT (AON) | 32 | 15 R456 | 0 -/
  rstCnt : Nat := 0
  /-- CRP_RST.CAUSE (AON) | 3 | 15 R456 | 1 COLD -/
  cause : Nat := 1
  /-- CRP_CLKSTAT.LINKCLK | 8 | 15 R456 | 0 -/
  linkClk : BitVec 8 := 0
  /-- CRP_CLKSTAT.MEMCLK | 32 | 15 R456 | 0 -/
  memClk : BitVec 32 := 0
  /-- CRP_TBCFG.PERIOD_US | 10 | 15 R456 | 1 -/
  tbPeriod : Nat := 1
  /-- CRP_TBSTAT | 6 | 15 R456 | 0 -/
  tbStat : BitVec 6 := 0
  /-- CRP_TIME, T_CORE in ns | 64 | 15 R442 | 0 -/
  tCore : Nat := 0
  /-- T_CORE's difference still to absorb, ns | 64 | 15 R442 | 0 -/
  slewCore : Nat := 0
  /-- T_AON in ns | 64 | 15 R442 | 0 -/
  tAon : Nat := 0
  /-- T_AON's difference still to absorb, ns | 64 | 15 R442 | 0 -/
  slewAon : Nat := 0
  /-- CRP_GATECTL.PG_US | 16 | 15 R456 | 200 -/
  pgUs : Nat := 200
  /-- CRP_GATECTL.RL_PG_DIS | 1 | 15 R456 | 0 -/
  rlPgDis : Bool := false
  /-- CRP_GATECTL.SE_PG_DIS | 1 | 15 R456 | 0 -/
  sePgDis : Bool := false
  /-- CRP_GATECTL.CG_DIS | 1 | 15 R456 | 0 -/
  cgDis : Bool := false
  /-- CRP_PWR.PEAK_MW | 32, RC | 15 R456 | 0 -/
  peakMw : Nat := 0
  /-- CRP_PWR.AVG_MW | 32 | 15 R456 | 0 -/
  avgMw : Nat := 0
  /-- CRP_ENERGY, µJ | 64 | 15 R456 | 0 -/
  energy : Nat := 0
  /-- CRP_PWRSCALE.SCALE | 16 | 15 R456 | 256 -/
  pwrScale : Nat := 256
  /-- CRP_GATESTAT | 64 | 15 R456 | 0 -/
  gateStat : Word := 0
  /-- units that are clock-gated | list | 15 R443 | none -/
  clockGated : List UnitId := []
  /-- Relight engines that are power-gated | list | 15 R443 | none -/
  rlPowerGated : List Nat := []
  deriving DecidableEq, Repr, Inhabited

/-- The LDR window and the loader buffer (R378, R361). -/
structure Ldr where
  /-- LDR_CTL.LEN | 32 | 12 R378 | 0 -/
  len : Nat := 0
  /-- LDR_CTL.MODE | 2 | 12 R378 | 0 -/
  mode : Nat := 0
  /-- LDR_STAT.BYTES | 32 | 12 R378 | 0 -/
  bytes : Nat := 0
  /-- LDR_STAT.ERR | 8 | 12 R378 | 0 -/
  err : Nat := 0
  /-- LDR_STAT.PHASE | 3 | 12 R378 | 0 SELFTEST -/
  phase : LdrPhase := .selftest
  /-- LDR_ADDR, byte address | 48 | 12 R378 | 0 -/
  addr : Nat := 0
  /-- loader buffer, the image bytes received | 2 MiB | 12 R361 | empty -/
  buf : Bytes := []
  /-- LDR_MBOX0 to 7 | 8 of 64 | 12 R378 | 0 -/
  mbox : List Word := List.replicate 8 0
  /-- the download in progress as GO sampled it: LEN, and for MODE FETCH the address | 32 and 48 | 12 R361, 16 R465 | none -/
  total : Nat := 0
  base : Option Nat := none
  /-- FETCH: the next offset to read, and the lines received by offset | 32 and 2 MiB | 12 R363 | 0 and none -/
  next : Nat := 0
  lines : Tbl Bytes := []
  /-- T_CORE when the image was verified | 64 | 12 R378 | 0 -/
  verNs : Nat := 0
  deriving DecidableEq, Repr, Inhabited

/-- One event-log entry (R451). -/
structure LogEntry where
  seq : Nat
  time : Nat
  code : Nat
  sev : Nat
  inst : Nat
  ctx : Nat
  args : List Word
  deriving DecidableEq, Repr, Inhabited

/-- The TLM window and the event log (R451, R457). -/
structure Tlm where
  /-- TLM_GIRQ.PEND | 1 | 15 R457 | 0 -/
  girq : Bool := false
  /-- TLM_GIRQSEQ | 64 | 15 R454 | 0 -/
  girqSeq : Nat := 0
  /-- TLM_ELNEXT | 64 | 15 R452 | 0 -/
  elNext : Nat := 0
  /-- TLM_ELACK | 64 | 15 R452 | 0 -/
  elAck : Word := 0
  /-- TLM_ELLOST | 64 | 15 R452 | 0 -/
  elLost : Nat := 0
  /-- TLM_ELSEL | 64 | 15 R452 | 0 -/
  elSel : Word := 0
  /-- event log, newest first | 4,096 of 64 B | 15 R451 | empty -/
  log : List LogEntry := []
  /-- TLM_SAMPBASE | 64 | 15 R457 | 0 -/
  sampBase : Word := 0
  /-- TLM_SAMPCFG | 64 | 15 R457 | 0x0000_0040_0000_0064 -/
  sampCfg : Word := 0x4000000064
  /-- TLM_SAMPSTAT.SKIPPED | 32 | 15 R457 | 0 -/
  skipped : Nat := 0
  /-- TLM_SAMPSTAT.SAMP_BAD | 1 | 15 R457 | 0 -/
  sampBad : Bool := false
  /-- number of the next sample | 64 | 15 R450 | 0 -/
  sample : Nat := 0
  /-- slots of the current sample that are still to be written: address and bytes | 2 of 16 KiB | 15 R450 | none -/
  todo : List (Nat × Bytes) := []
  deriving DecidableEq, Repr, Inhabited

/-- An injection register (R429). -/
structure Inj where
  /-- RAS_INJd.INST | 8 | 14 R429 | 0 -/
  inst : Nat := 0
  /-- RAS_INJd.ARG | 16 | 14 R429 | 0 -/
  arg : Nat := 0
  /-- RAS_INJd.COUNT | 16 | 14 R429 | 0 -/
  count : Nat := 0
  /-- RAS_INJd.FIRED | 1 | 14 R429 | 0 -/
  fired : Bool := false
  /-- RAS_INJd.MODE | 2 | 14 R429 | 0 -/
  mode : Nat := 0
  /-- RAS_INJd.GO | 1 | 14 R429 | 0 -/
  go : Bool := false
  deriving DecidableEq, Repr, Inhabited

/-- The RAS window (R431). -/
structure Ras where
  /-- RAS_STAT | 9 | 14 R431 | 0 -/
  stat : BitVec 9 := 0
  /-- RAS_CNT_SBE | 64 | 14 R431 | 0 -/
  cntSbe : Nat := 0
  /-- RAS_CNT_DBE | 64 | 14 R431 | 0 -/
  cntDbe : Nat := 0
  /-- RAS_CNT_PAR | 64 | 14 R431 | 0 -/
  cntPar : Nat := 0
  /-- RAS_CNT_WDOG | 64 | 14 R431 | 0 -/
  cntWdog : Nat := 0
  /-- RAS_CNT_SCRUB | 64 | 14 R431 | 0 -/
  cntScrub : Nat := 0
  /-- RAS_LAST | 64 | 14 R431 | 0 -/
  last : Word := 0
  /-- RAS_LASTNS | 64 | 14 R431 | 0 -/
  lastNs : Nat := 0
  /-- RAS_BGCTL bits [3:0] | 4 | 14 R431 | 0 -/
  bgctl : BitVec 4 := 0
  /-- RAS_SCRUB.SRAM_MS | 16 | 14 R431 | 100 -/
  sramMs : Nat := 100
  /-- RAS_SCRUB.PARITY_S | 32 | 14 R431 | 1,800 -/
  parityS : Nat := 1800
  /-- RAS_SCRUBSTAT.PASS_MS | 32 | 14 R431 | 0 -/
  passMs : Nat := 0
  /-- RAS_SCRUBSTAT.SKIPPED | 32 | 14 R431 | 0 -/
  skipped : Nat := 0
  /-- RAS_INJCTL.REMAIN | 32 | 14 R431 | 0 -/
  remain : Nat := 0
  /-- RAS_INJCTL.LOSS_OK | 1 | 14 R431 | 0 -/
  lossOk : Bool := false
  /-- RAS_INJCTL.SNUFF_OK | 1 | 14 R431 | 0 -/
  snuffOk : Bool := false
  /-- RAS_INJCTL.DBG | 1 | 14 R428, R431 | 0 -/
  dbg : Bool := false
  /-- RAS_INJCTL.ARMED | 1 | 14 R431 | 0 -/
  armed : Bool := false
  /-- RAS_INJEXP | 64 | 14 R431 | 0 -/
  injExp : Nat := 0
  /-- RAS_INJMASK | 64 | 14 R431 | 0 -/
  injMask : Word := 0
  /-- RAS_INJADDR, line address | 48 | 14 R431 | 0 -/
  injAddr : Nat := 0
  /-- RAS_INJ0x00 to 0x11 | 18 of 64 | 14 R429 | 0 -/
  inj : Tbl Inj := []
  deriving DecidableEq, Repr, Inhabited

/-- A seal-key table entry (R393, R411). -/
structure SealKey where
  dgn : Nat
  owner : Nat
  key0 : Option Bytes := none
  key1 : Option Bytes := none
  active : Nat := 0
  near0 : Bool := false
  near1 : Bool := false
  /-- invocation counters by 2 × engine + slot | 56 each | 13 R395 | 0 -/
  inv : Tbl Nat := []
  deriving DecidableEq, Repr, Inhabited

/-- The SEC window, the key store and the monitor inputs (R379 to R411). -/
structure Sec where
  /-- SEC_KSTAT.KP_WORDS (AON) | 5 | 13 R409 | 0 -/
  kpWords : Nat := 0
  /-- the delivery failed (AON) | 1 | 13 R381 | 0 -/
  kpFailed : Bool := false
  /-- SEC_KSTAT.ZEROISED (AON) | 1 | 13 R409 | 0 -/
  zeroised : Bool := false
  /-- SEC_KSTAT.RK_ZERO (AON) | 1 | 13 R409 | 0 -/
  rkZero : Bool := false
  /-- SEC_KSTAT.KP_ORDER (AON) | 1 | 13 R409 | 0 -/
  kpOrder : Bool := false
  /-- SEC_KSTAT.KP_ERR (AON) | 1 | 13 R409 | 0 -/
  kpErr : Bool := false
  /-- SEC_KSTAT.KEY_OK (AON) | 1 | 13 R409 | 0 -/
  keyOk : Bool := false
  /-- fuse words taken: RK, KH_EC, KH_PQ, MIN_SVN (AON) | 17 of 64 | 13 R380 | none -/
  fuses : List Word := []
  /-- key derivation running (AON) | 1 | 13 R382 | 0 -/
  deriving_ : Bool := false
  /-- SEC_KEPOCH (AON) | 64 | 13 R409 | 0 -/
  kepoch : Nat := 0
  /-- KID (AON) | 128 | 13 R409 | 0 -/
  kid : Bytes := List.replicate 16 0
  /-- derived keys exist: K_CMD and K_WRAP (AON) | 1 | 13 R384 | 0 -/
  derived : Bool := false
  /-- SEC_ALARM.AUTH_TOTAL (AON) | 32 | 13 R409 | 0 -/
  authTotal : Nat := 0
  /-- SEC_ALARM.L3_CAUSE (AON) | 8 | 13 R409 | 0 -/
  l3Cause : Nat := 0
  /-- SEC_ALARM.L2_CAUSE (AON) | 8 | 13 R409 | 0 -/
  l2Cause : Nat := 0
  /-- SEC_ALARM.PEND (AON) | 1 | 13 R409 | 0 -/
  pend : Bool := false
  /-- SEC_ALARM.LEVEL (AON) | 2 | 13 R409 | 0 -/
  level : Nat := 0
  /-- SEC_ALARMNS (AON) | 64 | 13 R409 | 0 -/
  alarmNs : Nat := 0
  /-- times of the last authentication failures in µs, newest first (AON) | 15 kept | 13 R398 | none -/
  failTimes : List Nat := []
  /-- SEC_MON: tamper, vwarn, vtrip, cwarn, ctrip | 36 | 13 R409 | 0 -/
  mon : BitVec 36 := 0
  /-- SEC_SSERR.FRAMES (AON) | 16 | 13 R409 | 0 -/
  frames : Nat := 0
  /-- SEC_SSERR.MIDWORD (AON) | 16 | 13 R409 | 0 -/
  midword : Nat := 0
  /-- SEC_SSERR.LONG (AON) | 16 | 13 R409 | 0 -/
  long : Nat := 0
  /-- SEC_SSERR.SHORT (AON) | 16 | 13 R409 | 0 -/
  short : Nat := 0
  /-- LASTRES bits [3:0] (AON) | 4 | 13 R408 | 0 -/
  lastRes : Nat := 0
  /-- LASTRES bit 4 OVERLONG (AON) | 1 | 13 R408 | 0 -/
  overlong : Bool := false
  /-- status words the last READ frame drove on ss_do | words | 13 R405 | none -/
  ssOut : List (BitVec 32) := []
  /-- LAST[p][c] at 3p + c (AON) | 48 of 64 | 13 R387, R410 | 0 -/
  last : Tbl Nat := []
  /-- RSN[p][c] at 3p + c (AON) | 48 of 64 | 13 R387, R410 | 0 -/
  rsn : Tbl Nat := []
  /-- AON Snuff latch | 1 | 13 R401 | 0 -/
  snuffLatch : Bool := false
  /-- SEC_SKEY and the keys | 256 entries | 13 R393, R411 | none -/
  skeys : Tbl SealKey := []
  /-- last block state held in AON for the service port | 3 | 13 R408 | 0 -/
  lastState : BlockState := .reset
  deriving DecidableEq, Repr, Inhabited

/-! ### Partitions, contexts, queue pairs, commands -/

/-- A partition (R97, R99, R128). -/
structure Part where
  /-- PRT_SEMASK | 64 | 04 R128 | 0 until PASS -/
  seMask : Word := 0
  /-- PRT_RANGE.CTX_FIRST | 16 | 04 R128 | 0 until PASS -/
  ctxFirst : Nat := 0
  /-- PRT_RANGE.CTX_COUNT | 16 | 04 R128 | 0 until PASS -/
  ctxCount : Nat := 0
  /-- PRT_RANGE.QP_FIRST | 16 | 04 R128 | 0 until PASS -/
  qpFirst : Nat := 0
  /-- PRT_RANGE.QP_COUNT | 16 | 04 R128 | 0 until PASS -/
  qpCount : Nat := 0
  /-- PRT_QUOTA.SLICE_US | 16 | 04 R128 | 0 until PASS -/
  sliceUs : Nat := 0
  /-- PRT_QUOTA.CMD_SHARE | 16 | 04 R128 | 0 until PASS -/
  cmdShare : Nat := 0
  /-- PRT_QUOTA.GROUP_MAX | 16 | 04 R128 | 0 until PASS -/
  groupMax : Nat := 0
  /-- PRT_QUOTA.REGION_MAX | 16 | 04 R128 | 0 until PASS -/
  regionMax : Nat := 0
  /-- PRT_USE.POOL_KIB | 16 | 04 R128 | 0 until PASS -/
  poolKib : Nat := 0
  deriving DecidableEq, Repr, Inhabited

/-- A DIRECT roster kept for the Watch record (R213, R253). -/
structure Roster where
  coll : Nat
  map : Nat
  count : Nat
  deriving DecidableEq, Repr, Inhabited

/-- A round packet held for a poll or a barrier (R201). -/
structure RoundPkt where
  bar : Bool
  peer : Coord
  round : Nat
  value : Word
  deriving DecidableEq, Repr, Inhabited

/-- A group Bearing contribution received or taken (R208, R219). -/
structure Contrib where
  dgn : Nat
  member : Nat
  value : Word
  valid : Bool := true
  deriving DecidableEq, Repr, Inhabited

/-- The Watch of a context (R193 to R214, R225). -/
structure Watch where
  /-- CTX_WSTAT.PHASE | 4 | 07 R225 | 0 IDLE -/
  phase : Phase := .idle
  /-- CTX_WSTAT.ATTEMPT | 8 | 07 R225 | 0 -/
  a : Nat := 0
  /-- CTX_WSTAT.WATCH | 48 | 07 R225 | 0 -/
  w : Nat := 0
  /-- CTX_WLAST.LAST_CLOSED | 48 | 07 R225 | 0 -/
  lastClosed : Nat := 0
  /-- last abandoned instance (w, a) | 56 | 07 R193 | none -/
  lastAbandoned : Option (Nat × Nat) := none
  /-- CTX_WLOCAL | 64 | 07 R225 | 0 -/
  locWord : Word := 0
  /-- CTX_WVERD | 64 | 07 R225 | 0 -/
  verdict : Word := 0
  /-- poll result of the instance | 64 | 07 R213 | none -/
  pollV : Option Word := none
  /-- CTX_WRECSEQ | 64 | 07 R225 | 0 -/
  recSeq : Nat := 0
  /-- CTX_WCFG.ROUNDS | 8 | 07 R225 | 0 -/
  rounds : Nat := 0
  /-- CTX_WCFG.FLAGS | 8 | 07 R225 | 0 -/
  flags : Nat := 0
  /-- CTX_WCFG.WDOM | 16 | 07 R225 | 0 -/
  wdom : Nat := 0
  /-- CTX_WCFG.RECORD | 14 | 07 R225 | 0 -/
  record : Nat := 0
  /-- peer set of the instance | coordinates | 07 R197 | none -/
  peers : List Coord := []
  /-- poll: V and the round in progress; none before the poll starts | 64 and 8 | 07 R199 | none -/
  pollRun : Option (Word × Nat) := none
  /-- barrier: V and the round in progress | 64 and 8 | 07 R199 | none -/
  barRun : Option (Word × Nat) := none
  /-- V changed in the last round | 1 | 07 R203 | 0 -/
  shortRounds : Bool := false
  /-- round packets held, first copy of each kind, peer and round | list | 07 R201 | none -/
  held : List RoundPkt := []
  /-- round packets sent in the instance, for a spare | list | 07 R202 | none -/
  sent : List (Bool × Nat × Word) := []
  /-- group Bearing contributions held | list | 07 R208 | none -/
  contribs : List Contrib := []
  /-- own contributions taken with the close word | list | 07 R208 | none -/
  own : List Contrib := []
  /-- running Bearings when the close word was taken, by region | list | 07 R213 | none -/
  bear : Tbl Word := []
  /-- barrier result | 64 | 07 R213 | none -/
  closeV : Option Word := none
  /-- marked for replay | 1 | 07 R198 | 0 -/
  replay : Bool := false
  /-- T_OPEN, T_POLL, T_WINDOW | 3 of 64 | 07 R213 | 0 -/
  tOpen : Nat := 0
  tPoll : Nat := 0
  tWindow : Nat := 0
  /-- T_END | 64 | 07 R213 | 0 -/
  tEnd : Nat := 0
  /-- the window was entered with its WINDOW regions encoded | 1 | 07 R213 | 0 -/
  coded : Bool := false
  /-- CHUNKS | 64 | 07 R213 | 0 -/
  chunks : Nat := 0
  /-- DEGR | 64 | 07 R213 | 0 -/
  degr : Nat := 0
  /-- LATE, and the late contributors seen | 32 | 07 R213, R254 | 0 -/
  late : Nat := 0
  /-- TILES_RANGE, TILES_NONFINITE, TILES_ADVANCED | 3 of 64 | 07 R213 | 0 -/
  tilesRange : Nat := 0
  tilesNonfinite : Nat := 0
  tilesAdvanced : Nat := 0
  /-- rosters of the instance | at most 2 | 07 R214 | none -/
  rosters : List Roster := []
  /-- NO_ROLLFORWARD for every group (R206) | 1 | 07 R206 | 0 -/
  noRoll : Bool := false
  /-- groups marked NO_ROLLFORWARD by R176 | list | 06 R176 | none -/
  noRollGroups : List Nat := []
  /-- MAP_FULL in the instance | 1 | 07 R213 | 0 -/
  mapFull : Bool := false
  /-- own slot adopted in the instance (RELIT) | 1 | 07 R213 | 0 -/
  relit : Bool := false
  /-- regions of the context whose sweep mismatched since the last record | list | 07 R222 | none -/
  sweepBad : List Nat := []
  /-- groups seen DEGRADED and RELIGHTING, and rolled forward, in the instance | lists | 07 R213 | none -/
  sawDegraded : List Nat := []
  sawRelighting : List Nat := []
  rolled : List Nat := []
  /-- ADOPT_MASK by group | 16 each | 07 R213 | none -/
  adoptMask : Tbl Nat := []
  /-- the context's count of KERNEL_RUNs when the instance's WATCH_OPEN was fetched: RUN ordinals count from it | 16 |
  06 R174 | 0 -/
  runBase : Nat := 0
  /-- RESIDUAL regions that a REDUCE_SCATTER of the instance named | list | 08 R261 | none -/
  residuals : List Nat := []
  /-- regions swept with a match in the instance | list | 07 R213 | none -/
  sweptOk : List Nat := []
  /-- commands that wait on the phase: WATCH_POLL, WINDOW_OPEN, WATCH_CLOSE | 3 | 07 R194 | none -/
  pollCmd : Option CmdId := none
  winCmd : Option CmdId := none
  closeCmd : Option CmdId := none
  /-- the abandon or torn actions have begun and are not over: OUTCOME of the record they will write | 3 | 07 R210, R211, R213 |
  none -/
  ending : Option Nat := none
  /-- the command that completes when they are over: WATCH_POLL or WATCH_ABANDON | - | 07 R204, R210 | none -/
  endCmd : Option CmdId := none
  /-- KIND of the notice sent in the instance: 2 ABANDON, 3 TORN | 2 | 07 R202, R211 | none -/
  notice : Option Nat := none
  deriving DecidableEq, Repr, Inhabited

/-- A context (R101 to R107, R126). -/
structure Ctx where
  /-- CTX_STAT.STATE | 3 | 04 R126 | 0 DISABLED -/
  state : CtxState := .disabled
  /-- CTX_CTL.ENABLE | 1 | 04 R126 | 0 -/
  enable : Bool := false
  /-- CTX_STAT.FAULT | 1 | 04 R126 | 0 -/
  fault : Bool := false
  /-- CTX_STAT.FAULT_CAUSE | 8 | 04 R126 | 0 -/
  faultCause : Nat := 0
  /-- CTX_STAT.FAULT_QP | 13 | 04 R126 | 0 -/
  faultQp : Nat := 0
  /-- CTX_STAT.TD_LATE | 1 | 04 R126 | 0 -/
  tdLate : Bool := false
  /-- CTX_TD.TD_NS | 32 | 04 R126 | 0 -/
  tdNs : Nat := 0
  /-- teardown is followed by the reset actions | 1 | 04 R102, R107 | 0 -/
  resetAfter : Bool := false
  /-- the Watch state | - | 07 R225 | all 0 -/
  watch : Watch := {}
  /-- KERNEL_RUNs without RESUME fetched | 16 | 06 R174 | 0 -/
  runsFetched : Nat := 0
  deriving DecidableEq, Repr, Inhabited

/-- A queue pair (R108 to R127) with its statistics (R448). -/
structure Qp where
  /-- QP_CTL.ENABLE | 1 | 04 R127 | 0 -/
  enable : Bool := false
  /-- QP_CTL.IRQ_ALL | 1 | 04 R127 | 0 -/
  irqAll : Bool := false
  /-- QP_CTL.HOLDOFF_US | 8 | 04 R127 | 0 -/
  holdoffUs : Nat := 0
  /-- QP_CTL.CQ_LOG2 | 5 | 04 R127 | 4 -/
  cqLog2 : Nat := 4
  /-- QP_CTL.SQ_LOG2 | 5 | 04 R127 | 4 -/
  sqLog2 : Nat := 4
  /-- QP_CTL.CTX | 12 | 04 R127 | 0 -/
  ctx : Nat := 0
  /-- QP_SQBASE, byte address | 48 | 04 R127 | 0 -/
  sqBase : Nat := 0
  /-- QP_CQBASE, byte address | 48 | 04 R127 | 0 -/
  cqBase : Nat := 0
  /-- QP_PTR.SQ_HEAD | 16 | 04 R127 | 0 -/
  sqHead : Nat := 0
  /-- QP_PTR.SQ_TAIL | 16 | 04 R127 | 0 -/
  sqTail : Nat := 0
  /-- QP_PTR.CQ_HEAD | 16 | 04 R127 | 0 -/
  cqHead : Nat := 0
  /-- QP_PTR.CQ_TAIL | 16 | 04 R127 | 0 -/
  cqTail : Nat := 0
  /-- QP_STAT.PHASE | 1 | 04 R127 | 1 -/
  phase : Bool := true
  /-- QP_STAT.STATE | 2 | 04 R127 | 0 DISABLED -/
  state : QpState := .disabled
  /-- QP_STAT.FAULT_CAUSE | 8 | 04 R127 | 0 -/
  faultCause : Nat := 0
  /-- QP_FETCHED | 64 | 04 R127 | 0 -/
  fetched : Nat := 0
  /-- commands fetched before the last reset of the queue pair, which keeps command numbers apart (the model's own) | count | 04 R107 | 0 DESIGN CHOICE, log 2 -/
  numBase : Nat := 0
  /-- QP_DONE | 64 | 04 R127 | 0 -/
  done : Nat := 0
  /-- QP_STAT.IRQ_PEND, the bit in PRT_IRQSUM | 1 | 04 R125, R127 | 0 -/
  irqPend : Bool := false
  /-- a hold-off runs | 1 | 04 R125 | 0 -/
  holding : Bool := false
  /-- a completion arrived during the hold-off | 1 | 04 R125 | 0 -/
  heldIrq : Bool := false
  /-- word 0 CMDS | 32 | 15 R448 | 0 -/
  statCmds : Nat := 0
  /-- word 0 NOTOK | 32 | 15 R448 | 0 -/
  statNotOk : Nat := 0
  /-- word 1 WAIT_US | 32 | 15 R448 | 0 -/
  statWait : Nat := 0
  /-- word 1 WRAP_CMDS, WRAP_NOTOK, WRAP_WAIT | 3 | 15 R448 | 0 -/
  wraps : BitVec 3 := 0
  /-- numbers of commands that completed with a status other than OK and OK_DEGRADED | list | 04 R121 | none -/
  notOk : List Nat := []
  /-- first slot of a critical command whose second slot is not fetched yet | 64 B | 04 R109, R112 | none -/
  half : Bytes := []
  deriving DecidableEq, Repr, Inhabited

/-- How far a fetched command is. -/
inductive CmdPhase where
  /-- fetched, checks not made -/
  | fetched
  /-- checks made, running or waiting on events -/
  | running
  deriving DecidableEq, Repr, Inhabited

/-- A completion decided and waiting: status, INFO, RESULT bytes. -/
structure Outc where
  status : Status := .ok
  info : Nat := 0
  result : Bytes := []
  /-- only the line of its completion entry is waited for (R53), no unit -/
  now : Bool := false
  /-- the entry is written whatever SILENT says (R104) -/
  force : Bool := false
  deriving DecidableEq, Repr, Inhabited

/-- A fetched command in flight (R113 to R123). -/
structure Cmd where
  /-- queue pair (8,192: the fabric queue) and number | 64 | 04 R120 | - -/
  id : CmdId
  /-- the slot bytes, 64 or 128 | 64 or 128 B | 04 R113, R114 | - -/
  slot : Bytes
  /-- context under whose authority it acts | 12 | 04 R116; 13 R390 | - -/
  ctx : Nat
  /-- its partition | 4 | 13 R385 | - -/
  part : Nat
  /-- issuer class: 0 HOST, 1 FABRIC | 2 | 13 R385 | - -/
  cls : Nat := 0
  /-- MSGID and SRC of a fabric command | 64 and 32 | 13 R390 | - -/
  msgid : Word := 0
  src : Coord := 0
  /-- model: how far it is -/
  phase : CmdPhase := .fetched
  /-- T_CORE in µs when fetched | 64 | 15 R448 | - -/
  fetchedUs : Nat := 0
  /-- model: progress in lines, elements or tiles -/
  prog : Nat := 0
  /-- model: flags its contributions set (ACCUM_WRITE), anchors it changed (DATUM_ADVANCE) -/
  acc : Nat := 0
  /-- model: a degraded read served a line of it (OK_DEGRADED) -/
  degraded : Bool := false
  /-- model: decoded lines waiting for it, by line address -/
  patch : Tbl Bytes := []
  /-- model: the units its completion waits for, group and UNIT (R171) -/
  units : List (Nat × BitVec 64) := []
  /-- model: the outcome that waits for the units -/
  outc : Option Outc := none
  /-- KERNEL_RUNs of its context without RESUME that were fetched before it | 16 | 06 R174 | - -/
  runNo : Nat := 0
  /-- model: its place in fetch order | - | 09 R286 | 0 -/
  order : Nat := 0
  /-- FENCE: commands of the own queue not completed when it was fetched | list | 04 R121 | - -/
  awaits : List Nat := []
  deriving DecidableEq, Repr, Inhabited

/-! ### Link ports, streams, peers -/

/-- A link port (R68 to R78, R192). -/
structure Lp where
  /-- LNK_PORT_STAT.RX_OFF, lp_rx_off[5:0]; bits 7:6 of the pin are constant (Machine/Receive.lean rxOffPin) | 6 | 03 R74 | 0 -/
  rxOff : BitVec 6 := 0
  /-- LNK_PORT_STAT.TX_OFF, lp_tx_off[5:0] | 6 | 03 R73 | 0 -/
  txOff : BitVec 6 := 0
  /-- LNK_PORT_STAT.DN_SEEN | 1 | 03 R68 | 0 -/
  dnSeen : Bool := false
  /-- LNK_PORT_STAT.LINK_UP | 1 | 03 R68 | 0 -/
  linkUp : Bool := false
  /-- the head of VC1 that found no space, and the packets behind it | 32 KiB | 06 R183 | none -/
  stalled : List Rx := []
  /-- packets of VC2 and VC3 that wait for their command | 32 KiB each | 08 R249 | none -/
  waiting : List Rx := []
  /-- packets formed and not yet begun, with their partition | per VC | 03 R78 | none -/
  queue : List (Nat × Packet) := []
  /-- deficits of the round-robin by 16 × 6 index: partition, and partition and VC | bytes | 03 R78 | 0 -/
  deficit : Tbl Nat := []
  /-- the last partition served, and the last VC served by partition | 4 and 16 of 3 | 03 R78 | DESIGN CHOICE 0 and VC1, entry 82 -/
  lastPart : Nat := 0
  lastVc : Tbl Nat := []
  deriving DecidableEq, Repr, Inhabited

/-- A sequence stream: its far end (coordinate, or multicast ID and source) and VC (R81, R88). -/
structure TxStream where
  dest : Nat
  mcast : Bool
  vc : Nat
  next : Nat
  deriving DecidableEq, Repr, Inhabited

/-- The receiving end of a stream: the expected value, and the numbers found lost (R81 to R84, R88). -/
structure RxStream where
  src : Coord
  mcast : Option Nat
  vc : Nat
  exp : Option Nat
  lost : List Nat := []
  deriving DecidableEq, Repr, Inhabited

/-- A peer entry (R91 to R96). -/
structure Peer where
  coord : Coord
  /-- LNK_PEER.AFF | 4 | 03 R96 | default port of R95 -/
  aff : Nat
  /-- LNK_PEER.CAND | 4 | 03 R96 | 0 -/
  cand : Nat := 0
  /-- LNK_PEER.CNT | 5 | 03 R96 | 0 -/
  cnt : Nat := 0
  /-- LNK_PEER.STATE | 2 | 03 R96 | ALIVE -/
  state : PeerState := .alive
  /-- recorded boot epoch | 64 | 03 R94 | none -/
  epoch : Option Word := none
  /-- periods are counted toward it | 1 | 03 R94 | 0 -/
  counting : Bool := false
  /-- lowest-numbered port on which a beacon of this period came | 4 | 03 R96 | none -/
  observed : Option Nat := none
  deriving DecidableEq, Repr, Inhabited

/-- What a VC0 message is for, so that its ACK has its effect (R85, R169, R171). -/
inductive Vc0For where
  | prepare (g : Nat) (u : BitVec 64) (member : Nat)
  | apply (g : Nat) (u : BitVec 64) (member : Nat)
  | other
  deriving DecidableEq, Repr, Inhabited

/-- A VC0 message that is not acknowledged yet (R85). -/
structure Vc0Msg where
  msgid : Nat
  dest : Coord
  part : Nat := 0
  pk : Packet
  why : Vc0For := .other
  deriving DecidableEq, Repr, Inhabited

/-- The LNK window (R65 to R96). -/
structure Lnk where
  /-- LNK_CTL.LINK_EN | 1 | 03 R65 | 0 -/
  en : Bool := false
  /-- LNK_CTL.MCAST_EN | 1 | 03 R89 | 0 -/
  mcastEn : Bool := false
  /-- LNK_COORD | 32 | 03 R65 | 0 -/
  coord : Coord := 0
  /-- LNK_TORUS | 32 | 03 R65 | 0 -/
  torus : BitVec 32 := 0
  /-- LNK_LANTERN.PERIOD_US | 10 | 03 R93 | 10 -/
  periodUs : Nat := 10
  /-- LNK_ERR | 8 | 03 R84 | 0 -/
  err : BitVec 8 := 0
  /-- LNK_EPOCH | 64 | 03 R92 | boot epoch at reset release -/
  epoch : Word := 0
  /-- LNK_VCWT by partition | 16 of 40 | 03 R78 | 0x05_0A0F_1432 -/
  vcwt : Tbl Word := []
  /-- LNK_PWT0 and 1 | 2 of 64 | 03 R78 | 0x0101_0101_0101_0101 -/
  pwt0 : Word := 0x0101010101010101
  pwt1 : Word := 0x0101010101010101
  /-- link ports | 4 or 8 | 03 R66 | all 0 -/
  ports : Tbl Lp := []
  /-- LNK_PEER entries | 1,024 | 03 R91 | none -/
  peers : Tbl Peer := []
  /-- sending ends of the streams | list | 03 R88 | none -/
  txStreams : List TxStream := []
  /-- receiving ends of the streams | list | 03 R88 | none -/
  rxStreams : List RxStream := []
  /-- beacons sent since reset | 64 | 03 R92 | 0 -/
  beacons : Nat := 0
  /-- VC0 messages not acknowledged | list | 03 R85 | none -/
  vc0 : List Vc0Msg := []
  /-- next message identifier | 64 | 03 R85 | DESIGN CHOICE 1, entry 9 -/
  nextMsg : Nat := 1
  /-- VC0 messages acted on: source and identifier | list | 03 R85 | none -/
  acted : List (Coord × Nat) := []
  /-- Helm receive queue: VC0 messages that wait for the Helm, oldest first, in plaintext | 64 KiB | 12 R374 | empty -/
  helmQ : List Rx := []
  /-- model: a message of the Helm receive queue is being taken, its checks made on arrival -/
  helmTake : Bool := false
  /-- model: the packets begun on the link ports, newest first, with their port -/
  out : List (Nat × Packet) := []
  deriving DecidableEq, Repr, Inhabited

/-! ### Memory ports -/

/-- Who waits for a downstream answer. -/
inductive MdWho where
  /-- a forwarded host request, by its upstream tag (R63) -/
  | host (tag : Nat)
  /-- an MIU job of a slice: a coded write, an AU line, a write-back -/
  | job (p id : Nat)
  /-- an SE's load of a strip of a stream -/
  | se (e k t : Nat)
  /-- the loader, at an image offset (R363) -/
  | loader (off : Nat)
  /-- nobody any more: a torn-down context's read whose answer is discarded (R105), or a load that its chunk has not used,
  with the context -/
  | late (ctx : Nat)
  deriving DecidableEq, Repr, Inhabited

/-- A downstream request outstanding on an md_ port (R35, R39, R63). -/
structure MdReq where
  tag : Nat
  addr : Nat
  lines : Nat
  /-- 0 READ, 1 WRITE, 2 WRITE_MASKED, 3 ATOMIC -/
  op : Nat
  aop : BitVec 4 := 0
  ctx : Nat := 0
  qos : Nat := 0
  data : Bytes := []
  mask : BitVec 256 := 0
  who : MdWho
  /-- class of R22 -/
  cls : MdClass := .host
  deriving DecidableEq, Repr, Inhabited

/-- A request that waits for the arbiter of its port (R22), with the lines it has not been granted yet. -/
structure MdWait where
  req : MdReq
  left : Nat
  deriving DecidableEq, Repr, Inhabited

/-- A request as it was presented on an md_ port (R35, R63). -/
structure MdOut where
  port : Nat
  addr : Nat
  lines : Nat
  /-- 0 READ, 1 WRITE, 2 WRITE_MASKED, 3 ATOMIC -/
  op : Nat
  ctx : Nat
  qos : Nat
  cls : MdClass
  deriving DecidableEq, Repr, Inhabited

/-- An upstream request accepted and not yet answered (R39, R40). -/
structure HostReq where
  tag : Nat
  op : Nat
  req : MpReq
  lines : Nat
  codes : List (Option Rsp)
  data : List Bytes
  deriving DecidableEq, Repr, Inhabited

/-- An upstream response (R35, R40). -/
structure MpRsp where
  port : Nat
  tag : Nat
  codes : List Rsp
  data : Bytes
  deriving DecidableEq, Repr, Inhabited

/-- Whose work an MIU line job is. -/
inductive JobWho where
  | host (tag j : Nat)
  | merge (ctx : Nat)
  | au (tag j : Nat)
  | writeBack
  deriving DecidableEq, Repr, Inhabited

/-- Where an MIU line job stands (R47, R48, R56). -/
inductive JobStep where
  | queued | held | reading | degraded | writing | pde
  deriving DecidableEq, Repr, Inhabited

/-- An MIU line job: a coded write of one line (R47), an AU accumulation of one line (R236), a write-back (R57). -/
structure Job where
  id : Nat
  line : Nat
  who : JobWho
  ctx : Nat
  step : JobStep := .queued
  bytes : Bytes
  mask : BitVec 64
  cnum : Nat := 0
  qos : Nat := 0
  old : Bytes := []
  new : Bytes := []
  /-- AU: lines still to read or to write; worst code so far -/
  todo : List Nat := []
  worst : Rsp := .ok
  /-- it arrived while its region was being encoded (R46) -/
  enc : Bool := false
  deriving DecidableEq, Repr, Inhabited

/-- A request of a hazard entry: a forwarded request by its tag, a job of the slice, a line of an AU job of slice p, or a
line of a strip that an SE loads. -/
inductive HazJob where
  | fwd (tag : Nat)
  | job (id : Nat)
  | au (p id : Nat)
  | se (e k t : Nat)
  deriving DecidableEq, Repr, Inhabited

/-- One request waiting in a hazard entry; held under R24, R46 or R154. -/
structure HazItem where
  job : HazJob
  write : Bool
  held : Bool := false
  started : Bool := false
  deriving DecidableEq, Repr, Inhabited

/-- A hazard entry: a line and its requests in arrival order (R53). -/
structure Haz where
  line : Nat
  q : List HazItem
  deriving DecidableEq, Repr, Inhabited

/-- A merge-buffer entry (R50). -/
structure Merge where
  line : Nat
  data : Bytes
  mask : BitVec 64
  ctx : Nat
  deriving DecidableEq, Repr, Inhabited

/-- An open DELTA packet of a PDE (R164). -/
structure OpenPkt where
  id : Nat
  g : Nat
  unit : BitVec 64
  /-- RADDR of the parity fragment's first line, for the packet's parity index -/
  frag : Nat
  /-- destination member, or none for multicast -/
  dest : Option Nat
  mcast : Nat := 0
  lines : List (Nat × Bytes) := []
  deriving DecidableEq, Repr, Inhabited

/-- A delta line that its PDE has not accepted yet: the packet it will join, its line in the fragment, its bytes (R184). -/
structure DeltaWait where
  g : Nat
  unit : BitVec 64
  frag : Nat
  dest : Option Nat
  mcast : Nat
  line : Nat
  data : Bytes
  deriving DecidableEq, Repr, Inhabited

/-- An MP slice: MIU and PDE of one port (R22 to R64, R160 to R164, R184, R192). -/
structure Slice where
  /-- MPS_CTL.MERGE_DIS | 1 | 02 R64 | 0 -/
  mergeDis : Bool := false
  /-- MPS_CTL.QUIESCE | 1 | 02 R64 | 0 -/
  quiesce : Bool := false
  /-- the slice stays QUIESCED for want of its clock (MPS_STAT.QUIESCED reads 1 then, and under `quiesce` while nothing is
  outstanding: Machine/Miu.lean isQuiesced) | 1 | 02 R64, 15 R434 | 0 -/
  noClock : Bool := false
  /-- MPS_STAT.CW_STALL | 1 | 02 R49, R64 | 0 -/
  cwStall : Bool := false
  /-- MPS_ERR | 8 | 02 R64 | 0 -/
  err : BitVec 8 := 0
  /-- MPS_ERR_ADDR | 64 | 02 R64 | 0 -/
  errAddr : Word := 0
  /-- MPS_CNT_DEGR | 64 | 02 R64 | 0 -/
  cntDegr : Nat := 0
  /-- MPS_CNT_FENCE | 64 | 02 R64 | 0 -/
  cntFence : Nat := 0
  /-- MPS_CNT_MERGE | 64 | 02 R64 | 0 -/
  cntMerge : Nat := 0
  /-- merge buffer, oldest first | 64 entries | 02 R50 | empty -/
  merge : List Merge := []
  /-- hazard table | 256 entries | 02 R53 | empty -/
  haz : List Haz := []
  /-- line jobs in progress (the coded-write queue of 32 lines among them) | list | 02 R47, R48 | none -/
  jobs : List Job := []
  /-- model: number of the next job -/
  nextJob : Nat := 0
  /-- upstream requests outstanding | at most 4,096 | 02 R39 | none -/
  reqs : List HostReq := []
  /-- requests presented on the mp_ port and not taken yet, with their op: the request channel is in order | list | 02 R49 |
  none -/
  chan : List (Nat × MpReq) := []
  /-- downstream requests outstanding | at most 4,096 | 02 R39 | none -/
  md : List MdReq := []
  /-- requests that wait for the arbiter, in order of arrival | list | 01 R22 | none -/
  waitq : List MdWait := []
  /-- the foreground class served last | 3 | 01 R22 | DESIGN CHOICE relight, so that the host class is first, entry 89 -/
  lastCls : MdClass := .relight
  /-- grants since the last one reserved for background work | 9 | 01 R25 | DESIGN CHOICE 0, entry 89 -/
  grants : Nat := 0
  /-- internal requests that wait for a hazard entry, with their line | list | 02 R54 | none -/
  need : List (Nat × HazItem) := []
  /-- next downstream tag | 12 | 02 R39 | DESIGN CHOICE 0, entry 9 -/
  nextTag : Nat := 0
  /-- open HOST units, oldest first: group and UNIT | at most 8 | 06 R160 | none -/
  hostUnits : List (Nat × BitVec 64) := []
  /-- open DELTA packets, oldest first | at most 32 | 06 R164 | none -/
  openPkts : List OpenPkt := []
  /-- PDE send queue: closed DELTA packets that wait for their link port | 64 KiB | 06 R184, R192 | empty -/
  sendQ : List OpenPkt := []
  /-- deltas formed on this port that the PDE has not accepted, oldest first: their makers wait | list | 06 R184 | none -/
  backlog : List DeltaWait := []
  /-- model: number of the next open packet -/
  nextPkt : Nat := 0
  deriving DecidableEq, Repr, Inhabited

/-! ### Regions, groups, units, the delta pool -/

/-- A region table entry with its Bearing and Datum state (R144 to R147, R215 to R227, R266). -/
structure Region where
  /-- RGN_STAT.STATE | 3 | 05 R146 | 0 FREE -/
  state : RgnState := .free
  /-- RGN_BASE.BASE, byte address | 48 | 05 R146 | 0 -/
  base : Nat := 0
  /-- RGN_BASE.SIZE + 1, in 64 KiB units | 24 | 05 R146 | 0 -/
  size : Nat := 0
  /-- RGN_CFG.KIND | 4 | 05 R146 | 0 -/
  kind : Kind := .plain
  /-- RGN_CFG.CTX | 12 | 05 R146 | 0 -/
  ctx : Nat := 0
  /-- RGN_CFG.GIDX and GRP_V | 8 and 1 | 05 R146 | none -/
  grp : Option Nat := none
  /-- RGN_CFG.FRAG | 2 | 05 R146 | 0 -/
  frag : Nat := 0
  /-- RGN_CFG.CHUNK | 3 | 05 R146 | 0 -/
  chunk : Nat := 0
  /-- RGN_CFG.ELEM | 2 | 05 R146 | 0 -/
  elem : Nat := 0
  /-- RGN_CFG.SEALED | 1 | 05 R146 | 0 -/
  isSealed : Bool := false
  /-- RGN_CFG.SWEEP_EN | 1 | 05 R146 | 0 -/
  sweepEn : Bool := false
  /-- RGN_CFG.WINDOW | 1 | 05 R146 | 0 -/
  window : Bool := false
  /-- RGN_CFG.COMP | 2 | 05 R146 | 0 -/
  comp : Nat := 0
  /-- RGN_CFG.PARTNER and PARTNER_V | 14 and 1 | 05 R146 | none -/
  partner : Option Nat := none
  /-- RGN_DATUM.INFMT | 8 | 05 R146 | 0 -/
  infmt : Nat := 0
  /-- RGN_DATUM.HEADROOM | 6 | 05 R146 | 0 -/
  headroom : Nat := 0
  /-- RGN_DATUM.WIDTH | 2 | 05 R146 | 0 -/
  width : Nat := 0
  /-- RGN_STAT.FRONTIER | 30 | 05 R146 | 0 -/
  frontier : Nat := 0
  /-- RGN_STAT.SEPOCH | 8 | 05 R146 | 0 -/
  sepoch : Nat := 0
  /-- RGN_BRUN | 64 | 07 R227 | 0 -/
  brun : Word := 0
  /-- RGN_BSWP | 64 | 07 R227 | 0 -/
  bswp : Word := 0
  /-- RGN_BTIME | 64 | 07 R227 | 0 -/
  btime : Nat := 0
  /-- the sweep frontier, bytes from the base (RGN_BSTAT.FRONT in 64 KiB units) | 24 | 07 R227 | 0 -/
  front : Nat := 0
  /-- RGN_BSTAT.SWEEPS | 16 | 07 R227 | 0 -/
  sweeps : Nat := 0
  /-- RGN_BSTAT.BAD | 1 | 07 R227 | 0 -/
  bad : Bool := false
  /-- RGN_BSTAT.MATCHED | 1 | 07 R227 | 0 -/
  matched : Bool := false
  /-- RGN_BSTAT.SWEEPING | 1 | 07 R227 | 0 -/
  sweeping : Bool := false
  /-- RGN_BSTAT.ADOPT | 1 | 07 R227 | 0 -/
  adopting : Bool := false
  /-- RGN_BSTAT.VALID: 0 INVALID, 1 VALID, 2 STREAMING | 2 | 07 R227 | 0 -/
  bvalid : Nat := 0
  /-- the sweep value S | 64 | 07 R220 | 0 -/
  sweepS : Word := 0
  /-- the BEARING_SWEEP that asked for the sweep | - | 07 R224 | none -/
  sweepCmd : Option CmdId := none
  /-- RGN_DTMCFG.BANK | 1 | 08 R266 | 0 -/
  bank : Nat := 0
  /-- RGN_DTMCFG.MARGIN | 3 | 08 R266 | 1 -/
  margin : Nat := 1
  /-- RGN_DTMSTAT.RANGE_TILES | 32 | 08 R266 | 0 -/
  rangeTiles : Nat := 0
  /-- RGN_DTMSTAT.NONFINITE_TILES | 32 | 08 R266 | 0 -/
  nonfiniteTiles : Nat := 0
  /-- parity scrub: the next parity fragment; none when no pass runs | 40 | 14 R424 | none -/
  scrub : Option Nat := none
  /-- parity scrub: when the pass started in ms, and whether it skipped | 64 and 1 | 14 R424 | 0 -/
  scrubMs : Nat := 0
  scrubSkip : Bool := false
  /-- a Restripe pairs it provisionally: new group, fragment code, partner, epoch | - | 11 R351 | none -/
  restripe : Option (Nat × Nat × Nat × Nat) := none
  deriving DecidableEq, Repr, Inhabited

/-- A member slot of a group (R148, R318). -/
structure Slot where
  /-- GRP_MEMBERi.COORD | 32 | 05 R148 | 0 -/
  coord : Coord := 0
  /-- GRP_MEMBERi.STATE | 3 | 05 R148 | 0 unused -/
  state : SlotState := .unused
  /-- when the slot became LOST or FENCED, in µs | 64 | 06 R180 | 0 -/
  outUs : Nat := 0
  deriving DecidableEq, Repr, Inhabited

/-- The settling of a lost slot (R322, R324, R353). -/
structure Settling where
  slot : Nat
  coord : Coord
  /-- members whose last SETTLE notice is held -/
  got : List Nat := []
  /-- units that some SETTLE notice or the own table lists -/
  listed : List (BitVec 64) := []
  /-- union of the ENDMASKs -/
  ends : Nat := 0
  settled : Bool := false
  deriving DecidableEq, Repr, Inhabited

/-- A FETCH of a Relight's state transfer that is not answered in full (R340). -/
structure StateFetch where
  id : Nat
  /-- KIND of the FETCH: 3 MAP, 4 STATE, 5 TILES, 6 WATCH -/
  kind : Nat
  region : Nat := 0
  member : Nat
  /-- TILES: the first line asked for -/
  first : Nat := 0
  lines : Nat := 1
  /-- the lines that have arrived -/
  data : Bytes := []
  /-- TILES: every tile so far is GATHERED -/
  gathered : Bool := true
  deriving DecidableEq, Repr, Inhabited

/-- A Relight on the spare (R338 to R345). -/
structure Relight where
  cmd : CmdId
  fetchUs : Nat
  /-- members asked and not yet answered -/
  waiting : List Nat
  accepted : List Nat := []
  /-- FETCHes of the state transfer not yet answered -/
  fetches : List StateFetch := []
  /-- coded regions to rebuild, in ascending base order -/
  regions : List Nat := []
  /-- stripe to start next in the first region of the list -/
  next : Nat := 0
  /-- stripes in progress: region and stripe -/
  active : List (Nat × Nat) := []
  bytes : Nat := 0
  deriving DecidableEq, Repr, Inhabited

/-- A group table entry (R135 to R148, R226, R354) with its formation, adoption and recovery jobs. -/
structure Group where
  /-- GRP_STAT.STATE | 3 | 05 R148 | 0 FREE -/
  state : GrpState := .free
  /-- GRP_STAT.N | 5 | 05 R148 | 0 -/
  n : Nat := 0
  /-- GRP_CFG.K | 4 | 05 R148 | 0 -/
  k : Nat := 0
  /-- GRP_CFG.M | 3 | 05 R148 | 0 -/
  m : Nat := 0
  /-- GRP_CFG.SELF | 4 | 05 R148 | 0 -/
  self : Nat := 0
  /-- GRP_CFG.DGN | 16 | 05 R148 | 0 -/
  dgn : Nat := 0
  /-- GRP_CFG.MCAST_BASE | 16 | 05 R148 | 0 -/
  mcast : Nat := 0
  /-- GRP_CFG.WDOM | 16 | 05 R148 | 0 -/
  wdom : Nat := 0
  /-- GRP_CFG.SEAL_REQ | 1 | 05 R148 | 0 -/
  sealReq : Bool := false
  /-- GRP_FORM.FORM_MS | 32 | 05 R148 | 0 -/
  formMs : Nat := 0
  /-- GRP_MEMBER0 to 15 | 16 of 64 | 05 R148 | 0 -/
  members : List Slot := List.replicate 16 {}
  /-- context and partition that defined it | 12 and 4 | 04 R97 | 0 -/
  ctx : Nat := 0
  part : Nat := 0
  /-- GRP_BLAST | 64 | 07 R226 | 0 -/
  blast : Word := 0
  /-- GRP_BMEM | 64 | 07 R226 | 0 -/
  bmem : Word := 0
  /-- GRP_BWATCH: w and a | 56 | 07 R226 | 0 -/
  bwatch : Nat × Nat := (0, 0)
  /-- GRP_BSEED_LO, GRP_BSEED_HI | 128 | 07 R216, R226 | 0 -/
  seedLo : Word := 0
  seedHi : Word := 0
  /-- GRP_RCVSTAT.LAST_CAUSE | 8 | 11 R354 | 0 -/
  lastCause : Nat := 0
  /-- GRP_RCVSTAT.LAST_SLOT | 4 | 11 R354 | 0 -/
  lastSlot : Nat := 0
  /-- GRP_RCVSTAT.RL_SLOT | 4 | 11 R354 | 0 -/
  rlSlot : Nat := 0
  /-- GRP_RCVSTAT.RL_PHASE | 3 | 11 R354 | 0 -/
  rlPhase : Nat := 0
  /-- GRP_RLFRONT: region and stripe or fragment | 14 and 40 | 11 R354 | 0 -/
  rlFront : Nat × Nat := (0, 0)
  /-- GRP_RLDONE | 64 | 11 R354 | 0 -/
  rlDone : Nat := 0
  /-- GRP_LOSSNS | 64 | 11 R354 | 0 -/
  lossNs : Nat := 0
  /-- stripe lines marked PARITY_UNKNOWN, by parity line address (GRP_DUNK counts them) | 32 | 06 R173, R191 | none -/
  unknown : List Nat := []
  /-- STAGING slots in use (GRP_DSTG.USED counts them) | 16,384 | 06 R181, R191 | none -/
  stagUsed : List Nat := []
  /-- serial counter of each origin | 56 each | 06 R158 | 0 -/
  serials : Tbl Nat := []
  /-- slots being settled | list | 11 R324 | none -/
  settling : List Settling := []
  /-- formation: members whose matching JOIN is held, and mismatched members | 16 each | 11 R328 | 0 -/
  joins : List Nat := []
  mismatched : List Nat := []
  /-- the GROUP_DEFINE, MEMBER_FENCE or MEMBER_ADOPT commands that wait on the group | list | 11 R328, R333, R336 | none -/
  cmds : List CmdId := []
  /-- slot a waiting MEMBER_FENCE or SURVIVOR adoption waits to be settled, with the new coordinate | list | 11 R333, R336 | none -/
  waitSettle : List (CmdId × Nat × Option Coord) := []
  /-- spare adoption in progress: answers by member, slot states | list | 11 R336 | none -/
  adoptAns : List (Nat × List SlotState) := []
  adopting : Option CmdId := none
  /-- Relight of the own slot | - | 11 R338 | none -/
  relight : Option Relight := none
  /-- a RELIGHT_START of the group has begun on this member | 1 | 07 R216 | 0 -/
  relightBegun : Bool := false
  /-- audit: GRP_DPOWN and GRP_DPOAGE by source slot: entries, KiB, age in µs | 16 | 06 R190 | 0 -/
  owners : Tbl (Nat × Nat × Nat) := []
  /-- audit: slots whose AGE event is logged | 16 | 06 R180 | none -/
  aged : List Nat := []
  /-- stripe lines whose rebuild waits for units that have them gapped | list | 06 R173 | none -/
  deferred : List Nat := []
  /-- Restripe: members whose RS_BEGIN was accepted, its epoch, and whether the sender is of the new group | list | 11 R351 |
  none -/
  rsSeen : List (Nat × Nat × Bool) := []
  deriving DecidableEq, Repr, Inhabited

/-- A commit unit at its source (R157 to R171, R280, R281). -/
structure CUnit where
  g : Nat
  unit : BitVec 64
  kind : Nat
  region : Nat
  base : Nat
  sepoch : Nat
  watch : Nat
  index : Nat
  run : Nat := 0
  runFirst : Nat := 0
  runCount : Nat := 0
  ctx : Nat
  /-- command it works for (COPY, FILL, REDUCE_SCATTER, KERNEL_RUN, Sounding, encoding) -/
  cmd : Option CmdId := none
  /-- its unit set: SE and chunk (R280) -/
  set : Option (CmdId × Nat) := none
  /-- delta lines so far (R160 closes a HOST unit at 256) -/
  lines : Nat := 0
  closed : Bool := false
  prepared : Bool := false
  applySent : Bool := false
  complete : Bool := false
  waitSet : List Nat := []
  ackP : List Nat := []
  ackA : List Nat := []
  /-- NLINES by member -/
  nlines : Tbl Nat := []
  /-- last DELTA sequence number by member, and by multicast ID -/
  seqP : Tbl Nat := []
  seqM : Tbl Nat := []
  /-- DELTA packets sent to each member (R182) -/
  pkts : Tbl Nat := []
  deriving DecidableEq, Repr, Inhabited

/-- A received DELTA packet that a holder keeps (R163, R177). -/
structure HeldPkt where
  seq : Nat
  mcast : Option Nat
  size : Nat
  /-- parity line address and delta -/
  lines : List (Nat × Bytes)
  deriving DecidableEq, Repr, Inhabited

/-- A delta pool entry or STAGING slot (R177 to R181). -/
structure PoolEntry where
  id : Nat
  g : Nat
  src : Nat
  coord : Coord
  unit : BitVec 64
  /-- parity fragment address of the packet's RADDR fragment -/
  frag : Nat
  partner : Nat
  pkts : List HeldPkt
  /-- first 256 B block and blocks, in the pool; none in STAGING -/
  span : Option (Nat × Nat)
  /-- STAGING slot -/
  slot : Option Nat := none
  /-- 8-bit reference count -/
  refs : Nat := 1
  /-- references the apply list and the frontier hold list account for -/
  onApply : Bool := true
  onFrontier : Bool := false
  /-- marked applied while its stripe is in progress (R343) -/
  applied : Bool := false
  /-- the STAGING slot could not be written: its lines are rebuilt (R55) -/
  bad : Bool := false
  bornUs : Nat := 0
  deriving DecidableEq, Repr, Inhabited

/-- A pending unit at a receiver: what PREPARE said (R166, R168). -/
structure Prep where
  g : Nat
  src : Nat
  unit : BitVec 64
  kind : Nat
  sepoch : Nat
  nlines : Nat
  base : Nat
  watch : Nat
  index : Nat
  run : Nat
  runFirst : Nat
  runCount : Nat
  seqs : List (Option Nat)
  /-- link MSGIDs of PREPARE copies not yet acknowledged -/
  copies : List Nat := []
  hdr : Hdr
  ready : Bool := false
  /-- gapped stripe lines, by parity line address -/
  gapped : List Nat := []
  /-- MSGIDs of APPLY copies that wait for a parity scrub (R424) -/
  applyCopies : List Nat := []
  deriving DecidableEq, Repr, Inhabited

/-- A commit-map entry (R174). -/
structure MapEntry where
  src : Nat
  g : Nat
  base : Nat
  watch : Nat
  run : Nat
  first : Nat
  count : Nat
  low : Nat
  win : BitVec 128
  deriving DecidableEq, Repr, Inhabited

/-- A tombstone (R323): keyed by its unit, the lowest-numbered one of a CHUNK set (R281). -/
structure Tomb where
  g : Nat
  src : Nat
  unit : BitVec 64
  /-- the units of the set, and those of them that a DONE notice has listed -/
  units : List (BitVec 64) := []
  done : List (BitVec 64) := []
  deriving DecidableEq, Repr, Inhabited

/-- What a fetch operation is for (R56, R173, R340, R341, R424). -/
inductive FetchFor where
  /-- a degraded read for an MIU job, a forwarded host read (tag), an SE load, a command, or a Bearing sweep; or for the
  line's write-back alone, when whoever asked is gone (R104) -/
  | job (p id : Nat)
  | host (p tag : Nat)
  | se (e k t line : Nat)
  | cmd (c : CmdId)
  | sweep (r : Nat)
  | back
  | rebuild
  | relight (r stripe : Nat)
  | scrub (r : Nat)
  deriving DecidableEq, Repr, Inhabited

/-- An answer to a FETCH (R331). -/
structure FetchAns where
  member : Nat
  role : Nat
  lines : Tbl Bytes
  seqh : List (Option Nat)
  deriving DecidableEq, Repr, Inhabited

/-- A fetch of fragments: a degraded read, a parity rebuild, a Relight stripe or a parity scrub stripe
(R56, R173, R330, R341, R424). -/
structure FetchOp where
  id : Nat
  why : FetchFor
  g : Nat
  region : Nat
  stripe : Nat
  /-- first line within the fragment, and lines -/
  line : Nat
  lines : Nat
  /-- the member whose fragment is wanted -/
  target : Nat
  /-- members asked, in the choosing order, with their FETCH's request identifier -/
  chosen : List (Nat × Nat) := []
  /-- candidates not yet tried, in order -/
  untried : List Nat := []
  answers : List FetchAns := []
  /-- the holders have been asked -/
  asked : Bool := false
  /-- waits for the 1 ms restart (R330) -/
  waiting : Bool := false
  /-- waits for a free Relight engine (R30) -/
  queued : Bool := false
  /-- order of arrival, for R30 -/
  order : Nat := 0
  /-- the Relight engine it was given; it holds it unless it waits for the restart (R30) -/
  engine : Option Nat := none
  /-- the engine that was reset under it; it has restarted once (R417) -/
  resetOn : Option Nat := none
  deriving DecidableEq, Repr, Inhabited

/-- A FETCH that waits on this responder for units to complete or for DELTA packets (R56, R331, R342). -/
structure FetchWait where
  pk : Packet
  /-- units of this member that have to be complete first -/
  units : List (Nat × BitVec 64) := []
  deriving DecidableEq, Repr, Inhabited

/-- Which stream a region is in (R152, R205, R351). -/
inductive StreamKind where
  | sound | encode | restripe
  deriving DecidableEq, Repr, Inhabited

/-- A stream of a region's data fragments: Sounding, window encoding or Restripe (R152, R205, R351). -/
structure Stream where
  kind : StreamKind
  region : Nat
  g : Nat
  cmd : CmdId
  sepoch : Nat
  w : Nat := 0
  a : Nat := 0
  /-- members whose DESC of the attempt counts -/
  descs : List Nat := []
  /-- members whose END counts -/
  ends : List Nat := []
  /-- the streaming has begun; the own END is sent -/
  begun : Bool := false
  endSent : Bool := false
  /-- next data fragment -/
  next : Nat := 0
  /-- Restripe: members of both groups asked and not answered, new partner, fragment code, old group -/
  waiting : List (Nat × Nat) := []
  oldG : Nat := 0
  /-- Restripe: the partner is zeroed and the descriptors are sent -/
  descSent : Bool := false
  partner : Nat := 0
  fragCode : Nat := 0
  /-- last VC0 sequence number of a COMMIT of the attempt, by member -/
  commits : Tbl Nat := []
  /-- Restripe: the Relight engine it holds, until the stripe boundary (R30) -/
  engine : Option Nat := none
  /-- Restripe on a member that joins: what the running Bearing becomes at the switch (R217, R351) -/
  bear : Word := 0
  deriving DecidableEq, Repr, Inhabited

/-- The latest DESC of a member for a region (R152, R153). -/
structure DescHeld where
  g : Nat
  src : Nat
  base : Nat
  sepoch : Nat
  body : Bytes
  seqs : List (Option Nat)
  deriving DecidableEq, Repr, Inhabited

/-- An END notice held (R152). -/
structure EndHeld where
  g : Nat
  src : Nat
  sepoch : Nat
  seq : Option Nat
  deriving DecidableEq, Repr, Inhabited

/-! ### State engines and collectives -/

/-- A kernel run in progress (R283 to R285). -/
structure Run where
  cmd : CmdId
  ctx : Nat
  part : Nat
  slot : Nat
  /-- stream regions, 8 entries -/
  regions : List Nat
  first : Nat
  count : Nat
  /-- lowest chunk not yet dispatched or skipped, and the chunks above it that are -/
  next : Nat
  taken : List Nat := []
  ordinal : Nat
  watch : Nat
  params : Bytes
  resume : Bool
  /-- its command's place in fetch order, for the earliest-fetched rule -/
  order : Nat
  /-- no further chunk is dispatched -/
  stopped : Bool := false
  /-- chunks on SEs -/
  live : List Nat := []
  /-- chunks that reached CEND -/
  ended : Nat := 0
  degraded : Bool := false
  poisoned : Bool := false
  denied : Bool := false
  lost : Bool := false
  aborted : Bool := false
  /-- first fault: code, chunk, instruction -/
  fault : Option (Nat × Nat × Nat) := none
  deriving DecidableEq, Repr, Inhabited

/-- A state engine (R267, R268, R286, R290, R295). -/
structure Se where
  /-- ENG_SECTL.DRAIN | 1 | 09 R295 | 0 -/
  drain : Bool := false
  /-- a self-test runs, of a re-admission or of a reset | 1 | 12 R375, 14 R417 | 0 -/
  testing : Bool := false
  /-- the self-test re-admits: DRAIN clears when it passes | 1 | 12 R375 | 0 -/
  readmit : Bool := false
  /-- ENG_SESTAT.STATE | 3 | 09 R295 | IDLE in a present SE -/
  state : SeState := .idle
  /-- ENG_SESTAT.CTX, the current context | 12 | 09 R286, R295 | 0 -/
  ctx : Nat := 0
  /-- ENG_SESTAT.PC | 12 | 09 R295 | 0 -/
  pc : Nat := 0
  /-- ENG_SESTAT.SLOT | 8 | 09 R295 | 0 -/
  slot : Nat := 0
  /-- ENG_SECHUNK.CHUNK | 40 | 09 R295 | 0 -/
  chunk : Nat := 0
  /-- ENG_SECHUNK.REGION | 14 | 09 R295 | 0 -/
  region : Nat := 0
  /-- ENG_SEERR | 4 low bits | 09 R295 | 0 -/
  err : BitVec 4 := 0
  /-- ENG_SEERR.RES_CNT | 32 | 09 R295 | 0 -/
  resCnt : Nat := 0
  /-- the slice has run out | 1 | 09 R286 | 1: no slice runs -/
  sliceOut : Bool := true
  /-- partition it will join when its chunk ends, 16 for none (PARTITION_SET) | 5 | 04 R100 | none -/
  moveTo : Option Nat := none
  /-- the run whose chunk it holds | - | 09 R268 | none -/
  run : Option CmdId := none
  /-- elements of the chunk | 17 | 09 R268 | 0 -/
  n : Nat := 0
  /-- s0 to s15 | 16 of 64 | 09 R267 | DESIGN CHOICE 0, entry 4; set at each chunk start -/
  sregs : Tbl Word := []
  /-- v0 to v31, 128 lanes each | 32 of 4,096 | 09 R267 | DESIGN CHOICE 0, entry 4; set at each chunk start -/
  vregs : Tbl (List (BitVec 32)) := []
  /-- local store: the bytes loaded or stored since the chunk started, by byte address; another one reads a free value, entry
  101 | 512 KiB | 09 R267 | none listed -/
  store : Tbl Byte := []
  /-- the strip being loaded: stream, strip, lines still to be answered, 0 while it is still to be requested | list |
  09 R276 | none -/
  loading : List (Nat × Nat × Nat) := []
  /-- next strip to load | 10 | 09 R276 | 0 -/
  nextLoad : Nat := 0
  /-- QACC state: EMAX, RANGE, NONFINITE | 18 | 09 R290 | cleared -/
  emax : Option Int := none
  qRange : Bool := false
  qNonfinite : Bool := false
  /-- by DOUT stream: anchor of tile 0, read at chunk start; at 8 + k and 16 + k: anchor and number of the tile that DIN
  stream k loads | 8 of 10 and 8 of 46 | 09 R277, R290 | none -/
  anchors : Tbl Int := []
  /-- sticky residue flag of the chunk | 1 | 09 R289 | 0 -/
  residue : Bool := false
  /-- units of the chunk's unit set, by stream | list | 09 R280 | none -/
  units : Tbl (Nat × BitVec 64) := []
  /-- the commit phase has ended and PREPAREs are still to be sent; true when it reached CEND | 2 | 09 R278, R288 | none -/
  ending : Option Bool := none
  deriving DecidableEq, Repr, Inhabited

/-- A kernel slot (R296). -/
structure KSlot where
  /-- ENG_KSLOT.OWNER | 4 | 09 R296 | 0 -/
  owner : Nat := 0
  /-- ENG_KSLOT.NINSTR | 13 | 09 R296 | 0 -/
  ninstr : Nat := 0
  /-- ENG_KSLOT.BASE | 16 | 09 R296 | 0 -/
  base : Nat := 0
  /-- ENG_KSLOT.NSTREAM | 4 | 09 R296 | 0 -/
  nstream : Nat := 0
  /-- CMAX, ENTRY, SCR_BASE, SCR_SIZE of the header | - | 09 R271 | 0 -/
  cmax : Nat := 0
  entry : Nat := 0
  scrBase : Nat := 0
  scrSize : Nat := 0
  /-- stream entries: role, format, LSBASE | 8 of 4 B | 09 R271 | none -/
  streams : List (Nat × Nat × Nat) := []
  deriving DecidableEq, Repr, Inhabited

/-- The ENG window (R267 to R296). -/
structure Eng where
  /-- state engines | 64 | 09 R295 | idle -/
  ses : Tbl Se := []
  /-- kernel slots that hold a kernel | 256 | 09 R296 | none -/
  kslots : Tbl KSlot := []
  /-- kernel store, words by index | 65,536 of 64 | 09 R273 | 0 -/
  kstore : Tbl Word := []
  /-- kernel runs in progress, oldest first | list | 09 R285 | none -/
  runs : List Run := []
  /-- model: place in fetch order of the next command -/
  nextOrder : Nat := 0
  deriving DecidableEq, Repr, Inhabited

/-- A collective of an instance on this member (R247 to R264); it is kept until the instance ends, to answer REPEATs. -/
structure Coll where
  cmd : CmdId
  ctx : Nat
  /-- REDUCE_SCATTER, else ALL_GATHER -/
  isReduce : Bool
  region : Nat
  coll : Nat
  direct : Bool := false
  dir : Bool := false
  /-- member indices by position, and the own position -/
  members : List Nat
  pos : Nat
  /-- ALL_GATHER: OUTFMT and DST -/
  outFmt : Nat := 0
  dst : Nat := 0
  /-- DIRECT: member indices whose FIRST arrived, the roster once closed, those whose LAST arrived, FORCE -/
  first : List Nat := []
  closed : Bool := false
  lastSeen : List Nat := []
  force : Bool := false
  /-- RESID, FOLD, OUT with its first tile, K of TOPK -/
  resid : Option Nat := none
  fold : Option Nat := none
  out : Option (Nat × Nat) := none
  topk : Nat := 0
  /-- segments taken in: contributor (0 under PASSAGE and ALL_GATHER), tile, segment -/
  taken : List (Nat × Nat × Nat) := []
  /-- REPEAT packets sent, by contributor, tile and segment -/
  repeats : List ((Nat × Nat × Nat) × Nat) := []
  /-- the own shard is prepared, so that packets are taken in -/
  ready : Bool := false
  /-- the outcome is decided -/
  finished : Bool := false
  deriving DecidableEq, Repr, Inhabited

/-- An IMAGE_PATCH in progress (R372 to R374). -/
structure Patch where
  cmd : CmdId
  image : Bytes
  /-- 0 hand-over, 1 library slots, 2 partitions, 3 the moved SEs -/
  stage : Nat
  /-- library slots it replaces -/
  slots : List Nat := []
  deriving DecidableEq, Repr, Inhabited

/-- The latch of a register group: the low word read last, by its address, and the high words taken with it (R9, R466). -/
structure Latch where
  low : Nat
  high : Tbl Word
  deriving DecidableEq, Repr, Inhabited

/-- What a read through the control port meets in the word it reads (R414, R416, R460). -/
inductive ReadFault where
  /-- no error, or one that is corrected on the way -/
  | none
  /-- one failure of byte parity: the entry is taken again -/
  | parity
  /-- a second failure of byte parity -/
  | parityTwice
  /-- a word that is uncorrectable in both copies -/
  | bothCopies
  deriving DecidableEq, Repr, Inhabited

/-- The response to a read: cp_rsp_rdata and cp_rsp_err (R460). -/
structure ReadRsp where
  data : Word
  err : Bool
  deriving DecidableEq, Repr, Inhabited

/-- A response to a fabric command kept for repeats (R391). -/
structure FabRsp where
  msgid : Nat
  src : Coord
  pk : Packet
  deriving DecidableEq, Repr, Inhabited

/-- An episode of pressure (R185). -/
structure Pressure where
  active : Bool := false
  startNs : Nat := 0
  logged : Bool := false
  deriving DecidableEq, Repr, Inhabited

/-- Every register, table, queue and job of the SCE. -/
structure Blk where
  glb : Glb := {}
  /-- latches of the register groups, one per group kind | 9 | 00 R9, 16 R466 | none taken -/
  latches : Tbl Latch := []
  crp : Crp := {}
  ldr : Ldr := {}
  tlm : Tlm := {}
  ras : Ras := {}
  sec : Sec := {}
  lnk : Lnk := {}
  eng : Eng := {}
  /-- partitions | 16 | 04 R128 | 0 until PASS -/
  parts : Tbl Part := []
  /-- contexts | 4,096 | 04 R126 | DISABLED -/
  ctxs : Tbl Ctx := []
  /-- queue pairs | 8,192 | 04 R127 | DISABLED -/
  qps : Tbl Qp := []
  /-- the partition that a slot was last fetched from, and the queue pair by partition | 4 and 16 of 13 | 04 R112 |
  DESIGN CHOICE 15 and 8,191, so that partition 0 and its lowest queue pair come first, entry 96 -/
  fetchPart : Nat := 15
  fetchQps : Tbl Nat := []
  /-- commands in flight, oldest first | at most 4,096 | 04 R123 | none -/
  cmds : List Cmd := []
  /-- number of the next fabric command | 64 | 13 R390 | 0 -/
  nextFabric : Nat := 0
  /-- responses to the last 64 fabric MSGIDs | 64 | 13 R391 | none -/
  fabRsps : List FabRsp := []
  /-- MP slices | 16 or 32 | 02 R64 | all 0 -/
  slices : Tbl Slice := []
  /-- model: upstream responses presented, newest first -/
  mpRsps : List MpRsp := []
  /-- model: requests presented on the md_ ports, newest first -/
  mdOut : List MdOut := []
  /-- regions | 16,384 | 05 R146 | FREE -/
  rgns : Tbl Region := []
  /-- groups | 256 | 05 R148 | FREE -/
  grps : Tbl Group := []
  /-- GRP_PMAPBASE, byte address | 48 | 05 R149 | 0 -/
  pmapBase : Nat := 0
  /-- GRP_PMAPCNT | 17 | 05 R149 | 0 -/
  pmapCnt : Nat := 0
  /-- GRP_RCTL.SUBSET_CNT | 32 | 11 R355 | 0 -/
  subsetCnt : Nat := 0
  /-- GRP_RCTL.FETCH_US | 16 | 11 R355 | 20 -/
  fetchUs : Nat := 20
  /-- GRP_TOMB.TOMB_FULL | 1 | 11 R355 | 0 -/
  tombFull : Bool := false
  /-- tombstones | 32,768 | 11 R323 | none -/
  tombs : List Tomb := []
  /-- GRP_DPCTL.HOST_CYC | 16 | 06 R189 | 2,000 -/
  hostCyc : Nat := 2000
  /-- GRP_DPCTL.SRCQ_KIB | 16 | 06 R189 | 2,048 -/
  srcqKib : Nat := 2048
  /-- GRP_DPCTL.AUDIT_MS | 16 | 06 R189 | 1 -/
  auditMs : Nat := 1
  /-- GRP_DPAGE.MAX_AGE_US | 32 | 06 R189 | 1,000,000 -/
  maxAgeUs : Nat := 1000000
  /-- GRP_DPERR without PRESSURE | 9 | 06 R189 | 0 -/
  dpErr : BitVec 9 := 0
  /-- an episode of pressure; GRP_DPERR.PRESSURE is its `active` | 1 | 06 R185 | none -/
  pressure : Pressure := {}
  /-- RGN_BSWPCTL.PERIOD_S | 16 | 07 R227 | 600 -/
  sweepPeriodS : Nat := 600
  /-- commit units at this source | list | 06 R157 | none -/
  units : List CUnit := []
  /-- delta pool entries and STAGING slots | 24 MiB | 06 R177 | none -/
  pool : List PoolEntry := []
  /-- model: number of the next pool entry -/
  nextEntry : Nat := 0
  /-- blocks kept by an injected leak: first block and blocks | list | 14 R430 | none -/
  leaks : List (Nat × Nat) := []
  /-- pending units of other members | list | 06 R168 | none -/
  preps : List Prep := []
  /-- delta lines discarded ahead of the Relight frontier, which count toward NLINES, by group, source and unit | list |
  11 R343 | none -/
  ahead : List (Nat × Nat × BitVec 64 × Nat) := []
  /-- units whose APPLY has been acted on: group, source, UNIT (acknowledged, no effect) | list | 06 R170 | none -/
  applied : List (Nat × Nat × BitVec 64) := []
  /-- DELTA numbers to discard on arrival: group, source, partner base, stream, at or before | list | 05 R153 | none -/
  cutoffs : List (Nat × Nat × Nat × Option Nat × Nat) := []
  /-- commit maps | 4,096 | 06 R174 | none -/
  maps : List MapEntry := []
  /-- fetch operations in progress | list | 11 R330 | none -/
  fetches : List FetchOp := []
  /-- FETCH requests that wait on this member as responder | list | 11 R331, R342 | none -/
  fetchWaits : List FetchWait := []
  /-- model: numbers of the next fetch operation and request -/
  nextFetch : Nat := 0
  nextReq : Nat := 0
  /-- streams of Sounding, encoding and Restripe | list | 05 R152 | none -/
  streams : List Stream := []
  /-- DESC notices held | list | 05 R152 | none -/
  descs : List DescHeld := []
  /-- END notices held | list | 05 R152 | none -/
  ends : List EndHeld := []
  /-- collectives in progress | list | 08 R247 | none -/
  colls : List Coll := []
  /-- the context that last had an instance on a WDOM | list | 07 R197 | none -/
  wdoms : Tbl Nat := []
  /-- parity checks and rebuilds that the Helm has scheduled for data lines whose local write failed: line, and the unit
  that has to be applied first | list | 02 R48, 06 R159 | none -/
  checks : List (Nat × Option (Nat × BitVec 64)) := []
  /-- IMAGE_PATCH in progress | - | 12 R372 | none -/
  patch : Option Patch := none
  /-- CNT counters by address | 64 each | 15 R446, R447 | 0 -/
  cnt : Tbl Nat := []
  /-- free-value counter | model | entry 6 | DESIGN CHOICE 0 -/
  free : Nat := 0
  deriving DecidableEq, Repr, Inhabited

/-- The machine: build, memory, block, and the commands that wait, first in first out. -/
structure State where
  /-- the build | - | 00 R2 | DESIGN CHOICE full build, entry 3 -/
  build : Build := {}
  /-- host memory behind the controllers, 48-bit byte addresses | 2^48 B | 02 R35 | DESIGN CHOICE unlisted bytes read 0, entry 1 -/
  mem : Mem := []
  /-- the block -/
  blk : Blk := {}
  /-- model: the commands that wait -/
  pending : List Instr := []
  deriving DecidableEq, Repr, Inhabited

/-- Right after a cold reset: the full build, the main reset still asserted, every register at its reset value, no command
waiting (R356, R437, R469). -/
def State.reset : State := {}

end Sys2Proof.Machine
end

