-- ==== Sys2Proof/Machine/Ops.lean ====
section
/-! DEFINITION. The operations every meaning is written over: the working transaction, tables, little-endian fields, host
memory, events and interrupts, injections, and the accesses the block makes on a command's behalf. -/

namespace Sys2Proof.Machine

/-! ### The working transaction -/

/-- What a meaning works on: the build and host memory as they were when the command started, a journal of the bytes it
has written (newest first), and the block. The command queue is not part of it. -/
structure W where
  build : Build
  base : Mem
  jr : List Host.Cell
  b : Blk
  deriving DecidableEq, Repr, Inhabited

/-- The transaction a command starts with. -/
def openW (s : State) : W := { build := s.build, base := s.mem, jr := [], b := s.blk }

/-- A byte of a memory in canonical form; an address that is not listed reads 0 (log entry 1). -/
def memGet : Mem → Nat → Byte
  | [], _ => 0
  | (k, v) :: t, a => if a = k then v else if a < k then 0 else memGet t a

/-- Write one byte and keep the canonical form: a zero byte has no entry. -/
def memSet : Mem → Nat → Byte → Mem
  | [], a, v => if v = 0 then [] else [(a, v)]
  | (k, x) :: t, a, v =>
    if a < k then (if v = 0 then (k, x) :: t else (a, v) :: (k, x) :: t)
    else if a = k then (if v = 0 then t else (a, v) :: t)
    else (k, x) :: memSet t a v

/-- The canonical form above a bound: addresses strictly rising and at least `lo`, no zero byte. -/
def memWfFrom : Nat → Mem → Bool
  | _, [] => true
  | lo, (k, v) :: t => decide (lo ≤ k) && decide (v ≠ 0) && memWfFrom (k + 1) t

/-- The canonical form of a memory. -/
def memWf (m : Mem) : Bool := memWfFrom 0 m

/-- Write a journal, newest entry first, into a memory. -/
def commitJournal (m : Mem) : List Host.Cell → Mem
  | [] => m
  | (a, v) :: t => memSet (commitJournal m t) a v

/-- The state a command leaves: memory with the journal written, the block as the meaning left it; build and queue as they
were. -/
def closeW (s : State) (w : W) : State := { s with mem := commitJournal s.mem w.jr, blk := w.b }

/-- Run a meaning as one whole command. -/
def run (f : W → W) (s : State) : Host.Outcome State Fault Refusal := .next (closeW s (f (openW s)))

/-! ### Tables -/

/-- Look an index up. -/
def tfind {α : Type} : Tbl α → Nat → Option α
  | [], _ => none
  | (k, v) :: t, i => if i = k then some v else tfind t i

/-- Look an index up, with the default of the table. -/
def tget {α : Type} (t : Tbl α) (i : Nat) (d : α) : α := (tfind t i).getD d

/-- Set the entry of an index, indices rising. -/
def tset {α : Type} : Tbl α → Nat → α → Tbl α
  | [], i, x => [(i, x)]
  | (k, v) :: t, i, x =>
    if i < k then (i, x) :: (k, v) :: t else if i = k then (i, x) :: t else (k, v) :: tset t i x

/-- Remove the entry of an index. -/
def terase {α : Type} (t : Tbl α) (i : Nat) : Tbl α := t.filter (fun e => e.1 != i)

/-- The entry of an index with a value added. -/
def tadd (t : Tbl Nat) (i n : Nat) : Tbl Nat := tset t i (tget t i 0 + n)

/-- Replace every member of a list that a test picks out. -/
def mapIf {α : Type} (p : α → Bool) (f : α → α) (l : List α) : List α := l.map (fun x => if p x then f x else x)

/-- Insert a number into a list of rising numbers without repeats. -/
def insertNat : List Nat → Nat → List Nat
  | [], x => [x]
  | y :: t, x => if x < y then x :: y :: t else if x = y then y :: t else y :: insertNat t x

/-! ### Little-endian fields (R6) -/

/-- The number a run of bytes holds. -/
def leNat : Bytes → Nat
  | [] => 0
  | b :: t => b.toNat + 256 * leNat t

/-- A number in a given count of bytes. -/
def toLe : Nat → Nat → Bytes
  | 0, _ => []
  | k + 1, n => BitVec.ofNat 8 n :: toLe k (n / 256)

/-- The field of a structure at an offset; bytes beyond its end read as 0. -/
def fld (b : Bytes) (off len : Nat) : Nat := leNat ((b.drop off).take len)

/-- A run of bytes of a structure, filled up with zeros. -/
def bytesAt (b : Bytes) (off len : Nat) : Bytes :=
  let x := (b.drop off).take len
  x ++ List.replicate (len - x.length) 0

/-- Bits hi down to lo of a number. -/
def bits (n hi lo : Nat) : Nat := (n >>> lo) % 2 ^ (hi + 1 - lo)

/-- One bit of a number. -/
def bit (n i : Nat) : Bool := n.testBit i

/-- A Boolean as a bit. -/
def b2n (b : Bool) : Nat := if b then 1 else 0

/-- A structure with a run of bytes replaced at an offset. -/
def putAt (b : Bytes) (off : Nat) (x : Bytes) : Bytes := b.take off ++ x ++ b.drop (off + x.length)

/-- n zero bytes. -/
def zeros (n : Nat) : Bytes := List.replicate n 0

/-- A run of bytes cut or filled up with zeros to a length. -/
def padTo (n : Nat) (b : Bytes) : Bytes := b.take n ++ zeros (n - b.length)

/-- Are all bytes of a field zero? -/
def zeroAt (b : Bytes) (off len : Nat) : Bool := fld b off len == 0

/-- XOR of two runs of bytes; the shorter one counts as filled up with zeros. -/
def xorBytes : Bytes → Bytes → Bytes
  | [], y => y
  | x, [] => x
  | a :: x, b :: y => (a ^^^ b) :: xorBytes x y

/-- A value that saturates at a bound. -/
def sat (bound n : Nat) : Nat := if n ≤ bound then n else bound

/-- Add one, saturating at the largest 32-bit number. -/
def sat32 (n : Nat) : Nat := sat 0xFFFFFFFF (n + 1)

/-- Cut a run of bytes into lines of 64 B. -/
def toLines (b : Bytes) : Nat → List Bytes
  | 0 => []
  | n + 1 => padTo 64 b :: toLines (b.drop 64) n

/-! ### Memory behind the controllers -/

/-- A byte as the transaction sees it. -/
def getByte (w : W) (a : Nat) : Byte :=
  match w.jr.find? (fun c => c.1 == a) with
  | some c => c.2
  | none => memGet w.base a

/-- Bytes from an address on. -/
def getBytes (w : W) (a n : Nat) : Bytes := (List.range n).map (fun i => getByte w (a + i))

/-- Write bytes from an address on. -/
def putBytes (w : W) (a : Nat) : Bytes → W
  | [] => w
  | x :: t => putBytes { w with jr := (a, x) :: w.jr } (a + 1) t

/-- The line an address lies in (R35). -/
def lineOf (a : Nat) : Nat := a - a % 64

/-- The parity of a number's bits, over a count of bits. -/
def parityOf : Nat → Nat → Nat
  | 0, _ => 0
  | k + 1, n => (n + parityOf k (n / 2)) % 2

/-- The memory port of an address (R34). -/
def portOf (bd : Build) (a : Nat) : Nat :=
  (List.range 5).foldl (fun p i => p + (parityOf 48 (a &&& (bd.masks.getD i 0).toNat) <<< i)) 0

/-! ### Counters, events, interrupts -/

/-- Add to a CNT counter (R446). -/
def cntAdd (addr n : Nat) (w : W) : W :=
  { w with b.cnt := tset w.b.cnt addr ((tget w.b.cnt addr 0 + n) % 2 ^ 64) }

/-- Add to a counter of MP p (R447). -/
def cntMp (p off n : Nat) (w : W) : W := cntAdd (0x800000 + 0x100 * p + off) n w

/-- Add to a counter of LP l (R447). -/
def cntLp (l off n : Nat) (w : W) : W := cntAdd (0x802000 + 0x200 * l + off) n w

/-- Add to a counter of SE e (R447). -/
def cntSe (e off n : Nat) (w : W) : W := cntAdd (0x804000 + 0x40 * e + off) n w

/-- Add to a global counter (R447). -/
def cntGlb (off n : Nat) (w : W) : W := cntAdd (0x806000 + off) n w

/-- T_CORE in µs. -/
def nowUs (w : W) : Nat := w.b.crp.tCore / 1000

/-- Write an entry into the event log (R451, R452). -/
def logEv (code sev inst ctx : Nat) (args : List Nat) (w : W) : W :=
  let t := w.b.tlm
  let e : LogEntry := { seq := t.elNext, time := w.b.crp.tCore, code := code, sev := sev, inst := inst, ctx := ctx
                        args := args.map (BitVec.ofNat 64) }
  let stays := fun (o : LogEntry) => decide (t.elNext < o.seq + 4096)
  let gone := (t.log.filter (fun o => !stays o && decide (t.elAck.toNat ≤ o.seq))).length
  { w with b.tlm := { t with elNext := t.elNext + 1, elLost := t.elLost + gone, log := e :: t.log.filter stays } }

/-- Raise the global interrupt with its ALERT entry (R454). -/
def raiseGirq (code inst ctx : Nat) (args : List Nat) (w : W) : W :=
  let seq := w.b.tlm.elNext
  let w := logEv code 3 inst ctx args w
  if w.b.tlm.girq then w else { w with b.tlm.girq := true, b.tlm.girqSeq := seq }

/-- An event without a code of its own (R453): address or opcode, value or INFO, index. -/
def logOther (cls sev inst ctx : Nat) (args : List Nat) (w : W) : W := logEv (cls * 256) sev inst ctx args w

/-- The event of an ignored register write (R12, R453). -/
def writeIgnored (addr : Nat) (v : Word) (w : W) : W := logEv 0x0B01 1 0 0 [addr, v.toNat] w

/-- Set a bit of RAS_STAT with its event; the bits of R431 that raise the global interrupt do so. -/
def setRas (bitNo : Nat) (inst idx : Nat) (w : W) : W :=
  let v := w.b.ras.stat ||| BitVec.ofNat 9 (1 <<< bitNo)
  let w := { w with b.ras.stat := v }
  if [1, 3, 4, 5, 6].contains bitNo then raiseGirq (0x0880 + bitNo) inst 0 [v.toNat, idx] w
  else logEv (0x0880 + bitNo) 2 inst 0 [v.toNat, idx] w

/-- Set RAS_LAST and RAS_LASTNS (R431). -/
def setRasLast (kind code inst word : Nat) (w : W) : W :=
  { w with b.ras.last := BitVec.ofNat 64 (kind <<< 56 ||| (code % 256) <<< 48 ||| (inst % 256) <<< 40 ||| word % 2 ^ 32)
           b.ras.lastNs := w.b.crp.tCore }

/-- Set a bit of LNK_ERR with its event (R84, R453). -/
def setLnkErr (bitNo port idx : Nat) (w : W) : W :=
  let v := w.b.lnk.err ||| BitVec.ofNat 8 (1 <<< bitNo)
  logEv (0x0280 + bitNo) 2 port 0 [v.toNat, idx] { w with b.lnk.err := v }

/-- Set a bit of CRP_TBSTAT with its event (R442, R453). -/
def setTb (bitNo : Nat) (args : List Nat) (w : W) : W :=
  let v := w.b.crp.tbStat ||| BitVec.ofNat 6 (1 <<< bitNo)
  logEv (0x0A80 + bitNo) 2 0 0 (v.toNat :: args) { w with b.crp.tbStat := v }

/-- The slice of a port. -/
def getSlice (w : W) (p : Nat) : Slice := tget w.b.slices p {}
def setSlice (p : Nat) (x : Slice) (w : W) : W := { w with b.slices := tset w.b.slices p x }
def modSlice (p : Nat) (f : Slice → Slice) (w : W) : W := setSlice p (f (getSlice w p)) w

/-- Set a bit of MPS_ERR, with MPS_ERR_ADDR and the event (R64, R453). -/
def setMpsErr (p bitNo line ctx : Nat) (w : W) : W :=
  let s := getSlice w p
  let v := s.err ||| BitVec.ofNat 8 (1 <<< bitNo)
  logEv (0x0180 + bitNo) 2 p ctx [v.toNat, line]
    (setSlice p { s with err := v
                         errAddr := BitVec.ofNat 64 (bitNo <<< 60 ||| (ctx % 4096) <<< 48 ||| lineOf (line % 2 ^ 48)) } w)

/-- The same, raising the global interrupt (R52, R487). -/
def setMpsErrGirq (p bitNo line ctx : Nat) (w : W) : W :=
  let s := getSlice w p
  let v := s.err ||| BitVec.ofNat 8 (1 <<< bitNo)
  raiseGirq (0x0180 + bitNo) p ctx [v.toNat, line]
    (setSlice p { s with err := v
                         errAddr := BitVec.ofNat 64 (bitNo <<< 60 ||| (ctx % 4096) <<< 48 ||| lineOf (line % 2 ^ 48)) } w)

/-! ### Table entries -/

def getQp (w : W) (q : Nat) : Qp := tget w.b.qps q {}
def setQp (q : Nat) (x : Qp) (w : W) : W := { w with b.qps := tset w.b.qps q x }
def modQp (q : Nat) (f : Qp → Qp) (w : W) : W := setQp q (f (getQp w q)) w
def getCtx (w : W) (x : Nat) : Ctx := tget w.b.ctxs x {}
def setCtx (x : Nat) (c : Ctx) (w : W) : W := { w with b.ctxs := tset w.b.ctxs x c }
def modCtx (x : Nat) (f : Ctx → Ctx) (w : W) : W := setCtx x (f (getCtx w x)) w
def getWatch (w : W) (x : Nat) : Watch := (getCtx w x).watch
def modWatch (x : Nat) (f : Watch → Watch) (w : W) : W := modCtx x (fun c => { c with watch := f c.watch }) w
def getPart (w : W) (p : Nat) : Part := tget w.b.parts p {}
def modPart (p : Nat) (f : Part → Part) (w : W) : W := { w with b.parts := tset w.b.parts p (f (getPart w p)) }
def getRgn (w : W) (i : Nat) : Region := tget w.b.rgns i {}
def setRgn (i : Nat) (x : Region) (w : W) : W := { w with b.rgns := tset w.b.rgns i x }
def modRgn (i : Nat) (f : Region → Region) (w : W) : W := setRgn i (f (getRgn w i)) w
def getGrp (w : W) (g : Nat) : Group := tget w.b.grps g {}
def setGrp (g : Nat) (x : Group) (w : W) : W := { w with b.grps := tset w.b.grps g x }
def modGrp (g : Nat) (f : Group → Group) (w : W) : W := setGrp g (f (getGrp w g)) w
def getSe (w : W) (e : Nat) : Se := tget w.b.eng.ses e {}
def setSe (e : Nat) (x : Se) (w : W) : W := { w with b.eng.ses := tset w.b.eng.ses e x }
def modSe (e : Nat) (f : Se → Se) (w : W) : W := setSe e (f (getSe w e)) w
def getLp (w : W) (l : Nat) : Lp := tget w.b.lnk.ports l {}
def modLp (l : Nat) (f : Lp → Lp) (w : W) : W := { w with b.lnk.ports := tset w.b.lnk.ports l (f (getLp w l)) }

/-- The regions that are defined, with their indices. -/
def definedRgns (w : W) : List (Nat × Region) := w.b.rgns.filter (fun r => r.2.state != .free)

/-- Bytes of a region. -/
def rgnBytes (r : Region) : Nat := r.size * 65536

/-- The region an address lies in (R42). -/
def rgnAt (w : W) (a : Nat) : Option (Nat × Region) :=
  (definedRgns w).find? (fun r => decide (r.2.base ≤ a) && decide (a < r.2.base + rgnBytes r.2))

/-- The partition of a context; `none` where no partition has it. -/
def partOfCtx? (w : W) (x : Nat) : Option Nat :=
  (w.b.parts.find? (fun p => decide (p.2.ctxFirst ≤ x) && decide (x < p.2.ctxFirst + p.2.ctxCount))).map (·.1)

/-- The partition of a context, 0 where none has it. -/
def partOfCtx (w : W) (x : Nat) : Nat := (partOfCtx? w x).getD 0

/-- The partition of a queue pair. -/
def partOfQp? (w : W) (q : Nat) : Option Nat :=
  (w.b.parts.find? (fun p => decide (p.2.qpFirst ≤ q) && decide (q < p.2.qpFirst + p.2.qpCount))).map (·.1)

/-! ### Block state -/

/-- Codes of the block states (R356). -/
def stateCode : BlockState → Nat
  | .reset => 0 | .dark => 1 | .loading => 2 | .pass => 3 | .service => 4 | .quarantine => 5 | .snuffed => 6

/-- The block carries coded traffic: SERVICE or QUARANTINE. -/
def inService (w : W) : Bool := w.b.glb.state == .service || w.b.glb.state == .quarantine

/-- The upstream channels are open (R59). -/
def portsOpen (w : W) : Bool := inService w || w.b.glb.state == .pass || w.b.glb.state == .snuffed

/-! ### Injection (R426 to R430) -/

/-- Disarm: GO is cleared in every injection register that has not fired (R427). -/
def disarm (w : W) : W :=
  { w with b.ras.armed := false, b.ras.lossOk := false, b.ras.snuffOk := false, b.ras.injMask := 0, b.ras.remain := 0
           b.ras.injExp := 0
           b.ras.inj := w.b.ras.inj.map (fun e => (e.1, if e.2.fired then e.2 else { e.2 with go := false })) }

/-- Would the injection of a detector act on this instance now? -/
def injHit (w : W) (d inst : Nat) : Bool :=
  let j := tget w.b.ras.inj d {}
  j.go && j.inst == inst && decide (0 < j.count)

/-- Make the injection: COUNT, FIRED and GO, REMAIN in SERVICE without DBG, and the event (R429). -/
def injFire (d : Nat) (w : W) : W :=
  let j := tget w.b.ras.inj d {}
  let j' := { j with count := j.count - 1, fired := true, go := decide (1 < j.count) }
  let w := logOther 8 0 j.inst 0 [0x40400 + 8 * d, d * 65536 + j.arg, j.inst] { w with b.ras.inj := tset w.b.ras.inj d j' }
  if w.b.glb.state == .service && !w.b.ras.dbg && w.b.ras.armed then
    if w.b.ras.remain ≤ 1 then disarm w else { w with b.ras.remain := w.b.ras.remain - 1 }
  else w

/-- A byte parity error that was retried (R416). -/
def noteParity (inst idx : Nat) (w : W) : W := setRas 2 inst idx { w with b.ras.cntPar := w.b.ras.cntPar + 1 }

/-- Detectors 0x07 and 0x08: an access to the line at RAS_INJADDR on its port. -/
def injAccess (w : W) (d line : Nat) : Bool := injHit w d (portOf w.build line) && w.b.ras.injAddr == line

/-! ### Accesses the block makes on its own behalf -/

/-- For whom the block makes an access of its own: how the controllers answer it, its class (R22), and the context it
carries (R63). -/
structure Acc where
  env : Env
  cls : MdClass
  ctx : Nat

/-- The qos of the requests the block makes for itself (R63). -/
def clsQos : MdClass → Nat
  | .relight => 3 | .se => 2 | .au => 2 | .holder => 1 | _ => 0

/-- A command on its context's behalf, or an SE (R63). -/
def seAcc (env : Env) (x : Nat) : Acc := { env := env, cls := .se, ctx := x }

/-- An AU's read-modify-write (R63). -/
def auAcc (env : Env) (x : Nat) : Acc := { env := env, cls := .au, ctx := x }

/-- A holder's parity update, STAGING access or parity rebuild write (R63). -/
def holderAcc (env : Env) (x : Nat) : Acc := { env := env, cls := .holder, ctx := x }

/-- A degraded read, its write-back, a Relight or Restripe access, or the answer to their fetches (R63). -/
def relightAcc (env : Env) (x : Nat) : Acc := { env := env, cls := .relight, ctx := x }

/-- Background work, the loader, the placement map and periodic samples (R63). -/
def bgAcc (env : Env) : Acc := { env := env, cls := .background, ctx := 0 }

/-- A request as it is presented on md_ port p (R35, R63). -/
def noteMd (o : MdOut) (w : W) : W := { w with b.mdOut := o :: w.b.mdOut }

/-- A grant of background work is counted (R25, R447). -/
def cntBg (c : MdClass) (p : Nat) (w : W) : W := { w with b.cnt := if c == .background then (cntMp p 0x70 1 w).b.cnt else w.b.cnt }

/-- An access of one line is presented and counted: op 0 reads, 1 and 2 write (R63, R447). -/
def present1 (a : Acc) (op line : Nat) (w : W) : W :=
  let p := portOf w.build line
  noteMd { port := p, addr := line, lines := 1, op := op, ctx := a.ctx, qos := clsQos a.cls, cls := a.cls }
    (cntBg a.cls p (cntMp p (if op = 0 then 0x18 else 0x20) 1 w))

/-- A downstream read of a line that is answered with a code, as detector 0x07 leaves it (R430). -/
def readInj (line : Nat) (c : Rsp) (w : W) : Rsp × W := if injAccess w 7 line then (.poison, injFire 7 w) else (c, w)

/-- A downstream write of a line that is answered with a code, as detector 0x08 leaves it (R430). -/
def writeInj (line : Nat) (c : Rsp) (w : W) : Rsp × W := if injAccess w 8 line then (.error, injFire 8 w) else (c, w)

/-- A downstream answer DENIED or ERROR sets MD_ERROR (R64). -/
def noteCode (line ctx : Nat) (r : Rsp × W) : Rsp × W :=
  if r.1 == .denied || r.1 == .error then (r.1, setMpsErr (portOf r.2.build line) 0 line ctx r.2) else r

/-- The answer the environment gives to a read of a line; OK where nothing is listed. -/
def readCode (a : Acc) (line : Nat) (w : W) : Rsp × W :=
  noteCode line a.ctx (readInj line (((a.env.rd.find? (fun e => e.1 == line)).map (·.2)).getD .ok) (present1 a 0 line w))

/-- The answer to a write of a line, op 1 whole and op 2 masked; a line answered otherwise than OK is not written (R40). -/
def writeAs (op : Nat) (a : Acc) (line : Nat) (data : Bytes) (w : W) : Rsp × W :=
  let (c, w) := noteCode line a.ctx
    (writeInj line (((a.env.wr.find? (fun e => e.1 == line)).map (·.2)).getD .ok) (present1 a op line w))
  (c, if c == .ok then putBytes w line data else w)

/-- A write of a whole line. -/
def writeLine (a : Acc) (line : Nat) (data : Bytes) (w : W) : Rsp × W := writeAs 1 a line data w

/-- Read a line: its answer and, when that is OK, its bytes. -/
def readLine (a : Acc) (line : Nat) (w : W) : Rsp × Bytes × W :=
  let (c, w) := readCode a line w
  (c, if c == .ok then getBytes w line 64 else [], w)

/-- The worst of two answers in the order DENIED, POISON, ERROR, OK. -/
def worse (a b : Rsp) : Rsp :=
  if a == .denied || b == .denied then .denied
  else if a == .poison || b == .poison then .poison
  else if a == .error || b == .error then .error else .ok

/-- Read the bytes of several lines from an address on: the worst answer and the bytes. -/
def readSpan (a : Acc) : Nat → Nat → W → Rsp × Bytes × W
  | 0, _, w => (.ok, [], w)
  | n + 1, line, w =>
    let (c, d, w) := readLine a line w
    let (c2, d2, w) := readSpan a n (line + 64) w
    (worse c c2, d ++ d2, w)

/-- Read bytes at any address through the lines that hold them. -/
def readBytes (acc : Acc) (a n : Nat) (w : W) : Rsp × Bytes × W :=
  if n = 0 then (.ok, [], w)
  else
    let l := lineOf a
    let (c, d, w) := readSpan acc ((a + n - 1 - l) / 64 + 1) l w
    (c, (d.drop (a - l)).take n, w)

/-- Write bytes at an address as plain writes, line by line: the worst answer. -/
def writeSpan (a : Acc) : Nat → Nat → Bytes → W → Rsp × W
  | 0, _, _, w => (.ok, w)
  | n + 1, line, d, w =>
    let (c, w) := writeLine a line (d.take 64) w
    let (c2, w) := writeSpan a n (line + 64) (d.drop 64) w
    (worse c c2, w)

/-- Write bytes at a 64 B multiple as plain writes. -/
def writeBytes (acc : Acc) (a : Nat) (d : Bytes) (w : W) : Rsp × W := writeSpan acc ((d.length + 63) / 64) a d w

/-- A write of a part of a line. -/
def writePart (acc : Acc) (a : Nat) (d : Bytes) (w : W) : Rsp × W :=
  let l := lineOf a
  writeAs 2 acc l (putAt (getBytes w l 64) (a - l) d) w

/-- A fresh byte that nothing constrains (log entry 6). -/
def freshBytes : Nat → W → Bytes × W
  | 0, w => ([], w)
  | n + 1, w =>
    let x := Config.freeByte w.b.free
    let (t, w) := freshBytes n { w with b.free := w.b.free + 1 }
    (x :: t, w)

/-- Apply a function for each member of a list in turn. -/
def each {α : Type} (l : List α) (f : α → W → W) (w : W) : W := l.foldl (fun w x => f x w) w

end Sys2Proof.Machine
end

