-- ==== Sys2Proof/Machine/Geometry.lean ====
section
/-! DEFINITION. Coding geometry: GF(2^8), the Cauchy generator, stripes, fragments and holders, decoding, region
predicates (R129 to R156). -/

namespace Sys2Proof.Machine

/-! ### GF(2^8) (R129 to R131) -/

/-- Multiplication by 2 modulo 0x11D. -/
def gfDouble (a : Byte) : Byte := (a <<< 1) ^^^ (if a.getLsbD 7 then 0x1D else 0)

/-- R129: `gfmul`, the low k bits of b still to take. -/
def gfmulGo : Nat → Byte → Byte → Byte
  | 0, _, _ => 0
  | k + 1, a, b => (if b.getLsbD 0 then a else 0) ^^^ gfmulGo k (gfDouble a) (b >>> 1)

/-- Multiplication in GF(2^8) (R129). -/
def gfmul (a b : Byte) : Byte := gfmulGo 8 a b

/-- a to a power. -/
def gfpow (a : Byte) : Nat → Byte
  | 0 => 1
  | k + 1 => gfmul a (gfpow a k)

/-- The inverse, a to the 254 (R129). -/
def gfinv (a : Byte) : Byte := gfpow a 254

/-- The parity coefficient C[p][q] of a group with m parity members (R130). -/
def coef (m p q : Nat) : Byte := gfinv (BitVec.ofNat 8 (p ^^^ (m + q)))

/-- Every byte of a line times a coefficient. -/
def gfScale (c : Byte) (l : Bytes) : Bytes := l.map (gfmul c)

/-- Parity line p of the data lines, given with their positions (R131). -/
def parityLine (m p : Nat) (ds : List (Nat × Bytes)) : Bytes :=
  ds.foldl (fun acc d => xorBytes acc (gfScale (coef m p d.1) d.2)) (zeros 64)

/-! ### Decoding (R156) -/

/-- The generator row of a member's role: a unit row for data position q, the row of C for parity p. -/
def genRow (k m : Nat) (isData : Bool) (i : Nat) : Bytes :=
  (List.range k).map (fun q => if isData then (if q = i then 1 else 0) else coef m i q)

/-- One row of elimination: subtract the pivot row so that column c becomes 0. -/
def elimRow (c : Nat) (piv r : Bytes × Bytes) : Bytes × Bytes :=
  let f := r.1.getD c 0
  (xorBytes r.1 (gfScale f piv.1), xorBytes r.2 (gfScale f piv.2))

/-- Gauss and Jordan elimination over the rows still unused and those done, column by column (R156). -/
def elim : Nat → Nat → List (Bytes × Bytes) → List (Bytes × Bytes) → Option (List Bytes)
  | 0, _, done, _ => some (done.map (·.2))
  | n + 1, c, done, rows =>
    match rows.find? (fun r => r.1.getD c 0 != 0) with
    | none => none
    | some r =>
      let i := gfinv (r.1.getD c 0)
      let piv := (gfScale i r.1, gfScale i r.2)
      elim n (c + 1) (done.map (elimRow c piv) ++ [piv]) ((rows.filter (fun x => x != r)).map (elimRow c piv))

/-- The data lines of a stripe line from k roles and lines; none if the rows are dependent (R156). -/
def decodeData (k m : Nat) (have_ : List (Bool × Nat × Bytes)) : Option (List Bytes) :=
  elim k 0 [] ((have_.take k).map (fun h => (genRow k m h.1 h.2.1, h.2.2)))

/-- The line of one role from the data lines. -/
def lineOfRole (m : Nat) (isData : Bool) (i : Nat) (data : List Bytes) : Bytes :=
  if isData then data.getD i (zeros 64) else parityLine m i ((List.range data.length).zip data)

/-! ### Stripes and fragments (R132 to R134) -/

/-- The fragment size of a FRAG code (R144). -/
def fragSize (c : Nat) : Nat := 1024 * 4 ^ c

/-- Elements of a chunk (R144). -/
def chunkElems (c : Nat) : Nat := 4096 * 2 ^ c

/-- (a - b) modulo n in 0 to n - 1. -/
def subMod (a b n : Nat) : Nat := (a + (n - b % n)) % n

/-- A member's role in a stripe: data at a position, or parity of an index (R132). -/
def roleOf (n m i s : Nat) : Bool × Nat :=
  let r := subMod i s n
  if r < m then (false, r) else (true, r - m)

/-- Stripe of data fragment f of member i (R133). -/
def dataStripe (n k m i f : Nat) : Nat := n * (f / k) + subMod (i + n) (m + f % k) n

/-- Data fragment of stripe s at position q (R133). -/
def dataFrag (n k s q : Nat) : Nat := k * (s / n) + q

/-- Stripe of parity fragment x of member i (R133). -/
def parityStripe (n m i x : Nat) : Nat := n * (x / m) + subMod (i + n) (x % m) n

/-- Parity fragment of stripe s with index p (R133). -/
def parityFrag (n m s p : Nat) : Nat := m * (s / n) + p

/-- The member that holds parity p of a stripe (R133). -/
def holderOf (n s p : Nat) : Nat := (s + p) % n

/-- The member that holds data position q of a stripe (R133). -/
def dataMember (n m s q : Nat) : Nat := (s + m + q) % n

/-- Data fragments of a coded region on each member. -/
def numFrags (r : Region) : Nat := rgnBytes r / fragSize r.frag

/-- Parity fragments of a coded region on each member. -/
def numParity (g : Group) (r : Region) : Nat := if g.k = 0 then 0 else g.m * (numFrags r / g.k)

/-- Stripes of a coded region (R155). -/
def numStripes (g : Group) (r : Region) : Nat := if g.k = 0 then 0 else g.n * (numFrags r / g.k)

/-- Bytes of parity per member (R155). -/
def parityBytes (g : Group) (r : Region) : Nat := if g.k = 0 then 0 else rgnBytes r * g.m / g.k

/-- The stripe line of a data line at a region offset on member i: stripe, position, line within the fragment. -/
def stripeOf (g : Group) (r : Region) (i off : Nat) : Nat × Nat × Nat :=
  let fs := fragSize r.frag
  let f := off / fs
  (dataStripe g.n g.k g.m i f, if g.k = 0 then 0 else f % g.k, off % fs / 64)

/-- The address of a role's line of a stripe: in the region for data, in the partner for parity. -/
def roleAddr (g : Group) (r partner : Region) (role : Bool × Nat) (s line : Nat) : Nat :=
  if role.1 then r.base + dataFrag g.n g.k s role.2 * fragSize r.frag + 64 * line
  else partner.base + parityFrag g.n g.m s role.2 * fragSize r.frag + 64 * line

/-! ### Groups and regions -/

/-- The member slots of a group that count as out (R318). -/
def slotOut (s : SlotState) : Bool := s == .lost || s == .fenced

/-- The slots of a group in use, with their indices. -/
def slotsOf (g : Group) : List (Nat × Slot) := (List.range g.n).zip (g.members.take g.n)

/-- A member's slot. -/
def slotAt (g : Group) (i : Nat) : Slot := g.members.getD i {}

/-- Members that are out. -/
def outMembers (g : Group) : List Nat := ((slotsOf g).filter (fun x => slotOut x.2.state)).map (·.1)

/-- Members other than this one that are not out. -/
def liveOthers (g : Group) : List Nat :=
  ((slotsOf g).filter (fun x => !slotOut x.2.state && x.1 != g.self)).map (·.1)

/-- GRP_STAT.OUT_MASK (R148). -/
def outMask (g : Group) : Nat := (outMembers g).foldl (fun a i => a ||| 1 <<< i) 0

/-- The member of a group that has a coordinate. -/
def memberOf (g : Group) (c : Coord) : Option Nat := ((slotsOf g).find? (fun x => x.2.coord == c)).map (·.1)

/-- The group whose domain group number is given (R136: unique). -/
def grpByDgn (w : W) (dgn : Nat) : Option (Nat × Group) :=
  w.b.grps.find? (fun x => x.2.state != .free && x.2.dgn == dgn)

/-- A coded kind (R141). -/
def codedKind (k : Kind) : Bool := k == .coded || k == .window || k == .residual

/-- The group of a region. -/
def grpOf (w : W) (r : Region) : Group := match r.grp with | some g => getGrp w g | none => {}

/-- The PARITY partner of a coded region. -/
def partnerOf (w : W) (r : Region) : Region := match r.partner with | some i => getRgn w i | none => {}

/-- Are the lines of a coded region covered by parity: sounded, or inside the window, in a group that is not BROKEN
(R43, R150, R320)? -/
def covered (w : W) (r : Region) : Bool :=
  (grpOf w r).state != .broken &&
  match r.kind with
  | .coded => r.state == .sounded
  | .residual => r.state == .sounded
  | .window => r.window && !(w.b.streams.any (fun s => s.kind == .encode && (getRgn w s.region).base == r.base))
  | _ => false

/-- How a write to a coded kind is handled: plain, held, or coded (R43, R46, R150, R154). -/
inductive WriteMode where
  | plain | held | coded
  deriving DecidableEq, Repr

/-- Is a stream of a kind running on a region? -/
def streaming (w : W) (k : StreamKind) (ri : Nat) : Bool := w.b.streams.any (fun s => s.kind == k && s.region == ri)

/-- Are host writes to a WINDOW region held: its encoding is in progress, that is, fragments are still to be streamed or an
ENCODE unit of the region is not complete (R46)? -/
def encodingHeld (w : W) (ri : Nat) (r : Region) : Bool :=
  w.b.streams.any (fun s => s.kind == .encode && s.region == ri && (decide (s.next < numFrags r)
    || w.b.units.any (fun u => u.kind == 3 && u.region == ri && !u.complete)))

/-- A coded region as a Restripe's new geometry sees it (R351): group, fragment code, partner and epoch replaced. -/
def newView (r : Region) : Option Region :=
  match r.restripe with
  | some (g, f, p, e) => some { r with grp := some g, frag := f, partner := some p, sepoch := e, state := .sounded }
  | none => none

/-- Are writes at an offset held by a Restripe: their fragment of the new geometry has been streamed and its PREPARE is not
sent (R154, R352)? -/
def restripeHeld (w : W) (ri : Nat) (r : Region) (off : Nat) : Bool :=
  match newView r with
  | none => false
  | some v => w.b.units.any (fun u => u.kind == 4 && u.region == ri && !u.prepared && u.index == off / fragSize v.frag)

/-- The Restripe stream of a region that has begun (R351). -/
def restripeOn (w : W) (ri : Nat) : Option Stream := w.b.streams.find? (fun s => s.kind == .restripe && s.region == ri && s.begun)

/-- Has a Restripe's stream passed the fragment of the new geometry at an offset (R352)? -/
def restripePassed (w : W) (ri : Nat) (r : Region) (off : Nat) : Bool :=
  match newView r, restripeOn w ri with
  | some v, some s => decide (off / fragSize v.frag < s.next)
  | _, _ => false

/-- The write mode of a line of a coded kind at an offset; a region that joins the new group of a Restripe is coded behind its
frontier (R46, R150, R154, R352). -/
def writeMode (w : W) (ri : Nat) (r : Region) (off : Nat) : WriteMode :=
  if (grpOf w r).state == .broken then .plain
  else if restripeHeld w ri r off then .held
  else if r.kind == .window then
    if encodingHeld w ri r then .held else if r.window then .coded else .plain
  else match r.state with
    | .sounded => .coded
    | .sounding =>
      let f := off / fragSize r.frag
      if f < r.frontier then .coded else if f = r.frontier then .held else .plain
    | .unsounded => if restripePassed w ri r off then .coded else .plain
    | _ => .plain

/-- The coded region that a PARITY region is the partner of, as that partner's geometry sees it. -/
def codedOfPartner (w : W) (pi : Nat) : Option (Nat × Region) :=
  match (definedRgns w).find? (fun x => codedKind x.2.kind && x.2.partner == some pi) with
  | some x => some x
  | none =>
    ((definedRgns w).find? (fun x => ((newView x.2).map (fun v => v.partner == some pi)).getD false)).bind
      (fun x => (newView x.2).map (fun v => (x.1, v)))

/-- The coded region with a base address in a group, as that group's geometry sees it. -/
def codedByBase (w : W) (g base : Nat) : Option (Nat × Region) :=
  match (definedRgns w).find? (fun x => codedKind x.2.kind && x.2.base == base && x.2.grp == some g) with
  | some x => some x
  | none =>
    ((definedRgns w).find? (fun x => x.2.base == base && ((newView x.2).map (fun v => v.grp == some g)).getD false)).bind
      (fun x => (newView x.2).map (fun v => (x.1, v)))

/-- The PARITY region with a base address in a group. -/
def parityByBase (w : W) (g base : Nat) : Option (Nat × Region) :=
  (definedRgns w).find? (fun x => x.2.kind == .parity && x.2.base == base && x.2.grp == some g)

/-- The STAGING region of a group. -/
def stagingOf (w : W) (g : Nat) : Option (Nat × Region) :=
  (definedRgns w).find? (fun x => x.2.kind == .staging && x.2.grp == some g)

/-- Regions that name a group. -/
def rgnsOfGrp (w : W) (g : Nat) : List (Nat × Region) := (definedRgns w).filter (fun x => x.2.grp == some g)

/-- Regions of a context. -/
def rgnsOfCtx (w : W) (x : Nat) : List (Nat × Region) := (definedRgns w).filter (fun r => r.2.ctx == x)

/-- Groups that the regions of a context name. -/
def grpsOfCtx (w : W) (x : Nat) : List Nat :=
  (rgnsOfCtx w x).foldl (fun l r => match r.2.grp with | some g => insertNat l g | none => l) []

/-- Does the whole of a run of bytes lie in one PLAIN region of the context? -/
def inPlain (w : W) (x a n : Nat) : Bool :=
  (rgnsOfCtx w x).any (fun r => r.2.kind == .plain && decide (r.2.base ≤ a) && decide (a + n ≤ r.2.base + rgnBytes r.2))

/-- Codes of the region kinds (R146). -/
def kindCode : Kind → Nat
  | .plain => 0 | .coded => 1 | .window => 2 | .derived => 3 | .accum => 4 | .residual => 5 | .parity => 6
  | .staging => 7 | .ring => 8 | .record => 9

/-- The kind of a code. -/
def kindOfCode : Nat → Option Kind
  | 0 => some .plain | 1 => some .coded | 2 => some .window | 3 => some .derived | 4 => some .accum
  | 5 => some .residual | 6 => some .parity | 7 => some .staging | 8 => some .ring | 9 => some .record | _ => none

end Sys2Proof.Machine
end

