-- ==== Sys2Proof/Machine/Lines.lean ====
section
/-! DEFINITION. What the memory ports hold that any work on lines has to look at: tags, quiescence, the hazard table, the
degraded reads that hold a line, and when the block's own work may touch lines (R22, R23, R39, R53, R54, R376). -/

namespace Sys2Proof.Machine

/-! ### A slice -/

/-- A downstream tag that is free (R39). -/
def freeTag (s : Slice) : Option Nat :=
  if s.md.length ≥ 4096 then none
  else if !s.md.any (fun m => m.tag == s.nextTag) then some s.nextTag
  else (List.range 4096).find? (fun t => !s.md.any (fun m => m.tag == t))

/-- The slice whose coded path (PDE, AU and Bearing unit) works for a port: its own, or for a path that failed its self-test that of
the next higher-numbered slice that passed, wrapping round (R360). -/
def pathOf (w : W) (p : Nat) : Nat :=
  if !w.b.glb.stfail1.getLsbD p then p
  else (((List.range w.build.nmp).map (fun i => (p + i) % w.build.nmp)).find? (fun q => !w.b.glb.stfail1.getLsbD q)).getD p

/-- Is a slice quiesced: nothing accepted is left, or its clock is still missing (R376, R434)? -/
def isQuiesced (s : Slice) : Bool :=
  s.noClock || (s.quiesce && s.reqs.isEmpty && s.jobs.isEmpty && s.md.isEmpty && s.merge.isEmpty)

/-- Is a Helm hand-over under way: the Helm's duties pause, and the background reserve is suspended (R374)? -/
def helmPaused (w : W) : Bool := w.b.glb.savedFmt.isSome

/-! ### The hazard table (R53) -/

/-- The requests listed for a line. -/
def hazAt (w : W) (p line : Nat) : List HazItem := ((getSlice w p).haz.find? (fun h => h.line == line)).elim [] (·.q)

/-- The next request of a line that may start: the first one, or, behind a held write, the first read (R23, R53). -/
def nextItem : Bool → List HazItem → Option HazItem
  | _, [] => none
  | past, i :: t =>
    if i.started then none
    else if i.held then nextItem true t
    else if past && i.write then nextItem true t
    else some i

/-- The region a fetch operation works on, as its group's geometry sees it. -/
def opRegion (w : W) (o : FetchOp) : Region :=
  let r := getRgn w o.region
  if r.grp == some o.g then r else (newView r).getD r

/-- The line of this member that a fetch operation rebuilds, when its target is this member. -/
def opLine (w : W) (o : FetchOp) : Option Nat :=
  let g := getGrp w o.g
  let v := opRegion w o
  if o.target != g.self then none
  else some (roleAddr g v (partnerOf w v) (roleOf g.n g.m o.target o.stripe) o.stripe o.line)

/-- The lines whose entry a degraded read for a command, a sweep or a write-back alone holds (R53, R57). -/
def fetchLines (w : W) : List Nat :=
  w.b.fetches.filterMap (fun o => match o.why with | .cmd _ => opLine w o | .sweep _ => opLine w o | .back => opLine w o | _ => none)

/-- Is a degraded read for a command or a sweep under way on a line? -/
def lineFetched (w : W) (line : Nat) : Bool := (fetchLines w).contains line

/-- Hazard entries in use, 0 to 256 (R53, R64): those of the requests listed, and those of degraded reads. -/
def hazUsed (w : W) (p : Nat) : Nat :=
  let h := (getSlice w p).haz
  h.length + ((fetchLines w).filter (fun l => portOf w.build l == p && !h.any (fun e => e.line == l))).length

/-! ### The block's own work on lines -/

/-- May an access of the block's own be granted on a slice now: it is not quiesced, nothing waits for its arbiter or for an
entry, and a tag and a hazard entry are free (R22, R39, R54, R376)? -/
def portReady (w : W) (p : Nat) : Bool :=
  let s := getSlice w p
  !isQuiesced s && s.waitq.isEmpty && s.need.isEmpty && (freeTag s).isSome && decide (hazUsed w p < 256)

/-- Does a run of lines lie on ports that may grant an access now? A run of 64 KiB or more counts as lying on every port. -/
def portsReady (w : W) (a n : Nat) : Bool :=
  w.b.slices.all (fun s => portReady w s.1
    || (decide (n < 65536) && !(List.range ((n + 63) / 64)).any (fun i => portOf w.build (lineOf a + 64 * i) == s.1)))

/-- Does no degraded read for a command or a sweep hold a line of a run? -/
def noneFetched (w : W) (a n : Nat) : Bool := (fetchLines w).all (fun l => decide (l + 64 ≤ lineOf a) || decide (a + n ≤ l))

/-- May the block's own work touch the lines from an address on: no request of a hazard table or merge buffer concerns them, and
their ports may grant it (R22, R23, R53, R54, R376)? -/
def linesFree (w : W) (a n : Nat) : Bool :=
  portsReady w a n && noneFetched w a n
    && w.b.slices.all (fun s => (s.2.haz.all (fun h => decide (h.line + 64 ≤ lineOf a) || decide (a + n ≤ h.line)))
      && s.2.merge.all (fun m => decide (m.line + 64 ≤ lineOf a) || decide (a + n ≤ m.line)))

/-- May reads of the block's own touch lines: they go ahead of held writes (R23), behind every other request for the lines. -/
def linesReadable (w : W) (a n : Nat) : Bool :=
  portsReady w a n && noneFetched w a n && w.b.slices.all (fun s =>
    (s.2.haz.all (fun h => decide (h.line + 64 ≤ lineOf a) || decide (a + n ≤ h.line)
      || (h.q.all (fun i => !i.started) && (nextItem false h.q).isNone)))
    && s.2.merge.all (fun m => decide (m.line + 64 ≤ lineOf a) || decide (a + n ≤ m.line)))

end Sys2Proof.Machine
end

