-- ==== Sys2Proof/Machine/Keys.lean ====
section
/-! DEFINITION. Keys, authentication failures, alarm levels, sealing and the block state (R384 to R398). -/

namespace Sys2Proof.Machine

/-- The bytes of an ASCII string. -/
def ascii (s : String) : Bytes := s.toList.map (fun c => BitVec.ofNat 8 c.toNat)

/-- Enter a block state; the AON side holds the last one for the service port (R408). -/
def setState (st : BlockState) (w : W) : W := { w with b.glb.state := st, b.sec.lastState := st }

/-- SEC_ALARM (R409). -/
def secAlarm (s : Sec) : Nat :=
  s.authTotal <<< 32 ||| s.l3Cause <<< 24 ||| s.l2Cause <<< 16 ||| b2n s.pend <<< 2 ||| s.level

/-- The actions of alarm level 1: event, SEC_ALARM.PEND, and LEVEL at least the level given (R397, R409). -/
def alarmActs (level idx : Nat) (w : W) : W :=
  let s := { w.b.sec with pend := true, level := max w.b.sec.level level }
  logEv 0x0982 2 0 0 [secAlarm s, idx] { w with b.sec := s }

/-- Alarm level 1 (R397). -/
def alarm1 (idx : Nat) (w : W) : W := alarmActs 1 idx w

/-- Alarm level 2: in PASS and SERVICE cause and time are recorded and the block enters QUARANTINE; in other states the event is
logged and nothing else happens (R397). -/
def alarm2 (cause : Nat) (w : W) : W :=
  if w.b.glb.state == .pass || w.b.glb.state == .service then
    setState .quarantine (alarmActs 2 cause { w with b.sec.l2Cause := cause, b.sec.alarmNs := w.b.crp.tAon })
  else logEv 0x0982 2 0 0 [secAlarm w.b.sec, cause] w

/-- One authentication failure: level 1, and level 2 when it and the 15 before it lie within 1 s (R397, R398). -/
def authFailure (idx : Nat) (w : W) : W :=
  let now := w.b.crp.tAon / 1000
  let old := w.b.sec.failTimes
  let burst := match old.drop 14 with
    | [] => false
    | t :: _ => decide (now ≤ t + 1000000)
  let w := { w with b.sec.authTotal := sat32 w.b.sec.authTotal, b.sec.failTimes := now :: old.take 14 }
  let w := alarm1 idx w
  if burst then alarm2 1 w else w

/-! ### Derived keys and tags (R384 to R387) -/

/-- RK: fuse words 0 to 3 (R380). -/
def rootKey (s : Sec) : Bytes := (s.fuses.take 4).flatMap (fun w => toLe 8 w.toNat)

/-- A derived key (R384). -/
def deriveKey (s : Sec) (label : String) (ctx : Bytes) : Bytes :=
  if s.derived then Config.kmac256 (rootKey s) ctx 256 (ascii "KDF" ++ ascii label) else zeros 32

/-- K_CMD(p, c) (R384). -/
def kCmd (s : Sec) (p c : Nat) : Bytes := deriveKey s "OLIPHOR CMD" (toLe 1 p ++ toLe 1 c ++ toLe 8 s.kepoch)

/-- K_WRAP(p) (R384). -/
def kWrap (s : Sec) (p : Nat) : Bytes := deriveKey s "OLIPHOR WRAP" (toLe 1 p ++ toLe 1 0 ++ toLe 8 s.kepoch)

/-- KID of the root key (R382). -/
def kidOf (s : Sec) : Bytes := Config.kmac256 (rootKey s) [] 128 (ascii "OLIPHOR ID")

/-- The tag of a critical command (R386): both slots, its context, partition and class. -/
def cmdTag (s : Sec) (slot : Bytes) (ctx p c : Nat) : Bytes :=
  Config.kmac256 (kCmd s p c) (bytesAt slot 0 0x48 ++ toLe 2 ctx) 128 (ascii "OLIPHOR TAG")

def lastOf (s : Sec) (p c : Nat) : Nat := tget s.last (3 * p + c) 0
def rsnOf (s : Sec) (p c : Nat) : Nat := tget s.rsn (3 * p + c) 0

/-! ### Seals (R394 to R396) -/

/-- The seal-key entry of a domain group number. -/
def sealEntry (w : W) (dgn : Nat) : Option (Nat × SealKey) := w.b.sec.skeys.find? (fun e => e.2.dgn == dgn)

/-- A key slot of an entry. -/
def keySlot (k : SealKey) (i : Nat) : Option Bytes := if i = 0 then k.key0 else k.key1

/-- The header's first 32 bytes, which the seal authenticates (R394). -/
def hdrBytes (h : Hdr) : Bytes :=
  toLe 4 h.dest.toNat ++ toLe 4 h.src.toNat ++ toLe 1 h.vc.toNat ++ toLe 1 h.opcode.toNat ++ toLe 2 h.group.toNat
    ++ toLe 2 h.length.toNat ++ toLe 1 h.member.toNat ++ toLe 1 h.flags.toNat ++ toLe 8 h.raddr.toNat
    ++ toLe 3 h.seq.toNat ++ toLe 5 h.rsv0.toNat

/-- Seal a packet that begins on a port, with the port's engine (R394, R395); none when no active key is installed or its
counter has ended, in which case the packet waits (R28). -/
def sealPacket (port : Nat) (pk : Packet) (w : W) : Option (Packet × W) :=
  match sealEntry w pk.hdr.group.toNat with
  | none => none
  | some (e, k) =>
    match keySlot k k.active with
    | none => none
    | some key =>
      let eng := port / 2
      let ix := 2 * eng + k.active
      let n := tget k.inv ix 0
      if n ≥ 2 ^ 56 - 1 then none
      else
        let nonce : BitVec 96 :=
          BitVec.ofNat 96 (pk.hdr.src.toNat + (eng + k.active <<< 7) <<< 32 + n <<< 40)
        let r := Config.gcmSeal key nonce (hdrBytes pk.hdr) pk.payload
        let near := decide (n + 1 = 2 ^ 56 - 2 ^ 48)
        let k := { k with inv := tset k.inv ix (n + 1)
                          near0 := k.near0 || (near && k.active == 0), near1 := k.near1 || (near && k.active == 1) }
        let w := { w with b.sec.skeys := tset w.b.sec.skeys e k }
        let w := if near then logOther 9 0 eng 0 [0x51000 + 8 * e, n + 1] w else w
        some ({ hdr := { pk.hdr with nonce := nonce, tag := r.2 }, payload := r.1 }, w)

/-- Open a sealed packet: its plaintext, or none when check 3 fails (R396). -/
def openPacket (pk : Packet) (w : W) : Option Bytes :=
  match sealEntry w pk.hdr.group.toNat with
  | none => none
  | some (_, k) =>
    match keySlot k (b2n (pk.hdr.nonce.getLsbD 39)) with
    | none => none
    | some key => Config.gcmOpen key pk.hdr.nonce (hdrBytes pk.hdr) pk.payload pk.hdr.tag

/-- The part of Snuff that zeroises: root key, derived keys, LAST and RSN, the seal-key table; KEY_OK goes to 0 and
ZEROISED to 1 (R401, R403). -/
def zeroise (w : W) : W :=
  { w with b.sec.fuses := [], b.sec.derived := false, b.sec.last := [], b.sec.rsn := [], b.sec.skeys := []
           b.sec.keyOk := false, b.sec.zeroised := true, b.sec.deriving_ := false }

end Sys2Proof.Machine
end

