-- ==== Sys2Proof/Machine/Links.lean ====
section
/-! DEFINITION. Sending: coordinates, peers, sequence streams, port arbitration, VC0 messages and their repetition
(R65 to R96). -/

namespace Sys2Proof.Machine

/-! ### Coordinates and peers -/

/-- An axis value of a coordinate (R65). -/
def axis (c : Coord) (i : Nat) : Nat := c.toNat >>> (8 * i) % 256

/-- The size of an axis of the torus (R65). -/
def axisSize (t : BitVec 32) (i : Nat) : Nat := axis t i + 1

/-- Does a link port work: the build has it, and it and its pair's seal engine passed self-test (R2, R360)? -/
def lpWorks (w : W) (l : Nat) : Bool :=
  decide (l < w.build.nlp) && !w.b.glb.stfail1.getLsbD (32 + l) && !w.b.glb.stfail1.getLsbD (48 + l / 2)

/-- A port, or in place of one that does not work the lowest-numbered port that does (log entry 34). -/
def workingPort (w : W) (l : Nat) : Nat :=
  if lpWorks w l then l else ((List.range w.build.nlp).find? (lpWorks w)).getD l

/-- The default port toward a coordinate (R95); a failed port is never an affinity port (R360). -/
def defaultPort (w : W) (c : Coord) : Nat :=
  workingPort w (match (List.range 4).find? (fun i => axis c i != axis w.b.lnk.coord i) with
    | none => 0
    | some i =>
      let n := axisSize w.b.lnk.torus i
      let d := (axis c i % n + (n - axis w.b.lnk.coord i % n)) % n
      if 2 * d ≤ n then 2 * i else 2 * i + 1)

/-- Does a coordinate lie inside LNK_TORUS? -/
def inTorus (w : W) (c : Coord) : Bool := (List.range 4).all (fun i => decide (axis c i < axisSize w.b.lnk.torus i))

/-- The peer entry of a coordinate (R91). -/
def peerOf (w : W) (c : Coord) : Option (Nat × Peer) := w.b.lnk.peers.find? (fun p => p.2.coord == c)

/-- Is a coordinate a peer? -/
def isPeer (w : W) (c : Coord) : Bool := (peerOf w c).isSome

/-- The lowest index a table leaves free below a bound. -/
def freeIndex {α : Type} (t : Tbl α) (n : Nat) : Option Nat := (List.range n).find? (fun i => (tfind t i).isNone)

/-- Make a coordinate a peer, with its default port and its streams as new (R88, R91, R95). -/
def addPeer (c : Coord) (w : W) : W :=
  if isPeer w c || c == w.b.lnk.coord then w
  else match freeIndex w.b.lnk.peers 1024 with
    | none => w
    | some i => { w with b.lnk.peers := tset w.b.lnk.peers i { coord := c, aff := defaultPort w c } }

/-- The streams of a coordinate are deleted or reset: counters toward it at 0 again, expected values of all streams from it unset,
its multicast streams among them (R88). -/
def dropStreams (c : Coord) (w : W) : W :=
  { w with b.lnk.txStreams := w.b.lnk.txStreams.filter (fun s => s.mcast || s.dest != c.toNat)
           b.lnk.rxStreams := w.b.lnk.rxStreams.filter (fun s => s.src != c)
           b.lnk.acted := w.b.lnk.acted.filter (fun a => a.1 != c) }

/-- Is a coordinate named by a slot of any group that is in use? -/
def namedByGroup (w : W) (c : Coord) : Bool :=
  w.b.grps.any (fun g => g.2.state != .free && (slotsOf g.2).any (fun s => s.2.coord == c && s.2.state != .unused))

/-- Stop tracking the peers that no group names any more (R88, R137). -/
def prunePeers (w : W) : W :=
  let gone := w.b.lnk.peers.filter (fun p => !namedByGroup w p.2.coord)
  let w := gone.foldl (fun w p => dropStreams p.2.coord w) w
  { w with b.lnk.peers := w.b.lnk.peers.filter (fun p => namedByGroup w p.2.coord)
           b.lnk.vc0 := w.b.lnk.vc0.filter (fun m => !(gone.any (fun p => p.2.coord == m.dest))) }

/-- The port toward a coordinate: a peer's affinity, else the default (R95, R96). -/
def portTo (w : W) (c : Coord) : Nat := match peerOf w c with | some p => p.2.aff | none => defaultPort w c

/-! ### Transmission -/

/-- May a packet with this VC and opcode begin in this block state (R76)? -/
def canSend (w : W) (vc op : Nat) : Bool :=
  w.b.lnk.en && (inService w || (w.b.glb.state == .pass && vc == 0 && [0x01, 0x02, 0x06, 0x08].contains op))

/-- The traffic units of a packet in CNT: its payload in 64 B units, and one for the header (log entry 22). -/
def pktUnits (pk : Packet) : Nat := 1 + (pk.payload.length + 63) / 64

/-- A packet begins on a port: detectors 0x06 and 0x04, seal, counters (R78, R394, R430). False when it has to wait. -/
def beginPacket (port : Nat) (pk : Packet) (w : W) : Bool × W :=
  let vc := pk.hdr.vc.toNat
  if injHit w 6 port && (tget w.b.ras.inj 6 {}).arg % 8 == vc then (true, injFire 6 w)
  else
    let sealed_ := if pk.hdr.flags.getLsbD 0 then sealPacket port pk w else some (pk, w)
    match sealed_ with
    | none => (false, w)
    | some (pk', w) =>
      let hit := pk.hdr.flags.getLsbD 0 && injHit w 4 port
      let pk' := if hit then { pk' with hdr := { pk'.hdr with tag := pk'.hdr.tag ^^^ 0xFF } } else pk'
      let w := if hit then injFire 4 w else w
      let w := cntLp port (8 * vc) (pktUnits pk) w
      let w := cntLp port (0x60 + 8 * vc) 1 w
      let w := if pk.hdr.opcode == 0x03 then cntLp port (if fld pk.payload 0x10 1 = 0 then 0x100 else 0x108) 1 w else w
      (true, { w with b.lnk.out := (port, pk') :: w.b.lnk.out })

/-- Is a VC of a port stopped by lp_tx_off (R73)? -/
def vcOff (w : W) (port vc : Nat) : Bool := (getLp w port).txOff.getLsbD vc

/-- Are two packets of one destination and VC (R82)? -/
def sameStream (a b : Hdr) : Bool := a.dest == b.dest && a.vc == b.vc && a.flags.getLsbD 1 == b.flags.getLsbD 1

/-- A formed packet goes to its port: begun at once when nothing of its stream waits and its VC is not off, else queued;
dropped where the block state sends no such packet, or no port works (R76, R78, R82, R360). -/
def transmit (port part : Nat) (pk : Packet) (w : W) : W :=
  if !lpWorks w port || !canSend w pk.hdr.vc.toNat pk.hdr.opcode.toNat then w
  else
    let waits := w.b.lnk.ports.any (fun l => l.2.queue.any (fun x => sameStream x.2.hdr pk.hdr))
    if vcOff w port pk.hdr.vc.toNat || waits then
      modLp port (fun l => { l with queue := l.queue ++ [(part, pk)] }) w
    else
      let (ok, w') := beginPacket port pk w
      if ok then w' else modLp port (fun l => { l with queue := l.queue ++ [(part, pk)] }) w

/-! ### Deficit round-robin (R78) -/

/-- Weight of a partition on a link port (LNK_PWT). -/
def partWeight (w : W) (p : Nat) : Nat :=
  ((if p < 8 then w.b.lnk.pwt0 else w.b.lnk.pwt1).toNat >>> (8 * (p % 8))) % 256

/-- Weight of a VC within a partition (LNK_VCWT). -/
def vcWeight (w : W) (p vc : Nat) : Nat := ((tget w.b.lnk.vcwt p 0x50A0F1432).toNat >>> (8 * (vc - 1))) % 256

/-- One choice of a deficit round-robin: the contenders in order after the last one served, each with its weight, quantum
and the bytes of its packet. Answers the contender and the deficits. -/
def drr : Nat → List (Nat × Nat × Nat × Nat) → Tbl Nat → Option (Nat × Tbl Nat)
  | 0, _, _ => none
  | _, [], _ => none
  | n + 1, (c, ix, quantum, bytes) :: rest, def_ =>
    let have_ := tget def_ ix 0
    if bytes ≤ have_ then some (c, tset def_ ix (have_ - bytes))
    else drr n (rest ++ [(c, ix, quantum, bytes)]) (tset def_ ix (have_ + quantum))

/-- Rotate a list of numbers so that those above a bound come first. -/
def rotateAfter (last : Nat) (l : List Nat) : List Nat :=
  l.filter (fun x => decide (last ≤ x)) ++ l.filter (fun x => decide (x < last))

/-- The contenders with a weight, or all of them when none has one (R78). -/
def weighted (wt : Nat → Nat) (l : List Nat) : List Nat :=
  let h := l.filter (fun x => wt x != 0)
  if h.isEmpty then l else h

/-- The first packet of a partition and VC in a queue. -/
def firstOf (q : List (Nat × Packet)) (p vc : Nat) : Option Packet :=
  (q.find? (fun x => x.1 == p && x.2.hdr.vc.toNat == vc)).map (·.2)

/-- Does a packet wait behind one of its destination and VC with an earlier sequence number, on this port or on the one its
traffic has left (R82)? -/
def behind (w : W) (h : Hdr) : Bool :=
  w.b.lnk.ports.any (fun l => l.2.queue.any (fun x => sameStream x.2.hdr h && x.2.hdr.seq != h.seq
    && decide ((h.seq.toNat + 2 ^ 24 - x.2.hdr.seq.toNat) % 2 ^ 24 < 2 ^ 23)))

/-- Can a port's seal engine seal a packet, if it has to be sealed (R28, R395)? -/
def sealable (w : W) (port : Nat) (pk : Packet) : Bool := !pk.hdr.flags.getLsbD 0 || (sealPacket port pk w).isSome

/-- The VC a partition would begin on, and the deficits after it: deficit round-robin among the VCs that have a packet waiting. A
packet's size is its header of 64 B and its payload (R78, log entry 82). -/
def vcTurn (w : W) (lp : Lp) (q : List (Nat × Packet)) (p : Nat) (d : Tbl Nat) : Option (Nat × Tbl Nat) :=
  let vcs := weighted (vcWeight w p) ((List.range 5).map (· + 1) |>.filter (fun v => (firstOf q p v).isSome))
  drr 4096 ((rotateAfter (tget lp.lastVc p 1) vcs).map (fun v =>
    (v, 6 * p + v, max 1 (vcWeight w p v) * 512, ((firstOf q p v).map (fun k => 64 + k.payload.length)).getD 0))) d

/-- The packet a partition would begin. -/
def turnOf (w : W) (lp : Lp) (q : List (Nat × Packet)) (p : Nat) : Option Packet :=
  (vcTurn w lp q p lp.deficit).bind (fun x => firstOf q p x.1)

/-- The next packet a port begins, with its partition: VC0 first, then partitions, then VCs; a partition is charged with the packet
that its VCs' round-robin chooses (R78). -/
def nextPacket (port : Nat) (w : W) : Option (Nat × Packet × W) :=
  let lp := getLp w port
  let q := lp.queue.filter (fun x =>
    !vcOff w port x.2.hdr.vc.toNat && canSend w x.2.hdr.vc.toNat x.2.hdr.opcode.toNat && !behind w x.2.hdr && sealable w port x.2)
  match q.find? (fun x => x.2.hdr.vc == 0) with
  | some x => some (x.1, x.2, w)
  | none =>
    let parts := weighted (partWeight w) (q.foldl (fun l x => insertNat l x.1) [])
    let pc := (rotateAfter lp.lastPart parts).map (fun p =>
      (p, 6 * p, max 1 (partWeight w p) * 4096, ((turnOf w lp q p).map (fun k => 64 + k.payload.length)).getD 0))
    match drr 4096 pc lp.deficit with
    | none => none
    | some (p, d1) =>
      match vcTurn w lp q p d1 with
      | none => none
      | some (v, d2) => (firstOf q p v).map (fun k =>
          (p, k, modLp port (fun l => { l with deficit := d2, lastPart := p, lastVc := tset l.lastVc p v }) w))

/-- Remove the first packet equal to one from a queue. -/
def removeFirst (p : Nat) (pk : Packet) : List (Nat × Packet) → List (Nat × Packet)
  | [] => []
  | x :: t => if x.1 == p && x.2 == pk then t else x :: removeFirst p pk t

/-- Begin every packet a port may begin, at most n of them. -/
def drainPort (port : Nat) : Nat → W → W
  | 0, w => w
  | n + 1, w =>
    match nextPacket port w with
    | none => w
    | some (p, pk, w) =>
      match beginPacket port pk w with
      | (true, w) => drainPort port n (modLp port (fun l => { l with queue := removeFirst p pk l.queue }) w)
      | (false, _) => w

/-! ### Streams and packets -/

/-- The next sequence number of a stream, which is then advanced (R81). -/
def takeSeq (dest : Nat) (mcast : Bool) (vc : Nat) (w : W) : Nat × W :=
  let is := fun (s : TxStream) => s.dest == dest && s.mcast == mcast && s.vc == vc
  match w.b.lnk.txStreams.find? is with
  | some s => (s.next, { w with b.lnk.txStreams := mapIf is (fun s => { s with next := (s.next + 1) % 2 ^ 24 }) w.b.lnk.txStreams })
  | none => (0, { w with b.lnk.txStreams := w.b.lnk.txStreams ++ [{ dest := dest, mcast := mcast, vc := vc, next := 1 }] })

/-- The sequence number of the last packet sent on a stream. -/
def lastSeq (w : W) (dest : Nat) (mcast : Bool) (vc : Nat) : Option Nat :=
  (w.b.lnk.txStreams.find? (fun s => s.dest == dest && s.mcast == mcast && s.vc == vc)).map
    (fun s => (s.next + 2 ^ 24 - 1) % 2 ^ 24)

/-- What a packet is made of beside its stream. -/
structure Form where
  vc : Nat
  op : Nat
  dgn : Nat := 0xFFFF
  srcM : Nat := 0
  dstM : Nat := 0
  sealed_ : Bool := false
  raddr : Nat := 0
  part : Nat := 0
  payload : Bytes

/-- Form a packet toward a coordinate: sequence number, or NOSEQ toward a coordinate that is no peer (R71, R88). -/
def formPacket (c : Coord) (f : Form) (w : W) : Packet × Option Nat × W :=
  let peer := isPeer w c
  let (seq, w) := if peer then takeSeq c.toNat false f.vc w else (0, w)
  ({ hdr := { dest := c, src := w.b.lnk.coord, vc := BitVec.ofNat 8 f.vc, opcode := BitVec.ofNat 8 f.op
              group := BitVec.ofNat 16 f.dgn, length := BitVec.ofNat 16 f.payload.length
              member := BitVec.ofNat 8 (f.srcM + 16 * f.dstM)
              flags := BitVec.ofNat 8 (b2n f.sealed_ + if peer then 0 else 4)
              raddr := BitVec.ofNat 64 f.raddr, seq := BitVec.ofNat 24 seq }
     payload := f.payload }, if peer then some seq else none, w)

/-- Send a packet to a coordinate; answers its sequence number. -/
def sendTo (c : Coord) (f : Form) (w : W) : Option Nat × W :=
  let (pk, seq, w) := formPacket c f w
  (seq, transmit (portTo w c) f.part pk w)

/-- Send a DELTA to a multicast ID (R89); it takes the first working port (log entry 23). -/
def sendMcast (mid : Nat) (f : Form) (w : W) : Nat × W :=
  let (seq, w) := takeSeq mid true f.vc w
  let pk : Packet :=
    { hdr := { dest := BitVec.ofNat 32 mid, src := w.b.lnk.coord, vc := BitVec.ofNat 8 f.vc, opcode := BitVec.ofNat 8 f.op
               group := BitVec.ofNat 16 f.dgn, length := BitVec.ofNat 16 f.payload.length
               member := BitVec.ofNat 8 f.srcM, flags := BitVec.ofNat 8 (b2n f.sealed_ + 2)
               raddr := BitVec.ofNat 64 f.raddr, seq := BitVec.ofNat 24 seq }
      payload := f.payload }
  (seq, transmit (workingPort w 0) f.part pk w)

/-- Send a VC0 message with a fresh identifier at payload offset 0 and keep it until it is acknowledged (R85). -/
def sendMsg (c : Coord) (why : Vc0For) (f : Form) (w : W) : Option Nat × W :=
  let id := w.b.lnk.nextMsg
  let f := { f with payload := toLe 8 id ++ f.payload }
  let (pk, seq, w) := formPacket c f w
  let w := { w with b.lnk.nextMsg := id + 1
                    b.lnk.vc0 := w.b.lnk.vc0 ++ [{ msgid := id, dest := c, part := f.part, pk := pk, why := why }] }
  (seq, transmit (portTo w c) f.part pk w)

/-- Answer a VC0 message with ACK: its identifier and opcode, sealed when it was (R85, R186). -/
def sendAck (h : Hdr) (msgid : Nat) (w : W) : W :=
  (sendTo h.src { vc := 0, op := 0x06, dgn := h.group.toNat, srcM := h.member.toNat / 16, dstM := h.member.toNat % 16
                  sealed_ := h.flags.getLsbD 0, payload := toLe 8 msgid ++ [h.opcode] } w).2

/-- A form of packet that serves a group (R71, R79, R86). -/
def grpForm (g : Group) (vc op dstM : Nat) (sealed_ : Bool) (payload : Bytes) : Form :=
  { vc := vc, op := op, dgn := g.dgn, srcM := g.self, dstM := dstM, sealed_ := sealed_ || g.sealReq, part := g.part
    payload := payload }

/-- Send a message to one member of a group. -/
def msgMember (g : Group) (m : Nat) (op : Nat) (sealed_ : Bool) (why : Vc0For) (payload : Bytes) (w : W) : Option Nat × W :=
  sendMsg (slotAt g m).coord why (grpForm g 0 op m sealed_ payload) w

/-- Send a message to several members of a group. -/
def msgMembers (g : Group) (ms : List Nat) (op : Nat) (payload : Nat → Bytes) (w : W) : W :=
  ms.foldl (fun w m => (msgMember g m op false .other (payload m) w).2) w

/-- Was a message of a source acted on before? It is noted as acted on (R85). -/
def firstCopy (src : Coord) (msgid : Nat) (w : W) : Bool × W :=
  if w.b.lnk.acted.contains (src, msgid) then (false, w)
  else (true, { w with b.lnk.acted := (src, msgid) :: w.b.lnk.acted })

end Sys2Proof.Machine
end

