-- ==== Sys2Proof/Machine/Units.lean ====
section
/-! DEFINITION. Deltas and commit units at their source: routing, packing, the open packets and the send queue of a PDE,
PREPARE and APPLY, and the commit maps (R157 to R176). -/

namespace Sys2Proof.Machine

/-- GRP_DPERR (R189). -/
def dpErrVal (w : W) : Nat := w.b.dpErr.toNat ||| b2n w.b.pressure.active <<< 6

/-- Set a bit of GRP_DPERR with its event (R189, R453). -/
def setDpErr (bitNo inst idx : Nat) (w : W) : W :=
  let w := { w with b.dpErr := w.b.dpErr ||| BitVec.ofNat 9 (1 <<< bitNo) }
  logEv (0x0480 + bitNo) 2 inst 0 [dpErrVal w, idx] w

/-- A context's open Watch number, or 0 (R166). -/
def openWatch (w : W) (x : Nat) : Nat := let k := getWatch w x; if k.phase == .idle then 0 else k.w

/-! ### Units -/

def unitIs (g : Nat) (u : BitVec 64) (x : CUnit) : Bool := x.g == g && x.unit == u
def findUnit (w : W) (g : Nat) (u : BitVec 64) : Option CUnit := w.b.units.find? (unitIs g u)
def modUnit (g : Nat) (u : BitVec 64) (f : CUnit → CUnit) (w : W) : W :=
  { w with b.units := mapIf (unitIs g u) f w.b.units }

/-- What a unit is about, given when it opens. -/
structure UnitOf where
  origin : Nat
  kind : Nat
  region : Nat
  index : Nat
  watch : Nat
  cmd : Option CmdId := none
  set_ : Option (CmdId × Nat) := none
  run : Nat := 0
  runFirst : Nat := 0
  runCount : Nat := 0
  /-- group and SEPOCH where they differ from the region's (Restripe) -/
  grp : Option (Nat × Nat) := none

/-- Open a unit: the next serial of its origin and group (R158). -/
def openUnit (o : UnitOf) (w : W) : BitVec 64 × W :=
  let r := getRgn w o.region
  let g := (o.grp.map (·.1)).getD (r.grp.getD 0)
  let gr := getGrp w g
  let n := tget gr.serials o.origin 0
  let u := BitVec.ofNat 64 (o.origin <<< 56 ||| n)
  let x : CUnit := { g := g, unit := u, kind := o.kind, region := o.region, base := r.base
                     sepoch := (o.grp.map (·.2)).getD r.sepoch, watch := o.watch, index := o.index, run := o.run
                     runFirst := o.runFirst, runCount := o.runCount, ctx := r.ctx, cmd := o.cmd, set := o.set_ }
  (u, { setGrp g { gr with serials := tset gr.serials o.origin (n + 1) } w with b.units := w.b.units ++ [x] })

/-! ### DELTA packets (R162 to R164) -/

/-- The mask of the non-zero bytes of a delta line (R163). -/
def lineMask (l : Bytes) : Nat := ((List.range 64).zip l).foldl (fun (m : Nat) (x : Nat × Byte) => if x.2 = 0 then m else m ||| 1 <<< x.1) 0

/-- A packed line: mask and non-zero bytes. -/
def packLine (l : Bytes) : Bytes := toLe 8 (lineMask l) ++ l.filter (fun x => x != 0)

/-- An episode of pressure begins (R185). -/
def beginPressure (w : W) : W :=
  if w.b.pressure.active then w else { w with b.pressure := { active := true, startNs := w.b.crp.tCore } }

/-- Sizes of a packet's lines, dense and packed. -/
def denseSize (ls : List (Nat × Bytes)) : Nat := 64 * ls.length
def packedSize (ls : List (Nat × Bytes)) : Nat := ls.foldl (fun n l => n + (packLine l.2).length) 0

/-- The payload of a DELTA packet of lines by their index in the fragment (R163). -/
def deltaPayload (u : BitVec 64) (sepoch : Nat) (ls : List (Nat × Bytes)) : Bytes :=
  let first := ((ls.head?).map (·.1)).getD 0
  let map := ls.foldl (fun m l => m ||| 1 <<< (l.1 - first)) 0
  let packed := decide (packedSize ls < denseSize ls)
  toLe 8 u.toNat ++ toLe 8 map ++ toLe 1 (b2n packed) ++ toLe 1 sepoch ++ zeros 14
    ++ ls.flatMap (fun l => if packed then packLine l.2 else l.2)

/-- Payload bytes of a packet in the mode it would take. -/
def pktBytes (ls : List (Nat × Bytes)) : Nat := 32 + min (packedSize ls) (denseSize ls)

/-- Is the unit's traffic sealed (R186)? -/
def unitSealed (w : W) (x : CUnit) : Bool := (getRgn w x.region).isSealed || (getGrp w x.g).sealReq

/-- DELTA packets toward a member of a group whose units have not completed (R182). -/
def outstandingTo (w : W) (g m : Nat) : Nat :=
  w.b.units.foldl (fun n x => if x.g == g && !x.complete then n + tget x.pkts m 0 else n) 0

/-- The members a packet goes to: its destination, or the holders of its multicast ID (R90). -/
def pktMembers (g : Group) (o : OpenPkt) : List Nat :=
  match o.dest with
  | some d => [d]
  | none => (List.range g.m).map (fun p => holderOf g.n (o.mcast - g.mcast) p)

/-- May a closed packet go to its link port: VC1 not off, nothing of its stream ahead, and the limit of R182? -/
def mayHandOn (w : W) (o : OpenPkt) : Bool :=
  let g := getGrp w o.g
  let port := match o.dest with | some d => portTo w (slotAt g d).coord | none => workingPort w 0
  !vcOff w port 1 && (pktMembers g o).all (fun m => decide (outstandingTo w o.g m < 1024))

/-- Hand a closed packet to its link port: the packet takes its sequence number and is counted for its unit. -/
def handOn (p : Nat) (o : OpenPkt) (w : W) : W :=
  match findUnit w o.g o.unit with
  | none => w
  | some x =>
    let g := getGrp w o.g
    let first := ((o.lines.head?).map (·.1)).getD 0
    let f : Form := { grpForm g 1 0x10 (o.dest.getD 0) (unitSealed w x) (deltaPayload o.unit x.sepoch o.lines) with
                      raddr := o.frag + 64 * first }
    let ms := pktMembers g o
    let bump := fun (x : CUnit) =>
      { x with nlines := ms.foldl (fun t m => tadd t m o.lines.length) x.nlines
               pkts := ms.foldl (fun t m => tadd t m 1) x.pkts }
    let w := cntMp p 0x40 1 w
    match o.dest with
    | some d =>
      let (seq, w) := sendTo (slotAt g d).coord f w
      modUnit o.g o.unit (fun x => { bump x with seqP := tset x.seqP d (seq.getD 0) }) w
    | none =>
      let (seq, w) := sendMcast o.mcast f w
      modUnit o.g o.unit (fun x => { bump x with seqM := tset x.seqM o.mcast seq }) w

/-- Bytes in the PDE send queue (R192). -/
def sqBytes (s : Slice) : Nat := s.sendQ.foldl (fun n o => n + pktBytes o.lines) 0

/-- Bytes of the open packets of a PDE, for which its send queue keeps room. -/
def openBytes (s : Slice) : Nat := s.openPkts.foldl (fun n o => n + pktBytes o.lines) 0

/-- Has the send queue room for a delta line toward n destinations: at most a descriptor and a dense line each (R184)? -/
def sqRoom (s : Slice) (n : Nat) : Bool := s.backlog.isEmpty && decide (sqBytes s + openBytes s + 96 * n ≤ 65536)

/-- The send queue is full: the PDE accepts no delta, which may go to four holders in two geometries (R184, R352). -/
def sqFull (s : Slice) : Bool := !sqRoom s 8

/-- Close an open packet: to its link port, or behind the packets of its stream in the send queue (R164, R184). -/
def closePkt (p : Nat) (o : OpenPkt) (w : W) : W :=
  let w := modSlice p (fun s => { s with openPkts := s.openPkts.filter (fun x => x.id != o.id) }) w
  let behind := (getSlice w p).sendQ.any (fun x => x.dest == o.dest && x.g == o.g && x.mcast == o.mcast)
  if behind || !mayHandOn w o then modSlice p (fun s => { s with sendQ := s.sendQ ++ [o] }) w else handOn p o w

/-- May a line join an open packet (R164)? -/
def fitsPkt (o : OpenPkt) (line : Nat) (d : Bytes) : Bool :=
  let first := ((o.lines.head?).map (·.1)).getD line
  let last := ((o.lines.getLast?).map (·.1))
  (match last with | some l => decide (l < line) | none => true) && decide (line < first + 64)
    && decide (pktBytes (o.lines ++ [(line, d)]) ≤ 4096)

/-- Put one delta line into the packet of its unit, fragment and destination (R164). -/
def joinPkt (p : Nat) (x : DeltaWait) (w : W) : W :=
  let is := fun (o : OpenPkt) => o.g == x.g && o.unit == x.unit && o.frag == x.frag && o.dest == x.dest && o.mcast == x.mcast
  let w := match (getSlice w p).openPkts.find? is with
    | some o => if fitsPkt o x.line x.data then w else closePkt p o w
    | none => w
  match (getSlice w p).openPkts.find? is with
  | some o => modSlice p (fun s => { s with openPkts := mapIf (fun y => y.id == o.id)
                                                          (fun y => { y with lines := y.lines ++ [(x.line, x.data)] }) s.openPkts }) w
  | none =>
    let s := getSlice w p
    let w := if s.openPkts.length ≥ 32 then (match s.openPkts.head? with | some o => closePkt p o w | none => w) else w
    modSlice p (fun s => { s with nextPkt := s.nextPkt + 1
                                  openPkts := s.openPkts ++ [{ id := s.nextPkt, g := x.g, unit := x.unit, frag := x.frag
                                                               dest := x.dest, mcast := x.mcast, lines := [(x.line, x.data)] }] }) w

/-- A delta line reaches the PDE: it joins its packet, or waits for acceptance while the send queue has no room, which is
pressure (R184, R185). -/
def addToPkt (p : Nat) (x : DeltaWait) (w : W) : W :=
  if sqRoom (getSlice w p) 1 then
    let w := joinPkt p x w
    if sqFull (getSlice w p) then beginPressure w else w
  else beginPressure (modSlice p (fun s => { s with backlog := s.backlog ++ [x] }) w)

/-- The packets of a closed unit on a slice close once the PDE has accepted all its deltas (R164). -/
def closeUnitOn (p g : Nat) (u : BitVec 64) (w : W) : W :=
  if (getSlice w p).backlog.any (fun x => x.g == g && x.unit == u) then w
  else ((getSlice w p).openPkts.filter (fun o => o.g == g && o.unit == u)).foldl (fun w o => closePkt p o w) w

/-- The PDE accepts waiting deltas as far as its send queue has room (R184). -/
def acceptDeltas (p : Nat) : Nat → W → W
  | 0, w => w
  | n + 1, w =>
    match (getSlice w p).backlog with
    | [] => w
    | x :: t =>
      let s := { getSlice w p with backlog := [] }
      if sqRoom s 1 then
        let w := joinPkt p x (modSlice p (fun s => { s with backlog := t }) w)
        let shut := ((findUnit w x.g x.unit).map (·.closed)).getD false
        acceptDeltas p n (if shut then closeUnitOn p x.g x.unit w else w)
      else w

/-- Hand on what the send queue of a PDE may hand on, in order; the room it leaves takes deltas that wait (R184). -/
def drainSendQ (p : Nat) (w : W) : W :=
  let q := (getSlice w p).sendQ
  let go := q.foldl (fun (acc : List OpenPkt × W) o =>
    let blocked := acc.1.any (fun x => x.dest == o.dest && x.g == o.g && x.mcast == o.mcast)
    if blocked || !mayHandOn acc.2 o then (acc.1 ++ [o], acc.2) else (acc.1, handOn p o acc.2)) ([], w)
  let w := modSlice p (fun s => { s with sendQ := go.1 }) go.2
  acceptDeltas p (getSlice w p).backlog.length w

/-- Drain every send queue. -/
def drainAll (w : W) : W :=
  (List.range 32).foldl (fun w p =>
    let s := getSlice w p
    if s.sendQ.isEmpty && s.backlog.isEmpty then w else drainSendQ p w) w

/-- Hand a delta of a unit to the PDE of port p: the stripe line and partner base it falls in, and the line within the
fragment; to each live holder, or once to the multicast ID (R89, R161, R162). -/
def routeDelta (p g : Nat) (u : BitVec 64) (partnerBase fs s line : Nat) (d : Bytes) (w : W) : W :=
  if d.all (fun x => x == 0) then w
  else
    let gr := getGrp w g
    let w := cntMp p 0x38 1 (modUnit g u (fun x => { x with lines := x.lines + 1 }) w)
    if w.b.lnk.mcastEn && gr.mcast != 0 then
      addToPkt p { g := g, unit := u, frag := partnerBase + parityFrag gr.n gr.m s 0 * fs, dest := none
                   mcast := gr.mcast + s % gr.n, line := line, data := d } w
    else
      (List.range gr.m).foldl (fun w q =>
        let h := holderOf gr.n s q
        if h == gr.self || slotOut (slotAt gr h).state then w
        else addToPkt p { g := g, unit := u, frag := partnerBase + parityFrag gr.n gr.m s q * fs, dest := some h
                          mcast := 0, line := line, data := d } w) w

/-- Hand the delta of a line of a region, in the geometry of a view, to the PDE of its port (R162, R360). -/
def handDeltaV (v : Region) (g : Nat) (u : BitVec 64) (addr : Nat) (d : Bytes) (w : W) : W :=
  let gr := getGrp w g
  let (s, _, line) := stripeOf gr v gr.self (addr - v.base)
  routeDelta (pathOf w (portOf w.build addr)) g u (partnerOf w v).base (fragSize v.frag) s line d w

/-- Hand the delta of a line of a region to the PDE of its port (R162). -/
def handDelta (g : Nat) (u : BitVec 64) (ri addr : Nat) (d : Bytes) (w : W) : W :=
  handDeltaV (getRgn w ri) g u addr d w

/-- The packets of a unit are closed (R164: the unit closes). -/
def closeUnitPkts (g : Nat) (u : BitVec 64) (w : W) : W := (List.range 32).foldl (fun w p => closeUnitOn p g u w) w

/-- Close a unit. -/
def closeUnit (g : Nat) (u : BitVec 64) (w : W) : W :=
  closeUnitPkts g u (modUnit g u (fun x => { x with closed := true })
    { w with b.slices := w.b.slices.map (fun s => (s.1, { s.2 with hostUnits := s.2.hostUnits.filter (fun h => h != (g, u)) })) })

/-- Does a PDE still hold deltas of a unit? -/
def unitInPde (w : W) (g : Nat) (u : BitVec 64) : Bool :=
  w.b.slices.any (fun s => (s.2.openPkts ++ s.2.sendQ).any (fun o => o.g == g && o.unit == u)
    || s.2.backlog.any (fun x => x.g == g && x.unit == u))

/-! ### HOST units (R160) -/

/-- The open HOST unit of a PDE for a region's 64 KiB block, in the group of a view, and an owner (a command, or none for
host writes); opened when there is none, the earliest of 8 being closed first. -/
def hostUnit (v : Region) (p ri addr : Nat) (cmd : Option CmdId) (w : W) : (Nat × BitVec 64) × W :=
  let gi := v.grp.getD 0
  let block := (addr - v.base) / 65536
  let same := fun (h : Nat × BitVec 64) =>
    match findUnit w h.1 h.2 with
    | some x => x.g == gi && x.region == ri && x.index == block && x.cmd == cmd && !x.closed
    | none => false
  match (getSlice w p).hostUnits.find? same with
  | some h => (h, w)
  | none =>
    let s := getSlice w p
    let w := if s.hostUnits.length ≥ 8 then (match s.hostUnits.head? with | some h => closeUnit h.1 h.2 w | none => w) else w
    let (u, w) := openUnit { origin := 0x40 + p, kind := 1, region := ri, index := block, watch := openWatch w v.ctx
                             cmd := cmd, grp := some (gi, v.sepoch) } w
    let h := (gi, u)
    (h, modSlice p (fun s => { s with hostUnits := s.hostUnits ++ [h] }) w)

/-- A delta of a HOST unit toward the group of a view; the unit closes at 256 lines (R160). A zero delta is not handed on
(R47, R161). Answers the unit the line belongs to. -/
def hostDelta (v : Region) (ri addr : Nat) (cmd : Option CmdId) (d : Bytes) (w : W) : Option (Nat × BitVec 64) × W :=
  if d.all (fun x => x == 0) then (none, w)
  else
    let p := pathOf w (portOf w.build addr)
    let (h, w) := hostUnit v p ri addr cmd w
    let w := handDeltaV v h.1 h.2 addr d w
    let w := match findUnit w h.1 h.2 with
      | some x => if x.lines ≥ 256 then closeUnit h.1 h.2 w else w
      | none => w
    (some h, w)

/-- Close the open HOST units of a slice that a test picks out. -/
def closeHostUnits (p : Nat) (test : CUnit → Bool) (w : W) : W :=
  ((getSlice w p).hostUnits).foldl (fun w h =>
    match findUnit w h.1 h.2 with
    | some x => if test x then closeUnit h.1 h.2 w else w
    | none => w) w

/-! ### Commit maps (R174 to R176) -/

/-- Slide the window past every consecutive applied chunk. -/
def slideMap : Nat → MapEntry → MapEntry
  | 0, e => e
  | n + 1, e => if e.win.getLsbD 0 then slideMap n { e with low := e.low + 1, win := e.win >>> 1 } else e

/-- Record an applied chunk in an entry. -/
def markChunk (c : Nat) (e : MapEntry) : MapEntry :=
  if c < e.low then e else slideMap 128 { e with win := e.win ||| (1#128 <<< (c - e.low)) }

/-- The context whose instance is open on a Watch domain (R197). -/
def openOn (w : W) (wdom : Nat) : Option Nat :=
  (w.b.ctxs.find? (fun e => e.2.watch.phase != .idle && e.2.watch.wdom == wdom)).map (·.1)

/-- Record an applied CHUNK unit in the commit map; with no entry free, MAP_FULL, and the instance open on the group's
domain is NO_ROLLFORWARD for the group (R174, R176). -/
def recordApplied (g src base watch run first count chunk : Nat) (w : W) : W :=
  let is := fun (e : MapEntry) => e.src == src && e.g == g && e.base == base && e.watch == watch && e.run == run
  if w.b.maps.any is then { w with b.maps := mapIf is (markChunk chunk) w.b.maps }
  else if w.b.maps.length < 4096 then
    { w with b.maps := w.b.maps ++ [markChunk chunk { src := src, g := g, base := base, watch := watch, run := run
                                                      first := first, count := count, low := first, win := 0 }] }
  else
    let w := setDpErr 5 g chunk w
    match openOn w (getGrp w g).wdom with
    | some x => modWatch x (fun k => { k with noRollGroups := insertNat k.noRollGroups g, mapFull := true }) w
    | none => w

/-- Has a chunk been applied, by the map's entry of its key? -/
def chunkApplied (w : W) (g src base watch run chunk : Nat) : Bool :=
  w.b.maps.any (fun e => e.src == src && e.g == g && e.base == base && e.watch == watch && e.run == run &&
    (decide (chunk < e.low) || (decide (chunk < e.low + 128) && e.win.getLsbD (chunk - e.low))))

/-! ### PREPARE and APPLY at the source (R166 to R171, R281) -/

/-- A SEQ field (R166). -/
def seqField : Option Nat → Bytes
  | some n => toLe 4 (n % 2 ^ 24 + 2 ^ 31)
  | none => toLe 4 0

/-- The SEQ fields of a PREPARE to member h (R166). -/
def prepSeqs (gr : Group) (x : CUnit) (h : Nat) : Bytes :=
  seqField (tfind x.seqP h) ++
    (List.range 4).flatMap (fun p =>
      if p < gr.m && gr.mcast != 0 then seqField (tfind x.seqM (gr.mcast + subMod h p gr.n)) else toLe 4 0)

/-- The COMMIT payload behind its MSGID (R166). -/
def commitPayload (gr : Group) (x : CUnit) (stage h : Nat) : Bytes :=
  toLe 8 x.unit.toNat ++ toLe 1 stage ++ toLe 1 x.kind ++ toLe 1 x.sepoch ++ zeros 1
    ++ toLe 4 (if stage = 0 then tget x.nlines h 0 else 0) ++ toLe 8 x.base ++ toLe 8 x.watch ++ toLe 8 x.index
    ++ toLe 2 x.run ++ zeros 6 ++ toLe 8 x.runFirst ++ toLe 8 x.runCount
    ++ (if stage = 0 then prepSeqs gr x h else zeros 20) ++ zeros 4

/-- Send a COMMIT of a stage to a member, noting the VC0 number for the streams of the region (R152). -/
def sendCommit (x : CUnit) (stage m : Nat) (w : W) : W :=
  let gr := getGrp w x.g
  let why := if stage = 0 then Vc0For.prepare x.g x.unit m else Vc0For.apply x.g x.unit m
  let (seq, w) := msgMember gr m 0x03 (unitSealed w x) why (commitPayload gr x stage m) w
  let p := x.unit.toNat >>> 56
  let w := if 0x40 ≤ p && p < 0x60 then cntMp (p - 0x40) (if stage = 0 then 0x48 else 0x50) 1 w else w
  match seq with
  | some n => { w with b.streams := mapIf (fun s => s.region == x.region && s.g == x.g && decide (2 ≤ x.kind))
                                      (fun s => { s with commits := tset s.commits m n }) w.b.streams }
  | none => w

/-- The units of a unit's set: itself, and the units that share its chunk (R280). -/
def unitSetOf (w : W) (x : CUnit) : List CUnit :=
  match x.set with
  | none => [x]
  | some k => w.b.units.filter (fun y => y.set == some k)

/-- Is every member of the wait set heard for a stage? -/
def acked (wait got : List Nat) : Bool := wait.all (fun m => got.contains m)

/-- A CHUNK unit that commits in an open instance of its context counts in CHUNKS (R213). -/
def countChunk (y : CUnit) (w : W) : W :=
  modWatch y.ctx (fun k => if k.phase != .idle && k.w == y.watch then { k with chunks := k.chunks + 1 } else k) w

/-- Once every unit of the set is prepared and acknowledged, APPLY goes to each wait set, and the source records its own
CHUNK unit (R169, R174, R281). -/
def tryApply (g : Nat) (u : BitVec 64) (w : W) : W :=
  match findUnit w g u with
  | none => w
  | some x =>
    let set_ := unitSetOf w x
    if set_.all (fun y => y.prepared && acked y.waitSet y.ackP) && !x.applySent then
      set_.foldl (fun w y =>
        if y.applySent then w
        else
          let w := modUnit y.g y.unit (fun y => { y with applySent := true }) w
          let w := y.waitSet.foldl (fun w m => sendCommit y 1 m w) w
          if y.kind = 0 then
            recordApplied y.g (getGrp w y.g).self y.base y.watch y.run y.runFirst y.runCount y.index (countChunk y w)
          else w) w
    else w

/-- A unit whose wait set has acknowledged APPLY is complete (R171); the packets toward its holders no longer count, so
the send queues may go on (R182). -/
def tryComplete (g : Nat) (u : BitVec 64) (w : W) : W :=
  match findUnit w g u with
  | none => w
  | some x =>
    if x.applySent && acked x.waitSet x.ackA && !x.complete then
      drainAll (cntGlb 0x20 1 (modUnit g u (fun x => { x with complete := true }) w))
    else w

/-- APPLY and completion as far as the acknowledgements allow, for every unit of a group. -/
def advanceUnits (g : Nat) (w : W) : W :=
  let us := (w.b.units.filter (fun x => x.g == g && !x.complete)).map (·.unit)
  let w := us.foldl (fun w u => tryApply g u w) w
  us.foldl (fun w u => tryComplete g u w) w

/-- Send PREPARE of a closed unit whose deltas have all left, fixing its wait set (R167); nothing otherwise. -/
def tryPrepare (g : Nat) (u : BitVec 64) (w : W) : W :=
  match findUnit w g u with
  | none => w
  | some x =>
    if x.closed && !x.prepared && !unitInPde w g u then
      let ws := liveOthers (getGrp w g)
      let w := modUnit g u (fun x => { x with prepared := true, waitSet := ws }) w
      let w := ws.foldl (fun w m => sendCommit x 0 m w) w
      tryComplete g u (tryApply g u w)
    else w

/-- Is every unit of a list complete, or gone? -/
def unitsDone (w : W) (l : List (Nat × BitVec 64)) : Bool :=
  l.all (fun h => match findUnit w h.1 h.2 with | some x => x.complete | none => true)

end Sys2Proof.Machine
end

