-- ==== Sys2Proof/Machine/Receive.lean ====
section
/-! DEFINITION. Receiving: the layouts of VC0 payloads and the six receive checks (R71 to R90, R166, R200, R326, R390). -/

namespace Sys2Proof.Machine

/-! ### Payload layouts of VC0 opcodes (check 1) -/

/-- Body bytes of a FORM message by KIND, given COUNT (R326). -/
def formBody : Nat → Nat → Option Nat
  | 0, _ => some 80 | 1, _ => some 56 | 2, _ => some 4 | 3, _ => some 0
  | 4, n => if n ≤ 500 then some (8 * n) else none
  | 5, n => if n ≤ 500 then some (8 * n) else none
  | 6, _ => some 0 | 7, _ => some 80 | 8, _ => some 16 | 9, _ => some 0 | 10, _ => some 0 | 11, _ => some 8
  | 12, _ => some 0 | 13, _ => some 16 | 14, _ => some 0 | _, _ => none

/-- The group body of a JOIN or ADOPT: the reserved bits of FLAGS and the reserved bytes are 0 (R135, R327). -/
def bodyOk (p : Bytes) : Bool := decide (fld p (32 + 3) 1 < 2) && zeroAt p (32 + 10) 6

/-- The codes of a DESC: KIND, FRAG, CHUNK and ELEM hold no reserved encoding, and the reserved byte is 0 (R145, R146, R326). -/
def descOk (p : Bytes) : Bool :=
  decide (fld p (32 + 12) 1 ≤ 9) && decide (fld p (32 + 13) 1 ≤ 3) && decide (fld p (32 + 14) 1 ≤ 4) && decide (fld p (32 + 15) 1 ≤ 3)
    && zeroAt p (32 + 35) 1

/-- The layout of a FORM message (R326, R327). -/
def formOk (p : Bytes) : Bool :=
  let kind := fld p 8 1
  match formBody kind (fld p 0x18 4) with
  | none => false
  | some n =>
    decide (32 + n ≤ p.length) && decide (fld p 9 1 < 16) && zeroAt p 0x1E 2
      && (match kind with
          | 0 => decide (fld p 0xA 1 ≤ 1) && bodyOk p
          | 1 => zeroAt p 0xA 1 && descOk p
          | 3 => decide (fld p 0xA 1 ≤ 4)
          | 4 => decide (fld p 0xA 1 ≤ 1)
          | 5 => decide (fld p 0xA 1 ≤ 1)
          | 7 => zeroAt p 0xA 1 && bodyOk p
          | 10 => decide (fld p 0xA 1 ≤ 3)
          | 14 => decide (fld p 0xA 1 ≤ 3)
          | _ => zeroAt p 0xA 1)

/-- The layout of a COMMIT (R158, R166). -/
def commitOk (p : Bytes) : Bool :=
  decide (96 ≤ p.length) && decide (fld p 0xF 1 ≤ 0x68) && decide (fld p 0x10 1 ≤ 1) && decide (fld p 0x11 1 ≤ 4)
    && zeroAt p 0x13 1 && zeroAt p 0x1E 2 && zeroAt p 0x26 2 && zeroAt p 0x2D 3 && zeroAt p 0x32 6 && zeroAt p 0x3D 3
    && zeroAt p 0x45 3 && zeroAt p 0x5C 4

/-- The layout of a round or notice packet (R200): POLL knows KIND 0 only. -/
def roundOk (op : Nat) (p : Bytes) : Bool :=
  decide (64 ≤ p.length) && decide (fld p 0xF 1 ≤ if op = 4 then 0 else 3) && zeroAt p 0x13 5 && zeroAt p 0x28 24

/-- The layout of the payload of a VC0 opcode. -/
def payloadOk (op : Nat) (p : Bytes) : Bool :=
  match op with
  | 0x01 => decide (64 ≤ p.length) && zeroAt p 1 3 && zeroAt p 0x20 32
  | 0x02 => formOk p
  | 0x03 => commitOk p
  | 0x04 => roundOk 4 p
  | 0x05 => roundOk 5 p
  | 0x06 => decide (9 ≤ p.length)
  | 0x07 => decide (144 ≤ p.length) && decide (fld p 8 1 < 16) && zeroAt p 9 1 && decide (fld p 0xA 2 < 4096) && zeroAt p 0xC 4
  | 0x08 => decide (72 ≤ p.length)
  | _ => true

/-- The VC of an opcode (R72). -/
def vcOfOpcode : Nat → Option Nat
  | 0x01 => some 0 | 0x02 => some 0 | 0x03 => some 0 | 0x04 => some 0 | 0x05 => some 0 | 0x06 => some 0
  | 0x07 => some 0 | 0x08 => some 0 | 0x10 => some 1 | 0x20 => some 2 | 0x30 => some 3 | 0x40 => some 4
  | 0x50 => some 5 | _ => none

/-- Check 1 on the header (R84). -/
def headerOk (pk : Packet) : Bool :=
  let h := pk.hdr
  decide (h.vc.toNat ≤ 5) && decide (h.flags.toNat < 8) && decide (h.raddr.toNat < 2 ^ 48) && h.rsv0 == 0 && h.rsv1 == 0
    && (!h.flags.getLsbD 1 || decide (h.dest.toNat < 65536)) && decide (h.length.toNat ≤ 4096)
    && vcOfOpcode h.opcode.toNat == some h.vc.toNat

/-! ### DELTA packets at a holder (R163) -/

/-- The lines of a PACKED packet, by their LINEMAP index. -/
def unpackLines : List Nat → Bytes → List (Nat × Bytes)
  | [], _ => []
  | j :: t, b =>
    let mask := fld b 0 8
    let idx := (List.range 64).filter (fun i => mask.testBit i)
    let vals := (b.drop 8).take idx.length
    let line := (idx.zip vals).foldl (fun (l : Bytes) iv => l.set iv.1 iv.2) (zeros 64)
    (j, line) :: unpackLines t (b.drop (8 + idx.length))

/-- The indices a LINEMAP names. -/
def mapIndices (m : Nat) : List Nat := (List.range 64).filter (fun i => m.testBit i)

/-- The delta lines of a packet by LINEMAP index; a PACKED line without marked bytes or a LINEMAP of 0 gives none. -/
def deltaLines (p : Bytes) : Option (List (Nat × Bytes)) :=
  let js := mapIndices (fld p 8 8)
  let body := p.drop 32
  if js.isEmpty then none
  else if fld p 0x10 1 = 0 then
    if 64 * js.length ≤ body.length then
      some ((List.range js.length).zip js |>.map (fun x => (x.2, bytesAt body (64 * x.1) 64)))
    else none
  else if fld p 0x10 1 = 1 then
    let ls := unpackLines js body
    if ls.all (fun l => l.2.any (fun b => b != 0)) then some ls else none
  else none

/-- The offset a holder with parity index p adds to RADDR: p fragments for a multicast packet (R162, R165). -/
def holderBase (w : W) (g : Group) (h : Hdr) : Option (Nat × Region × Nat × Nat) :=
  let ra := h.raddr.toNat
  match rgnAt w ra with
  | none => none
  | some (pi, pr) =>
    match codedOfPartner w pi with
    | none => some (ra, pr, 0, 0)
    | some (_, cr) =>
      let fs := fragSize cr.frag
      if h.flags.getLsbD 1 then
        let x := (ra - pr.base) / fs
        let s := x / g.m * g.n
        let r := subMod g.self (h.dest.toNat - g.mcast) g.n
        some (ra + r * fs, pr, fs, s)
      else some (ra, pr, fs, 0)

/-- Check 6 for a DELTA: every line lies in one PARITY region of the group, within one fragment (R84, R163). -/
def deltaTargetOk (w : W) (pk : Packet) : Bool :=
  match grpByDgn w pk.hdr.group.toNat with
  | none => false
  | some (gi, g) =>
    match holderBase w g pk.hdr, deltaLines pk.payload with
    | some (a, pr, fs, _), some ls =>
      let last := ((ls.getLast?).map (·.1)).getD 0
      pr.kind == .parity && pr.grp == some gi && zeroAt pk.payload 0x12 14
        && decide (a + 64 * last + 64 ≤ pr.base + rgnBytes pr)
        && (fs == 0 || decide ((a - pr.base) % fs + 64 * last + 64 ≤ fs))
    | _, _ => false

/-- Check 6 for REDUCE and GATHER: the range lies in one region of the kinds R72 allows, of the group named. -/
def collTargetOk (w : W) (pk : Packet) : Bool :=
  let p := pk.payload
  let state := bit (fld p 0xB 1) 3
  let form := fld p 0xC 1 % 4
  let len := if fld p 0xA 1 = 1 || form = 1 || form = 2 then 1 else max 1 (p.length - 64 - (if state then 64 else 0))
  match rgnAt w pk.hdr.raddr.toNat, grpByDgn w pk.hdr.group.toNat with
  | some (_, r), some (gi, _) =>
    (r.kind == .accum || (pk.hdr.opcode == 0x30 && (r.kind == .window || r.kind == .plain)))
      && decide (pk.hdr.raddr.toNat + len ≤ r.base + rgnBytes r) && r.grp == some gi
  | _, _ => false

/-- Check 6 (R84). -/
def targetOk (w : W) (pk : Packet) : Bool :=
  match pk.hdr.opcode.toNat with
  | 0x10 => deltaTargetOk w pk
  | 0x20 => collTargetOk w pk
  | 0x30 => collTargetOk w pk
  | _ => true

/-! ### The checks -/

/-- Does the group named by GROUP require sealing? -/
def needsSeal (w : W) (h : Hdr) : Bool :=
  match grpByDgn w h.group.toNat with
  | some (_, g) => g.sealReq
  | none => false

/-- Check 4: the sender is a live member of the group named (R84). -/
def sourceOk (w : W) (h : Hdr) : Bool :=
  if [0x01, 0x02, 0x07].contains h.opcode.toNat then true
  else match grpByDgn w h.group.toNat with
    | none => false
    | some (_, g) =>
      let s := slotAt g (h.member.toNat % 16)
      decide (h.member.toNat % 16 < g.n) && s.coord == h.src && (s.state == .alive || s.state == .suspect || s.state == .adopted)

/-- The stream a packet belongs to (R81, R88). -/
def streamIs (h : Hdr) (s : RxStream) : Bool :=
  s.vc == h.vc.toNat && s.src == h.src && s.mcast == if h.flags.getLsbD 1 then some h.dest.toNat else none

/-- How far a sequence number is ahead of the expected value; at or above 2^23 it is old (R81). -/
def seqAhead (e s : Nat) : Nat := (s + 2 ^ 24 - e) % 2 ^ 24

/-- The numbers from one to another. -/
def seqRange (e n : Nat) : List Nat := (List.range n).map (fun i => (e + i) % 2 ^ 24)

/-- Discard by a check: LNK_ERR bit and counter (R84, R447). -/
def discard (port check : Nat) (h : Hdr) (w : W) : W :=
  let bitNo := match check with | 1 => 0 | 2 => 1 | 3 => 2 | 4 => 3 | 5 => 5 | _ => 4
  setLnkErr bitNo port h.seq.toNat (cntLp port (0xC0 + 8 * (check - 1)) 1 w)

/-- Is sequencing applied to a packet: it has no NOSEQ and its source is a peer (R88)? -/
def sequenced (w : W) (h : Hdr) : Bool := !h.flags.getLsbD 2 && isPeer w h.src

/-- Accept a packet on its stream: the expected value moves on, and the numbers skipped are lost (R84, R88). -/
def acceptSeq (port : Nat) (h : Hdr) (w : W) : W :=
  if !sequenced w h then w
  else
    let s := h.seq.toNat
    let next := some ((s + 1) % 2 ^ 24)
    match w.b.lnk.rxStreams.find? (streamIs h) with
    | none =>
      { w with b.lnk.rxStreams := w.b.lnk.rxStreams ++
          [{ src := h.src, mcast := if h.flags.getLsbD 1 then some h.dest.toNat else none, vc := h.vc.toNat, exp := next }] }
    | some st =>
      match st.exp with
      | none => { w with b.lnk.rxStreams := mapIf (streamIs h) (fun x => { x with exp := next }) w.b.lnk.rxStreams }
      | some e =>
        let gap := seqAhead e s
        let w := { w with b.lnk.rxStreams := mapIf (streamIs h)
                            (fun x => { x with exp := next, lost := x.lost ++ seqRange e gap }) w.b.lnk.rxStreams }
        if gap = 0 then w else setLnkErr 6 port s (cntLp port 0xF8 gap w)

/-- Is the sequence number of a packet old (check 5)? -/
def seqOld (w : W) (h : Hdr) : Bool :=
  sequenced w h && (match (w.b.lnk.rxStreams.find? (streamIs h)).bind (·.exp) with
    | some e => decide (2 ^ 23 ≤ seqAhead e h.seq.toNat)
    | none => false)

/-- Bytes of a receive buffer that a packet takes: its beats of 512 B (R70, R74). -/
def beatBytes (pk : Packet) : Nat := 512 * max 1 ((pk.payload.length + 511) / 512)

/-- Bytes in use of the receive buffer of a VC: packets that wait there (R74, R183, R249). -/
def rxUsed (l : Lp) (vc : Nat) : Nat :=
  ((if vc = 1 then l.stalled else []) ++ l.waiting.filter (fun x => x.pk.hdr.vc.toNat == vc)).foldl (fun n x => n + beatBytes x.pk) 0

/-- lp_rx_off of a VC: raised when at most 16 KiB are free, lowered when 24 KiB are (R74). -/
def rxOffOf (l : Lp) (vc : Nat) : Bool :=
  decide (16384 ≤ rxUsed l vc) || (l.rxOff.getLsbD vc && decide (8192 < rxUsed l vc))

/-- lp_rx_off of a port: bits 7:6 high at all times (R74), all of it low where the port does not work (R360) and under the clamp of
the main reset (R77). -/
def rxOffPin (w : W) (l : Nat) : BitVec 8 :=
  if w.b.glb.mainReset || !lpWorks w l then 0 else 0xC0 ||| (getLp w l).rxOff.setWidth 8

/-- The off signals of a port follow its buffers (R74); VC1 off is pressure (R185). -/
def setOffs (port : Nat) (w : W) : W :=
  let off := fun (l : Lp) => BitVec.ofNat 6 ((List.range 6).foldl (fun (n : Nat) v => n + b2n (rxOffOf l v) <<< v) 0)
  let w := modLp port (fun l => { l with rxOff := off l }) w
  if (getLp w port).rxOff.getLsbD 1 then beginPressure w else w

/-- Has the receive buffer no room for a packet (R74)? -/
def noRoom (w : W) (rx : Rx) : Bool :=
  !rx.room || decide (32768 < rxUsed (getLp w rx.port) rx.pk.hdr.vc.toNat + beatBytes rx.pk)

/-- The bytes that wait in the Helm receive queue. -/
def helmUsed (w : W) : Nat := w.b.lnk.helmQ.foldl (fun n x => n + beatBytes x.pk) 0

/-- Does a packet wait for the Helm: a VC0 message other than a beacon, while the Helm's duties pause (R374)? -/
def forHelm (w : W) (h : Hdr) : Bool := helmPaused w && h.vc == 0 && h.opcode != 1

/-- The receive checks (R68, R74, R76, R84, R360): the packet with its plaintext payload when it passes every check. A
message for a Helm that pauses waits in the Helm receive queue, and in the link receive buffer while that is full (R374, log
entry 110). -/
def receive (rx : Rx) (w : W) : Option Packet × W :=
  let h := rx.pk.hdr
  let vc := h.vc.toNat
  let dead := !w.b.lnk.en || !lpWorks w rx.port || !(inService w || w.b.glb.state == .pass)
  if w.b.lnk.helmTake then (some rx.pk, w)
  else if dead || (forHelm w h && decide (65536 < helmUsed w + beatBytes rx.pk)) then (none, w)
  else if noRoom w rx then (none, setLnkErr 7 rx.port vc (cntLp rx.port 0xF0 1 w))
  else
    let w := if vc ≤ 5 then cntLp rx.port (0x30 + 8 * vc) (pktUnits rx.pk) (cntLp rx.port (0x90 + 8 * vc) 1 w) else w
    if w.b.glb.state == .pass && vc != 0 && decide (vc ≤ 5) then (none, w)
    else
      let crc := injHit w 5 rx.port
      let w := if crc then injFire 5 w else w
      let sealed_ := h.flags.getLsbD 0
      if !headerOk rx.pk || (vc = 0 && !sealed_ && !payloadOk h.opcode.toNat rx.pk.payload) then (none, discard rx.port 1 h w)
      else if rx.err || crc then (none, discard rx.port 2 h w)
      else
        let plain := if sealed_ then openPacket rx.pk w else some rx.pk.payload
        match plain with
        | none => (none, authFailure rx.port (discard rx.port 3 h w))
        | some p =>
          let pk : Packet := { rx.pk with payload := p }
          if !sealed_ && needsSeal w h then (none, authFailure rx.port (discard rx.port 3 h w))
          else if vc = 0 && sealed_ && !payloadOk h.opcode.toNat p then (none, discard rx.port 1 h w)
          else if !sourceOk w h then (none, discard rx.port 4 h w)
          else if seqOld w h then (none, discard rx.port 5 h w)
          else if !targetOk w pk then (none, discard rx.port 6 h w)
          else
            let w := acceptSeq rx.port h w
            if forHelm w h then (none, { w with b.lnk.helmQ := w.b.lnk.helmQ ++ [{ rx with pk := pk }] }) else (some pk, w)

/-- A packet row: the packet is checked, and acted on when it passes; a packet of another opcode or kind is not this
row's. -/
def onPacket (rx : Rx) (test : Packet → Bool) (act : Packet → W → W) (w : W) : W :=
  if !test rx.pk then w
  else match receive rx w with
    | (none, w) => w
    | (some pk, w) => act pk w

/-- The group a packet serves and its sender's index there. -/
def senderOf (w : W) (h : Hdr) : Option (Nat × Group × Nat) :=
  match grpByDgn w h.group.toNat with
  | none => none
  | some (gi, g) => some (gi, g, h.member.toNat % 16)

/-- The SEQ fields of a payload from an offset: point to point first, then by parity index (R166). -/
def seqFields (p : Bytes) (off : Nat) : List (Option Nat) :=
  (List.range 5).map (fun i =>
    let x := fld p (off + 4 * i) 4
    if x.testBit 31 then some (x % 2 ^ 24) else none)

/-- Has every packet up to a number of a stream arrived or been found lost (R83)? An unset expected value has seen
nothing. -/
def reached (w : W) (src : Coord) (mcast : Option Nat) (vc n : Nat) : Bool :=
  match (w.b.lnk.rxStreams.find? (fun s => s.src == src && s.mcast == mcast && s.vc == vc)).bind (·.exp) with
  | none => false
  | some e => decide (seqAhead e ((n + 1) % 2 ^ 24) = 0) || decide (2 ^ 23 ≤ seqAhead e ((n + 1) % 2 ^ 24))

/-- Was some packet of a stream at or before a number found lost? -/
def lostUpTo (w : W) (src : Coord) (mcast : Option Nat) (vc n : Nat) : Bool :=
  w.b.lnk.rxStreams.any (fun s => s.src == src && s.mcast == mcast && s.vc == vc &&
    s.lost.any (fun l => decide (seqAhead l n < 2 ^ 23)))

end Sys2Proof.Machine
end

