-- ==== Sys2Proof/Machine/Holder.lean ====
section
/-! DEFINITION. The holder side: the delta pool and STAGING, readiness, applying a unit, gaps and discards
(R150, R153, R165 to R183, R343). -/

namespace Sys2Proof.Machine

/-! ### Where a parity line lies -/

/-- What a line of a PARITY region belongs to. -/
structure ParityAt where
  partner : Nat
  region : Nat
  view : Region
  stripe : Nat
  index : Nat
  line : Nat

/-- The stripe line of an address in a PARITY partner (R133). -/
def parityAt (w : W) (a : Nat) : Option ParityAt :=
  match rgnAt w a with
  | none => none
  | some (pi, pr) =>
    match codedOfPartner w pi with
    | none => none
    | some (ri, v) =>
      let g := grpOf w v
      let fs := fragSize v.frag
      let x := (a - pr.base) / fs
      some { partner := pi, region := ri, view := v, stripe := parityStripe g.n g.m g.self x
             index := if g.m = 0 then 0 else x % g.m, line := (a - pr.base) % fs / 64 }

/-- The lines of a unit's scope that this member holds parity for (R157, R168), as partner addresses. -/
def scopeLines (w : W) (gi src kind index : Nat) (v : Region) : List Nat :=
  let g := getGrp w gi
  let fs := fragSize v.frag
  let len := match kind with
    | 0 => chunkElems v.chunk * 2 ^ v.elem
    | 1 => 65536
    | _ => fs
  let off := index * len
  let n := (min len (rgnBytes v - off)) / 64
  (List.range n).filterMap (fun i =>
    let (s, _, line) := stripeOf g v src (off + 64 * i)
    let role := roleOf g.n g.m g.self s
    if role.1 then none else some (roleAddr g v (partnerOf w v) role s line))

/-! ### Relight frontier (R341, R343) -/

/-- Where a stripe of a region stands against the frontier of this member's Relight. -/
inductive Position where
  | done | active | ahead
  deriving DecidableEq, Repr

/-- The position of a stripe; on a member whose own slot is not adopted every stripe is done. -/
def position (g : Group) (ri s : Nat) : Position :=
  if (slotAt g g.self).state != .adopted then .done
  else match g.relight with
    | none => .ahead
    | some rl =>
      if rl.active.contains (ri, s) then .active
      else if g.rlPhase < 3 then .ahead
      else if !rl.regions.contains ri then .done
      else if rl.regions.head? == some ri && decide (s < rl.next) then .done else .ahead

/-! ### The delta pool (R177, R178) -/

/-- Blocks of the smallest class that holds a size (R177). -/
def classBlocks (n : Nat) : Option Nat :=
  if n ≤ 256 then some 1 else if n ≤ 1024 then some 4 else if n ≤ 4096 then some 16 else if n ≤ 16384 then some 64 else none

/-- The spans in use: those of entries, and those that a leak keeps (R430). -/
def usedSpans (w : W) : List (Nat × Nat) := w.b.pool.filterMap (·.span) ++ w.b.leaks

/-- Is an aligned span free? -/
def spanFree (used : List (Nat × Nat)) (a n : Nat) : Bool :=
  used.all (fun s => decide (a + n ≤ s.1) || decide (s.1 + s.2 ≤ a))

/-- The lowest free aligned span of n blocks: it starts at 0 or within the n blocks that follow some span in use. -/
def allocSpan (used : List (Nat × Nat)) (n : Nat) : Option (Nat × Nat) :=
  let starts := 0 :: used.map (fun s => (s.1 + s.2 + n - 1) / n * n)
  let ok := starts.filter (fun a => decide (a + n ≤ 98304) && spanFree used a n)
  ok.foldl (fun (m : Option (Nat × Nat)) a =>
    match m with
    | some s => if a < s.1 then some (a, n) else m
    | none => some (a, n)) none

/-- Bytes of packets in an entry. -/
def entryBytes (e : PoolEntry) : Nat := e.pkts.foldl (fun n p => n + p.size) 0

/-- Class bytes charged to a partition, and to a source coordinate (R178). -/
def partCharge (w : W) (part : Nat) : Nat :=
  w.b.pool.foldl (fun n e => match e.span with
    | some s => if partOfCtx w (getRgn w e.partner).ctx = part then n + 256 * s.2 else n
    | none => n) 0
def srcCharge (w : W) (c : Coord) : Nat :=
  w.b.pool.foldl (fun n e => match e.span with
    | some s => if e.coord == c then n + 256 * s.2 else n
    | none => n) 0

/-- Would blocks more keep both quotas? -/
def withinQuota (w : W) (partner : Nat) (c : Coord) (blocks : Nat) : Bool :=
  let part := partOfCtx w (getRgn w partner).ctx
  decide (partCharge w part + 256 * blocks ≤ 1024 * (getPart w part).poolKib)
    && decide (srcCharge w c + 256 * blocks ≤ 1024 * w.b.srcqKib)

/-- Replace an entry of the pool. -/
def modEntry (id : Nat) (f : PoolEntry → PoolEntry) (w : W) : W := { w with b.pool := mapIf (fun e => e.id == id) f w.b.pool }

/-- Free an entry; detector 0x0D keeps its blocks (R430). STAGING slots go back to the map. -/
def freeEntry (e : PoolEntry) (w : W) : W :=
  let hit := e.span.isSome && injHit w 13 0
  let w := if hit then { (injFire 13 w) with b.leaks := w.b.leaks ++ e.span.toList } else w
  let w := match e.slot with
    | some s => modGrp e.g (fun g => { g with stagUsed := g.stagUsed.filter (fun x => x != s) }) w
    | none => w
  { w with b.pool := w.b.pool.filter (fun x => x.id != e.id) }

/-- STAGING slots of a group: 4,160 B each, at most 16,384 (R181, R191). -/
def stagSlots (w : W) (g : Nat) : Nat :=
  match stagingOf w g with
  | some (_, r) => min 16384 (rgnBytes r / 4160)
  | none => 0

/-- A packet that arrives: where it belongs, and its payload. -/
structure Arrival where
  g : Nat
  src : Nat
  coord : Coord
  unit : BitVec 64
  frag : Nat
  partner : Nat
  pkt : HeldPkt
  raddr : Nat
  payload : Bytes
  hold : Bool
  deriving DecidableEq, Repr

/-- A new entry of the pool, or of STAGING. -/
def newEntry (a : Arrival) (span : Option (Nat × Nat)) (slot : Option Nat) (w : W) : W :=
  let e : PoolEntry := { id := w.b.nextEntry, g := a.g, src := a.src, coord := a.coord, unit := a.unit, frag := a.frag
                         partner := a.partner, pkts := [a.pkt], span := span, slot := slot
                         refs := if a.hold then 2 else 1, onFrontier := a.hold, bornUs := nowUs w }
  { w with b.pool := w.b.pool ++ [e], b.nextEntry := w.b.nextEntry + 1 }

/-- What became of a packet that needs a place: placed; no place is free (R183); or its STAGING lines wait for their ports
(R376). -/
inductive Placed where
  | placed | full | waits
  deriving DecidableEq, Repr

/-- A STAGING access of a holder was answered with a code: an answer DENIED or ERROR is logged (R55). -/
def noteStaging (a gi : Nat) (c : Rsp) (w : W) : W :=
  if c == .denied || c == .error then logOther 4 0 (portOf w.build a) 0 [0, gi, a] w else w

/-- The newest entry of the pool could not be written: the lines it holds are rebuilt once their unit is applied (R55). -/
def markBad (c : Rsp) (w : W) : W :=
  if c == .ok then w else { w with b.pool := mapIf (fun e => e.id + 1 == w.b.nextEntry) (fun e => { e with bad := true }) w.b.pool }

/-- Place a packet in STAGING: header and payload go to the slot (R55, R181; the header's places are log entry 24). -/
def placeStaging (env : Env) (a : Arrival) (w : W) : Placed × W :=
  match stagingOf w a.g, (List.range (stagSlots w a.g)).find? (fun s => !(getGrp w a.g).stagUsed.contains s) with
  | some (_, r), some s =>
    let at_ := r.base + 4160 * s
    let hdr := toLe 8 a.unit.toNat ++ toLe 1 a.src ++ zeros 7 ++ toLe 8 a.raddr ++ toLe 2 a.payload.length ++ zeros 38
    if !linesFree w at_ (64 + a.payload.length) then (.waits, w)
    else
      let (c, w) := writeBytes (holderAcc env r.ctx) at_ (hdr ++ a.payload) w
      let w := modGrp a.g (fun g => { g with stagUsed := insertNat g.stagUsed s }) w
      (.placed, noteStaging at_ a.g c (markBad c (newEntry a none (some s) (setDpErr 0 a.g s w))))
  | _, _ => (.full, w)

/-- The frontier hold list takes a reference of an entry. At count 255 the entry is copied instead and the list takes the
copy, with a span of its own where one is free; the lines are applied by the entry itself (R179, log entry 93). -/
def takeHold (id : Nat) (w : W) : W :=
  match w.b.pool.find? (fun e => e.id == id) with
  | none => w
  | some e =>
    if e.onFrontier then w
    else if e.refs < 255 then modEntry id (fun e => { e with refs := e.refs + 1, onFrontier := true }) w
    else
      let c : PoolEntry := { e with id := w.b.nextEntry, refs := 1, onApply := false, onFrontier := true, applied := true, slot := none
                                    span := e.span.bind (fun s => allocSpan (usedSpans w) s.2), bornUs := nowUs w }
      setDpErr 4 e.g c.id { w with b.pool := w.b.pool ++ [c], b.nextEntry := c.id + 1 }

/-- A snapshot of entries is taken and given back within one answer: an entry at count 255 is copied for it, which only
REFCNT_SAT shows (R179). -/
def snapEntries (es : List PoolEntry) (w : W) : W :=
  (es.filter (fun e => decide (255 ≤ e.refs))).foldl (fun w e =>
    setDpErr 4 e.g w.b.nextEntry { w with b.nextEntry := w.b.nextEntry + 1 }) w

/-- Place a packet: the newest entry of its source, unit and fragment, a larger class, a new entry, or STAGING
(R177, R178). Where it finds no place it stays in the receive buffer. -/
def placePacket (env : Env) (a : Arrival) (w : W) : Placed × W :=
  let mine := (w.b.pool.filter (fun e => e.g == a.g && e.src == a.src && e.unit == a.unit && e.frag == a.frag && e.span.isSome
    && !(e.applied && !e.onApply))).getLast?
  let fresh := fun (w : W) =>
    match classBlocks a.pkt.size with
    | none => placeStaging env a w
    | some n =>
      match allocSpan (usedSpans w) n with
      | some s => if withinQuota w a.partner a.coord n then (.placed, newEntry a (some s) none w) else placeStaging env a w
      | none => placeStaging env a w
  let join := fun (e : PoolEntry) (s : Nat × Nat) (w : W) =>
    let w := modEntry e.id (fun e => { e with pkts := e.pkts ++ [a.pkt], span := some s }) w
    if a.hold then takeHold e.id w else w
  match mine with
  | none => fresh w
  | some e =>
    let total := entryBytes e + a.pkt.size
    match e.span, classBlocks total with
    | some s, some n =>
      if n ≤ s.2 then (.placed, join e s w)
      else
        match allocSpan (usedSpans w) n with
        | some s' => if withinQuota w a.partner a.coord (n - s.2) then (.placed, join e s' w) else placeStaging env a w
        | none => placeStaging env a w
    | _, _ => fresh w

/-- The entries of a unit. -/
def unitEntries (w : W) (g src : Nat) (u : BitVec 64) : List PoolEntry :=
  w.b.pool.filter (fun e => e.g == g && e.src == src && e.unit == u)

/-- Delta lines held for a unit, those of a copy not counted again. -/
def heldLines (w : W) (g src : Nat) (u : BitVec 64) : Nat :=
  ((unitEntries w g src u).filter (fun e => e.onApply)).foldl (fun n e => e.pkts.foldl (fun n p => n + p.lines.length) n) 0

/-- Delta lines of a unit that were discarded ahead of the Relight frontier (R343). -/
def aheadLines (w : W) (g src : Nat) (u : BitVec 64) : Nat :=
  ((w.b.ahead.find? (fun a => a.1 == g && a.2.1 == src && a.2.2.1 == u)).map (·.2.2.2)).getD 0

/-- Count lines of a unit discarded ahead of the frontier, or forget them. -/
def setAhead (g src : Nat) (u : BitVec 64) (n : Nat) (w : W) : W :=
  let rest := w.b.ahead.filter (fun a => !(a.1 == g && a.2.1 == src && a.2.2.1 == u))
  { w with b.ahead := if n = 0 then rest else rest ++ [(g, src, u, n)] }

/-- Drop the apply reference of an entry; it is freed when no reference is left (R179). -/
def dropApplyRef (e : PoolEntry) (w : W) : W :=
  if e.refs ≤ 1 then freeEntry e w
  else modEntry e.id (fun x => { x with refs := x.refs - 1, onApply := false, applied := true }) w

/-- Drop the frontier reference of an entry (R344). -/
def dropFrontierRef (e : PoolEntry) (w : W) : W :=
  if e.refs ≤ 1 then freeEntry e w else modEntry e.id (fun x => { x with refs := x.refs - 1, onFrontier := false }) w

/-! ### Pending units -/

def prepIs (g src : Nat) (u : BitVec 64) (p : Prep) : Bool := p.g == g && p.src == src && p.unit == u
def findPrep (w : W) (g src : Nat) (u : BitVec 64) : Option Prep := w.b.preps.find? (prepIs g src u)
def modPrep (g src : Nat) (u : BitVec 64) (f : Prep → Prep) (w : W) : W := { w with b.preps := mapIf (prepIs g src u) f w.b.preps }

/-- The streams a PREPARE names, with their numbers, at this member (R166). -/
def prepStreams (g : Group) (p : Prep) : List (Option Nat × Nat) :=
  ((List.range 5).zip p.seqs).filterMap (fun x => x.2.map (fun n =>
    (if x.1 = 0 then none else some (g.mcast + subMod g.self (x.1 - 1) g.n), n)))

/-- A unit becomes ready when every packet named has arrived or is lost: its lines are counted, a gap marks the scope,
and every copy of the PREPARE is acknowledged (R168). -/
def tryReady (gi src : Nat) (u : BitVec 64) (w : W) : W :=
  match findPrep w gi src u with
  | none => w
  | some p =>
    let g := getGrp w gi
    if p.ready || !(prepStreams g p).all (fun s => reached w p.hdr.src s.1 1 s.2) then w
    else
      let full := heldLines w gi src u + aheadLines w gi src u == p.nlines
      let gaps := if full then [] else
        match codedByBase w gi p.base with
        | some (ri, v) => (scopeLines w gi src p.kind p.index v).filter (fun a =>
            match parityAt w a with
            | some x => position g ri x.stripe != .ahead
            | none => true)
        | none => []
      let w := if full then w else setDpErr 7 gi (u.toNat % 2 ^ 56) w
      let w := modPrep gi src u (fun p => { p with ready := true, gapped := gaps, copies := [] }) w
      p.copies.foldl (fun w id => sendAck p.hdr id w) w

/-- Readiness of every pending unit. -/
def tryReadyAll (w : W) : W := w.b.preps.foldl (fun w p => tryReady p.g p.src p.unit w) w

/-- Discard a unit that is held: its entries and its PREPARE. -/
def discardUnit (g src : Nat) (u : BitVec 64) (w : W) : W :=
  let w := (unitEntries w g src u).foldl (fun w e => freeEntry e w) w
  setAhead g src u 0 { w with b.preps := w.b.preps.filter (fun p => !prepIs g src u p) }

/-- Discard every delta and pending unit for a partner that a test on the source picks out (R147, R152, R153). -/
def discardPartner (pi : Nat) (src : Nat → Bool) (w : W) : W :=
  let w := (w.b.pool.filter (fun e => e.partner == pi && src e.src)).foldl (fun w e => freeEntry e w) w
  match codedOfPartner w pi with
  | none => w
  | some (_, v) => { w with b.preps := w.b.preps.filter (fun p => !(p.base == v.base && v.grp == some p.g && src p.src)) }

/-- Does a holder take deltas and commits for a region of this view and epoch (R150, R153, R320)? -/
def holderTakes (w : W) (v : Region) (sepoch : Nat) : Bool :=
  v.state != .unsounded && v.sepoch == sepoch && (grpOf w v).state != .broken

/-! ### Applying (R165, R170) -/

/-- Read, modify and write one parity line of a context's region; false when an answer is not OK (R55, R63). -/
def applyLine (acc : Acc) (c : Byte) (a : Nat) (d : Bytes) (w : W) : Bool × W :=
  let (code, old, w) := readLine acc a w
  if code != .ok then (false, logOther 4 0 (portOf w.build a) 0 [0, 0, a] w)
  else
    let (code, w) := writeLine acc a (xorBytes old (gfScale c d)) w
    if code = .ok then (true, cntMp (portOf w.build a) 0x58 1 w)
    else (false, logOther 4 0 (portOf w.build a) 0 [0, 0, a] w)

/-- Can the lines of an entry no longer be taken from its STAGING slot: it was not written, or its read is not answered OK
(R55, R181)? -/
def stagingBad (env : Env) (e : PoolEntry) (w : W) : Bool × W :=
  match e.slot, stagingOf w e.g with
  | some s, some (_, r) =>
    if e.bad then (true, w)
    else
      let (c, _, w) := readBytes (holderAcc env r.ctx) (r.base + 4160 * s) (64 + entryBytes e) w
      (c != .ok, noteStaging (r.base + 4160 * s) e.g c w)
  | _, _ => (e.bad, w)

/-- Apply the lines of an entry, leaving those of stripes in progress; answers the lines that failed, all of them where its
STAGING slot is bad (R55). -/
def applyEntry (env : Env) (e : PoolEntry) (w : W) : List Nat × W :=
  let lines : List (Nat × Bytes) := e.pkts.flatMap (·.lines)
  let (bad, w) := stagingBad env e w
  if bad then (lines.map (·.1), w)
  else lines.foldl (fun (acc : List Nat × W) (l : Nat × Bytes) =>
    match parityAt acc.2 l.1 with
    | none => acc
    | some x =>
      let g := grpOf acc.2 x.view
      if position g x.region x.stripe != .done then acc
      else
        let (isData, q) := roleOf g.n g.m e.src x.stripe
        if !isData then acc
        else
          let (ok, w) := applyLine (holderAcc env (getRgn acc.2 x.partner).ctx) (coef g.m x.index q) l.1 l.2 acc.2
          (if ok then acc.1 else acc.1 ++ [l.1], w)) ([], w)

/-- May the memory ports grant what applying a unit takes: its parity lines and STAGING slots (R22, R39, R54, R376)? -/
def unitGrantable (w : W) (g src : Nat) (u : BitVec 64) : Bool :=
  (unitEntries w g src u).all (fun e =>
    e.pkts.all (fun k => k.lines.all (fun l => linesFree w l.1 64)) &&
    (match e.slot, stagingOf w g with
     | some s, some (_, r) => linesFree w (r.base + 4160 * s) (64 + entryBytes e)
     | _, _ => true))

/-- Apply every delta held for a unit and free its references; answers the lines whose parity has to be rebuilt
(R165, R170). -/
def applyUnit (env : Env) (g src : Nat) (u : BitVec 64) (w : W) : List Nat × W :=
  (unitEntries w g src u).foldl (fun (acc : List Nat × W) e =>
    if e.applied then acc
    else
      let (bad, w) := applyEntry env e acc.2
      (acc.1 ++ bad, dropApplyRef e w)) ([], w)

/-! ### Unit sets and tombstones (R281, R323) -/

/-- The pending units of the set of a CHUNK unit: those of its source and origin for the same Watch, run and chunk (R281). -/
def setPreps (w : W) (p : Prep) : List Prep :=
  if p.kind != 0 then [p]
  else w.b.preps.filter (fun q => q.g == p.g && q.src == p.src && q.kind == 0 && q.watch == p.watch && q.run == p.run
      && q.index == p.index && q.unit.toNat >>> 56 == p.unit.toNat >>> 56)

/-- The tombstone that stands for a unit: its own, or that of its set (R323). -/
def tombIs (g src : Nat) (u : BitVec 64) (t : Tomb) : Bool := t.g == g && t.src == src && (t.unit == u || t.units.contains u)
def tombOf (w : W) (g src : Nat) (u : BitVec 64) : Option Tomb := w.b.tombs.find? (tombIs g src u)

/-- The units of the set of a pending unit: its tombstone's, where some unit of the set has been applied here, and those
pending (R281). -/
def setUnits (w : W) (p : Prep) : List (BitVec 64) :=
  (setPreps w p).map (·.unit) ++ ((tombOf w p.g p.src p.unit).elim [] (fun t => t.unit :: t.units))

/-- A new tombstone: of the set's units as they are prepared here, keyed by the lowest-numbered one (R323). -/
def newTomb (w : W) (p : Prep) : Tomb :=
  let us := (setPreps w p).map (·.unit)
  { g := p.g, src := p.src, units := us, unit := us.foldl (fun m u => if u.toNat < m.toNat then u else m) p.unit }

end Sys2Proof.Machine
end

