-- ==== Sys2Proof/Machine/Fetch.lean ====
section
/-! DEFINITION. Fetching fragments: the requester's choice of members, the FETCH and its answers, engines and their order
(R30, R56, R173, R330, R331). -/

namespace Sys2Proof.Machine

/-! ### The requester -/

def opIs (id : Nat) (o : FetchOp) : Bool := o.id == id
def findOp (w : W) (id : Nat) : Option FetchOp := w.b.fetches.find? (opIs id)
def modOp (id : Nat) (f : FetchOp → FetchOp) (w : W) : W := { w with b.fetches := mapIf (opIs id) f w.b.fetches }
def dropOp (id : Nat) (w : W) : W := { w with b.fetches := w.b.fetches.filter (fun o => !opIs id o) }

/-- Is it a parity rebuild or a scrub: it takes the data members only (R173, R424)? -/
def isRebuild : FetchFor → Bool
  | .rebuild => true | .scrub _ => true | _ => false

/-- The order in which engines are given out (R30). -/
def enginePrio : FetchFor → Nat
  | .rebuild => 1 | .scrub _ => 1 | .relight _ _ => 2 | _ => 0

/-- The candidates of a stripe in the choosing order: data members in ascending index, then holders, all ALIVE and other
than the target (R56). -/
def candidates (g : Group) (s target : Nat) (rebuild : Bool) : List Nat :=
  let live := (List.range g.n).filter (fun i =>
    i != target && ((slotAt g i).state == .alive || (rebuild && (slotAt g i).state == .suspect)))
  let data := live.filter (fun i => (roleOf g.n g.m i s).1)
  if rebuild then data else data ++ live.filter (fun i => !(roleOf g.n g.m i s).1)

/-- The KIND of a FETCH (R331). -/
def fetchKind : FetchFor → Nat
  | .relight _ _ => 1 | .rebuild => 2 | .scrub _ => 2 | _ => 0

/-- Is this member itself a data member of the stripe and in the chosen set? -/
def isDataOf (g : Group) (i s : Nat) : Bool := (roleOf g.n g.m i s).1

/-- Send a FETCH packet with a fresh request identifier. -/
def sendFetch (g : Group) (m kind role sepoch flags lines addr arg : Nat) (seqs : Bytes) (sealed_ : Bool) (w : W) : Nat × W :=
  let id := w.b.nextReq
  let p := toLe 8 id ++ toLe 1 kind ++ toLe 1 role ++ toLe 1 sepoch ++ toLe 1 flags ++ toLe 4 lines ++ toLe 8 addr
    ++ toLe 8 arg ++ zeros 32 ++ padTo 64 seqs
  (id, (sendTo (slotAt g m).coord (grpForm g 4 0x40 m sealed_ p) { w with b.nextReq := id + 1 }).2)

/-- Every open packet of a stripe leaves the PDEs of this member (R56). -/
def flushStripe (gi : Nat) (r partner : Region) (s : Nat) (w : W) : W :=
  let g := getGrp w gi
  let fs := fragSize r.frag
  let frags := (List.range g.m).map (fun p => partner.base + parityFrag g.n g.m s p * fs)
  (List.range 32).foldl (fun w p =>
    ((getSlice w p).openPkts.filter (fun o => o.g == gi && frags.contains o.frag)).foldl (fun w o => closePkt p o w) w) w

/-- Has a delta that this member has formed for a stripe still to leave: it is in a PDE, or its coded write waits for the PDE
(R56, R173, R184)? -/
def deltasWait (w : W) (gi : Nat) (r partner : Region) (s : Nat) : Bool :=
  let g := getGrp w gi
  let fs := fragSize r.frag
  let frags := (List.range g.m).map (fun p => partner.base + parityFrag g.n g.m s p * fs)
  let role := roleOf g.n g.m g.self s
  let own := roleAddr g r partner role s 0
  w.b.slices.any (fun x =>
    (x.2.openPkts ++ x.2.sendQ).any (fun o => o.g == gi && frags.contains o.frag)
      || x.2.backlog.any (fun d => d.g == gi && frags.contains d.frag)
      || (role.1 && x.2.jobs.any (fun j => j.step == .pde && decide (own ≤ j.line) && decide (j.line < own + fs))))

/-- The last DELTA numbers of this member on the streams that carry a stripe, by parity index (R331). -/
def ownSeqh (w : W) (g : Group) (s : Nat) : List (Option Nat) :=
  (List.range 4).map (fun q =>
    if q < g.m then
      if w.b.lnk.mcastEn && g.mcast != 0 then lastSeq w (g.mcast + s % g.n) true 1
      else lastSeq w (slotAt g (holderOf g.n s q)).coord.toNat false 1
    else none)

/-- The sequence table for a holder: what each data member reported for it, and this member's own numbers (R56). -/
def seqTable (w : W) (o : FetchOp) (g : Group) (h : Nat) : Bytes :=
  let p := (roleOf g.n g.m h o.stripe).2
  (List.range 16).flatMap (fun i =>
    if i = g.self && !(o.answers.any (fun a => a.member == i)) then
      seqField (if w.b.lnk.mcastEn && g.mcast != 0 then lastSeq w (g.mcast + o.stripe % g.n) true 1
                else lastSeq w (slotAt g h).coord.toNat false 1)
    else match o.answers.find? (fun a => a.member == i && a.role == 0) with
      | some a => seqField (a.seqh.getD p none)
      | none => toLe 4 0)

/-- Ask one member of an operation. This member itself, a candidate of a DEGRADED_READ (R332), gives its data line when the
holders are asked, and its parity line when the decode is made. -/
def askMember (o : FetchOp) (m : Nat) (w : W) : W :=
  let g := getGrp w o.g
  let r := opRegion w o
  let role := roleOf g.n g.m m o.stripe
  if m = g.self then
    modOp o.id (fun o => { o with chosen := o.chosen ++ [(m, w.b.nextReq)] }) { w with b.nextReq := w.b.nextReq + 1 }
  else
    let flags := match o.why with | .relight _ _ => if role.1 then 1 else 0 | _ => 0
    let addr := roleAddr g r (partnerOf w r) role o.stripe o.line
    let (id, w) := sendFetch g m (fetchKind o.why) (if role.1 then 0 else 1) r.sepoch flags o.lines addr 0
      (if role.1 then [] else seqTable w o g m) (r.isSealed || g.sealReq) w
    modOp o.id (fun o => { o with chosen := o.chosen ++ [(m, id)] }) w

/-- The answers are complete for a member. -/
def answered (o : FetchOp) (m : Nat) : Bool :=
  o.answers.any (fun a => a.member == m && a.lines.length == o.lines)

/-- The lines of this member that an operation takes as those of a data member, while it has not taken them (R332). -/
def ownLines (w : W) (o : FetchOp) : Option (Nat × Nat) :=
  let g := getGrp w o.g
  let r := opRegion w o
  let role := roleOf g.n g.m g.self o.stripe
  if role.1 && o.chosen.any (fun c => c.1 == g.self) && !answered o g.self then
    some (roleAddr g r (partnerOf w r) role o.stripe o.line, 64 * o.lines)
  else none

/-- This member's own data lines join the answers, as they stand with its deltas sent (R56, R332). -/
def takeOwn (o : FetchOp) (w : W) : W :=
  match ownLines w o with
  | none => w
  | some (a, _) =>
    let g := getGrp w o.g
    let ls := (List.range o.lines).map (fun i => (i, getBytes w (a + 64 * i) 64))
    modOp o.id (fun o => { o with answers := o.answers ++ [{ member := g.self, role := 0, lines := ls, seqh := ownSeqh w g o.stripe }] }) w

/-- Once the chosen data members have answered and this member's own deltas of the stripe have left, the holders are asked
(R56); until the deltas have left, the own lines are read and the ports grant it, the operation waits. -/
def askHolders (id : Nat) (w : W) : W :=
  match findOp w id with
  | none => w
  | some o =>
    let g := getGrp w o.g
    let asked := o.chosen.map (·.1)
    let data := asked.filter (fun m => isDataOf g m o.stripe && m != g.self)
    let want := g.k - asked.length
    if o.asked || !(data.all (answered o)) then w
    else
      let hs := (o.untried.filter (fun m => !isDataOf g m o.stripe)).take want
      let r := opRegion w o
      let own := ownLines w o
      let needs := !hs.isEmpty || own.isSome
      let w := if needs then flushStripe o.g r (partnerOf w r) o.stripe w else w
      if needs && (deltasWait w o.g r (partnerOf w r) o.stripe || !(match own with | some a => linesReadable w a.1 a.2 | none => true)) then w
      else
        let w := takeOwn o w
        let w := modOp id (fun o => { o with asked := true, untried := o.untried.filter (fun m => !hs.contains m) }) w
        hs.foldl (fun w m => match findOp w id with | some o => askMember o m w | none => w) w

/-- An operation begins on its engine: the first data members are asked, then, with nothing to wait for, the holders. One that
finds too few members waits for the restart (R330). -/
def beginOp (id : Nat) (w : W) : W :=
  match findOp w id with
  | none => w
  | some o =>
    let g := getGrp w o.g
    let c := candidates g o.stripe o.target (isRebuild o.why)
    let data := (c.filter (fun m => isDataOf g m o.stripe)).take g.k
    if c.length < g.k then modOp id (fun o => { o with queued := false, waiting := true, chosen := [], answers := [] }) w
    else
    let w := modOp id (fun o => { o with queued := false, waiting := false, chosen := [], answers := [], asked := false
                                         untried := c.filter (fun m => !data.contains m) }) w
    let w := data.foldl (fun w m => match findOp w id with | some o => askMember o m w | none => w) w
    askHolders id w

/-- Relight engines that passed self-test (R30, R360). -/
def engineCount (w : W) : Nat := ((List.range 8).filter (fun j => !w.b.glb.stfail1.getLsbD (40 + j))).length

/-- Is an operation a degraded read of a Restripe that holds an engine: it is made on that engine (R30, R56)? -/
def onHeldEngine (w : W) (o : FetchOp) : Bool :=
  match o.why with
  | .cmd c => w.b.streams.any (fun s => s.engine.isSome && s.cmd == c)
  | _ => false

/-- Does an operation hold an engine (R30)? -/
def holdsEngine (o : FetchOp) (j : Nat) : Bool := o.engine == some j && !o.waiting

/-- Is an engine in use: an operation or a Restripe holds it (R30)? -/
def engineUsed (w : W) (j : Nat) : Bool := w.b.fetches.any (fun o => holdsEngine o j) || w.b.streams.any (fun s => s.engine == some j)

/-- The engine that is given out next: the lowest-numbered free one that passed self-test (R30, R360). An operation whose engine was
reset takes another one, where the block has another (R417). -/
def freeEngine (w : W) (resetOn : Option Nat) : Option Nat :=
  let free := (List.range 8).filter (fun j => !w.b.glb.stfail1.getLsbD (40 + j) && !engineUsed w j)
  if engineCount w ≤ 1 then free.head? else free.find? (fun j => some j != resetOn)

/-- Is an engine gated: work that arrives wakes it, and starts once the wake ends (R443, log entry 116)? -/
def engineGated (w : W) (j : Nat) : Bool := w.b.crp.clockGated.contains (.relight j) || w.b.crp.rlPowerGated.contains j

/-- Is one operation given an engine before another: by kind, then the older first (R30)? -/
def fetchBefore (a b : FetchOp) : Bool :=
  decide (enginePrio a.why < enginePrio b.why) || (enginePrio a.why == enginePrio b.why && decide (a.order < b.order))

/-- The operation that gets the next free engine (R30). -/
def nextFetchOp (w : W) : Option FetchOp :=
  (w.b.fetches.filter (fun o => o.queued && o.engine.isNone && (freeEngine w o.resetOn).isSome)).foldl (fun best o =>
    match best with
    | none => some o
    | some b => if fetchBefore o b then some o else best) none

/-- Give free engines to the operations that wait, in the order of R30; one on a gated engine begins when the wake ends (R443). -/
def assignEngines : Nat → W → W
  | 0, w => w
  | n + 1, w =>
    match w.b.fetches.find? (fun o => o.queued && o.engine.isNone && onHeldEngine w o) with
    | some o => assignEngines n (beginOp o.id w)
    | none =>
      match nextFetchOp w with
      | none => w
      | some o =>
        let j := (freeEngine w o.resetOn).getD 0
        let w := modOp o.id (fun o => { o with engine := some j }) w
        assignEngines n (if engineGated w j then w else beginOp o.id w)

/-- The Relight engine that a Restripe's next stripe takes, when one is free, no operation waits for it, and no older Restripe
does (R30). -/
def restripeEngine (w : W) (ri : Nat) : Option Nat :=
  let olderWaits := (w.b.streams.takeWhile (fun s => s.region != ri)).any (fun s => s.kind == .restripe && s.begun && !s.endSent && s.engine.isNone)
  if w.b.fetches.any (fun o => o.queued && o.engine.isNone) || olderWaits then none else freeEngine w none

/-- Ask for an engine; none when the operation cannot run: too few members, or a BROKEN group (R58). -/
def startFetch (why : FetchFor) (gi ri stripe line lines target : Nat) (w : W) : Option Nat × W :=
  let g := getGrp w gi
  let c := candidates g stripe target (isRebuild why)
  if g.state == .broken || decide (c.length < g.k) then (none, w)
  else
    let id := w.b.nextFetch
    let o : FetchOp := { id := id, why := why, g := gi, region := ri, stripe := stripe, line := line, lines := lines
                         target := target, queued := true, order := id }
    (some id, assignEngines 8 { w with b.fetches := w.b.fetches ++ [o], b.nextFetch := id + 1 })

/-- An operation has every answer it needs. -/
def opReady (w : W) (o : FetchOp) : Bool :=
  let g := getGrp w o.g
  !o.queued && !o.waiting && decide (g.k ≤ o.chosen.length)
    && (o.chosen.map (·.1)).all (fun m => answered o m || (m == g.self && !isDataOf g m o.stripe))

/-- What becomes of an operation that drops a member. -/
inductive Dropped where
  | goesOn | fails | restarts
  deriving DecidableEq, Repr

/-- Drop a member from an operation and take the next untried candidate (R330). -/
def dropMember (id m : Nat) (w : W) : Dropped × W :=
  match findOp w id with
  | none => (.goesOn, w)
  | some o =>
    let o := { o with chosen := o.chosen.filter (fun c => c.1 != m), answers := o.answers.filter (fun a => a.member != m) }
    let w := modOp id (fun _ => o) w
    match o.untried with
    | n :: rest =>
      let w := { w with b.subsetCnt := sat32 w.b.subsetCnt }
      let g := getGrp w o.g
      let w := modOp id (fun o => { o with untried := rest }) w
      if isDataOf g n o.stripe then (.goesOn, askMember { o with untried := rest } n w)
      else if o.asked then (.goesOn, askMember { o with untried := rest } n w)
      else (.goesOn, askHolders id (modOp id (fun o => { o with untried := n :: rest }) w))
    | [] =>
      match enginePrio o.why with
      | 0 => (.fails, w)
      | _ => (.restarts, modOp id (fun o => { o with waiting := true, chosen := [], answers := [] }) w)

/-- Line i of the fragment a decode gives for the target (R156). -/
def decodedLine (w : W) (o : FetchOp) (i : Nat) : Option Bytes :=
  let g := getGrp w o.g
  let have_ := o.chosen.filterMap (fun c =>
    (o.answers.find? (fun a => a.member == c.1)).map (fun a =>
      let role := roleOf g.n g.m c.1 o.stripe
      (role.1, role.2, tget a.lines i (zeros 64))))
  let t := roleOf g.n g.m o.target o.stripe
  (decodeData g.k g.m have_).map (fun d => lineOfRole g.m t.1 t.2 d)

end Sys2Proof.Machine
end

