-- ==== Sys2Proof/Machine/Bearing.lean ====
section
/-! DEFINITION. CRG-128, the GF(2^64) product, Bearings and their updates (R215 to R221, R307 to R311). -/

namespace Sys2Proof.Machine

/-! ### CRG-128 (R307 to R310) -/

/-- Rotation of a 32-bit word to the left. -/
def rotl32 (v : BitVec 32) (n : Nat) : BitVec 32 := v.rotateLeft n

/-- Four words of the generator. -/
structure Quad where
  x0 : BitVec 32
  x1 : BitVec 32
  x2 : BitVec 32
  x3 : BitVec 32
  deriving DecidableEq, Repr

/-- A key word by its index modulo 4. -/
def Quad.at (k : Quad) (i : Nat) : BitVec 32 :=
  match i % 4 with | 0 => k.x0 | 1 => k.x1 | 2 => k.x2 | _ => k.x3

/-- Round-key word j of injection s (R309). -/
def crgRk (k : Quad) (s j : Nat) : BitVec 32 :=
  rotl32 (k.at (j + s)) (7 * s) + 0x5B1E39C7#32 * BitVec.ofNat 32 (4 * s + j + 1)

/-- Injection s (R309). -/
def crgInject (k x : Quad) (s : Nat) : Quad :=
  { x0 := x.x0 + crgRk k s 0, x1 := x.x1 + crgRk k s 1, x2 := x.x2 + crgRk k s 2, x3 := x.x3 + crgRk k s 3 }

/-- The rotation table ROT (R309). -/
def crgRot (r : Nat) : Nat × Nat :=
  match r % 8 with
  | 0 => (13, 19) | 1 => (7, 28) | 2 => (22, 11) | 3 => (5, 26)
  | 4 => (17, 9) | 5 => (29, 4) | 6 => (10, 23) | _ => (16, 31)

/-- Round r, with the injection after every fourth round (R309). -/
def crgRound (k x : Quad) (r : Nat) : Quad :=
  let (ra, rb) := crgRot r
  let x0 := x.x0 + x.x1
  let x1 := rotl32 x.x1 ra ^^^ x0
  let x2 := x.x2 + x.x3
  let x3 := rotl32 x.x3 rb ^^^ x2
  let y : Quad := { x0 := x0, x1 := x3, x2 := x2, x3 := x1 }
  if r % 4 = 3 then crgInject k y (r / 4 + 1) else y

/-- The generator: key and counter words (R309). -/
def crg128 (k c : Quad) : Quad := (List.range 12).foldl (crgRound k) (crgInject k c 0)

/-- The counter of the fields of R307. -/
def crgCounter (element region watch stream : Nat) : Quad :=
  let n := element % 2 ^ 40 + (region % 2 ^ 24) <<< 40 + (watch % 2 ^ 48) <<< 64 + (stream % 2 ^ 16) <<< 112
  { x0 := BitVec.ofNat 32 n, x1 := BitVec.ofNat 32 (n >>> 32), x2 := BitVec.ofNat 32 (n >>> 64)
    x3 := BitVec.ofNat 32 (n >>> 96) }

/-- Bits [63:0] of an output (R310). -/
def Quad.low64 (q : Quad) : Word := q.x1 ++ q.x0

/-! ### Products and weights -/

/-- R311: multiplication in GF(2^64) modulo x^64 + x^4 + x^3 + x + 1, the low k bits of b still to take. -/
def gfmul64Go : Nat → Word → Word → Word
  | 0, _, _ => 0
  | k + 1, a, b =>
    (if b.getLsbD 0 then a else 0) ^^^ gfmul64Go k ((a <<< 1) ^^^ (if a.getLsbD 63 then 0x1B else 0)) (b >>> 1)

/-- The product of Bearings (R311). -/
def gfmul64 (a b : Word) : Word := gfmul64Go 64 a b

/-- The Bearing seed of a group as a key (R307). -/
def bearingKey (g : Group) : Quad :=
  { x0 := g.seedLo.setWidth 32, x1 := (g.seedLo >>> 32).setWidth 32, x2 := g.seedHi.setWidth 32
    x3 := (g.seedHi >>> 32).setWidth 32 }

/-- K(a): the weight of the word with index a (R215). -/
def wordKey (g : Group) (a : Nat) : Word :=
  (crg128 (bearingKey g) (crgCounter (a % 2 ^ 40) ((a >>> 40) % 32) 0 0xFF00)).low64

/-- The member weight of member i (R219). -/
def memberKey (g : Group) (i : Nat) : Word := (crg128 (bearingKey g) (crgCounter i 0 0 0xFF01)).low64

/-- What the words of a run of bytes at an address add to a Bearing (R215, R218); n words. -/
def bearingOf (g : Group) : Nat → Nat → Bytes → Word
  | 0, _, _ => 0
  | n + 1, a, d =>
    let u : Word := BitVec.ofNat 64 (leNat (d.take 8))
    (if u = 0 then 0 else gfmul64 u (wordKey g (a >>> 3))) ^^^ bearingOf g n (a + 8) (d.drop 8)

/-- A delta enters the running Bearing of its region while that is STREAMING or VALID, and the sweep value when its line
is behind the frontier of a running sweep (R218, R221). The Bearing of a region that a Restripe lets join is INVALID until
the switch, and is gathered on the stream (R217). -/
def bearingDelta (ri addr : Nat) (d : Bytes) (w : W) : W :=
  let r := getRgn w ri
  let x := bearingOf (grpOf w r) ((d.length + 7) / 8) addr d
  if r.bvalid = 0 then
    if (restripeOn w ri).isSome then
      { w with b.streams := mapIf (fun s => s.kind == .restripe && s.region == ri) (fun s => { s with bear := s.bear ^^^ x }) w.b.streams }
    else w
  else
    let behind := r.sweeping && decide (addr - r.base < r.front)
    modRgn ri (fun r => { r with brun := r.brun ^^^ x, sweepS := if behind then r.sweepS ^^^ x else r.sweepS }) w

/-- A region's Bearing leaves VALID: a running sweep is dropped (R220); a BEARING_SWEEP that waits for it is then ended by
dropSweeps. -/
def leaveValid (v : Nat) (r : Region) : Region :=
  { r with bvalid := v, sweeping := false, adopting := if r.sweeping then false else r.adopting
           front := if r.sweeping then 0 else r.front, sweepS := if r.sweeping then 0 else r.sweepS }

/-- The state of a region's running Bearing (R217): 0 INVALID, 1 VALID, 2 STREAMING. -/
def setBearing (ri : Nat) (v : Nat) (w : W) : W :=
  modRgn ri (fun r => if v = 1 then { r with bvalid := 1 } else leaveValid v r) w

/-- A region's running Bearing starts streaming from 0 (R217). -/
def startBearing (ri : Nat) (w : W) : W := modRgn ri (fun r => { leaveValid 2 r with brun := 0 }) w

/-- This member's contribution to a group for a context, and whether every coded region's Bearing was VALID (R219). -/
def contribution (w : W) (x gi : Nat) : Word × Bool :=
  let g := getGrp w gi
  let rs := (rgnsOfCtx w x).filter (fun r => codedKind r.2.kind && r.2.grp == some gi)
  let sum := rs.foldl (fun (s : Word) r => if r.2.bvalid = 1 then s ^^^ r.2.brun else s) 0
  (gfmul64 sum (memberKey g g.self), rs.all (fun r => r.2.bvalid == 1))

/-- The views a coded write's delta goes to: the region's own group unless it only joins, and the new group of a Restripe
whose stream has passed the line's new fragment (R352). -/
def deltaViews (w : W) (ri addr : Nat) : List Region :=
  let r := getRgn w ri
  let old := if r.state == .unsounded && r.kind != .window then [] else [r]
  match newView r with
  | some v => if restripePassed w ri r (addr - r.base) then old ++ [v] else old
  | none => old

/-- Hand the delta of a coded line that has been written to the PDE, in each view it has (R47, R160, R352); answers the HOST
units it joined. -/
def pdeDelta (ri addr : Nat) (cmd : Option CmdId) (d : Bytes) (w : W) : List (Nat × BitVec 64) × W :=
  (deltaViews w ri addr).foldl (fun (acc : List (Nat × BitVec 64) × W) v =>
    let (u, w) := hostDelta v ri addr cmd d acc.2
    (acc.1 ++ u.toList, w)) ([], w)

/-- Hand the delta of a coded line that has been written to the PDE and to the Bearing unit (R47, R218). -/
def codedDelta (ri addr : Nat) (cmd : Option CmdId) (d : Bytes) (w : W) : List (Nat × BitVec 64) × W :=
  let r := pdeDelta ri addr cmd d w
  (r.1, bearingDelta ri addr d r.2)

end Sys2Proof.Machine
end

