-- ==== Sys2Proof/Machine/Flags.lean ====
section
/-! DEFINITION. Numerics: the number formats, rounding, binary32 arithmetic, the correctly rounded functions, stochastic
rounding, and the conversion of contributions to Datums with the flags it sets (R228 to R241, R297 to R306). -/

namespace Sys2Proof.Machine

/-! ### Formats (R297) -/

/-- Which encodings of the top exponent are special. -/
inductive Specials where
  /-- infinities and NaNs as IEEE 754 -/
  | ieee
  /-- NaN only, all ones -/
  | nanOnly
  | none
  deriving DecidableEq, Repr

/-- A floating-point format. -/
structure Fmt where
  ebits : Nat
  fbits : Nat
  bias : Nat
  sp : Specials := .ieee
  deriving DecidableEq, Repr

def f32 : Fmt := { ebits := 8, fbits := 23, bias := 127 }
def bf16 : Fmt := { ebits := 8, fbits := 7, bias := 127 }
def f16 : Fmt := { ebits := 5, fbits := 10, bias := 15 }
def e4m3 : Fmt := { ebits := 4, fbits := 3, bias := 7, sp := .nanOnly }
def e5m2 : Fmt := { ebits := 5, fbits := 2, bias := 15 }
def e3m2 : Fmt := { ebits := 3, fbits := 2, bias := 3, sp := .none }
def e2m3 : Fmt := { ebits := 2, fbits := 3, bias := 1, sp := .none }
def e2m1 : Fmt := { ebits := 2, fbits := 1, bias := 1, sp := .none }

/-- A value: NaN, an infinity, or sign × m × 2^e. -/
inductive FNum where
  | nan
  | inf (neg : Bool)
  | fin (neg : Bool) (m : Nat) (e : Int)
  deriving DecidableEq, Repr

/-- The position of the highest set bit plus one (R233). -/
def bitlen (m : Nat) : Nat := if m = 0 then 0 else m.log2 + 1

/-- A format's encoding of the largest exponent with fraction 0: infinity. -/
def infBits (f : Fmt) : Nat := (2 ^ f.ebits - 1) <<< f.fbits

/-- The canonical NaN (R300). -/
def nanBits (f : Fmt) : Nat := infBits f + 2 ^ (f.fbits - 1)

/-- The sign bit's weight. -/
def signBit (f : Fmt) : Nat := 2 ^ (f.ebits + f.fbits)

/-- Decompose an encoding (R233). -/
def decodeF (f : Fmt) (x : Nat) : FNum :=
  let neg := decide (signBit f ≤ x % (2 * signBit f))
  let X := x / 2 ^ f.fbits % 2 ^ f.ebits
  let frac := x % 2 ^ f.fbits
  let top := X == 2 ^ f.ebits - 1
  if top && f.sp == .ieee then (if frac = 0 then .inf neg else .nan)
  else if top && f.sp == .nanOnly && frac == 2 ^ f.fbits - 1 then .nan
  else if X = 0 then .fin neg frac (1 - (f.bias : Int) - f.fbits)
  else .fin neg (2 ^ f.fbits + frac) ((X : Int) - f.bias - f.fbits)

/-- m shifted right by d, rounded to nearest with ties to even. -/
def shiftRne (m d : Nat) : Nat :=
  if d = 0 then m
  else
    let q := m >>> d
    let rem := m - q <<< d
    let half := 1 <<< (d - 1)
    if half < rem || (rem == half && q % 2 == 1) then q + 1 else q

/-- The exponent of the unit in the last place that a format gives a magnitude. -/
def ulpExp (f : Fmt) (m : Nat) (e : Int) : Int :=
  max (e + (bitlen m : Int) - 1) (1 - (f.bias : Int)) - f.fbits

/-- The encoding of a magnitude of mag units 2^q, an infinity when it lies beyond the largest finite value. -/
def encodeMag (f : Fmt) (mag : Nat) (q : Int) : Nat :=
  let X := (q + f.fbits + f.bias).toNat
  let b := X <<< f.fbits + mag - 2 ^ f.fbits
  if infBits f ≤ b then infBits f else b

/-- Round sign × m × 2^e to nearest, ties to even, subnormals included (R299, R302). -/
def roundNE (f : Fmt) (neg : Bool) (m : Nat) (e : Int) : Nat :=
  let s := if neg then signBit f else 0
  if m = 0 then s
  else
    let q := ulpExp f m e
    let mag := if q ≤ e then m <<< (e - q).toNat else shiftRne m (q - e).toNat
    s + encodeMag f mag q

/-- The encoding of a value in a format, NaN canonical (R300, R302). -/
def encodeF (f : Fmt) : FNum → Nat
  | .nan => nanBits f
  | .inf neg => (if neg then signBit f else 0) + infBits f
  | .fin neg m e => roundNE f neg m e

/-- A binary32 word's value, and back. -/
def val32 (x : BitVec 32) : FNum := decodeF f32 x.toNat
def enc32 (v : FNum) : BitVec 32 := BitVec.ofNat 32 (encodeF f32 v)

/-! ### Binary32 arithmetic (R299 to R301) -/

/-- A signed integer as a value; an exact zero takes the sign given. -/
def ofInt (zeroNeg : Bool) (i : Int) (e : Int) : FNum :=
  if i = 0 then .fin zeroNeg 0 e else .fin (decide (i < 0)) i.natAbs e

/-- The integer a finite value is, in units of 2^e below its own exponent. -/
def scaleInt (neg : Bool) (m : Nat) (d : Nat) : Int := let x : Int := (m <<< d : Nat); if neg then -x else x

/-- Exact sum; an exact zero of unlike signs is +0 (R301). -/
def addV : FNum → FNum → FNum
  | .nan, _ => .nan
  | _, .nan => .nan
  | .inf a, .inf b => if a = b then .inf a else .nan
  | .inf a, .fin _ _ _ => .inf a
  | .fin _ _ _, .inf b => .inf b
  | .fin a m e, .fin b n g =>
    let l := min e g
    ofInt (a && b) (scaleInt a m (e - l).toNat + scaleInt b n (g - l).toNat) l

/-- Exact product. -/
def mulV : FNum → FNum → FNum
  | .nan, _ => .nan
  | _, .nan => .nan
  | .inf a, .inf b => .inf (a != b)
  | .inf a, .fin b n _ => if n = 0 then .nan else .inf (a != b)
  | .fin a m _, .inf b => if m = 0 then .nan else .inf (a != b)
  | .fin a m e, .fin b n g => .fin (a != b) (m * n) (e + g)

/-- The value with its sign turned. -/
def negV : FNum → FNum
  | .nan => .nan
  | .inf a => .inf (!a)
  | .fin a m e => .fin (!a) m e

/-- VADD, VSUB, VMUL and VFMA on one lane: va × vb ± vc with one rounding. -/
def fAdd (x y : BitVec 32) : BitVec 32 := enc32 (addV (val32 x) (val32 y))
def fSub (x y : BitVec 32) : BitVec 32 := enc32 (addV (val32 x) (negV (val32 y)))
def fMul (x y : BitVec 32) : BitVec 32 := enc32 (mulV (val32 x) (val32 y))
def fFma (x y z : BitVec 32) (negProd negAdd : Bool) : BitVec 32 :=
  let p := mulV (val32 x) (val32 y)
  let a := val32 z
  enc32 (addV (if negProd then negV p else p) (if negAdd then negV a else a))

/-- A binary32 NaN. -/
def isNan32 (x : BitVec 32) : Bool := val32 x == .nan

/-- The order of two binary32 encodings: sign and magnitude as an integer. -/
def key32 (x : BitVec 32) : Int :=
  let m : Int := (x.toNat % 2 ^ 31 : Nat)
  if x.getLsbD 31 then -m else m

/-- VMIN and VMAX (R300): a NaN gives NaN, and −0 counts as less than +0. -/
def fMin (x y : BitVec 32) : BitVec 32 :=
  if isNan32 x || isNan32 y then 0x7FC00000
  else if key32 x < key32 y || (key32 x == key32 y && x.getLsbD 31) then x else y
def fMax (x y : BitVec 32) : BitVec 32 :=
  if isNan32 x || isNan32 y then 0x7FC00000
  else if key32 x < key32 y || (key32 x == key32 y && x.getLsbD 31) then y else x

/-- VCMP: EQ, LT, LE, UNORD by code (R300). -/
def fCmp (mode : Nat) (x y : BitVec 32) : Bool :=
  let un := isNan32 x || isNan32 y
  match mode with
  | 0 => !un && key32 x == key32 y
  | 1 => !un && decide (key32 x < key32 y)
  | 2 => !un && decide (key32 x ≤ key32 y)
  | _ => un

/-- VCVT MOD 0: int32 to binary32 (R303). -/
def fOfInt (x : BitVec 32) : BitVec 32 := enc32 (ofInt false x.toInt 0)

/-- VCVT MOD 1: binary32 to int32 (R303). -/
def fToInt (x : BitVec 32) : BitVec 32 :=
  match val32 x with
  | .nan => 0
  | .inf neg => if neg then 0x80000000 else 0x7FFFFFFF
  | .fin neg m e =>
    let mag := if 0 ≤ e then (if bitlen m + e.toNat > 40 then 2 ^ 40 else m <<< e.toNat) else shiftRne m (-e).toNat
    if neg then (if mag > 2 ^ 31 then 0x80000000 else BitVec.ofInt 32 (-(mag : Int)))
    else (if mag ≥ 2 ^ 31 then 0x7FFFFFFF else BitVec.ofNat 32 mag)

/-! ### Correctly rounded functions (R304, R305) -/

/-- The integer square root, bit by bit from 2^(k-1) down. -/
def isqrtGo (n : Nat) : Nat → Nat → Nat
  | 0, acc => acc
  | k + 1, acc => let t := acc + 2 ^ k; if t * t ≤ n then isqrtGo n k t else isqrtGo n k acc

/-- The integer square root of n. -/
def isqrt (n : Nat) : Nat := isqrtGo n (bitlen n / 2 + 1) 0

/-- A magnitude known to lie in [m, m + 1) × 2^e, exactly m when `exact`: one more bit holds what is below. -/
def stick (neg : Bool) (m : Nat) (e : Int) (exact : Bool) : FNum := .fin neg (2 * m + if exact then 0 else 1) (e - 1)

/-- VRCP (R304, R305). -/
def fRcp (x : BitVec 32) : BitVec 32 :=
  enc32 (match val32 x with
    | .nan => .nan
    | .inf neg => .fin neg 0 0
    | .fin neg m e => if m = 0 then .inf neg else stick neg (2 ^ 80 / m) (-80 - e) (2 ^ 80 % m == 0))

/-- A finite value with an even exponent. -/
def evenExp (m : Nat) (e : Int) : Nat × Int := if e % 2 = 0 then (m, e) else (2 * m, e - 1)

/-- VSQRT (R304, R305). -/
def fSqrt (x : BitVec 32) : BitVec 32 :=
  enc32 (match val32 x with
    | .nan => .nan
    | .inf neg => if neg then .nan else .inf false
    | .fin neg m e =>
      if m = 0 then .fin neg 0 0
      else if neg then .nan
      else
        let (m, e) := evenExp m e
        let s := isqrt (m <<< 80)
        stick false s (e / 2 - 40) (s * s == m <<< 80))

/-- VRSQ (R304, R305). -/
def fRsq (x : BitVec 32) : BitVec 32 :=
  enc32 (match val32 x with
    | .nan => .nan
    | .inf neg => if neg then .nan else .fin false 0 0
    | .fin neg m e =>
      if m = 0 then .inf neg
      else if neg then .nan
      else
        let (m, e) := evenExp m e
        let s := isqrt (2 ^ 160 / m)
        stick false s (-(e / 2) - 80) (s * s * m == 2 ^ 160))

/-- The product of 2^(2^-i) over the set bits i = 1, 2, … of a fraction, in units of 2^-160; `c` is the current root. -/
def exp2Go (frac : Nat) : Nat → Nat → Nat → Nat
  | 0, _, acc => acc
  | k + 1, c, acc =>
    let c' := isqrt (c <<< 160)
    exp2Go frac k c' (if frac.testBit k then acc * c' / 2 ^ 160 else acc)

/-- VEXP2 (R304, R305): 160 bits of 2^f for the fraction f, which is more than binary32 rounding needs (log entry 25). -/
def fExp2 (x : BitVec 32) : BitVec 32 :=
  enc32 (match val32 x with
    | .nan => .nan
    | .inf neg => if neg then .fin false 0 0 else .inf false
    | .fin neg m e =>
      if m = 0 then .fin false 1 0
      else if 0 ≤ e + (bitlen m : Int) - 9 then (if neg then .fin false 0 0 else .inf false)
      else
        let fixed : Int := if 0 ≤ e + 160 then (m <<< (e + 160).toNat : Nat) else 0
        let fixed := if neg then -fixed - (if 0 ≤ e + 160 then 0 else 1) else fixed
        let n := fixed / 2 ^ 160
        let frac := (fixed % 2 ^ 160).toNat
        if frac = 0 && decide (0 ≤ e + 160) then .fin false 1 n
        else stick false (exp2Go frac 160 (2 ^ 161) (2 ^ 160)) (n - 160) false)

/-- The bits of log2 y for y in [1, 2) with 400 fraction bits, by repeated squaring. -/
def log2Go : Nat → Nat → Nat → Nat
  | 0, _, acc => acc
  | k + 1, y, acc =>
    let s := y * y / 2 ^ 400
    if 2 ^ 401 ≤ s then log2Go k (s / 2) (2 * acc + 1) else log2Go k s (2 * acc)

/-- VLOG2 (R304, R305): 160 bits of the logarithm (log entry 25). -/
def fLog2 (x : BitVec 32) : BitVec 32 :=
  enc32 (match val32 x with
    | .nan => .nan
    | .inf neg => if neg then .nan else .inf false
    | .fin neg m e =>
      if m = 0 then .inf true
      else if neg then .nan
      else
        let b := bitlen m
        let E := e + (b : Int) - 1
        if m = 2 ^ (b - 1) then ofInt false E 0
        else
          let l := log2Go 160 (m <<< (401 - b)) 0
          let v : Int := E * 2 ^ 160 + l
          if 0 ≤ v then stick false v.toNat (-160) false else stick true ((-v).toNat - 1) (-160) false)

/-! ### Narrowing (R302, R306) -/

/-- The format of a stream format code: 0 binary32, 1 bfloat16, 2 binary16 (R297). -/
def streamFmt : Nat → Fmt
  | 1 => bf16 | 2 => f16 | _ => f32

/-- Narrow a binary32 word to a format (R302). -/
def narrow (f : Fmt) (x : BitVec 32) : Nat := encodeF f (val32 x)

/-- Widen an encoding to binary32 (R302). -/
def widen (f : Fmt) (x : Nat) : BitVec 32 := enc32 (decodeF f x)

/-- Stochastic narrowing with a random word (R306). -/
def narrowSr (f : Fmt) (x u : BitVec 32) : Nat :=
  match val32 x with
  | .fin neg m e =>
    let s := if neg then signBit f else 0
    if m = 0 then s
    else
      let q := ulpExp f m e
      if q ≤ e then s + encodeMag f (m <<< (e - q).toNat) q
      else
        let d := (q - e).toNat
        let y0 := m >>> d
        let D := ((m - y0 <<< d) <<< 32) >>> d
        s + encodeMag f (if u.toNat < D then y0 + 1 else y0) q
  | v => encodeF f v

/-! ### Contributions (R232 to R235) -/

/-- An input element's value by format code; an MX element with its scale byte (R232, R233, R297, R298). -/
def inputValue (code : Nat) (x scale : Nat) : FNum :=
  let mx := fun (v : FNum) =>
    if scale = 0xFF then .nan
    else match v with
      | .fin n m e => FNum.fin n m (e + (scale : Int) - 127)
      | v => v
  match code with
  | 0x00 => decodeF f32 x
  | 0x01 => decodeF bf16 x
  | 0x02 => decodeF f16 x
  | 0x03 => decodeF e4m3 x
  | 0x04 => decodeF e5m2 x
  | 0x10 => mx (decodeF e4m3 x)
  | 0x11 => mx (decodeF e5m2 x)
  | 0x12 => mx (decodeF e3m2 x)
  | 0x13 => mx (decodeF e2m3 x)
  | 0x14 => mx (decodeF e2m1 x)
  | _ => mx (.fin (decide (128 ≤ x)) (if 128 ≤ x then 256 - x else x) (-6))

/-- The outcome of converting one element: the addend, and the flags and exponent it sets. -/
structure Conv where
  add : Nat := 0
  nonfinite : Bool := false
  rangeQ : Bool := false
  exp : Option Int := none
  deriving DecidableEq, Repr

/-- R233: convert a value with shift S under anchor A, width w and headroom H. -/
def convert (v : FNum) (S A : Int) (w H : Nat) : Conv :=
  match v with
  | .nan => { nonfinite := true }
  | .inf _ => { nonfinite := true }
  | .fin neg m e =>
    if m = 0 then {}
    else
      let e := e + S
      let top := some (e + (bitlen m : Int) - 1)
      let d := e - A
      let bound := w - 1 - H
      if 0 ≤ d then
        if bitlen m + d.toNat > bound then { rangeQ := true, exp := top }
        else
          let mag := m <<< d.toNat
          { add := if neg then (2 ^ w - mag) % 2 ^ w else mag, exp := top }
      else
        let mag := shiftRne m (-d).toNat
        if 2 ^ bound ≤ mag then { rangeQ := true, exp := top }
        else { add := if neg then (2 ^ w - mag) % 2 ^ w else mag, exp := top }

/-- A w-bit two's complement number as an integer. -/
def signed (w n : Nat) : Int := if n % 2 ^ w < 2 ^ (w - 1) then (n % 2 ^ w : Nat) else ((n % 2 ^ w : Nat) : Int) - 2 ^ w

/-- R241: a Datum read out as a value. -/
def datumValue (q A : Int) : FNum := ofInt false q A

/-- The anchor rule T (R242). -/
def anchorRule (emax : Int) (H w G : Nat) : Int := min 511 (max (-512) (emax + H + 2 - w + G))

end Sys2Proof.Machine
end

