-- ==== Sys2Proof/Machine/Datum.lean ====
section
/-! DEFINITION. Datums in ACCUM and RESIDUAL regions: tile geometry, tile-state lines, adding contributions, anchors, and
the elements of a chunk in a region (R17, R228 to R246, R255, R261). -/

namespace Sys2Proof.Machine

/-! ### Tile geometry (R230, R261) -/

/-- Bytes of a stored Datum. -/
def esOf (r : Region) : Nat := if r.width = 0 then 4 else 8

/-- Bits of a Datum. -/
def datumBits (r : Region) : Nat := match r.width with | 0 => 32 | 1 => 48 | _ => 64

/-- Bytes of one bank: a RESIDUAL region holds two (R261). -/
def bankBytes (r : Region) : Nat := if r.kind == .residual then rgnBytes r / 2 else rgnBytes r

/-- First byte of a bank. -/
def bankBase (r : Region) (bank : Nat) : Nat := r.base + bank * bankBytes r

/-- Tiles of a bank (R230). -/
def tilesOf (r : Region) : Nat := bankBytes r / (4096 * esOf r + 64)

/-- Elements of a bank (R230). -/
def elemsOf (r : Region) : Nat := 4096 * tilesOf r

/-- Address of an element's integer. -/
def elemAt (r : Region) (bank i : Nat) : Nat := bankBase r bank + esOf r * i

/-- Address of a tile's state line. -/
def stateAt (r : Region) (bank t : Nat) : Nat := bankBase r bank + bankBytes r - 64 * tilesOf r + 64 * t

/-! ### The tile-state line (R231) -/

/-- A tile-state line. FLAGS: bit 0 NONFINITE, 1 RANGE_Q, 2 RANGE_N, 3 ANEXT_V, 4 REDUCED, 5 GATHERED. -/
structure Tile where
  anchor : Int := 0
  anext : Int := 0
  emax : Option Int := none
  flags : Nat := 0
  count : Nat := 0
  cnsum : Nat := 0
  deriving DecidableEq, Repr, Inhabited

/-- A signed number in a given count of bytes. -/
def toLeInt (n : Nat) (i : Int) : Bytes := toLe n (i % (2 ^ (8 * n) : Nat)).toNat

/-- The fields of a tile-state line. -/
def tileOf (b : Bytes) : Tile :=
  { anchor := signed 16 (fld b 0 2), anext := signed 16 (fld b 2 2)
    emax := if fld b 4 2 = 0x8000 then none else some (signed 16 (fld b 4 2))
    flags := fld b 6 1 % 64, count := fld b 8 4, cnsum := fld b 12 4 }

/-- The bytes of a tile-state line. -/
def tileBytes (t : Tile) : Bytes :=
  toLeInt 2 t.anchor ++ toLeInt 2 t.anext ++ (match t.emax with | none => toLe 2 0x8000 | some e => toLeInt 2 e)
    ++ toLe 1 t.flags ++ zeros 1 ++ toLe 4 t.count ++ toLe 4 t.cnsum ++ zeros 48

/-- The larger of two EMAX values, none the lowest (R251). -/
def maxE : Option Int → Option Int → Option Int
  | none, b => b
  | a, none => a
  | some a, some b => some (max a b)

/-- The cleared tile with an anchor (R239, R246). -/
def clearedTile (a : Int) : Tile := { anchor := a, anext := a }

/-- RANGE of a tile (R231). -/
def tileRange (t : Tile) : Bool := t.flags.testBit 1 || t.flags.testBit 2

/-! ### Stored integers (R229) -/

/-- The w-bit number a stored Datum holds. -/
def loadInt (r : Region) (b : Bytes) : Nat := leNat b % 2 ^ datumBits r

/-- The storage form of a w-bit number: 48 bits are extended with copies of bit 47. -/
def storeInt (r : Region) (q : Nat) : Bytes :=
  let q := q % 2 ^ datumBits r
  if r.width = 1 && q.testBit 47 then toLe 8 (q + 0xFFFF000000000000) else toLe (esOf r) q

/-! ### Flags and events -/

/-- The counts of flagged tiles of a region follow a tile's change (R231, R266). -/
def noteTile (ri : Nat) (old new : Tile) (w : W) : W :=
  let step := fun (n : Nat) (a b : Bool) => if a == b then n else if b then sat32 n else n - 1
  modRgn ri (fun r => { r with rangeTiles := step r.rangeTiles (tileRange old) (tileRange new)
                               nonfiniteTiles := step r.nonfiniteTiles (old.flags.testBit 0) (new.flags.testBit 0) }) w

/-- The context's summary: NONFINITE and RANGE (R231). -/
def ctxNonfinite (w : W) (x : Nat) : Bool := (rgnsOfCtx w x).any (fun r => r.2.kind == .accum && decide (0 < r.2.nonfiniteTiles))
def ctxRange (w : W) (x : Nat) : Bool := (rgnsOfCtx w x).any (fun r => r.2.kind == .accum && decide (0 < r.2.rangeTiles))

/-- The open Watch of a context is marked for replay (R198). -/
def markReplay (x : Nat) (w : W) : W :=
  modWatch x (fun k => if k.phase == .idle then k else { k with replay := true }) w

/-- Count a contribution in a tile (R235). -/
def countTile (r : Region) (n cn : Nat) (t : Tile) : Tile :=
  let c := sat 0xFFFFFFFF (t.count + n)
  { t with count := c, cnsum := (t.cnsum + cn) % 2 ^ 32, flags := if 2 ^ r.headroom < c then t.flags ||| 4 else t.flags }

/-- The COUNT_RANGE event after a change of COUNT (R235). -/
def countEvent (ri t : Nat) (x : Tile) (w : W) : W :=
  let r := getRgn w ri
  if 2 ^ r.headroom < x.count then logEv 0x0701 2 0 r.ctx [0, ri, t] w else w

/-! ### Adding -/

/-- Add a converted element to the integers that start at element lo. -/
def addElem (r : Region) (lo : Nat) (acc : Tile × Bytes) (i : Nat) (c : Conv) : Tile × Bytes :=
  let t := { acc.1 with flags := acc.1.flags ||| b2n c.nonfinite ||| 2 * b2n c.rangeQ, emax := maxE acc.1.emax c.exp }
  let off := esOf r * (i - lo)
  (t, putAt acc.2 off (storeInt r (loadInt r (bytesAt acc.2 off (esOf r)) + c.add)))

/-- Convert elements with shift S and add each into its integer; indices within the tile (R233, R236). -/
def addElems (r : Region) (S : Int) (lo : Nat) (xs : List (Nat × FNum)) (t : Tile) (b : Bytes) : Tile × Bytes :=
  xs.foldl (fun acc x => addElem r lo acc x.1 (convert x.2 S acc.1.anchor (datumBits r) r.headroom)) (t, b)

/-- Read a tile-state line for somebody. -/
def readTileAs (acc : Acc) (r : Region) (bank t : Nat) (w : W) : Rsp × Tile × W :=
  let (c, b, w) := readLine acc (stateAt r bank t) w
  (c, tileOf b, w)

/-- Read a tile-state line for the AU (R63). -/
def readTile (env : Env) (r : Region) (bank t : Nat) (w : W) : Rsp × Tile × W := readTileAs (auAcc env r.ctx) r bank t w

/-- Write a tile-state line for somebody; the region's counts follow when it is an ACCUM region and the line was written. -/
def writeTileAs (acc : Acc) (ri bank t : Nat) (old new : Tile) (w : W) : Rsp × W :=
  let r := getRgn w ri
  let (c, w) := writeLine acc (stateAt r bank t) (tileBytes new) w
  (c, if c == .ok then noteTile ri old new w else w)

/-- Write a tile-state line for the AU (R63). -/
def writeTile (env : Env) (ri bank t : Nat) (old new : Tile) (w : W) : Rsp × W :=
  writeTileAs (auAcc env (getRgn w ri).ctx) ri bank t old new w

/-- One contribution's elements of one tile: converted, added and counted (R233 to R235). Answers the worst code and the
flags of the tile that it set. -/
def contribTile (env : Env) (ri t : Nat) (S : Int) (cn : Nat) (xs : List (Nat × FNum)) (w : W) : Rsp × Nat × W :=
  match xs.head?, xs.getLast? with
  | some a, some z =>
    let r := getRgn w ri
    let (c0, old, w) := readTile env r 0 t w
    let at_ := elemAt r 0 (4096 * t + a.1)
    let len := esOf r * (z.1 + 1 - a.1)
    let (c1, ints, w) := readBytes (auAcc env r.ctx) at_ len w
    if worse c0 c1 != .ok then (worse c0 c1, 0, w)
    else
      let fresh := addElems r S a.1 xs { old with flags := 0 } ints
      let new := countTile r 1 cn { fresh.1 with flags := fresh.1.flags ||| old.flags }
      let l0 := lineOf at_
      let n := (at_ + len - 1 - l0) / 64 + 1
      let (c2, w) := writeBytes (auAcc env r.ctx) l0 (putAt (getBytes w l0 (64 * n)) (at_ - l0) fresh.2) w
      let (c3, w) := writeTile env ri 0 t old new w
      let w := cntMp (portOf w.build at_) 0x60 xs.length (if c3 == .ok then countEvent ri t new w else w)
      (worse c2 c3, fresh.1.flags ||| (if 2 ^ r.headroom < new.count then 4 else 0), w)
  | _, _ => (.ok, 0, w)

/-- A line of a host write to an ACCUM region (R236): the first element and the elements enabled; none when it reaches E
or enables an element in part. -/
def hostElems (r : Region) (off : Nat) (data : Bytes) (mask : Nat) : Option (List (Nat × FNum)) :=
  let sz := match r.infmt with | 0 => 4 | 1 => 2 | 2 => 2 | _ => 1
  let n := 64 / sz
  let first := off / sz
  let en := fun (i : Nat) => mask >>> (sz * i) % 2 ^ sz
  if elemsOf r < first + n || (List.range n).any (fun i => en i != 0 && en i != 2 ^ sz - 1) then none
  else some ((List.range n).filterMap (fun i =>
    if en i = 0 then none else some (first + i, inputValue r.infmt (leNat (bytesAt data (sz * i) sz)) 0)))

/-- Apply a function to the state lines of n tiles from one on: the worst code and how many anchors changed. A tile for
which it answers nothing is not written. -/
def mapTiles (env : Env) (ri bank : Nat) (f : Tile → Option Tile) : Nat → Nat → W → Rsp × Nat × W
  | 0, _, w => (.ok, 0, w)
  | n + 1, t, w =>
    let r := getRgn w ri
    let (c, old, w) := readTile env r bank t w
    let (c1, ch, w) : Rsp × Nat × W :=
      if c != .ok then (c, 0, w)
      else match f old with
      | none => (Rsp.ok, 0, w)
      | some new =>
        let (c1, w) := writeTile env ri bank t old new w
        (c1, b2n (c1 == .ok && new.anchor != old.anchor), w)
    let (c2, k, w) := mapTiles env ri bank f n (t + 1) w
    (worse c1 c2, ch + k, w)

/-- Zero the integers of n tiles from one on. -/
def zeroTiles (acc : Acc) (ri bank : Nat) : Nat → Nat → W → Rsp × W
  | 0, _, w => (.ok, w)
  | n + 1, t, w =>
    let r := getRgn w ri
    let (c, w) := writeBytes acc (elemAt r bank (4096 * t)) (zeros (4096 * esOf r)) w
    let (c2, w) := zeroTiles acc ri bank n (t + 1) w
    (worse c c2, w)

/-- The tiles a FIRST_TILE and TILES pair names: none when they reach beyond the region (R239). -/
def tileRange? (r : Region) (first n : Nat) : Option (Nat × Nat) :=
  if n = 0 then some (first, tilesOf r - first)
  else if tilesOf r < first + n then none else some (first, n)

/-! ### Anchors (R242 to R246, R255) -/

/-- T of R242; the own anchor where the tile has seen no input. -/
def tileT (r : Region) (t : Tile) (none_ : Int) : Int :=
  match t.emax with
  | none => none_
  | some e => anchorRule e r.headroom (datumBits r) r.margin

/-- The final hop of a reduce-scatter (R243). -/
def setAnext (r : Region) (t : Tile) : Tile := { t with anext := tileT r t t.anchor, flags := t.flags ||| 8 }

/-- ANCHOR := ANEXT where ANEXT_V is 1 (R243). -/
def takeAnext (t : Tile) : Option Tile := if t.flags.testBit 3 then some { t with anchor := t.anext } else none

/-- The automatic advance of one tile (R244). -/
def autoAdvance (r : Region) (t : Tile) : Option Tile :=
  if t.flags.testBit 1 then some { t with anchor := min 511 (max (t.anchor + 1) (tileT r t (-512))) } else none

/-- A Datum from one anchor to another (R255): RANGE_Q and 0 when a shift to the left fails the range check. -/
def rescale (r : Region) (q : Int) (from_ to_ : Int) : Int × Bool :=
  let d := from_ - to_
  if 0 ≤ d then
    if q ≠ 0 && decide (bitlen q.natAbs + d.toNat > datumBits r - 1 - r.headroom) then (0, true)
    else (q * 2 ^ d.toNat, false)
  else
    let m : Int := (shiftRne q.natAbs (-d).toNat : Nat)
    (if q < 0 then -m else m, false)

/-- A Datum read out in a format (R241): the encoding, and whether it became an infinity. -/
def readOut (f : Fmt) (q A : Int) : Nat × Bool :=
  let x := encodeF f (datumValue q A)
  (x, x % signBit f == infBits f)

/-! ### Chunks (R17) -/

/-- Bytes of an element as a kernel stream takes it: a stored Datum for ACCUM, else 2^ELEM (log entry 28). -/
def streamBytes (r : Region) : Nat := if r.kind == .accum then esOf r else 2 ^ r.elem

/-- Elements of a region as chunks and tiles count them. -/
def regionElems (r : Region) : Nat := if r.kind == .accum then elemsOf r else rgnBytes r / 2 ^ r.elem

/-- Elements of chunk c of a region (R17). -/
def chunkLen (r : Region) (c : Nat) : Nat :=
  let n := chunkElems r.chunk
  min n (regionElems r - c * n)

/-- Chunks of a region. -/
def numChunks (r : Region) : Nat := (regionElems r + chunkElems r.chunk - 1) / chunkElems r.chunk

/-- The streams of a run: number, role, format, LSBASE and region, those with ROLE 0 left out (R271, R283). -/
def runStreams (w : W) (r : Run) : List (Nat × Nat × Nat × Nat × Nat) :=
  let ks := (tget w.b.eng.kslots r.slot {}).streams
  ((List.range ks.length).zip ks).filterMap (fun x =>
    if x.2.1 = 0 then none else some (x.1, x.2.1, x.2.2.1, x.2.2.2, r.regions.getD x.1 0))

/-- The run an SE works for. -/
def runOf (w : W) (e : Se) : Option Run := e.run.bind (fun c => w.b.eng.runs.find? (fun r => r.cmd == c))

/-- The region whose elements and chunk size a run takes: stream 0's (R283). -/
def runRgn (w : W) (r : Run) : Region := getRgn w (r.regions.getD 0 0)

/-- The bytes of chunk c of a run in a region. -/
def runSpan (w : W) (r : Run) (c : Nat) (g : Region) : Nat × Nat :=
  let z := runRgn w r
  (g.base + c * chunkElems z.chunk * streamBytes g, chunkLen z c * streamBytes g)

/-- The bytes that SEs hold: the COD streams' lines of their chunks, until their commits are sent (R24, R277). -/
def heldRuns (w : W) : List (Nat × Nat) :=
  w.b.eng.ses.flatMap (fun e =>
    if e.2.state == .running || e.2.state == .commit then
      (match runOf w e.2 with
       | none => []
       | some r => ((runStreams w r).filter (fun x => x.2.1 == 2)).map (fun x => runSpan w r e.2.chunk (getRgn w x.2.2.2.2)))
    else [])

/-- Is a line part of a chunk that an SE holds (R24)? -/
def chunkHeld (w : W) (line : Nat) : Bool :=
  (heldRuns w).any (fun s => decide (s.1 < line + 64) && decide (line < s.1 + s.2))

end Sys2Proof.Machine
end

