-- ==== Sys2Proof/Machine/Miu.lean ====
section
/-! DEFINITION. The memory intercept unit of a port: classification, the hazard table, the merge buffer, coded writes and
their answers, AU line jobs, degraded reads of host requests and their write-backs (R22 to R24, R33 to R64, R236). -/

namespace Sys2Proof.Machine

/-! ### The arbiter of a port (R22, R25) -/

/-- The foreground classes in the order of the round-robin (R22). -/
def fgOrder : List MdClass := [.host, .se, .au, .holder, .relight]

def clsIdx : MdClass → Nat
  | .host => 0 | .se => 1 | .au => 2 | .holder => 3 | .relight => 4 | .background => 5

/-- Does a request of a class wait for the arbiter? -/
def waits (s : Slice) (c : MdClass) : Bool := s.waitq.any (fun x => x.req.cls == c)

/-- The class that is served next: background work on its reserved grant, one in 400 where the reserve is not suspended, or
when no foreground request waits; else the next foreground class in turn that has a request waiting (R22, R25, R374; log entry
115). -/
def nextClass (reserve : Bool) (s : Slice) : Option MdClass :=
  let bg := if waits s .background then some MdClass.background else none
  if reserve && bg.isSome && s.grants % 400 == 399 then bg
  else (((fgOrder ++ fgOrder).drop (clsIdx s.lastCls + 1)).find? (waits s)).or bg

/-- The request of a class that is served next: the oldest; among host requests the oldest of the highest QoS (R22). -/
def nextOf (s : Slice) (c : MdClass) : Option MdWait :=
  (s.waitq.filter (fun x => x.req.cls == c)).foldl (fun best x =>
    match best with
    | none => some x
    | some b => if c == .host && decide (b.req.qos < x.req.qos) then some x else best) none

/-- Present a request on md_ port p under a tag of the SCE's own (R39, R63). -/
def present (p : Nat) (m : MdReq) (t : Nat) (w : W) : W :=
  let w := modSlice p (fun s => { s with md := s.md ++ [{ m with tag := t }], nextTag := (t + 1) % 4096 }) w
  noteMd { port := p, addr := m.addr, lines := m.lines, op := m.op, ctx := m.ctx, qos := m.qos, cls := m.cls }
    (cntMp p (if m.op = 0 then 0x18 else 0x20) m.lines w)

def sameReq (x y : MdWait) : Bool := x.req.who == y.req.who && x.req.addr == y.req.addr && x.req.op == y.req.op

/-- One grant of the arbiter, for one line; a request is presented with its last line. None while nothing waits, no tag is
free, or the slice is quiesced (R22, R39, R376). -/
def grant (p : Nat) (w : W) : Option W :=
  let s := getSlice w p
  match if isQuiesced s then none else freeTag s, (nextClass (!helmPaused w) s).bind (nextOf s) with
  | some t, some x =>
    let last := if x.req.cls == .background then s.lastCls else x.req.cls
    let q := if x.left ≤ 1 then s.waitq.filter (fun y => !sameReq x y)
      else mapIf (sameReq x) (fun y => { y with left := y.left - 1 }) s.waitq
    let w := cntBg x.req.cls p (setSlice p { s with waitq := q, lastCls := last, grants := (s.grants + 1) % 400 } w)
    some (if x.left ≤ 1 then present p x.req t w else w)
  | _, _ => none

/-- Grants as long as there are any. -/
def grantAll (p : Nat) : Nat → W → W
  | 0, w => w
  | n + 1, w => match grant p w with
    | some w => grantAll p n w
    | none => w

/-- Lines that wait for the arbiter of a slice. -/
def waitLines (s : Slice) : Nat := s.waitq.foldl (fun n x => n + x.left) 0

/-- Serve what waits on a port. -/
def serve (p : Nat) (w : W) : W := grantAll p (waitLines (getSlice w p)) w

/-- A request for md_ port p waits for the arbiter, and is served when its turn comes (R22). -/
def issue (p : Nat) (m : MdReq) (w : W) : W :=
  serve p (modSlice p (fun s => { s with waitq := s.waitq ++ [{ req := m, left := m.lines }] }) w)

/-! ### Upstream responses (R39, R40) -/

/-- Present the response of a tag once every line has its code. -/
def respond (p tag : Nat) (w : W) : W :=
  match (getSlice w p).reqs.find? (fun r => r.tag == tag) with
  | none => w
  | some r =>
    if r.codes.all (·.isSome) then
      let w := modSlice p (fun s => { s with reqs := s.reqs.filter (fun x => x.tag != tag) }) w
      { w with b.mpRsps := { port := p, tag := tag, codes := r.codes.map (·.getD .error)
                             data := if r.op = 0 || r.op = 3 then r.data.flatten else [] } :: w.b.mpRsps }
    else w

/-- Set the code and data of one line of a host request. Data of a line that is not OK is not valid (R40, log entry 6). -/
def setLine (p tag j : Nat) (c : Rsp) (d : Bytes) (w : W) : W :=
  let (d, w) := if c == .ok then (d, w) else freshBytes 64 w
  let upd := fun (r : HostReq) => { r with codes := r.codes.set j (some c), data := r.data.set j d }
  respond p tag (modSlice p (fun s => { s with reqs := mapIf (fun r => r.tag == tag) upd s.reqs }) w)

/-- The line address j of a request. -/
def reqLine (r : MpReq) (j : Nat) : Nat := lineOf r.addr.toNat + 64 * j

/-- A refused access: counter, MPS_ERR and event (R43, R45, R59). -/
def fence (p : Nat) (read : Bool) (line ctx : Nat) (w : W) : W :=
  setMpsErr p (if read then 4 else 5) line ctx (modSlice p (fun s => { s with cntFence := s.cntFence + 1 }) w)

/-! ### Hazard table (R53, R54) -/

/-- Replace the requests listed for a line; an empty entry is free again. -/
def setHaz (p line : Nat) (q : List HazItem) (w : W) : W :=
  modSlice p (fun s =>
    if q.isEmpty then { s with haz := s.haz.filter (fun h => h.line != line) }
    else if s.haz.any (fun h => h.line == line) then { s with haz := mapIf (fun h => h.line == line) (fun h => { h with q := q }) s.haz }
    else { s with haz := s.haz ++ [{ line := line, q := q }] }) w

/-- Hazard entries that host requests occupy (R54). -/
def hostHaz (s : Slice) : Nat :=
  (s.haz.filter (fun h => h.q.any (fun i => match i.job with | .fwd _ => true | .job _ => true | _ => false))).length

/-- A request of the block's own joins its line's list, at its front or its end; where the line has no entry and none is
free it waits for one (R54). -/
def addItem (p line : Nat) (it : HazItem) (front : Bool) (w : W) : W :=
  let q := hazAt w p line
  if q.isEmpty && decide (256 ≤ hazUsed w p) then modSlice p (fun s => { s with need := s.need ++ [(line, it)] }) w
  else setHaz p line (if front then it :: q else q ++ [it]) w

/-- Change the items of one request in a line's list. -/
def modItem (p line : Nat) (j : HazJob) (f : HazItem → HazItem) (w : W) : W :=
  setHaz p line (mapIf (fun i => i.job == j) f (hazAt w p line)) w

/-- Remove a request from a line's list. -/
def dropItem (p line : Nat) (j : HazJob) (w : W) : W := setHaz p line ((hazAt w p line).filter (fun i => i.job != j)) w

/-! ### Jobs -/

def findJob (w : W) (p id : Nat) : Option Job := (getSlice w p).jobs.find? (fun j => j.id == id)
def modJob (p id : Nat) (f : Job → Job) (w : W) : W :=
  modSlice p (fun s => { s with jobs := mapIf (fun j => j.id == id) f s.jobs }) w
def dropJob (p id : Nat) (w : W) : W := modSlice p (fun s => { s with jobs := s.jobs.filter (fun j => j.id != id) }) w

/-- A new job with the next number. -/
def addJob (p : Nat) (j : Job) (w : W) : Nat × W :=
  let s := getSlice w p
  (s.nextJob, setSlice p { s with jobs := s.jobs ++ [{ j with id := s.nextJob }], nextJob := s.nextJob + 1 } w)

/-- A job of its own joins the front or the end of its line's list. -/
def enterJob (p : Nat) (j : Job) (front : Bool) (started : Bool) (w : W) : W :=
  let (id, w) := addJob p j w
  addItem p j.line { job := .job id, write := true, started := started } front w

/-- The line a job works for is answered; a merge-buffer flush and a write-back have nobody to answer. -/
def jobCode (p : Nat) (j : Job) (c : Rsp) (w : W) : W :=
  match j.who with
  | .host tag k => setLine p tag k c [] w
  | .au tag k => setLine p tag k c [] w
  | _ => w

/-- Is a job a line of a coded write, or a flush? -/
def isCoded (j : Job) : Bool := match j.who with | .host _ _ => true | .merge _ => true | _ => false

/-- Lines in the coded-write queue, 0 to 32 (R48, R64): those whose accesses have begun. -/
def cwqUsed (s : Slice) : Nat := (s.jobs.filter (fun j => isCoded j && j.step != .held && j.step != .queued)).length

/-- Lines of coded writes that have been taken and are not held: the queue's, and those that wait for a place in it. -/
def cwqTaken (s : Slice) : Nat := (s.jobs.filter (fun j => isCoded j && j.step != .held)).length

/-! ### Coded writes (R43 to R52) -/

/-- The region of a line, when the intercept treats its kind in full (R43, R59). -/
def fullRgn (w : W) (line : Nat) : Option (Nat × Region) := if inService w then rgnAt w line else none

/-- Has the context of a region passed its disable point (R45)? -/
def pastDisable (w : W) (r : Region) : Bool := inService w && (getCtx w r.ctx).state != .active

/-- How a write of a line is handled now. -/
def lineMode (w : W) (line : Nat) : WriteMode :=
  match fullRgn w line with
  | some (ri, r) => if codedKind r.kind then writeMode w ri r (line - r.base) else .plain
  | none => .plain

/-- A line with its enabled bytes replaced. -/
def maskIn (mask : BitVec 64) (old new : Bytes) : Bytes :=
  (List.range 64).map (fun i => if mask.getLsbD i then new.getD i 0 else old.getD i 0)

/-- What became of an attempt to start a request: under way; finished, with other lines where requests may go on; held;
waiting; or to be tried again behind a flush. -/
inductive Try where
  | started | finished (ls : List (Nat × Nat)) | held | waits | again
  deriving DecidableEq, Repr

/-- Take a merge entry out and make its flush the next request of its line (R51). -/
def flushEntry (p : Nat) (m : Merge) (w : W) : W :=
  let w := modSlice p (fun s => { s with merge := s.merge.filter (fun x => x.line != m.line), cntMerge := s.cntMerge + 1 }) w
  enterJob p { id := 0, line := m.line, who := .merge m.ctx, ctx := m.ctx, bytes := m.data, mask := m.mask } true false w

/-- The merge entry of a line. -/
def mergeAt (w : W) (p line : Nat) : Option Merge := (getSlice w p).merge.find? (fun m => m.line == line)

/-- Does a command's or a sweep's degraded read hold the writes of a line: it is under way, or its decoded line still waits
for the command (R53, R57)? -/
def lineRebuilt (w : W) (line : Nat) : Bool := w.b.cmds.any (fun k => (tfind k.patch line).isSome) || lineFetched w line

/-- Is a write that arrived while its region was being encoded still held for the region's ENCODE units (R46)? -/
def encHeld (w : W) (j : Job) : Bool :=
  j.enc && (match rgnAt w j.line with
    | some (ri, _) => w.b.units.any (fun u => u.kind == 3 && u.region == ri && !u.complete)
    | none => false)

/-- Begin the accesses of a coded-write line job: its read-before-write, or a plain write; a held write waits (R24, R46,
R47), and one that finds the coded-write queue full (R48). The accesses carry the host request's ctx and qos, those of a flush
the ctx of the entry's last writer and qos 0 (DESIGN CHOICE, log entry 90: R63 does not list them). -/
def beginJob (p : Nat) (j : Job) (w : W) : Try × W :=
  let mode := lineMode w j.line
  if mode == .held || (inService w && (encHeld w j || chunkHeld w j.line || lineRebuilt w j.line)) then
    (.held, modJob p j.id (fun j => { j with step := .held }) w)
  else if 32 ≤ cwqUsed (getSlice w p) then (.waits, modJob p j.id (fun j => { j with step := .queued }) w)
  else
    let rd : MdReq := { tag := 0, addr := j.line, lines := 1, op := 0, ctx := j.ctx, qos := j.qos, who := .job p j.id }
    let wr : MdReq := { tag := 0, addr := j.line, lines := 1, op := 2, ctx := j.ctx, qos := j.qos, data := j.bytes
                        mask := j.mask.setWidth 256, who := .job p j.id }
    let w := modJob p j.id (fun j => { j with step := if mode == .coded then .reading else .writing, old := [] }) w
    (.started, issue p (if mode == .coded then rd else wr) (if mode == .coded then cntMp p 0x28 1 (cntMp p 0x30 1 w) else w))

/-- Flush a merge entry and begin its coded write: while the entry stood, nothing was under way on its line (R50, R51). -/
def flushNow (p : Nat) (m : Merge) (w : W) : W :=
  let id := (getSlice w p).nextJob
  let w := flushEntry p m w
  match findJob w p id with
  | none => w
  | some j =>
    match beginJob p j w with
    | (.started, w) => modItem p m.line (.job id) (fun x => { x with started := true }) w
    | (.held, w) => modItem p m.line (.job id) (fun x => { x with held := true }) w
    | (_, w) => w

/-- Merge a narrow line (R50); a full mask and a needed entry flush (R51). -/
def mergeLine (p : Nat) (j : Job) (w : W) : W :=
  let w := match mergeAt w p j.line with
    | some m =>
      let upd := fun (x : Merge) => { x with data := maskIn j.mask x.data j.bytes, mask := x.mask ||| j.mask, ctx := j.ctx }
      modSlice p (fun s => { s with merge := mapIf (fun x => x.line == m.line) upd s.merge }) w
    | none =>
      let w := if (getSlice w p).merge.length ≥ 64 then
          (match (getSlice w p).merge.head? with | some m => flushNow p m w | none => w) else w
      modSlice p (fun s => { s with merge := s.merge ++ [{ line := j.line, data := maskIn j.mask (zeros 64) j.bytes
                                                           mask := j.mask, ctx := j.ctx }] }) w
  match mergeAt w p j.line with
  | some m => if m.mask = BitVec.allOnes 64 then flushEntry p m w else w
  | none => w

/-- Start a coded-write line job: read-before-write, a merge, a hold, or a plain write (R24, R45 to R51). -/
def startLineJob (p : Nat) (j : Job) (w : W) : Try × W :=
  let mode := lineMode w j.line
  let isHost := match j.who with | .host _ _ => true | _ => false
  let gone := isHost && (match fullRgn w j.line with | some (_, r) => pastDisable w r | none => false)
  if gone then (.finished [], jobCode p j .denied (dropItem p j.line (.job j.id) (dropJob p j.id (fence p false j.line j.ctx w))))
  else if isHost && mode == .coded && j.mask != BitVec.allOnes 64 && !(getSlice w p).mergeDis then
    (.finished [], jobCode p j .ok (dropItem p j.line (.job j.id) (mergeLine p j (dropJob p j.id w))))
  else if isHost && mode != .plain && (mergeAt w p j.line).isSome then
    (.again, match mergeAt w p j.line with | some m => flushEntry p m w | none => w)
  else beginJob p j w

/-- Is an AU job under way on a region? -/
def auBusy (w : W) (ri : Nat) : Bool :=
  w.b.slices.any (fun s => s.2.jobs.any (fun j =>
    (match j.who with | .au _ _ => true | _ => false) && (j.step == .reading || j.step == .writing) &&
    ((rgnAt w j.line).map (·.1)) == some ri))

/-- Lines an AU job works on: the integers of its elements, then the tile-state line (R236). -/
def auLines (r : Region) (xs : List (Nat × FNum)) : List Nat :=
  match xs.head?, xs.getLast? with
  | some a, some z =>
    let l0 := lineOf (elemAt r 0 a.1)
    (List.range ((elemAt r 0 z.1 + esOf r - 1 - l0) / 64 + 1)).map (fun i => l0 + 64 * i) ++ [stateAt r 0 (a.1 / 4096)]
  | _, _ => []

/-- The lines in whose lists an AU job stands: the line that the host wrote, and those it works on (R53). -/
def auHaz (r : Region) (line : Nat) (xs : List (Nat × FNum)) : List Nat :=
  line :: (auLines r xs).filter (fun l => l != line)

/-- The lines whose lists an AU job stands in, with their ports. -/
def auStands (w : W) (p id : Nat) : List (Nat × Nat) :=
  w.b.slices.flatMap (fun s => (s.2.haz.filter (fun h => h.q.any (fun i => i.job == .au p id))).map (fun h => (s.1, h.line)))

/-- An AU job leaves the hazard tables; answers the lines where others may go on. -/
def dropAu (p id : Nat) (w : W) : List (Nat × Nat) × W :=
  let ls := auStands w p id
  (ls, ls.foldl (fun w l => dropItem l.1 l.2 (.au p id) w) w)

/-- An AU job ends before it has begun: its line is answered. -/
def auRefused (p : Nat) (j : Job) (fenced : Bool) (w : W) : Try × W :=
  let (ls, w) := dropAu p j.id (dropJob p j.id w)
  (.finished ls, jobCode p j .denied (if fenced then fence p false j.line j.ctx w else w))

/-- The next downstream access of an AU job on its context's behalf: op 0 reads, op 1 writes the next line of `new` (R63). -/
def auIssue (p : Nat) (j : Job) (op : Nat) (w : W) : W :=
  match j.todo with
  | [] => w
  | l :: _ =>
    issue (portOf w.build l) { tag := 0, addr := l, lines := 1, op := op, ctx := ((rgnAt w l).map (·.2.ctx)).getD 0, qos := clsQos .au
                               cls := .au, data := if op = 0 then [] else j.new.take 64, who := .job p j.id } w

/-- Start an AU line job once it is next on each of its lines (R23, R45, R53, R59, R236). -/
def startAuJob (p : Nat) (j : Job) (w : W) : Try × W :=
  match rgnAt w j.line with
  | none => auRefused p j false w
  | some (_, r) =>
    if !inService w || pastDisable w r then auRefused p j true w
    else match hostElems r (j.line - r.base) j.bytes j.mask.toNat with
    | none => auRefused p j true w
    | some xs =>
      let stands := auStands w p j.id
      if !stands.all (fun l => ((nextItem false (hazAt w l.1 l.2)).map (·.job)) == some (.au p j.id) && !lineFetched w l.2) then
        (.waits, w)
      else
        let j := { j with step := .reading, todo := auLines r xs, old := [] }
        let w := stands.foldl (fun w l => modItem l.1 l.2 (.au p j.id) (fun i => { i with started := true }) w) w
        (.started, auIssue p j 0 (modJob p j.id (fun _ => j) w))

/-- Start an SE's load of a line (R53, R276); a merge entry of the line is flushed first (R51). -/
def startLoad (p line e k t : Nat) (w : W) : Try × W :=
  match mergeAt w p line with
  | some m => (.again, flushEntry p m w)
  | none =>
    (.started, issue p { tag := 0, addr := line, lines := 1, op := 0, ctx := (getSe w e).ctx, qos := clsQos .se, cls := .se
                         who := .se e k t } w)

/-- A forwarded write that waited past the disable point of its region's context is denied on every line (R24, R45). -/
def denyFwd (p : Nat) (r : HostReq) (w : W) : W :=
  (List.range r.lines).foldl (fun w j =>
    let l := reqLine r.req j
    setLine p r.tag j .denied [] (fence p false l r.req.ctx.toNat (dropItem p l (.fwd r.tag) w))) w

/-- Start a forwarded request once it is next on each of its lines (R53); a merge entry of a line is flushed first. -/
def startFwd (p tag : Nat) (w : W) : Try × W :=
  match (getSlice w p).reqs.find? (fun r => r.tag == tag) with
  | none => (.waits, w)
  | some r =>
    let lines := (List.range r.lines).map (reqLine r.req)
    if r.op != 0 && lines.any (fun l => match fullRgn w l with | some (_, g) => pastDisable w g | none => false) then
      (.finished (lines.map (fun l => (p, l))), denyFwd p r w)
    else match lines.find? (fun l => (mergeAt w p l).isSome) with
    | some l => (.again, match mergeAt w p l with | some m => flushEntry p m w | none => w)
    | none =>
      if r.op != 0 && inService w && lines.any (fun l => chunkHeld w l || lineRebuilt w l) then (.held, w)
      else if !lines.all (fun l => ((nextItem false (hazAt w p l)).map (·.job)) == some (.fwd tag) && !lineFetched w l) then (.waits, w)
      else
        let w := lines.foldl (fun w l => modItem p l (.fwd tag) (fun i => { i with started := true }) w) w
        (.started, issue p { tag := 0, addr := lineOf r.req.addr.toNat, lines := r.lines, op := r.op, aop := r.req.aop
                             ctx := r.req.ctx.toNat, qos := r.req.qos.toNat, data := r.req.data, mask := r.req.mask
                             who := .host tag } w)

/-- Start what a line may start, until a request is under way or nothing more can start. -/
def kickLine (p line : Nat) : Nat → W → W
  | 0, w => w
  | n + 1, w =>
    match if lineFetched w line then none else nextItem false (hazAt w p line) with
    | none => w
    | some i =>
      let (t, w) : Try × W := match i.job with
        | .fwd tag => startFwd p tag w
        | .se e k t => startLoad p line e k t w
        | .au q id => match findJob w q id with
          | none => (.finished [], dropItem p line i.job w)
          | some j => startAuJob q j w
        | .job id => match findJob w p id with
          | none => (.finished [], dropItem p line i.job w)
          | some j => match j.who with
            | .writeBack => (.waits, w)
            | _ => startLineJob p j w
      match t with
      | .started => modItem p line i.job (fun x => { x with started := true }) w
      | .finished ls => ls.foldl (fun w l => kickLine l.1 l.2 n w) (kickLine p line n w)
      | .held => kickLine p line n (modItem p line i.job (fun x => { x with held := true }) w)
      | .waits => w
      | .again => kickLine p line n w

/-! ### Acceptance of a host request (R35 to R40, R43 to R54, R59) -/

/-- A request that is answered at once with one code on every line. -/
def answerAll (p : Nat) (r : MpReq) (op : Nat) (c : Rsp) (w : W) : W :=
  let n := r.len.toNat + 1
  let (d, w) := if op = 0 || op = 3 then freshBytes (64 * n) w else ([], w)
  { w with b.mpRsps := { port := p, tag := r.tag.toNat, codes := List.replicate n c, data := d } :: w.b.mpRsps }

/-- A request is accepted: its tag is outstanding, and every line waits in the hazard table. -/
def enter (p op : Nat) (r : MpReq) (w : W) : W :=
  let n := r.len.toNat + 1
  modSlice p (fun s => { s with cwStall := false
                                reqs := s.reqs ++ [{ tag := r.tag.toNat, op := op, req := r, lines := n
                                                     codes := List.replicate n none, data := List.replicate n [] }] }) w

/-- A forwarded request. -/
def forward (p op : Nat) (r : MpReq) (w : W) : W :=
  let n := r.len.toNat + 1
  let w := enter p op r w
  let w := (List.range n).foldl (fun w j =>
    let l := reqLine r j
    setHaz p l (hazAt w p l ++ [{ job := .fwd r.tag.toNat, write := op != 0 }]) w) w
  (List.range n).foldl (fun w j => kickLine p (reqLine r j) ((hazAt w p (reqLine r j)).length + 2) w) w

/-- The mask of line j of a write: all ones for WRITE. -/
def reqMask (op : Nat) (r : MpReq) (j : Nat) : BitVec 64 :=
  if op = 2 then BitVec.ofNat 64 (r.mask.toNat >>> (64 * j)) else BitVec.allOnes 64

/-- A coded write becomes one job a line; a line with no enabled byte changes nothing and is answered OK (R47, R50). -/
def codedLines (p op : Nat) (r : MpReq) (w : W) : W :=
  let n := r.len.toNat + 1
  let tag := r.tag.toNat
  (List.range n).foldl (fun w j =>
    let mask := reqMask op r j
    if mask = 0 then setLine p tag j .ok [] w
    else
      let line := reqLine r j
      let w := enterJob p { id := 0, line := line, who := .host tag j, ctx := r.ctx.toNat, bytes := bytesAt r.data (64 * j) 64
                            mask := mask, qos := r.qos.toNat, enc := inService w && lineMode w line == .held } false false w
      kickLine p line ((hazAt w p line).length + 2) w) (enter p op r w)

/-- The elements of line j of a contribution (R236). -/
def contribElems (w : W) (op : Nat) (r : MpReq) (j : Nat) : Option (Region × List (Nat × FNum)) :=
  let line := reqLine r j
  match rgnAt w line with
  | none => none
  | some (_, g) => (hostElems g (line - g.base) (bytesAt r.data (64 * j) 64) (reqMask op r j).toNat).map (fun xs => (g, xs))

/-- The lines in whose lists the AU jobs of a contribution will stand (R53). -/
def contribLines (w : W) (op : Nat) (r : MpReq) : List Nat :=
  (List.range (r.len.toNat + 1)).flatMap (fun j =>
    match contribElems w op r j with
    | some (g, x :: xs) => auHaz g (reqLine r j) (x :: xs)
    | _ => [])

/-- A contribution becomes one AU job a line, which joins the lists of all its lines at once, so that two jobs never wait for
each other. A line that reaches beyond the elements or enables one in part is denied, and one that enables none is answered
OK (R44, R50, R236). -/
def contribute (p op : Nat) (r : MpReq) (w : W) : W :=
  let n := r.len.toNat + 1
  let tag := r.tag.toNat
  (List.range n).foldl (fun w j =>
    let line := reqLine r j
    match contribElems w op r j with
    | none => setLine p tag j .denied [] (fence p false line r.ctx.toNat w)
    | some (_, []) => setLine p tag j .ok [] w
    | some (g, xs) =>
      let (id, w) := addJob p { id := 0, line := line, who := .au tag j, ctx := r.ctx.toNat, bytes := bytesAt r.data (64 * j) 64
                                mask := reqMask op r j, cnum := r.cnum.toNat, qos := r.qos.toNat } w
      let w := (auHaz g line xs).foldl (fun w l =>
        let q := portOf w.build l
        setHaz q l (hazAt w q l ++ [{ job := .au p id, write := true }]) w) w
      kickLine p line ((hazAt w p line).length + 2) w) (enter p op r w)

/-- Are the lines of a tile of a bank, integers and state line, free for the block's own work (R22, R23)? -/
def tileFree (w : W) (r : Region) (bank t : Nat) : Bool :=
  linesFree w (elemAt r bank (4096 * t)) (4096 * esOf r) && linesFree w (stateAt r bank t) 64

/-- Does a collective run: its work goes on, or its command has not completed (R171, R259)? -/
def collRuns (w : W) (c : Coll) : Bool := !c.finished || w.b.cmds.any (fun k => k.id == c.cmd)

/-- Is a collective running on a region, as its ACCUM region or as its OUT (R240)? -/
def collOn (w : W) (ri : Nat) : Bool :=
  w.b.colls.any (fun c => collRuns w c && (c.region == ri || (c.out.map (·.1)) == some ri))

/-- Does a collective of another queue run on an ACCUM region (R240)? -/
def foreignColl (w : W) (q ri : Nat) : Bool :=
  w.b.colls.any (fun c => collRuns w c && c.cmd.q != q && (c.region == ri || (c.out.map (·.1)) == some ri))

/-- How a request is treated. -/
inductive Treat where
  | forward | denied | coded | au | replay
  deriving DecidableEq, Repr

/-- R43, R45, R59 and R240: op 0 READ, 1 WRITE, 2 WRITE_MASKED, 3 ATOMIC. -/
def treat (w : W) (op a : Nat) : Treat :=
  match rgnAt w a with
  | none => .forward
  | some (ri, r) =>
    let wr := op = 1 || op = 2
    if op != 0 && pastDisable w r then .denied
    else match r.kind with
      | .parity => .denied
      | .staging => .denied
      | .record => if op = 0 then .forward else .denied
      | .accum =>
        if op = 0 then .forward
        else if op = 3 || !inService w then .denied
        else if collOn w ri then .replay else .au
      | .coded => if !inService w || op = 0 then .forward else if wr then .coded else .denied
      | .residual => if !inService w || op = 0 then .forward else if wr then .coded else .denied
      | .window =>
        if !inService w || op = 0 then .forward
        else if lineMode w (lineOf a) == .plain && !r.window then .forward
        else if wr then .coded else .denied
      | _ => .forward

/-- Is a request a coded write: it joins the coded-write queue (R48)? -/
def isCodedWrite (w : W) (op a : Nat) : Bool := treat w op a == .coded && lineMode w a != .plain

/-- The request at the head of the channel of an open port is taken, or none when the port has no room for it: the slice is
quiescing, host requests hold 224 entries or the table is full, or the coded-write queue is full (R35 to R54, R376). A request
counts one entry for each of its lines, whether or not the line has an entry (DESIGN CHOICE, log entry 91). -/
def takeRequest (p op : Nat) (r : MpReq) (w : W) : Option W :=
  let s := getSlice w p
  let a := r.addr.toNat
  let n := r.len.toNat + 1
  let x := r.ctx.toNat
  if s.quiesce || s.noClock then none
  else
    let reuse := s.reqs.any (fun q => q.tag == r.tag.toNat)
    let bad := a % 64 != 0 || decide (256 < a % 256 + 64 * n) || (op == 3 && n != 1)
    let w0 := cntMp p 0x10 1 (cntMp p (if op = 0 then 0x00 else 0x08) n w)
    if reuse || bad then
      let w := if reuse then setMpsErr p 7 a x w0 else w0
      some (answerAll p r op .error (if bad then setMpsErr p 6 a x w else w))
    else
      let room := decide (hostHaz s + n ≤ 224) && decide (hazUsed w p + n ≤ 256)
      match treat w op a with
      | .denied => some (answerAll p r op .denied (fence p (op = 0) a x w0))
      | .replay =>
        some (answerAll p r op .denied (markReplay (((rgnAt w a).map (·.2.ctx)).getD 0) (fence p false a x w0)))
      | .forward => if room then some (forward p op r w0) else none
      | .au =>
        let ls := contribLines w op r
        if room && ls.all (fun l => decide (hazUsed w (portOf w.build l) + ls.length ≤ 256)) then some (contribute p op r w0) else none
      | .coded =>
        if !room then none
        else if lineMode w a == .plain then some (forward p op r w0)
        else if 32 < cwqTaken s + n then none
        else some (codedLines p op r w0)

/-- CW_STALL shows whether the channel waits on a coded write (R49). -/
def noteStall (p : Nat) (w : W) : W :=
  modSlice p (fun s => { s with cwStall := match s.chan with | [] => false | (op, r) :: _ => isCodedWrite w op r.addr.toNat }) w

/-- A host request is presented on mp_ port p (R35). A port that is closed does not take it; on an open one it waits behind
the requests before it, and while there is no room (R49). -/
def acceptHost (p op : Nat) (r : MpReq) (w : W) : W :=
  let waits := fun (w : W) => modSlice p (fun s => { s with chan := s.chan ++ [(op, r)] }) w
  if !portsOpen w || decide (w.build.nmp ≤ p) then w
  else if !(getSlice w p).chan.isEmpty then waits w
  else match takeRequest p op r w with
    | some w => w
    | none => noteStall p (waits w)

/-- Requests of the channel are taken in order as far as there is room (R49). -/
def drainChan (p : Nat) : Nat → W → W
  | 0, w => w
  | n + 1, w =>
    match (getSlice w p).chan with
    | [] => w
    | (op, r) :: t =>
      if !portsOpen w then w
      else match takeRequest p op r (modSlice p (fun s => { s with chan := t }) w) with
        | some w => drainChan p n (noteStall p w)
        | none => noteStall p w

/-- Requests that wait for a hazard entry take the ones that are free, in order (R54). -/
def admitNeed (p : Nat) : Nat → W → W
  | 0, w => w
  | n + 1, w =>
    match (getSlice w p).need with
    | [] => w
    | (line, it) :: t =>
      let q := hazAt w p line
      if q.isEmpty && decide (256 ≤ hazUsed w p) then w
      else
        let w := setHaz p line (q ++ [it]) (modSlice p (fun s => { s with need := t }) w)
        admitNeed p n (kickLine p line (q.length + 3) w)

/-- What waits for room in a slice goes on: requests for an entry, jobs for the coded-write queue, the channel. -/
def goOnSlice (p : Nat) (w : W) : W :=
  let w := admitNeed p (getSlice w p).need.length w
  let w := ((getSlice w p).haz.map (·.line)).foldl (fun w l => kickLine p l ((hazAt w p l).length + 2) w) w
  drainChan p (getSlice w p).chan.length w

/-- A request of a line is done: the next one starts, and what waits for room goes on. -/
def doneItem (p line : Nat) (j : HazJob) (w : W) : W :=
  let w := dropItem p line j w
  goOnSlice p (kickLine p line ((hazAt w p line).length + 2) w)

/-- Held writes are looked at again, and everything that waits on a slice (R24, R46, R154). -/
def kickSlice (p : Nat) (w : W) : W :=
  let lines := (getSlice w p).haz.map (·.line)
  goOnSlice p (lines.foldl (fun w l =>
    let w := setHaz p l ((hazAt w p l).map (fun i => { i with held := false })) w
    kickLine p l ((hazAt w p l).length + 2) w) w)

/-- All slices. -/
def kickAll (w : W) : W := (w.b.slices.map (·.1)).foldl (fun w p => kickSlice p w) w

/-! ### Answers to jobs -/

/-- A coded line has been written and its delta waits for the PDE: handed over when the send queue has room (R47, R184);
discarded when coded traffic has stopped (R60). A slice that is quiescing closes the HOST units it adds to (R376). -/
def handJob (p id : Nat) (w : W) : W :=
  match findJob w p id with
  | none => w
  | some j =>
    if lineMode w j.line == .plain then jobCode p j .ok (dropJob p id w)
    else if sqFull (getSlice w (pathOf w p)) then modJob p id (fun j => { j with step := .pde }) w
    else
      match rgnAt w j.line with
      | some (ri, _) =>
        let w := jobCode p j .ok (dropJob p id (pdeDelta ri j.line none (xorBytes j.old j.new) w).2)
        if (getSlice w p).quiesce then closeHostUnits (pathOf w p) (fun _ => true) w else w
      | none => jobCode p j .ok (dropJob p id w)

/-- Jobs whose delta waits for the PDE try again, and what waits for their places goes on. -/
def kickPde (w : W) : W :=
  w.b.slices.foldl (fun w s =>
    let q := s.2.jobs.filter (fun j => j.step == .pde)
    if q.isEmpty then w else goOnSlice s.1 (q.foldl (fun w j => handJob s.1 j.id w) w)) w

/-- The old line of a coded write is known: the new line goes downstream (R47). -/
def writeNew (p id : Nat) (old : Bytes) (w : W) : W :=
  match findJob w p id with
  | none => w
  | some j =>
    let new := maskIn j.mask old j.bytes
    let w := modJob p id (fun j => { j with old := old, new := new, step := .writing }) w
    issue p { tag := 0, addr := j.line, lines := 1, op := 1, ctx := j.ctx, qos := j.qos, data := new, who := .job p id } w

/-- The Helm schedules a parity check or rebuild of the stripe of a line, for a chunk's line once its unit is applied (R48,
R159, log entry 87). -/
def schedCheck (line : Nat) (unit : Option (Nat × BitVec 64)) (w : W) : W :=
  if w.b.checks.contains (line, unit) then w else { w with b.checks := w.b.checks ++ [(line, unit)] }

/-- A coded write ends without its line written: MD_ERROR, and the code of R48; a flush has nobody to answer (R52). -/
def failJob (p : Nat) (j : Job) (c : Rsp) (errBit : Nat) (w : W) : W :=
  let w := match j.who with
    | .merge x => setMpsErrGirq p 0 j.line x (if errBit = 0 then w else setMpsErr p errBit j.line x w)
    | _ => setMpsErr p errBit j.line j.ctx w
  doneItem p j.line (.job j.id) (jobCode p j c (dropJob p j.id w))

/-- The answer to a coded write's read-before-write (R48). -/
def codedRead (p : Nat) (j : Job) (c : Rsp) (d : Bytes) (w : W) : W :=
  match c with
  | .ok => writeNew p j.id d w
  | .poison =>
    match rgnAt w j.line with
    | none => failJob p j .poison 3 w
    | some (ri, r) =>
      let g := grpOf w r
      let (s, _, line) := stripeOf g r g.self (j.line - r.base)
      match startFetch (.job p j.id) (r.grp.getD 0) ri s line 1 g.self w with
      | (some _, w) => modJob p j.id (fun j => { j with step := .degraded }) w
      | (none, w) => failJob p j .poison 3 w
  | c => failJob p j c 0 w

/-- The answer to a job's write (R45, R47, R48, R57): the delta enters the running Bearing, is handed to the PDE, and the
line leaves the hazard table. -/
def lineWritten (p : Nat) (j : Job) (c : Rsp) (w : W) : W :=
  match c with
  | .ok =>
    let isPlain := j.old.isEmpty
    let bear := fun (w : W) => match fullRgn w j.line with
      | some (ri, _) => bearingDelta ri j.line (xorBytes j.old j.new) w
      | none => w
    let w := if isPlain then jobCode p j .ok (dropJob p j.id w) else handJob p j.id (bear w)
    doneItem p j.line (.job j.id) w
  | c => failJob p j (if c == .denied then .denied else .error) 0 (if j.old.isEmpty then w else schedCheck j.line none w)

/-- An access of the block's own that ends with nobody to answer: DENIED and ERROR set MD_ERROR, and POISON is logged (R57, R64). -/
def noteFailed (p line ctx : Nat) (c : Rsp) (w : W) : W :=
  match c with
  | .ok => w
  | .poison => logOther 1 0 p ctx [0, 0, line] w
  | _ => setMpsErr p 0 line ctx w

/-- The answer to a write-back: a failure is logged (R57). -/
def backWritten (p : Nat) (j : Job) (c : Rsp) (w : W) : W :=
  let w := noteFailed p j.line j.ctx c w
  doneItem p j.line (.job j.id) (dropJob p j.id w)

/-- An AU job ends with a code; a line that failed marks the context's Watch for replay (R44). -/
def auEnd (p : Nat) (j : Job) (c read : Rsp) (w : W) : W :=
  let x := ((rgnAt w j.line).map (·.2.ctx)).getD 0
  let w := if c == .ok then w else markReplay x (setMpsErr p (if read == .poison then 1 else 0) j.line j.ctx w)
  let (ls, w) := dropAu p j.id (jobCode p j c (dropJob p j.id w))
  ls.foldl (fun w l => goOnSlice l.1 (kickLine l.1 l.2 ((hazAt w l.1 l.2).length + 2) w)) w

/-- An AU job's reads are complete: its elements are added and the lines go back (R236). -/
def auCompute (p : Nat) (j : Job) (r : Region) (xs : List (Nat × FNum)) (w : W) : W :=
  let n := j.old.length - 64
  let first := ((xs.head?).map (·.1)).getD 0
  let lines := auLines r xs
  let at_ := elemAt r 0 first - lines.headD 0
  let old := tileOf (j.old.drop n)
  let res := addElems r 0 first xs { old with flags := 0 } ((j.old.take n).drop at_)
  let t := { res.1 with flags := res.1.flags ||| old.flags }
  let new := if first % 4096 = 0 then countTile r 1 j.cnum t else t
  let j := { j with step := .writing, todo := lines, new := putAt (j.old.take n) at_ res.2 ++ tileBytes new }
  auIssue p j 1 (modJob p j.id (fun _ => j) (cntMp p 0x60 xs.length w))

/-- The tile-state line of an AU job has been written: the region's counts follow, and COUNT_RANGE (R231, R235, R266). -/
def auNoted (j : Job) (ri : Nat) (xs : List (Nat × FNum)) (w : W) : W :=
  let first := ((xs.head?).map (·.1)).getD 0
  let new := tileOf (j.new.take 64)
  noteTile ri (tileOf (j.old.drop (j.old.length - 64))) new (if first % 4096 = 0 then countEvent ri (first / 4096) new w else w)

/-- The answer to an AU job's downstream access (R44, R236). -/
def auAnswer (p : Nat) (j : Job) (c : Rsp) (d : Bytes) (w : W) : W :=
  match rgnAt w j.line with
  | none => auEnd p j .denied .ok w
  | some (ri, r) =>
    match hostElems r (j.line - r.base) j.bytes j.mask.toNat with
    | none => auEnd p j .denied .ok w
    | some xs =>
      if j.step == .reading then
        if c != .ok then auEnd p j c c w
        else
          let j := { j with old := j.old ++ d, todo := j.todo.drop 1 }
          let w := modJob p j.id (fun _ => j) w
          if j.todo.isEmpty then auCompute p j r xs w else auIssue p j 0 w
      else
        let w := if j.todo.length == 1 && c == .ok then auNoted j ri xs w else w
        let j := { j with todo := j.todo.drop 1, new := j.new.drop 64, worst := worse j.worst c }
        let w := modJob p j.id (fun _ => j) w
        if j.todo.isEmpty then
          auEnd p j (if j.worst == .ok then .ok else if j.worst == .denied then .denied else .error) j.worst w
        else auIssue p j 1 w

/-- The answer to a job's downstream request. -/
def jobAnswer (p id : Nat) (c : Rsp) (d : Bytes) (w : W) : W :=
  match findJob w p id with
  | none => w
  | some j => match j.who with
    | .au _ _ => auAnswer p j c d w
    | .writeBack => backWritten p j c w
    | _ => if j.step == .reading then codedRead p j c d w else lineWritten p j c w

/-! ### Degraded reads of host requests (R56 to R58) -/

/-- A degraded read succeeded: MPS_CNT_DEGR, DEGRADED_OK, and DEGR of the open instance it served (R57, R213). -/
def noteDegraded (p line ctx : Nat) (w : W) : W :=
  let owner := ((rgnAt w line).map (·.2.ctx)).getD ctx
  let w := modWatch owner (fun k => if k.phase == .idle then k else { k with degr := k.degr + 1 }) w
  cntGlb 0x18 1 (setMpsErr p 2 line ctx (modSlice p (fun s => { s with cntDegr := s.cntDegr + 1 }) w))

/-- The decoded line of a forwarded host read is returned, and its write-back takes over the line's entry (R57). -/
def hostDecoded (p tag line : Nat) (d : Bytes) (w : W) : W :=
  match (getSlice w p).reqs.find? (fun r => r.tag == tag) with
  | none => doneItem p line (.fwd tag) w
  | some r =>
    let j := (line - lineOf r.req.addr.toNat) / 64
    let x := ((rgnAt w line).map (·.2.ctx)).getD 0
    let w := setLine p tag j .ok d (noteDegraded p line r.req.ctx.toNat w)
    let id := (getSlice w p).nextJob
    let w := enterJob p { id := 0, line := line, who := .writeBack, ctx := x, step := .writing, bytes := d
                          mask := BitVec.allOnes 64 } true true (dropItem p line (.fwd tag) w)
    issue p { tag := 0, addr := line, lines := 1, op := 1, ctx := x, qos := clsQos .relight, cls := .relight, data := d
              who := .job p id } w

/-- A degraded read of a host request failed (R58). -/
def hostFailed (p tag line : Nat) (w : W) : W :=
  match (getSlice w p).reqs.find? (fun r => r.tag == tag) with
  | none => doneItem p line (.fwd tag) w
  | some r =>
    doneItem p line (.fwd tag)
      (setLine p tag ((line - lineOf r.req.addr.toNat) / 64) .poison [] (setMpsErr p 3 line r.req.ctx.toNat w))

/-- Memory takes line j of a write: whole, by its mask, or through the controller's atomic operation; answers the data
returned (R35, R37). -/
def memTake (op : Nat) (aop : BitVec 4) (data : Bytes) (mask : BitVec 256) (line j : Nat) (w : W) : Bytes × W :=
  let d := bytesAt data (64 * j) 64
  match op with
  | 1 => ([], putBytes w line d)
  | 2 => ([], putBytes w line (maskIn (BitVec.ofNat 64 (mask.toNat >>> (64 * j))) (getBytes w line 64) d))
  | _ =>
    let a := Config.controllerAtomic aop (getBytes w line 64) d
    (padTo 64 a.2, putBytes w line (padTo 64 a.1))

/-- The answer to one line of a forwarded host request (R43, R55). -/
def hostLine (p : Nat) (r : HostReq) (j : Nat) (c : Rsp) (w : W) : W :=
  let line := reqLine r.req j
  let x := r.req.ctx.toNat
  let (c, w) := if r.op = 0 then readInj line c w else writeInj line c w
  let codedLine := match fullRgn w line with
    | some (_, g) => codedKind g.kind && covered w g
    | none => false
  if c == .poison && r.op = 0 && codedLine then
    match rgnAt w line with
    | none => hostFailed p r.tag line w
    | some (ri, g) =>
      let gr := grpOf w g
      let (s, _, l) := stripeOf gr g gr.self (line - g.base)
      match startFetch (.host p r.tag) (g.grp.getD 0) ri s l 1 gr.self w with
      | (some _, w) => w
      | (none, w) => hostFailed p r.tag line w
  else
    let (d, w) : Bytes × W :=
      if c != .ok then ([], w)
      else if r.op = 0 then (getBytes w line 64, w)
      else memTake r.op r.req.aop r.req.data r.req.mask line j w
    let w := match c with
      | .ok => w
      | .poison => setMpsErr p 1 line x w
      | _ => setMpsErr p 0 line x w
    doneItem p line (.fwd r.tag) (setLine p r.tag j c d w)

/-- The answer to a one-line downstream request of the block's own: its code and read data; memory takes a write that is
answered OK. -/
def memAnswer (m : MdReq) (c : Rsp) (w : W) : Rsp × Bytes × W :=
  if m.op = 0 then
    let (c, w) := readInj m.addr c w
    (c, if c == .ok then getBytes w m.addr 64 else [], w)
  else
    let (c, w) := writeInj m.addr c w
    (c, if c == .ok then memTake m.op m.aop m.data m.mask m.addr 0 w else ([], w))

/-- An answer that nobody waits for: memory takes the lines of a write that are answered OK. -/
def lateAnswer (m : MdReq) (codes : List Rsp) (w : W) : W :=
  if m.op = 0 then w
  else (List.range m.lines).foldl (fun w j =>
    if codes.getD j .error == .ok then (memTake m.op m.aop m.data m.mask (m.addr + 64 * j) j w).2 else w) w

/-! ### Lines that other work touches -/

/-- The block's own access to lines flushes their merge entries first (R51). -/
def flushLines (a n : Nat) (w : W) : W :=
  w.b.slices.foldl (fun w s =>
    (s.2.merge.filter (fun m => decide (lineOf a < m.line + 64) && decide (m.line < a + n))).foldl (fun w m =>
      let w := flushEntry s.1 m w
      kickLine s.1 m.line ((hazAt w s.1 m.line).length + 2) w) w) w

/-- Run a step of the block's own work on lines, or flush and wait while earlier requests for them are under way. -/
def onLines (a n : Nat) (f : W → W) (w : W) : W := if linesFree w a n then f w else flushLines a n w

/-- Run a step of the block's own reads on lines: held writes do not hold them back (R23). -/
def onReads (a n : Nat) (f : W → W) (w : W) : W := if linesReadable w a n then f w else flushLines a n w

/-- Flush every merge entry that a test picks out (R51). -/
def flushMerges (test : Merge → Bool) (w : W) : W :=
  w.b.slices.foldl (fun w s => (s.2.merge.filter test).foldl (fun w m =>
    let w := flushEntry s.1 m w
    kickLine s.1 m.line ((hazAt w s.1 m.line).length + 2) w) w) w

end Sys2Proof.Machine
end

