-- ==== Sys2Proof/Machine/Answer.lean ====
section
/-! DEFINITION. The responder: FETCHes of lines answered as data member or holder, and those that wait
(R56, R173, R331, R342). -/

namespace Sys2Proof.Machine

/-! ### The responder (R331) -/

/-- Send the answer of a FETCH: packets of at most 63 lines, SEQH in the first (R331). -/
def sendRsp (g : Group) (m reqid status : Nat) (seqh : Bytes) (sealed_ : Bool) : Nat → Nat → Bytes → W → W
  | 0, _, _, w => w
  | n + 1, first, data, w =>
    let here := data.take (63 * 64)
    let p := toLe 8 reqid ++ toLe 1 status ++ zeros 1 ++ toLe 2 first ++ toLe 2 (here.length / 64) ++ zeros 2
      ++ (if first = 0 then padTo 16 seqh else zeros 16) ++ here
    let w := (sendTo (slotAt g m).coord (grpForm g 5 0x50 m sealed_ p) w).2
    if (data.drop (63 * 64)).isEmpty then w else sendRsp g m reqid status seqh sealed_ n (first + 63) (data.drop (63 * 64)) w

/-- Answer REFUSED or POISON without lines. -/
def refuseFetch (g : Group) (m reqid status : Nat) (sealed_ : Bool) (w : W) : W := sendRsp g m reqid status [] sealed_ 1 0 [] w

/-- The coded region, its view and whether the lines fit one fragment, for a request as data member or holder. -/
def fetchTarget (w : W) (gi role addr lines : Nat) : Option (Nat × Region) :=
  match rgnAt w addr with
  | none => none
  | some (i, r) =>
    let found := if role = 0 then (codedByBase w gi r.base)
                 else (codedOfPartner w i).filter (fun x => x.2.grp == some gi)
    found.filter (fun x =>
      let fs := fragSize x.2.frag
      decide ((addr - r.base) % fs + 64 * lines ≤ fs) && decide (1 ≤ lines) && decide (lines ≤ 1024))

/-- May fragments of the region be served (R320, R331)? -/
def fetchServed (w : W) (ri : Nat) (v : Region) (sepoch : Nat) : Bool :=
  v.sepoch == sepoch && (grpOf w v).state != .broken && (if v.kind == .window then v.window && !streaming w .encode ri else v.state == .sounded)

/-- The units of this member that formed deltas for lines of a region and are not complete (R342). -/
def unitsTouching (w : W) (gi ri off len : Nat) : List (Nat × BitVec 64) :=
  let r := getRgn w ri
  (w.b.units.filter (fun u => u.g == gi && u.region == ri && !u.complete && decide (0 < u.lines) &&
    (let n := match u.kind with | 0 => chunkElems r.chunk * 2 ^ r.elem | 1 => 65536 | _ => fragSize r.frag
     decide (u.index * n < off + len) && decide (off < (u.index + 1) * n)))).map (fun u => (u.g, u.unit))

/-- For whom the lines of a FETCH are read: a parity scrub asks for whole fragments, which the data members read in the
background class (R424, log entry 95). -/
def fetchAcc (env : Env) (x : Nat) (p : Bytes) : Acc := if fld p 8 1 = 2 && decide (1 < fld p 0xC 4) then bgAcc env else relightAcc env x

/-- Answer a FETCH of lines as data member: its deltas of the stripe leave first, then the lines and SEQH; false while the
deltas wait, or earlier requests for the lines (R23, R51, R53, R56, R173, R342). -/
def answerData (env : Env) (gi : Nat) (g : Group) (m : Nat) (v : Region) (p : Bytes) (w : W) : Bool × W :=
  let addr := fld p 0x10 6
  let lines := fld p 0xC 4
  let (s, _, _) := stripeOf g v g.self (addr - v.base)
  let w := flushStripe gi v (partnerOf w v) s w
  if !linesReadable w addr (64 * lines) then (false, flushLines addr (64 * lines) w)
  else if deltasWait w gi v (partnerOf w v) s then (false, w)
  else
    let (code, data, w) := readSpan (fetchAcc env v.ctx p) lines addr w
    let sealed_ := v.isSealed
    if code != .ok then (true, refuseFetch g m (fld p 0 8) 1 sealed_ w)
    else
      let seqh := (ownSeqh w g s).flatMap seqField
      (true, sendRsp g m (fld p 0 8) 0 seqh sealed_ 17 0 data w)

/-- The sources and numbers a holder's request names (R331). -/
def namedSeqs (p : Bytes) : List (Nat × Nat) :=
  (List.range 16).filterMap (fun i =>
    let x := fld p (0x40 + 4 * i) 4
    if x.testBit 31 then some (i, x % 2 ^ 24) else none)

/-- Answer a FETCH of lines as holder, with the held deltas applied in a copy; false while packets or
ports are awaited (R56, R179, R331, R376). -/
def answerHolder (env : Env) (g : Group) (m : Nat) (v : Region) (p : Bytes) (w : W) : Bool × W :=
  let addr := fld p 0x10 6
  let lines := fld p 0xC 4
  let kind := fld p 8 1
  match parityAt w addr with
  | none => (true, refuseFetch g m (fld p 0 8) 2 v.isSealed w)
  | some x =>
    let named := namedSeqs p
    let streamOf := fun (i : Nat) =>
      ((slotAt g i).coord, if w.b.lnk.mcastEn && g.mcast != 0 then some (g.mcast + x.stripe % g.n) else none)
    let ready := named.all (fun n => n.1 == g.self || reached w (streamOf n.1).1 (streamOf n.1).2 1 n.2)
    if !ready || !linesReadable w addr (64 * lines) then (false, w)
    else if named.any (fun n => n.1 != g.self && lostUpTo w (streamOf n.1).1 (streamOf n.1).2 1 n.2)
        || (List.range lines).any (fun i => g.unknown.contains (addr + 64 * i)) then
      (true, refuseFetch g m (fld p 0 8) 2 v.isSealed w)
    else
      let (code, data, w) := readSpan (fetchAcc env (getRgn w x.partner).ctx p) lines addr w
      if code != .ok then (true, refuseFetch g m (fld p 0 8) 1 v.isSealed w)
      else
        let held := w.b.pool.filter (fun e => some e.g == v.grp && e.partner == x.partner && !e.applied)
        let w := snapEntries held w
        let deltas := held.flatMap (fun e =>
          (e.pkts.filter (fun k => kind != 1 ||
              (match named.find? (fun n => n.1 == e.src) with
               | some n => decide (seqAhead k.seq n.2 < 2 ^ 23)
               | none => false))).flatMap (fun k => k.lines.map (fun l => (e.src, l))))
        let data := deltas.foldl (fun (d : Bytes) sl =>
          let a := sl.2.1
          if addr ≤ a && a < addr + 64 * lines then
            let off := a - addr
            let q := (roleOf g.n g.m sl.1 x.stripe).2
            putAt d off (xorBytes (bytesAt d off 64) (gfScale (coef g.m x.index q) sl.2.2))
          else d) data
        (true, sendRsp g m (fld p 0 8) 0 [] v.isSealed 17 0 data w)

/-- The region with a base among those that name a group, of the kinds a row serves. -/
def stateRgn (w : W) (gi base : Nat) (test : Kind → Bool) : Option (Nat × Region) :=
  (rgnsOfGrp w gi).find? (fun r => r.2.base == base && test r.2.kind)

/-- A TILES answer: tile-state lines, or lines of the region named from the tile count on (log entry 31); it waits while they
cannot be read (R22, R376). -/
def answerTiles (env : Env) (fw : FetchWait) (gi m : Nat) (w : W) : W :=
  let p := fw.pk.payload
  let g := getGrp w gi
  match stateRgn w gi (fld p 0x10 6) (fun k => k == .accum) with
  | none => refuseFetch g m (fld p 0 8) 2 false w
  | some (_, r) =>
    let t := fld p 0x18 5
    let n := tilesOf r
    let all := rgnBytes r / 64
    let (a, left) := if t < n then (stateAt r 0 t, n - t) else (r.base + 64 * (t - n), n + all - t)
    let lines := min (fld p 0xC 4) (min 1024 left)
    if !linesReadable w a (64 * lines) then flushLines a (64 * lines) { w with b.fetchWaits := w.b.fetchWaits ++ [fw] }
    else
      let (c, d, w) := readSpan (relightAcc env r.ctx) lines a w
      if c != .ok then refuseFetch g m (fld p 0 8) 1 r.isSealed w else sendRsp g m (fld p 0 8) 0 [] r.isSealed 17 0 d w

/-- Serve a FETCH of lines (KIND LINE, FRAG or REBUILD) or of tile states, or let it wait (R331, R342). -/
def serveFetch (env : Env) (fw : FetchWait) (w : W) : W :=
  let pk := fw.pk
  match senderOf w pk.hdr with
  | none => w
  | some (gi, g, m) =>
    let p := pk.payload
    let role := fld p 9 1
    let wait := fun (w : W) => { w with b.fetchWaits := w.b.fetchWaits ++ [fw] }
    if fld p 8 1 = 5 then answerTiles env fw gi m w
    else match fetchTarget w gi role (fld p 0x10 6) (fld p 0xC 4) with
    | none => refuseFetch g m (fld p 0 8) 2 false w
    | some (ri, v) =>
      if !fetchServed w ri v (fld p 0xA 1) then refuseFetch g m (fld p 0 8) 2 v.isSealed w
      else if !unitsDone w fw.units then wait w
      else
        let (done, w) := if role = 0 then answerData env gi g m v p w else answerHolder env g m v p w
        if done then w else wait w

/-- A FETCH of lines arrives: under SETTLE it waits for the units that touched the lines (R342). -/
def acceptFetch (env : Env) (pk : Packet) (w : W) : W :=
  match senderOf w pk.hdr with
  | none => w
  | some (gi, _, _) =>
    let p := pk.payload
    let units := if fld p 9 1 = 0 && bit (fld p 0xB 1) 0 then
        match fetchTarget w gi 0 (fld p 0x10 6) (fld p 0xC 4) with
        | some (ri, v) => unitsTouching w gi ri (fld p 0x10 6 - v.base) (64 * fld p 0xC 4)
        | none => []
      else []
    serveFetch env { pk := pk, units := units } w

/-- Operations of this member that wait for its own deltas or lines before they ask the holders go on (R56). -/
def askAll (w : W) : W :=
  w.b.fetches.foldl (fun w o =>
    if o.asked || o.queued || o.waiting then w
    else askHolders o.id (match ownLines w o with | some a => if linesReadable w a.1 a.2 then w else flushLines a.1 a.2 w | none => w)) w

/-- Serve every FETCH that waits and can now be answered, and let the own operations go on. -/
def retryFetches (env : Env) (w : W) : W :=
  let q := w.b.fetchWaits
  askAll (q.foldl (fun w f => serveFetch env f w) { w with b.fetchWaits := [] })

end Sys2Proof.Machine
end

