-- ==== Sys2Proof/Machine/Chunks.lean ====
section
/-! DEFINITION. The end of a chunk on its SE, and the runs that end ABORTED (R24, R60, R100, R104, R276, R278, R287, R288). -/

namespace Sys2Proof.Machine

def findRun (w : W) (c : CmdId) : Option Run := w.b.eng.runs.find? (fun r => r.cmd == c)
def modRun (c : CmdId) (f : Run → Run) (w : W) : W := { w with b.eng.runs := mapIf (fun r => r.cmd == c) f w.b.eng.runs }

/-- The partition of an SE. -/
def partOfSe? (w : W) (e : Nat) : Option Nat := (w.b.parts.find? (fun p => p.2.seMask.getLsbD e)).map (·.1)

/-- An SE leaves its partition and joins another one; 16 stands for none (R100). -/
def moveSe (e p : Nat) (w : W) : W :=
  let w := { w with b.parts := w.b.parts.map (fun x => (x.1, { x.2 with seMask := x.2.seMask &&& ~~~(1#64 <<< e) })) }
  if 16 ≤ p then w else modPart p (fun x => { x with seMask := x.seMask ||| 1#64 <<< e }) w

/-- Is a request one of an SE's loads? -/
def loadOf (e : Nat) (m : MdReq) : Bool := match m.who with | .se k _ _ => k == e | _ => false

/-- Is a hazard item one of an SE's loads? -/
def itemOf (e : Nat) (i : HazItem) : Bool := match i.job with | .se k _ _ => k == e | _ => false

/-- A slice forgets the loads of an SE that it has not presented; those outstanding are answered to nobody (R104, R276). -/
def forgetLoads (e x : Nat) (s : Slice) : Slice :=
  let out := fun (line : Nat) => s.md.any (fun m => loadOf e m && m.addr == line)
  { s with waitq := s.waitq.filter (fun y => !loadOf e y.req), need := s.need.filter (fun n => !itemOf e n.2)
           haz := (s.haz.map (fun h => { h with q := h.q.filter (fun i => !itemOf e i || (i.started && out h.line)) })).filter (fun h => !h.q.isEmpty)
           md := mapIf (loadOf e) (fun m => { m with who := .late x }) s.md }

/-- The loads of an SE that its chunk has not taken end: a degraded read under way goes on to its write-back (R104, R276). -/
def dropLoads (e : Nat) (w : W) : W :=
  let x := (getSe w e).ctx
  { w with b.slices := w.b.slices.map (fun s => (s.1, forgetLoads e x s.2))
           b.fetches := w.b.fetches.map (fun o => match o.why with | .se k _ _ _ => if k == e then { o with why := .back } else o | _ => o) }

/-- An SE gives its chunk up: its loads and its hold end, and it is idle, or drained (R24, R100, R276, R278, R287). -/
def freeSe (e : Nat) (w : W) : W :=
  let s := getSe w e
  let w := match s.run with | some c => modRun c (fun r => { r with live := r.live.filter (fun x => x != s.chunk) }) w | none => w
  let w := setSe e { s with state := if s.testing && !s.readmit then .reset else if s.drain then .drained else .idle, run := none, ending := none
                            loading := [], nextLoad := 0, units := [], pc := 0, slot := 0, chunk := 0, region := 0
                            moveTo := none } (dropLoads e w)
  let w := match s.moveTo with | some p => moveSe e p w | none => w
  kickAll w

/-- A chunk outside its commit phase is discarded: nothing written, no delta (R104, R288). -/
def discardSe (e : Nat) (w : W) : W := freeSe e w

/-- Every run that a test picks out ends ABORTED: no chunk of it is dispatched any more, and its chunks outside a commit phase
are discarded (R104, R287). -/
def abortRuns (test : Run → Bool) (w : W) : W :=
  let w := { w with b.eng.runs := mapIf test (fun r => { r with aborted := true, stopped := true }) w.b.eng.runs }
  let w := w.b.eng.ses.foldl (fun w e =>
    if e.2.state == .running && ((runOf w e.2).map test).getD false then discardSe e.1 w else w) w
  { w with b.eng.runs := w.b.eng.runs.filter (fun r => !(test r && r.live.isEmpty && !w.b.cmds.any (fun k => k.id == r.cmd))) }

end Sys2Proof.Machine
end

