-- ==== Sys2Proof/Machine/Operands.lean ====
section
/-! DEFINITION. The operand layouts of the commands: opcodes and their classes, and for each layout the fields with their
reserved bits and the values their tables list (R10, R11, R99, R113 to R115, R121, R122, R135, R144, R147, R151, R196, R204,
R208, R223, R224, R238, R239, R246, R257, R263, R272, R283, R332 to R338, R349, R372, R389, R392, R402, R427, R449, R488). -/

namespace Sys2Proof.Machine

/-- Ordering classes (R115, R120). -/
inductive CmdClass where
  | free | range | serial
  deriving DecidableEq, Repr

/-- An assigned opcode: critical (two slots) and class (R115). -/
def opInfo : Nat → Option (Bool × CmdClass)
  | 0x01 => some (false, .free) | 0x02 => some (false, .serial)
  | 0x10 => some (true, .serial) | 0x11 => some (true, .serial) | 0x12 => some (false, .range)
  | 0x20 => some (false, .serial) | 0x21 => some (false, .serial) | 0x22 => some (false, .serial)
  | 0x23 => some (false, .serial) | 0x24 => some (false, .serial)
  | 0x30 => some (false, .range) | 0x31 => some (false, .range) | 0x33 => some (false, .range)
  | 0x34 => some (false, .range) | 0x35 => some (false, .range) | 0x40 => some (false, .range)
  | 0x41 => some (true, .serial) | 0x50 => some (false, .range) | 0x51 => some (false, .range)
  | 0x60 => some (true, .serial) | 0x61 => some (true, .serial) | 0x62 => some (true, .serial)
  | 0x63 => some (true, .serial) | 0x64 => some (false, .range) | 0x70 => some (false, .range)
  | 0x71 => some (false, .range) | 0x80 => some (true, .serial) | 0x81 => some (true, .serial)
  | 0x82 => some (true, .serial) | 0x83 => some (true, .serial) | 0x84 => some (true, .serial)
  | 0x85 => some (true, .serial) | 0x86 => some (true, .serial) | 0x90 => some (false, .free)
  | _ => none

/-- A field of a layout: offset, size, the bits its table does not mark reserved, and the values it lists. -/
structure FieldSpec where
  off : Nat
  len : Nat
  mask : Nat
  ok : Nat → Bool

/-- Every bit of n bytes. -/
def allBits (n : Nat) : Nat := 2 ^ (8 * n) - 1

/-- A field with every bit used and every value listed. -/
def fAny (off len : Nat) : FieldSpec := { off := off, len := len, mask := allBits len, ok := fun _ => true }

/-- A field of the low n bits. -/
def fBits (off len n : Nat) : FieldSpec := { off := off, len := len, mask := 2 ^ n - 1, ok := fun _ => true }

/-- A field whose values lie in a range. -/
def fRange (off len lo hi : Nat) : FieldSpec :=
  { off := off, len := len, mask := allBits len, ok := fun v => decide (lo ≤ v) && decide (v ≤ hi) }

/-- A region index in bits [13:0]. -/
def fIdx (off : Nat) : FieldSpec := fBits off 2 14

/-- A region index, or 0xFFFF for none. -/
def fIdxOpt (off : Nat) : FieldSpec :=
  { off := off, len := 2, mask := 0xFFFF, ok := fun v => decide (v < 0x4000) || v == 0xFFFF }

/-- An address in bits [47:0] that is a multiple of n. -/
def fAddr (off n : Nat) : FieldSpec := { off := off, len := 8, mask := 2 ^ 48 - 1, ok := fun v => v % n == 0 }

/-- The GROUP_DEFINE fields (R135). -/
def groupArgs : List FieldSpec :=
  [fAny 0x10 1, { off := 0x11, len := 1, mask := 0xFF, ok := fun v => v == 0 || (decide (3 ≤ v) && decide (v ≤ 16)) }, fAny 0x12 1,
   fAny 0x13 1, fBits 0x14 1 4, fBits 0x15 1 1, fRange 0x16 2 0 0xFFFE, fAny 0x18 2, fAny 0x1A 2, fBits 0x20 8 48,
   fRange 0x28 4 0 60000]

/-- The ARGS fields of each opcode. -/
def argsOf (op : Nat) : List FieldSpec :=
  match op with
  | 0x02 => [fBits 0x10 2 13, fRange 0x12 1 0 1, fAny 0x18 8]
  | 0x10 => [fAddr 0x10 65536, fRange 0x18 4 1 (2 ^ 24), { off := 0x1C, len := 1, mask := 0xF, ok := fun v => decide (v ≤ 9) },
      fAny 0x1D 1, fIdx 0x1E, fRange 0x20 1 0 3, fRange 0x21 1 0 4, fRange 0x22 1 0 3, fBits 0x23 1 3, fRange 0x24 1 0 2,
      fBits 0x25 1 6, fRange 0x26 1 0 2, fAny 0x27 1, { off := 0x28, len := 2, mask := 0xBFFF, ok := fun _ => true }]
  | 0x11 => [fIdx 0x10]
  | 0x12 => [fIdx 0x10, fRange 0x12 1 1 255]
  | 0x20 => [fRange 0x10 6 1 (2 ^ 48 - 1), fAny 0x16 2, fIdx 0x18, fRange 0x1A 1 1 255, fBits 0x1B 1 1]
  | 0x21 => [fAny 0x10 4]
  | 0x24 => [{ off := 0x10, len := 8, mask := 2 ^ 64 - 2 ^ 16, ok := fun _ => true }, fAny 0x18 4]
  | 0x30 => [fIdx 0x10, fBits 0x18 8 40, fBits 0x20 8 40]
  | 0x31 => [fIdx 0x10, { off := 0x12, len := 1, mask := 0xFF
                          ok := fun v => decide (v ≤ 4) || (decide (0x10 ≤ v) && decide (v ≤ 0x15)) },
      { off := 0x13, len := 1, mask := 0xFF, ok := fun v => decide (v ≤ 63) || decide (192 ≤ v) }, fAny 0x14 2,
      fBits 0x18 8 48, fBits 0x20 8 48, fBits 0x28 8 40, { off := 0x30, len := 8, mask := 2 ^ 40 - 1, ok := fun v => v != 0 }]
  | 0x33 => [fIdx 0x10, fRange 0x12 1 0 1, fBits 0x13 1 3, fRange 0x14 2 1 0xFFFF, fRange 0x16 1 0 1, fBits 0x17 1 2,
      fAny 0x18 4, fAny 0x1C 4, fAny 0x20 4, fAny 0x24 2, fIdxOpt 0x26, fIdxOpt 0x28, fRange 0x2A 2 0 384, fAny 0x2C 2,
      fBits 0x30 8 40, fAny 0x38 4]
  | 0x34 => [fIdx 0x10, { off := 0x12, len := 1, mask := 4, ok := fun _ => true }, fRange 0x13 1 0 2, fRange 0x14 2 1 0xFFFF,
      fIdxOpt 0x16, fAny 0x18 4, fAny 0x1C 4, fAny 0x20 4]
  | 0x35 => [fIdx 0x10, fRange 0x12 1 0 2, fRange 0x13 1 0 7,
      { off := 0x14, len := 2, mask := 0xFFFF, ok := fun v => decide (v ≤ 511) || decide (65024 ≤ v) }, fBits 0x18 8 40,
      fBits 0x20 8 40]
  | 0x40 => [fAny 0x10 1, fAny 0x11 1, fBits 0x12 1 1, fAny 0x14 2, fBits 0x18 8 40, fBits 0x20 8 40, fAddr 0x28 64]
      ++ (List.range 8).map (fun k => fIdx (0x30 + 2 * k))
  | 0x41 => [fRange 0x10 1 0 191, fAddr 0x18 64, fAny 0x20 4]
  | 0x50 => [fIdx 0x10, fRange 0x12 1 0 1]
  | 0x51 => [fIdx 0x10, fRange 0x12 1 0 1]
  | 0x60 => [fAny 0x10 1, fBits 0x11 1 4, fBits 0x12 1 1]
  | 0x61 => groupArgs ++ [fBits 0x2C 1 4, fRange 0x2D 1 0 1]
  | 0x62 => [fAny 0x10 1, fAny 0x12 2, fAny 0x14 4]
  | 0x63 => [fIdx 0x10, fAny 0x12 1, fRange 0x13 1 0 3, fIdxOpt 0x14, fRange 0x16 1 1 255, fAny 0x18 4]
  | 0x64 => [fIdx 0x10, fBits 0x12 1 4, { off := 0x18, len := 8, mask := 2 ^ 40 - 1, ok := fun v => v % 64 == 0 },
      { off := 0x20, len := 8, mask := 2 ^ 40 - 1, ok := fun v => v % 64 == 0 && v != 0 }, fAddr 0x28 64]
  | 0x70 => [fAddr 0x10 64, fAddr 0x18 64,
      { off := 0x20, len := 8, mask := allBits 8, ok := fun v => v % 64 == 0 && decide (64 ≤ v) && decide (v ≤ 2 ^ 40) },
      fRange 0x28 8 0 0]
  | 0x71 => [fRange 0x10 8 0 0, fAddr 0x18 64,
      { off := 0x20, len := 8, mask := allBits 8, ok := fun v => v % 64 == 0 && decide (64 ≤ v) && decide (v ≤ 2 ^ 40) },
      fAny 0x28 8]
  | 0x80 => [fRange 0x10 1 0 2, fRange 0x11 1 0 1, fRange 0x12 2 0 0xFFFE, fAny 0x18 40]
  | 0x81 => [fAny 0x10 8]
  | 0x82 => [fAny 0x10 1]
  | 0x83 => [fAddr 0x10 64, { off := 0x18, len := 4, mask := allBits 4
                              ok := fun v => v % 64 == 0 && decide (64 ≤ v) && decide (v ≤ 2097152) }, fAny 0x1C 4]
  | 0x84 => [fBits 0x10 1 4, fAny 0x12 2, fRange 0x14 2 0 4096, fRange 0x16 2 0 16384, fAny 0x18 8, fAny 0x20 2,
      fAny 0x22 2, fAny 0x24 2, fAny 0x26 2, fRange 0x28 2 0 256, fRange 0x30 4 0 24576]
  | 0x85 => groupArgs
  | 0x86 => [fRange 0x10 4 0 600000, fAny 0x14 2, fBits 0x16 1 2, fBits 0x18 8 18]
  | 0x90 => [fAddr 0x10 64, fBits 0x18 1 5]
  | _ => []

/-- The fields of the whole command: the head of the slot, ARGS, and the second slot of a critical command
(R113, R114). -/
def fieldsOf (op : Nat) (critical : Bool) : List FieldSpec :=
  [fAny 0 1, fBits 1 1 2, fAny 8 8] ++ argsOf op ++ if critical then [fAny 0x40 8, fAny 0x50 16] else []

/-- The first byte of a field that offends: a reserved bit that is set, or the field's offset for a value not listed. -/
def fieldBad (b : Bytes) (f : FieldSpec) : List Nat :=
  let v := fld b f.off f.len
  let rsv := (List.range f.len).filter (fun i => v >>> (8 * i) % 256 &&& (255 - f.mask >>> (8 * i) % 256) != 0)
  (match rsv with | i :: _ => [f.off + i] | [] => []) ++ if f.ok (v &&& f.mask) then [] else [f.off]

/-- The bytes that no field covers and that are not 0. -/
def uncoveredBad (b : Bytes) (fs : List FieldSpec) : List Nat :=
  (List.range b.length).filter (fun i =>
    b.getD i 0 != 0 && fs.all (fun f => decide (i < f.off) || decide (f.off + f.len ≤ i)))

/-- The least of a list of numbers. -/
def least : List Nat → Option Nat
  | [] => none
  | x :: t => match least t with | none => some x | some y => some (min x y)

/-- The relations between fields that R136 checks for a define or a release, after R116. -/
def groupBad (slot : Bytes) (define : Bool) : List Nat :=
  let n := fld slot 0x11 1
  let k := fld slot 0x12 1
  let m := fld slot 0x13 1
  let at_ := fun (bad : Bool) (off : Nat) => if bad then [off] else []
  if define then
    at_ (decide (n < 3) || decide (16 < n) || n != k + m) 0x11 ++ at_ (decide (k < 2) || decide (14 < k)) 0x12
      ++ at_ (decide (m < 1) || decide (4 < m)) 0x13 ++ at_ (decide (n ≤ fld slot 0x14 1)) 0x14
      ++ at_ (fld slot 0x20 8 % 64 != 0) 0x20
  else
    at_ (k != 0) 0x12 ++ at_ (m != 0) 0x13 ++ at_ (fld slot 0x14 1 != 0) 0x14 ++ at_ (fld slot 0x16 2 != 0) 0x16
      ++ at_ (fld slot 0x18 2 != 0) 0x18 ++ at_ (fld slot 0x1A 2 != 0) 0x1A ++ at_ (fld slot 0x20 8 != 0) 0x20

/-- Fields of REGION_DEFINE that must be 0 for its kind or flags, and the limits of ACCUM and RESIDUAL regions
(R144, R145, R229). -/
def regionBad (slot : Bytes) : List Nat :=
  let zeroUnless := fun (used : Bool) (off len : Nat) => if !used && fld slot off len != 0 then [off] else []
  let kind := fld slot 0x1C 1
  let coded := kind = 1 || kind = 2 || kind = 5
  let datum := kind = 4 || kind = 5
  let width := match fld slot 0x24 1 with | 0 => 32 | 1 => 48 | _ => 64
  zeroUnless (bit (fld slot 0x23 1) 2) 0x1D 1 ++ zeroUnless coded 0x1E 2 ++ zeroUnless coded 0x20 1
    ++ (if datum && fld slot 0x22 1 != (if width = 32 then 2 else 3) then [0x22] else [])
    ++ zeroUnless datum 0x24 1 ++ zeroUnless datum 0x25 1 ++ (if datum && decide (width - 8 < fld slot 0x25 1) then [0x25] else [])
    ++ zeroUnless (kind = 4) 0x26 1 ++ (if kind = 4 then (if 4 < fld slot 0x27 1 then [0x27] else []) else zeroUnless false 0x27 1)
    ++ (if !bit (fld slot 0x28 2) 15 && fld slot 0x28 2 % 0x4000 != 0 then [0x28] else [])

/-- Fields that a layout limits by another field and for which no check row of the command names a status: MALFORMED at check 3
with the rest of the layout (log entry 104). KERNEL_RUN's entries at or beyond NSTREAM are 0 (R283), SCALES without an MX format
(R238), DST without a float OUTFMT (R263), the fields DATUM_ADVANCE's MODE leaves unused (R246), MAX of INJECT_ARM (R427), and
WRAPPED without INSTALL (R392). -/
def dependentBad (slot : Bytes) : List Nat :=
  let zeroUnless := fun (used : Bool) (off len : Nat) => if !used && fld slot off len != 0 then [off] else []
  match fld slot 0 1 with
  | 0x80 => zeroUnless (fld slot 0x10 1 = 0) 0x18 40
  | 0x40 => ((List.range 8).filter (fun j => decide (fld slot 0x11 1 ≤ j) && fld slot (0x30 + 2 * j) 2 != 0)).map (fun j => 0x30 + 2 * j)
  | 0x31 =>
    let fmt := fld slot 0x12 1
    let block := if fmt = 0x12 || fmt = 0x13 then 24 else if fmt = 0x14 then 16 else 32
    if fmt < 0x10 then zeroUnless false 0x20 8
    else (if fld slot 0x18 8 % block = 0 then [] else [0x18]) ++ (if fld slot 0x28 8 % 32 = 0 then [] else [0x28])
      ++ (if fld slot 0x30 8 % 32 = 0 then [] else [0x30])
  | 0x86 => if (fld slot 0x10 4 == 0) == (fld slot 0x14 2 == 0) then [] else [0x14]
  | 0x34 => if (fld slot 0x13 1 == 0) == (fld slot 0x16 2 == 0xFFFF) then [] else [0x16]
  | 0x35 =>
    let mode := fld slot 0x12 1
    zeroUnless (mode = 2) 0x13 1 ++ zeroUnless (mode = 0) 0x14 2 ++ zeroUnless (mode != 2) 0x18 8 ++ zeroUnless (mode != 2) 0x20 8
  | _ => []

/-- Step 3 of R116: the offset of the first offending byte of a command (R11, R488). -/
def malformedAt (slot : Bytes) : Option Nat :=
  let op := fld slot 0 1
  let crit := match opInfo op with | some (c, _) => c | none => false
  let fs := fieldsOf op crit
  least (uncoveredBad slot fs ++ fs.flatMap (fieldBad slot) ++ dependentBad slot)

/-- A signed operand of a given size in bytes. -/
def argInt (b : Bytes) (off len : Nat) : Int :=
  let v := fld b off len
  if v < 2 ^ (8 * len - 1) then v else (v : Int) - 2 ^ (8 * len)

end Sys2Proof.Machine
end

