-- ==== Sys2Proof/Machine/Front.lean ====
section
/-! DEFINITION. The command front end: the checks of R116, ordering, completions, queue-pair faults, interrupts, critical
commands and the answers to fabric commands (R108 to R125, R358, R385 to R391, R400, R403). -/

namespace Sys2Proof.Machine

/-! ### Commands in flight -/

/-- The number of the fabric queue. -/
def fabricQ : Nat := 8192

def findCmd (w : W) (c : CmdId) : Option Cmd := w.b.cmds.find? (fun k => k.id == c)
def modCmd (c : CmdId) (f : Cmd → Cmd) (w : W) : W := { w with b.cmds := mapIf (fun k => k.id == c) f w.b.cmds }
def dropCmd (c : CmdId) (w : W) : W := { w with b.cmds := w.b.cmds.filter (fun k => k.id != c) }

/-- OPCODE of a command. -/
def opOf (k : Cmd) : Nat := fld k.slot 0 1

/-- A field of the command. -/
def arg (k : Cmd) (off len : Nat) : Nat := fld k.slot off len

/-- Critical commands of which one slot has been fetched, of the queue pairs that a test picks out: they are in flight
(R109, R123). -/
def halves (w : W) (test : Nat → Bool) : Nat := (w.b.qps.filter (fun q => !q.2.half.isEmpty && test q.1)).length

/-- Commands of a partition in flight (R123, R128). -/
def cmdsOfPart (w : W) (p : Nat) : Nat :=
  (w.b.cmds.filter (fun k => k.part == p && k.id.q != fabricQ)).length + halves w (fun q => partOfQp? w q == some p)

/-- The result of a command that is aborted: the bytes it has written, or the chunks of its run that reached CEND
(R104, R122, R285, R332). -/
def abortOutc (w : W) (k : Cmd) : Outc :=
  let r := match opOf k with
    | 0x40 => toLe 8 (((findRun w k.id).map (·.ended)).getD 0)
    | 0x64 => toLe 8 (64 * k.prog)
    | 0x70 => toLe 8 (64 * k.prog)
    | 0x71 => toLe 8 (64 * k.prog)
    | _ => []
  { status := .aborted, result := r }

/-- Codes of the statuses (R117). -/
def statusCode : Status → Nat
  | .ok => 0 | .okDegraded => 1 | .aborted => 2 | .authFail => 3 | .range => 4 | .nonfinite => 5 | .memberLost => 6
  | .poisoned => 7 | .denied => 8 | .timeout => 9 | .malformed => 10 | .quota => 11 | .unsupported => 12 | .watchState => 13

/-- OK or OK_DEGRADED. -/
def isOk (s : Status) : Bool := s == .ok || s == .okDegraded

/-! ### Queue pairs (R108, R110, R112, R125) -/

/-- Does the context let its queue pairs run? -/
def ctxRuns (c : Ctx) : Bool := c.state == .active || c.state == .retiring

/-- A queue pair stops before its DONE has reached the count that a waiting FENCE names: the FENCE completes ABORTED
(R107, R121). -/
def failFences (q : Nat) (w : W) : W :=
  let d := (getQp w q).done
  let waits := fun (k : Cmd) => opOf k == 2 && k.phase == .running && arg k 0x12 1 == 1 && arg k 0x10 2 % 0x2000 == q
    && decide (d < arg k 0x18 8) && k.outc.isNone
  { w with b.cmds := mapIf waits (fun k => { k with outc := some { status := .aborted, now := true } }) w.b.cmds }

/-- Every queue pair of a context stops. -/
def failCtxFences (x : Nat) (w : W) : W := (w.b.qps.filter (fun q => q.2.ctx == x && q.2.enable)).foldl (fun w q => failFences q.1 w) w

/-- Close the open HOST units of a context's regions on every slice (R160). -/
def closeCtxHost (x : Nat) (w : W) : W :=
  w.b.slices.foldl (fun w s => closeHostUnits s.1 (fun u => (getRgn w u.region).ctx == x) w) w

/-- The disable point of a context: teardown starts, the context's open HOST units close, its merge entries flush, its runs
stop and its chunks outside a commit phase are discarded (R51, R102, R104, R160). -/
def disablePoint (x : Nat) (reset : Bool) (w : W) : W :=
  let w := failCtxFences x (modCtx x (fun c => { c with state := .teardown, enable := false, resetAfter := reset }) w)
  let w := closeCtxHost x w
  let w := flushMerges (fun m => match rgnAt w m.line with | some (_, r) => r.ctx == x | none => false) w
  abortRuns (fun r => r.ctx == x) w

/-- A queue pair faults; its context, when it runs, is torn down with the cause recorded (R102, R127). -/
def qpFault (q cause : Nat) (w : W) : W :=
  let x := (getQp w q).ctx
  let w := failFences q (modQp q (fun k => { k with state := .fault, faultCause := cause }) w)
  let w := logOther 3 2 0 x [0x110000 + 64 * q + 0x20, cause, q] w
  if ctxRuns (getCtx w x) then
    disablePoint x false (modCtx x (fun c => { c with fault := true, faultCause := cause, faultQp := q }) w)
  else w

/-- A completion makes a queue pair interrupt-pending, at once or when its hold-off ends (R125). -/
def raiseQpIrq (q : Nat) (w : W) : W :=
  modQp q (fun k =>
    if k.holding then { k with heldIrq := true } else { k with irqPend := true, holding := decide (0 < k.holdoffUs) }) w

/-- The statistics of a queue pair after a completion (R448). -/
def countDone (q : Nat) (ok : Bool) (w : W) : W :=
  modQp q (fun k =>
    let wr := k.wraps ||| (if k.statCmds = 0xFFFFFFFF then 1#3 else 0) ||| (if !ok && k.statNotOk = 0xFFFFFFFF then 2#3 else 0)
    { k with statCmds := (k.statCmds + 1) % 2 ^ 32, statNotOk := (k.statNotOk + b2n (!ok)) % 2 ^ 32, wraps := wr }) w

/-- The statistics of a queue pair when a command starts (R448). -/
def countStart (k : Cmd) (w : W) : W :=
  let wait := nowUs w - k.fetchedUs
  if k.id.q = fabricQ then w
  else modQp k.id.q (fun q =>
    let n := q.statWait + wait
    { q with statWait := n % 2 ^ 32, wraps := if 2 ^ 32 ≤ n then q.wraps ||| 4#3 else q.wraps }) w

/-! ### Completions (R118, R119) -/

/-- The 32 B completion layout (R118). -/
def completionBytes (k : Cmd) (o : Outc) (sqHead : Nat) (phase : Bool) : Bytes :=
  bytesAt k.slot 8 8 ++ toLe 2 sqHead ++ toLe 1 (opOf k) ++ toLe 1 (statusCode o.status) ++ toLe 2 o.info
    ++ toLe 1 (b2n phase) ++ zeros 1 ++ padTo 16 o.result

/-- Send a FABRIC_RSP payload to the source of a fabric command (R391). -/
def sendFabric (dst : Coord) (body : Bytes) (w : W) : W :=
  let (pk, _, w) := formPacket dst { vc := 0, op := 0x08, payload := body } w
  transmit (portTo w dst) 0 pk w

/-- The answer to a fabric command, kept for repeated copies (R391). -/
def answerFabric (k : Cmd) (o : Outc) (w : W) : W :=
  let body := toLe 8 k.msgid.toNat ++ toLe 8 w.b.sec.kepoch ++ completionBytes k o 0 false ++ toLe 8 (lastOf w.b.sec k.part 1)
  let rtag := Config.kmac256 (kCmd w.b.sec k.part 1) (body ++ bytesAt k.slot 0x50 16) 128 (ascii "OLIPHOR RSP")
  let p := body ++ padTo 16 rtag
  let pk : Packet := { hdr := { dest := k.src, src := w.b.lnk.coord, vc := 0, opcode := 8, group := 0xFFFF, length := 72
                                member := 0, flags := 0, raddr := 0, seq := 0 }
                       payload := p }
  let w := { w with b.fabRsps := ({ msgid := k.msgid.toNat, src := k.src, pk := pk } :: w.b.fabRsps).take 64 }
  sendFabric k.src p w

/-- The outcome that a command completes with: the one that was decided first; ABORTED from its context's disable point on
(R104). -/
def finalOutc (w : W) (k : Cmd) (force : Bool) (o : Outc) : Outc :=
  let o := match k.outc with
    | some d => if d.now then d else { o with now := true, force := force }
    | none => { o with now := true, force := force }
  if k.id.q != fabricQ && (getCtx w k.ctx).state == .teardown && o.status != .aborted then
    { abortOutc w k with now := true, force := true }
  else { o with force := o.force || (getCtx w k.ctx).state == .teardown }

/-- Is no completion entry written: SILENT covers it (R118)? -/
def silent (k : Cmd) (o : Outc) : Bool := bit (arg k 1 1) 1 && isOk o.status && !o.force

/-- The address of the next completion entry of a queue pair (R118). -/
def cqSlot (q : Qp) : Nat := q.cqBase + 32 * q.cqTail

/-- Complete a command: DONE and the statistics, the completion entry unless SILENT covers it, the interrupt; a fabric
command is answered by a packet (R118, R119, R125, R391). A completion write that is not answered OK faults the queue
pair. `force` writes the entry whatever SILENT says (R104). While other requests for the entry's line are under way, or its
port cannot grant the write, the outcome waits (R23, R53, R376). -/
def complete (env : Env) (force : Bool) (c : CmdId) (o : Outc) (w : W) : W :=
  match findCmd w c with
  | none => w
  | some k =>
    let o := finalOutc w k force o
    if c.q != fabricQ && !silent k o && !linesFree w (cqSlot (getQp w c.q)) 32 then
      flushLines (cqSlot (getQp w c.q)) 32 (modCmd c (fun k => { k with outc := some o }) w)
    else
    let w := cntGlb 0 1 (dropCmd c w)
    if c.q = fabricQ then answerFabric k o w
    else
      let good := isOk o.status
      let w := countDone c.q good (modQp c.q (fun q =>
        { q with done := q.done + 1, notOk := if good then q.notOk else q.notOk ++ [c.n] }) w)
      let flags := arg k 1 1
      if silent k o then w
      else
        let q := getQp w c.q
        let (code, w) := writePart (seAcc env k.ctx) (cqSlot q) (completionBytes k o q.sqHead q.phase) w
        if code != .ok then qpFault c.q 2 w
        else
          let t := (q.cqTail + 1) % 2 ^ q.cqLog2
          let w := modQp c.q (fun q => { q with cqTail := t, phase := if t = 0 then !q.phase else q.phase }) w
          if bit flags 0 || q.irqAll then raiseQpIrq c.q w else w

/-- Complete with a status and INFO. -/
def done (env : Env) (c : CmdId) (st : Status) (info : Nat) (res : Bytes) (w : W) : W :=
  complete env false c { status := st, info := info, result := res } w

/-- Decide an outcome that waits for units of the command to complete (R171). -/
def outcome (env : Env) (c : CmdId) (o : Outc) (w : W) : W :=
  match findCmd w c with
  | none => w
  | some k => if unitsDone w k.units then complete env false c o w else modCmd c (fun k => { k with outc := some o }) w

/-- May a command whose outcome is decided complete: it waits for no unit (R171)? -/
def outcReady (w : W) (k : Cmd) (o : Outc) : Bool := o.now || unitsDone w k.units

/-- Complete every command whose outcome waited for units that are complete now, or for its completion entry's line (R171). -/
def settleCmds (env : Env) (w : W) : W :=
  w.b.cmds.foldl (fun w k =>
    match k.outc with
    | some o => if outcReady w k o then complete env false k.id o w else w
    | none => w) w

/-- The units a command works through are closed (R160), and its outcome follows. -/
def closeCmdUnits (c : CmdId) (w : W) : W :=
  (w.b.units.filter (fun u => u.cmd == some c && !u.closed)).foldl (fun w u => tryPrepare u.g u.unit (closeUnit u.g u.unit w)) w

/-! ### Ordering (R120) -/

/-- The bytes of a whole region. -/
def rgnRun (w : W) (i : Nat) : Nat × Nat := let r := getRgn w i; (r.base, if r.state == .free then 0 else rgnBytes r)

/-- A region index field that can say none. -/
def optIdx (v : Nat) : List Nat := if v = 0xFFFF then [] else [v % 0x4000]

/-- Source bytes of an ACCUM_WRITE (R238). -/
def srcBytes (fmt n : Nat) : Nat :=
  match fmt with
  | 0 => 4 * n | 1 => 2 * n | 2 => 2 * n | 0x12 => 3 * n / 4 | 0x13 => 3 * n / 4 | 0x14 => n / 2 | _ => n

/-- The footprint of a command: runs of bytes (R120, R122, R151, R223, R224, R238, R239, R246, R257, R263, R283, R332). -/
def footprint (w : W) (k : Cmd) : List (Nat × Nat) :=
  let idx := arg k 0x10 2 % 0x4000
  let partner := fun (i : Nat) => match (getRgn w i).partner with | some p => [rgnRun w p] | none => []
  match opOf k with
  | 0x12 => rgnRun w idx :: partner idx
  | 0x30 => [rgnRun w idx]
  | 0x31 => [rgnRun w idx, (arg k 0x18 8, srcBytes (arg k 0x12 1) (arg k 0x30 8))]
  | 0x33 => (idx :: optIdx (arg k 0x26 2) ++ optIdx (arg k 0x28 2)
      ++ if bit (arg k 0x17 1) 1 then [arg k 0x2C 2] else []).map (rgnRun w)
  | 0x34 => (idx :: optIdx (arg k 0x16 2)).map (rgnRun w)
  | 0x35 => [rgnRun w idx]
  | 0x40 => ((List.range (min 8 (arg k 0x11 1))).filter (fun j =>
      ((tget w.b.eng.kslots (arg k 0x10 1) {}).streams.getD j (0, 0, 0)).1 != 0)).map (fun j => rgnRun w (arg k (0x30 + 2 * j) 2 % 0x4000))
  | 0x50 => [rgnRun w idx]
  | 0x51 => [rgnRun w idx]
  | 0x64 => rgnRun w idx :: (arg k 0x28 8, arg k 0x20 8) :: partner idx
  | 0x70 => [(arg k 0x10 8, arg k 0x20 8), (arg k 0x18 8, arg k 0x20 8)]
  | 0x71 => [(arg k 0x18 8, arg k 0x20 8)]
  | _ => []

/-- Do two runs of bytes overlap? -/
def overlap (a b : Nat × Nat) : Bool := decide (a.1 < b.1 + b.2) && decide (b.1 < a.1 + a.2)

/-- The class of a command. -/
def classOf (k : Cmd) : CmdClass := match opInfo (opOf k) with | some (_, c) => c | none => .free

/-- The earlier commands of a command's queue that have not completed. -/
def earlier (w : W) (k : Cmd) : List Cmd := w.b.cmds.filter (fun e => e.id.q == k.id.q && decide (e.id.n < k.id.n))

/-- Does nothing that R120 lists hold a command back: an earlier Serial command, for a Serial command any earlier one, for a
Range command one whose footprint overlaps? -/
def isFree (w : W) (k : Cmd) : Bool :=
  (earlier w k).all (fun e =>
    classOf e != .serial && classOf k != .serial &&
    (classOf k != .range || !(footprint w k).any (fun a => (footprint w e).any (overlap a))))

/-- Opcodes of commands that look at the Watch phase (R195). -/
def phaseOps : List Nat := [0x20, 0x21, 0x22, 0x23, 0x24, 0x30, 0x31, 0x33, 0x34, 0x35, 0x40]

/-- Does a command wait for the end of its context's instance: abandon or torn actions are under way, and it looks at the
phase they leave (R210, R211)? -/
def awaitsEnd (w : W) (k : Cmd) : Bool :=
  k.id.q != fabricQ && phaseOps.contains (opOf k) && (getWatch w k.ctx).ending.isSome

/-- May a fetched command start: nothing holds it back, and every earlier command that nothing holds back has started, for
commands start in fetch order (R120)? -/
def mayStart (w : W) (k : Cmd) : Bool := isFree w k && !awaitsEnd w k && (earlier w k).all (fun e => e.phase == .running || !isFree w e)

/-! ### The checks of R116 -/

/-- Opcodes that PASS executes (R358), that SNUFFED executes (R403), that RETIRING executes (R103), and fabric commands
that context 0 may issue (R390). -/
def passOps : List Nat :=
  [0x01, 0x02, 0x90, 0x50, 0x84, 0x10, 0x11, 0x85, 0x60, 0x41, 0x83, 0x80, 0x81, 0x82, 0x86, 0x70, 0x71]
def snuffOps : List Nat := [0x01, 0x02, 0x90, 0x50, 0x70, 0x71]
def retireOps : List Nat := [0x01, 0x02, 0x50, 0x90, 0x11]
def ctx0Ops : List Nat := [0x84, 0x83, 0x80, 0x81, 0x82, 0x86]

/-- What a check answers: go on, or an outcome. -/
abbrev Check := Option Outc

/-- An outcome without a result. -/
def fail (st : Status) (info : Nat) : Check := some { status := st, info := info }

/-- The first check of a list that fails. -/
def firstFail (l : List Check) : Check := l.findSome? id

/-- LAST and RSN of a partition and class, as RESULT (R388). -/
def counters (s : Sec) (p c : Nat) : Bytes := toLe 8 (lastOf s p c) ++ toLe 8 (rsnOf s p c)

/-- Check 2: the tag and the counter of a critical command (R386 to R389); detector 0x11 makes the tag differ (R430). -/
def checkTag (k : Cmd) (w : W) : Check × W :=
  let s := w.b.sec
  let hit := injHit w 0x11 0
  let w := if hit then injFire 0x11 w else w
  let tagOk := !hit && padTo 16 (cmdTag s k.slot k.ctx k.part k.cls) == bytesAt k.slot 0x50 16
  let n := arg k 0x40 8
  let ix := 3 * k.part + k.cls
  let bad := fun (info : Nat) (w : W) =>
    ((some { status := .authFail, info := info, result := counters w.b.sec k.part k.cls } : Check), authFailure (opOf k) w)
  if !tagOk then bad 1 w
  else if opOf k = 0x81 then
    if n != rsnOf s k.part k.cls then bad 2 w
    else
      let last := max (lastOf s k.part k.cls) (arg k 0x10 8)
      (none, { w with b.sec.last := tset s.last ix last
                      b.sec.rsn := tset s.rsn ix ((rsnOf s k.part k.cls + 1) % 2 ^ 64) })
  else if n ≤ lastOf s k.part k.cls then bad 2 w
  else (none, { w with b.sec.last := tset s.last ix n })

/-- Checks 1 to 4 of R116, with the block states that refuse commands (R358, R400, R403) and the admission of fabric
commands (R390). -/
def checksHead (k : Cmd) (w : W) : Check × W :=
  let op := opOf k
  match opInfo op with
  | none => (fail .unsupported 0, w)
  | some (crit, _) =>
    if k.id.q = fabricQ && !crit then (fail .unsupported 0, w)
    else if w.b.glb.state == .snuffed && !snuffOps.contains op then (fail .denied 0xB1, w)
    else
      let (r, w) := if crit then checkTag k w else (none, w)
      match r with
      | some o => (some o, w)
      | none =>
        if crit && w.b.glb.state == .quarantine && op != 0x82 then (fail .denied 0xB0, w)
        else if w.b.glb.state == .pass && !passOps.contains op then (fail .denied 0xA8, w)
        else match malformedAt k.slot with
          | some off => (fail .malformed off, w)
          | none =>
            if k.id.q != fabricQ && (getCtx w k.ctx).state == .retiring && !retireOps.contains op then (fail .denied 3, w)
            else if k.id.q = fabricQ && (if k.ctx = 0 then !ctx0Ops.contains op else partOfCtx? w k.ctx != some k.part) then
              (fail .denied 4, w)
            else (none, w)

/-- Check 5 for a region: it exists and belongs to the context, and its kind suits (R116). -/
def ownRgn (w : W) (k : Cmd) (i : Nat) (kinds : List Kind) : Check :=
  let r := getRgn w i
  if r.state == .free || r.ctx != k.ctx then fail .denied 4
  else if kinds.isEmpty || kinds.contains r.kind then none else fail .denied 5

/-- Check 5 for a group: it exists and belongs to the partition. -/
def ownGrp (w : W) (k : Cmd) (g : Nat) : Check :=
  let x := getGrp w g
  if x.state == .free || x.part != k.part then fail .denied 4 else none

/-- A check that gives a DENIED with an INFO of its own. -/
def deny (bad : Bool) (info : Nat) : Check := if bad then fail .denied info else none

/-- Check 6: the context's Watch phase is one of a list (R195). -/
def inPhase (w : W) (k : Cmd) (l : List Phase) : Check :=
  if l.contains (getWatch w k.ctx).phase then none else fail .watchState 0x41

/-! ### Command rows -/

/-- A command row is about a command in flight with the row's opcode, of a context that is not being torn down. The first
time it may start, checks 1 to 4 are made and it starts; after that it goes on. -/
def cmdRow (c : CmdId) (sel : Cmd → Bool) (env : Env) (start : Cmd → W → W) (goOn : Cmd → W → W) (w : W) : W :=
  match findCmd w c with
  | none => w
  | some k =>
    if !sel k || (k.id.q != fabricQ && !ctxRuns (getCtx w k.ctx)) then w
    else match k.outc with
      | some o => if outcReady w k o then complete env false c o w else w
      | none =>
        if k.phase == .running then goOn k w
        else if !mayStart w k then w
        else
          let (r, w) := checksHead k w
          let w := modCmd c (fun k => { k with phase := .running }) (countStart k w)
          match r with
          | some o => complete env false c o w
          | none => start k w

/-- A row for commands of one opcode. -/
def isOp (op : Nat) (k : Cmd) : Bool := opOf k == op

/-- Finish with a failed check, or go on. -/
def checked (env : Env) (k : Cmd) (r : Check) (go : W → W) (w : W) : W :=
  match r with
  | some o => complete env false k.id o w
  | none => go w

end Sys2Proof.Machine
end

