-- ==== Sys2Proof/Machine/Work.lean ====
section
/-! DEFINITION. What a command reads and writes line by line: reads with degraded reads of coded lines, plain and coded
writes, and the rows of NOP, FENCE, COPY and FILL (R47, R55 to R58, R115, R119 to R122). -/

namespace Sys2Proof.Machine

/-! ### Reads -/

/-- What a read for a command gives: it waits for a degraded read or for earlier requests, or an answer. -/
inductive Got where
  | waits
  | got (c : Rsp) (d : Bytes)
  deriving DecidableEq, Repr

/-- Is a degraded read for a command under way on a line? -/
def cmdFetching (w : W) (c : CmdId) (line : Nat) : Bool := w.b.fetches.any (fun o => o.why == .cmd c && opLine w o == some line)

/-- An access that a command makes on its context's behalf (R63). -/
def cmdAcc (env : Env) (w : W) (c : CmdId) : Acc := seAcc env (((findCmd w c).map (·.ctx)).getD 0)

/-- A read of an ACCUM line for a command was answered POISON: the Watch is marked for replay (R55). -/
def notePoison (line : Nat) (w : W) : W :=
  match rgnAt w line with
  | some (_, r) => if r.kind == .accum then markReplay r.ctx w else w
  | none => w

/-- A command reads a line: a POISON answer on a coded line starts a degraded read, whose line the next attempt takes
(R55, R56, R58). -/
def lineAs (acc : Acc) (c : CmdId) (line : Nat) (w : W) : Got × W :=
  match (findCmd w c).bind (fun k => tfind k.patch line) with
  | some d => (if d.isEmpty then .got .poison (zeros 64) else .got .ok d, w)
  | none =>
    if cmdFetching w c line then (.waits, w)
    else
      let (code, d, w) := readLine acc line w
      match code, fullRgn w line with
      | .poison, some (ri, r) =>
        if codedKind r.kind && covered w r then
          let g := grpOf w r
          let (s, _, l) := stripeOf g r g.self (line - r.base)
          match startFetch (.cmd c) (r.grp.getD 0) ri s l 1 g.self w with
          | (some _, w) => (.waits, w)
          | (none, w) => (.got .poison (zeros 64), setMpsErr (portOf w.build line) 3 line r.ctx w)
        else (.got .poison (zeros 64), notePoison line w)
      | code, _ => (.got code d, w)

/-- A command reads n lines: it waits while one of them does. -/
def spanAs (acc : Acc) (c : CmdId) : Nat → Nat → W → Got × W
  | 0, _, w => (.got .ok [], w)
  | n + 1, line, w =>
    let (a, w) := lineAs acc c line w
    let (b, w) := spanAs acc c n (line + 64) w
    match a, b with
    | .got c1 d1, .got c2 d2 => (.got (worse c1 c2) (d1 ++ d2), w)
    | _, _ => (.waits, w)

/-- A command reads a line, or n lines, on its context's behalf. -/
def cmdLine (env : Env) (c : CmdId) (line : Nat) (w : W) : Got × W := lineAs (cmdAcc env w c) c line w
def cmdSpan (env : Env) (c : CmdId) (n a : Nat) (w : W) : Got × W := spanAs (cmdAcc env w c) c n a w

/-- Forget decoded lines of a command once they are used; the writes they held back go on. -/
def usedLines (c : CmdId) (a n : Nat) (w : W) : W :=
  let used := ((findCmd w c).map (·.patch)).getD [] |>.any (fun e => decide (a ≤ e.1) && decide (e.1 < a + n))
  if used then
    kickAll (modCmd c (fun k => { k with patch := k.patch.filter (fun e => !(decide (a ≤ e.1) && decide (e.1 < a + n))) }) w)
  else w

/-- The status of a command whose access was answered otherwise than OK (R55). -/
def rspStatus : Rsp → Status
  | .ok => .ok | .denied => .denied | _ => .poisoned

/-! ### Writes -/

/-- What a write for a command gives. -/
inductive Put where
  | waits
  | put (c : Rsp)
  deriving DecidableEq, Repr

/-- A command writes a line: plainly, or as a coded write with its read-before-write and its delta (R43, R47, R122). It
waits behind earlier requests for the line, at a held line, and for the PDE. -/
def cmdPut (env : Env) (c : CmdId) (line : Nat) (new : Bytes) (w : W) : Put × W :=
  if !linesFree w line 64 then (.waits, flushLines line 64 w)
  else
    match lineMode w line with
    | .held => (.waits, w)
    | .plain =>
      if inService w && chunkHeld w line then (.waits, w)
      else let (code, w) := writeLine (cmdAcc env w c) line new w; (.put code, w)
    | .coded =>
      if chunkHeld w line || sqFull (getSlice w (pathOf w (portOf w.build line))) then (.waits, w)
      else match cmdLine env c line w with
        | (.waits, w) => (.waits, w)
        | (.got .ok old, w) =>
          let (code, w) := writeLine (cmdAcc env w c) line new w
          if code != .ok then (.put code, w)
          else
            let (us, w) := codedDelta (((rgnAt w line).map (·.1)).getD 0) line (some c) (xorBytes old new) w
            let w := modCmd c (fun k => { k with units := us.foldl (fun l u => if l.contains u then l else l ++ [u]) k.units }) w
            (.put .ok, usedLines c line 64 w)
        | (.got code _, w) => (.put code, w)

/-! ### NOP and FENCE (R115, R121) -/

/-- Is a command one of the first `n` that its queue pair has fetched since its last reset? -/
def numbered (w : W) (q n i : Nat) : Bool :=
  decide ((getQp w q).numBase ≤ i) && decide (i < (getQp w q).numBase + n)

/-- The commands a FENCE still waits for: its own queue's, and those of its target. -/
def fenceOpen (w : W) (k : Cmd) : Bool :=
  let t := arg k 0x10 2 % 0x2000
  w.b.cmds.any (fun e => e.id != k.id && ((e.id.q == k.id.q && k.awaits.contains e.id.n)
    || (arg k 0x12 1 = 1 && e.id.q == t && numbered w t (arg k 0x18 8) e.id.n)))
    || (arg k 0x12 1 = 1 && decide ((getQp w t).fetched < arg k 0x18 8))

/-- Awaited commands whose status was neither OK nor OK_DEGRADED. -/
def fenceBad (w : W) (k : Cmd) : Nat :=
  let t := arg k 0x10 2 % 0x2000
  ((getQp w k.id.q).notOk.filter (fun n => k.awaits.contains n)).length
    + (if arg k 0x12 1 = 1 then
        ((getQp w t).notOk.filter (fun n => numbered w t (arg k 0x18 8) n && !(t == k.id.q && k.awaits.contains n))).length else 0)

/-- Does a queue pair still serve a FENCE that waits on it? -/
def qpServes (w : W) (q : Nat) : Bool := let k := getQp w q; k.enable && k.state == .active && ctxRuns (getCtx w k.ctx)

/-- A FENCE completes when all it waits for has completed, or ABORTED when its target no longer runs (R121); a target that
stops while the FENCE waits decides that at once (failFences). -/
def fenceGo (env : Env) (k : Cmd) (w : W) : W :=
  let t := arg k 0x10 2 % 0x2000
  if !fenceOpen w k then done env k.id .ok 0 (toLe 8 (fenceBad w k)) w
  else if arg k 0x12 1 = 1 && !qpServes w t then done env k.id .aborted 0 [] w
  else w

/-- NOP completes OK; a command with an unassigned opcode completes UNSUPPORTED here when it could not start at its fetch
(R115). -/
def execNop (c : CmdId) (env : Env) (s : State) : Host.Outcome State Fault Refusal :=
  run (cmdRow c (fun k => opOf k == 1 || (opInfo (opOf k)).isNone) env (fun k w => done env k.id .ok 0 [] w) (fun _ w => w)) s

/-- FENCE (R121). -/
def execFence (c : CmdId) (env : Env) (s : State) : Host.Outcome State Fault Refusal :=
  run (cmdRow c (isOp 2) env
    (fun k w =>
      let t := arg k 0x10 2 % 0x2000
      checked env k (deny (arg k 0x12 1 = 1 && (partOfQp? w t).isNone || arg k 0x12 1 = 1 && partOfQp? w t != some k.part) 4)
        (fenceGo env k) w)
    (fenceGo env)) s

/-! ### COPY and FILL (R122) -/

/-- The region of the context that holds a whole range. -/
def rangeRgn (w : W) (x a n : Nat) : Option Region :=
  ((rgnsOfCtx w x).find? (fun r => decide (r.2.base ≤ a) && decide (a + n ≤ r.2.base + rgnBytes r.2))).map (·.2)

/-- The DENIED checks of R122. -/
def copyCheck (w : W) (k : Cmd) (isCopy : Bool) : Check :=
  let src := arg k 0x10 8
  let dst := arg k 0x18 8
  let n := arg k 0x20 8
  let s := rangeRgn w k.ctx src n
  match rangeRgn w k.ctx dst n with
  | none => fail .denied 0x80
  | some d =>
    if isCopy && s.isNone then fail .denied 0x80
    else if isCopy && overlap (src, n) (dst, n) then fail .denied 0x81
    else if !([Kind.plain, .coded, .residual, .derived, .window].contains d.kind)
        || (isCopy && (match s with | some r => r.kind == .parity || r.kind == .staging | none => false)) then fail .denied 0x82
    else none

/-- A COPY or FILL ends: its HOST units close, and the completion waits for them (R160, R171). -/
def copyEnd (env : Env) (c : CmdId) (st : Status) (n : Nat) (w : W) : W :=
  let st := if st == .ok && ((findCmd w c).map (·.degraded)).getD false then .okDegraded else st
  outcome env c { status := st, result := toLe 8 (64 * n) } (closeCmdUnits c w)

/-- Carry out lines of a COPY or FILL in ascending order as far as they go; `left` lines are still to do. -/
def copyLines (env : Env) (k : Cmd) (isCopy : Bool) : Nat → Nat → W → W
  | 0, i, w => copyEnd env k.id .ok i w
  | left + 1, i, w =>
    let src := arg k 0x10 8 + 64 * i
    let (g, w) : Got × W :=
      if !isCopy then (Got.got Rsp.ok ((List.replicate 8 (bytesAt k.slot 0x28 8)).flatten), w)
      else if !linesReadable w src 64 then (Got.waits, flushLines src 64 w)
      else cmdLine env k.id src w
    match g with
    | .waits => w
    | .got .ok d =>
      match cmdPut env k.id (arg k 0x18 8 + 64 * i) d w with
      | (.waits, w) => w
      | (.put .ok, w) =>
        copyLines env k isCopy left (i + 1) (usedLines k.id src 64 (modCmd k.id (fun k => { k with prog := i + 1 }) w))
      | (.put c, w) => copyEnd env k.id (rspStatus c) i w
    | .got c _ => copyEnd env k.id (rspStatus c) i w

/-- Go on with a COPY or FILL where it stands. -/
def copyGo (env : Env) (isCopy : Bool) (k : Cmd) (w : W) : W :=
  let n := arg k 0x20 8 / 64
  copyLines env k isCopy (n - k.prog) k.prog w

/-- COPY (R122). -/
def execCopy (c : CmdId) (env : Env) (s : State) : Host.Outcome State Fault Refusal :=
  run (cmdRow c (isOp 0x70) env (fun k w => checked env k (copyCheck w k true) (copyGo env true k) w) (copyGo env true)) s

/-- FILL (R122). -/
def execFill (c : CmdId) (env : Env) (s : State) : Host.Outcome State Fault Refusal :=
  run (cmdRow c (isOp 0x71) env (fun k w => checked env k (copyCheck w k false) (copyGo env false k) w) (copyGo env false)) s

end Sys2Proof.Machine
end

