-- ==== Sys2Proof/Machine/Stream.lean ====
section
/-! DEFINITION. Streams of data fragments: Sounding, window encoding and Restripe, with their descriptors and end notices
(R46, R150 to R154, R205 to R207, R326, R351 to R353). -/

namespace Sys2Proof.Machine

/-! ### FORM messages (R326) -/

/-- A FORM message behind its MSGID. -/
structure FormMsg where
  kind : Nat
  slot : Nat
  code : Nat := 0
  sepoch : Nat := 0
  coord : Coord
  count : Nat := 0
  endmask : Nat := 0
  body : Bytes := []

/-- The payload of a FORM message behind its MSGID. -/
def formPayload (w : W) (f : FormMsg) : Bytes :=
  toLe 1 f.kind ++ toLe 1 f.slot ++ toLe 1 f.code ++ toLe 1 f.sepoch ++ toLe 4 f.coord.toNat ++ toLe 8 w.b.lnk.epoch.toNat
    ++ toLe 4 f.count ++ toLe 2 f.endmask ++ zeros 2 ++ f.body

/-- Send a FORM message to a member of a group. -/
def formTo (gi m : Nat) (f : FormMsg) (w : W) : W :=
  (msgMember (getGrp w gi) m 0x02 false .other (formPayload w f) w).2

/-- Send a FORM message to several members of a group. -/
def formToAll (gi : Nat) (ms : List Nat) (f : Nat → FormMsg) (w : W) : W := ms.foldl (fun w m => formTo gi m (f m) w) w

/-- The members of a group other than this one. -/
def others (g : Group) : List Nat := (List.range g.n).filter (fun i => i != g.self)

/-! ### Streams -/

def streamIsOn (k : StreamKind) (ri : Nat) (s : Stream) : Bool := s.kind == k && s.region == ri
def findStream (w : W) (k : StreamKind) (ri : Nat) : Option Stream := w.b.streams.find? (streamIsOn k ri)
def modStream (k : StreamKind) (ri : Nat) (f : Stream → Stream) (w : W) : W :=
  { w with b.streams := mapIf (streamIsOn k ri) f w.b.streams }
def dropStream (k : StreamKind) (ri : Nat) (w : W) : W :=
  { w with b.streams := w.b.streams.filter (fun s => !streamIsOn k ri s) }

/-- The region as the stream's geometry sees it. -/
def streamView (w : W) (s : Stream) : Region :=
  let r := getRgn w s.region
  match s.kind with
  | .restripe => (newView r).getD r
  | _ => r

/-- The kind of the units of a stream (R157). -/
def streamUnitKind : StreamKind → Nat
  | .sound => 2 | .encode => 3 | .restripe => 4

/-- The origin of the units of a stream (R158): for a Restripe, the engine it holds (log entry 26). -/
def streamOrigin (s : Stream) : Nat :=
  match s.kind with
  | .restripe => 0x61 + s.engine.getD 0
  | _ => 0x60

/-- Does this member take part with data and a partner of its own? A member of the old group only does not (R351). -/
def streams (s : Stream) : Bool := s.kind != .restripe || s.partner != 0xFFFF

/-! ### Descriptors (R152, R153, R326) -/

/-- The fields of a descriptor before its SEQ fields. -/
def descHead (v p : Region) (wn a : Nat) : Bytes :=
  toLe 8 v.base ++ toLe 4 v.size ++ toLe 1 (kindCode v.kind) ++ toLe 1 v.frag ++ toLe 1 v.chunk ++ toLe 1 v.elem
    ++ toLe 8 p.base ++ toLe 4 p.size ++ toLe 6 wn ++ toLe 1 a ++ zeros 1

/-- The own descriptor of a stream. -/
def ownDesc (w : W) (s : Stream) : Bytes := let v := streamView w s; descHead v (partnerOf w v) s.w s.a

/-- The last DELTA numbers sent on the streams that reach a member (R153). -/
def descSeqs (w : W) (g : Group) (m : Nat) : Bytes :=
  seqField (lastSeq w (slotAt g m).coord.toNat false 1) ++
    (List.range 4).flatMap (fun p =>
      seqField (if p < g.m && g.mcast != 0 then lastSeq w (g.mcast + subMod m p g.n) true 1 else none))

/-- Send the descriptor of a stream to every other member of its group. -/
def sendDescs (s : Stream) (w : W) : W :=
  let g := getGrp w s.g
  (others g).foldl (fun w m =>
    formTo s.g m { kind := 1, slot := g.self, sepoch := s.sepoch, coord := w.b.lnk.coord
                   body := ownDesc w s ++ descSeqs w g m } w) w

/-- Does a held descriptor belong to the attempt of a stream: by group and epoch, and for window encoding by w and a too
(R152)? A descriptor names its region by the base; one whose base is that of no region of the group that streams under the
epoch belongs to the oldest such stream, which it then differs from (log entry 100). -/
def descOfAttempt (w : W) (s : Stream) (d : DescHeld) : Bool :=
  let attempt := fun (x : Stream) => d.g == x.g && d.sepoch == x.sepoch && streams x
    && (x.kind != .encode || (fld d.body 28 6 == x.w && fld d.body 34 1 == x.a))
  let named := fun (x : Stream) => attempt x && d.base == (getRgn w x.region).base
  attempt s && (named s || (!w.b.streams.any named && (w.b.streams.find? attempt) == some s))

/-- A stream takes the held descriptors of its attempt; answers whether one of them differs (R152). -/
def takeDescs (k : StreamKind) (ri : Nat) (w : W) : Bool × W :=
  match findStream w k ri with
  | none => (false, w)
  | some s =>
    if !streams s then (false, w)
    else
      let mine := w.b.descs.filter (descOfAttempt w s)
      let bad := mine.any (fun d => d.body.take 36 != ownDesc w s)
      let got := mine.foldl (fun l d => insertNat l d.src) s.descs
      let w := { w with b.descs := w.b.descs.filter (fun d => !descOfAttempt w s d) }
      (bad, modStream k ri (fun s => { s with descs := got }) w)

/-- Every other member's descriptor counts. -/
def allDescs (w : W) (s : Stream) : Bool := !streams s || (others (getGrp w s.g)).all (fun m => s.descs.contains m)

/-- Step 1 of R152: the partner's deltas are discarded and its parity is filled with zeros. -/
def resetPartner (env : Env) (v : Region) (w : W) : W :=
  match v.partner with
  | none => w
  | some pi =>
    let w := discardPartner pi (fun _ => true) w
    let p := getRgn w pi
    let (c, w) := writeBytes (holderAcc env p.ctx) p.base (zeros (parityBytes (grpOf w v) v)) w
    if c = .ok then w else logOther 4 0 0 p.ctx [0, 0, pi] w

/-- The parity in a partner is undefined from now on: bytes that nothing constrains (R154, R207, R210, R353, log entry 6). -/
def undefPartner (v : Region) (w : W) : W :=
  match v.partner with
  | none => w
  | some pi =>
    let (d, w) := freshBytes (parityBytes (grpOf w v) v) w
    putBytes w (getRgn w pi).base d

/-! ### End notices (R152) -/

/-- The members of other groups a notice of a Restripe goes to beside those of the new group: members of the old group
whose coordinate the new one does not list. -/
def oldOnly (w : W) (s : Stream) : List Nat :=
  let g := getGrp w s.g
  let o := getGrp w s.oldG
  if s.kind != .restripe || s.oldG == s.g then []
  else (others o).filter (fun m => !slotOut (slotAt o m).state && (memberOf g (slotAt o m).coord).isNone)

/-- Send the END notice of the streams of a kind and group. -/
def sendEnd (s : Stream) (commits : Tbl Nat) (w : W) : W :=
  let g := getGrp w s.g
  let o := getGrp w s.oldG
  let w := (others g).foldl (fun w m =>
    formTo s.g m { kind := 2, slot := g.self, sepoch := s.sepoch, coord := w.b.lnk.coord
                   body := seqField (tfind commits m) } w) w
  (oldOnly w s).foldl (fun w m =>
    formTo s.oldG m { kind := 2, slot := o.self, sepoch := s.sepoch, coord := w.b.lnk.coord, body := seqField none } w) w

/-- Has the packet that an END names arrived, or been found lost? -/
def endReached (w : W) (e : EndHeld) : Bool :=
  match e.seq with
  | none => true
  | some n => reached w (slotAt (getGrp w e.g) e.src).coord none 0 n

/-- The member index in a stream's group of the sender of an END, when the END is for the stream: by group and epoch, and
the sender not yet counted (log entry 27). -/
def endFor (w : W) (e : EndHeld) (s : Stream) : Option Nat :=
  if s.sepoch != e.sepoch || !(s.g == e.g || (s.kind == .restripe && s.oldG == e.g)) then none
  else (memberOf (getGrp w s.g) (slotAt (getGrp w e.g) e.src).coord).filter (fun m => !s.ends.contains m)

/-- An END counts toward the oldest stream it is for; for window encoding, toward every region of the group. -/
def countEnd (e : EndHeld) (w : W) : W :=
  match w.b.streams.find? (fun s => (endFor w e s).isSome) with
  | none => w
  | some s =>
    let hit := fun (x : Stream) =>
      if s.kind == .encode then x.kind == .encode && x.g == s.g && x.sepoch == s.sepoch else streamIsOn s.kind s.region x
    let m := (endFor w e s).getD 0
    { w with b.streams := mapIf hit (fun x => { x with ends := insertNat x.ends m }) w.b.streams
             b.ends := w.b.ends.filter (fun x => x != e) }

/-- Count every held END whose packet has been reached. -/
def countEnds (w : W) : W := w.b.ends.foldl (fun w e => if endReached w e then countEnd e w else w) w

/-- Is a member of a group of the new group too, as its RS_BEGIN told a member of the old group only (R351)? -/
def rsNew (g : Group) (sepoch m : Nat) : Bool := g.rsSeen.any (fun x => x.1 == m && x.2.1 == sepoch && x.2.2)

/-- Every other member's END counts. A member of the old group only, which has no entry of the new one, knows the members
of the new group by their RS_BEGIN (log entry 32). -/
def allEnds (w : W) (s : Stream) : Bool :=
  let g := getGrp w s.g
  if streams s then (others g).all (fun m => s.ends.contains m)
  else (others g).all (fun m => g.rsSeen.any (fun x => x.1 == m && x.2.1 == s.sepoch) && (!rsNew g s.sepoch m || s.ends.contains m))

/-! ### Streaming -/

/-- The unit of a stream whose PREPARE has not been sent. -/
def unsentUnit (w : W) (s : Stream) : Option CUnit :=
  w.b.units.find? (fun u => u.kind == streamUnitKind s.kind && u.region == s.region && u.g == s.g && u.cmd == some s.cmd
    && !u.prepared)

/-- The units of a stream. -/
def streamUnits (w : W) (s : Stream) : List CUnit :=
  w.b.units.filter (fun u => u.kind == streamUnitKind s.kind && u.region == s.region && u.g == s.g && u.cmd == some s.cmd)

/-- What a stream's step did. -/
inductive Streamed where
  | waits | went
  | failed (c : Rsp) (frag : Nat)
  deriving DecidableEq, Repr

/-- The frontier of a region's stream moves past a fragment whose PREPARE has been sent, and the writes held there go on. -/
def passFragment (k : StreamKind) (ri : Nat) (w : W) : W :=
  match findStream w k ri with
  | none => w
  | some s =>
    let w := modStream k ri (fun s => { s with next := s.next + 1, engine := none }) w
    let w := match k with
      | .sound => modRgn ri (fun r => { r with frontier := s.next + 1 }) w
      | .restripe => modGrp s.g (fun g => { g with rlFront := (ri, s.next + 1) }) w
      | .encode => w
    kickAll (if k == .restripe then assignEngines 8 w else w)

/-- Hand on the lines of a fragment that are not all zero, as deltas against zero (R152, R217). -/
def handFragment (v : Region) (ri gi : Nat) (u : BitVec 64) (bear : Bool) : Nat → Nat → Bytes → W → W
  | 0, _, _, w => w
  | n + 1, a, d, w =>
    let l := d.take 64
    let w := if l.all (fun x => x == 0) then w
      else let w := handDeltaV v gi u a l w; if bear then bearingDelta ri a l w else w
    handFragment v ri gi u bear n (a + 64) (d.drop 64) w

/-- One step of a stream that has begun: the PREPARE of the fragment in hand, else the next fragment is read, handed on and
committed (R152, R205, R351). It waits for the PDE, for requests under way on the fragment's lines, and a Restripe for a
Relight engine, which it keeps to the stripe boundary, and for its wake (R30, R443). A Restripe reads lines that parity covers, so a degraded read
serves it (R56). A context that is torn down streams no more (R104). -/
def streamStep (env : Env) (k : StreamKind) (ri : Nat) (w : W) : Streamed × W :=
  match findStream w k ri with
  | none => (.waits, w)
  | some s =>
    let v := streamView w s
    let fs := fragSize v.frag
    if !s.begun || !streams s || (getCtx w v.ctx).state == .teardown then (.waits, w)
    else match unsentUnit w s with
      | some u =>
        let w := tryPrepare u.g u.unit w
        if ((findUnit w u.g u.unit).map (·.prepared)).getD true then (.went, passFragment k ri w) else (.waits, w)
      | none =>
        let a := v.base + s.next * fs
        if numFrags v ≤ s.next then (.waits, w)
        else if !linesReadable w a fs then (.waits, flushLines a fs w)
        else if w.b.slices.any (fun x => sqFull x.2) then (.waits, w)
        else if k == .restripe && s.engine.isNone && (restripeEngine w ri).isNone then (.waits, w)
        else
          let s := if k == .restripe && s.engine.isNone then { s with engine := restripeEngine w ri } else s
          let w := modStream k ri (fun x => { x with engine := s.engine }) w
          if s.engine.any (engineGated w) then (.waits, w) else
          let (got, w) : Got × W :=
            if k == .restripe then spanAs (relightAcc env v.ctx) s.cmd (fs / 64) a w
            else let (c, d, w) := readSpan (seAcc env v.ctx) (fs / 64) a w; (Got.got c d, w)
          match got with
          | .waits => (.waits, w)
          | .got .ok d =>
            let w := usedLines s.cmd a fs w
            let (u, w) := openUnit { origin := streamOrigin s, kind := streamUnitKind k, region := ri, index := s.next
                                     watch := openWatch w v.ctx, cmd := some s.cmd, grp := some (s.g, s.sepoch) } w
            let w := modCmd s.cmd (fun c => { c with units := c.units ++ [(s.g, u)] }) w
            let w := handFragment v ri s.g u (k != .restripe || (getRgn w ri).bvalid == 0) (fs / 64) a d w
            let w := tryPrepare s.g u (closeUnit s.g u w)
            if ((findUnit w s.g u).map (·.prepared)).getD true then (.went, passFragment k ri w) else (.went, w)
          | .got c _ => (.failed c s.next, w)

/-- Every fragment of a stream has been streamed and committed. -/
def allStreamed (w : W) (s : Stream) : Bool :=
  !streams s || (s.begun && decide (numFrags (streamView w s) ≤ s.next) && (unsentUnit w s).isNone)

/-! ### Sounding (R151 to R154) -/

/-- Sounding ends without reaching SOUNDED (R154). -/
def failSound (env : Env) (ri : Nat) (o : Outc) (w : W) : W :=
  match findStream w .sound ri with
  | none => w
  | some s =>
    let w := undefPartner (getRgn w ri)
      (setBearing ri 0 (dropStream .sound ri (modRgn ri (fun r => { r with state := .unsounded }) w)))
    outcome env s.cmd { o with result := padTo 8 (toLe 8 s.next) ++ o.result } (kickAll w)

/-- Begin streaming once every descriptor is held; a descriptor that differs ends the attempt (R152). -/
def beginSound (env : Env) (ri : Nat) (w : W) : W :=
  let (bad, w) := takeDescs .sound ri w
  if bad then failSound env ri { status := .denied, info := 0x18 } w
  else match findStream w .sound ri with
    | some s => if allDescs w s then modStream .sound ri (fun s => { s with begun := true }) w else w
    | none => w

/-- The END notice of a stream follows its last fragment. -/
def endStream (k : StreamKind) (ri : Nat) (w : W) : W :=
  match findStream w k ri with
  | some s => if allStreamed w s && s.begun && !s.endSent then
      modStream k ri (fun s => { s with endSent := true }) (sendEnd s s.commits w) else w
  | none => w

/-- A failed fragment read ends Sounding (R154). -/
def soundFailure (c : Rsp) (f : Nat) : Outc :=
  if c == .denied then { status := .denied, info := 0x1A, result := toLe 8 f } else { status := .poisoned, result := toLe 8 f }

/-! ### Window encoding (R205 to R207) -/

/-- The encoding streams of a context. -/
def encodesOf (w : W) (x : Nat) : List Stream := w.b.streams.filter (fun s => s.kind == .encode && (getRgn w s.region).ctx == x)

/-- The encoding of a context stops: its streams end, and its WINDOW regions are outside the window (R207, R210). -/
def stopEncode (x : Nat) (w : W) : W :=
  let ss := encodesOf w x
  let w := ss.foldl (fun w s => undefPartner (getRgn w s.region) (setBearing s.region 0
    (dropStream .encode s.region (modRgn s.region (fun r => { r with window := false }) w)))) w
  kickAll w

/-- Encoding ends without WINDOW: the Watch returns to POLLED (R207). -/
def failEncode (env : Env) (x : Nat) (o : Outc) (w : W) : W :=
  match (getWatch w x).winCmd with
  | none => w
  | some c =>
    let w := stopEncode x w
    outcome env c o (modWatch x (fun k => { k with phase := .polled, winCmd := none }) w)

/-- Each encoding stream of a context takes its descriptors; the streams of a group begin once all of the group's are
complete. -/
def beginEncode (env : Env) (x : Nat) (w : W) : W :=
  let (bad, w) := (encodesOf w x).foldl (fun (acc : Bool × W) s =>
    let (b, w) := takeDescs .encode s.region acc.2
    (acc.1 || b, w)) (false, w)
  if bad then failEncode env x { status := .denied, info := 0x18 } w
  else
    let ss := encodesOf w x
    ss.foldl (fun w s =>
      if (ss.filter (fun y => y.g == s.g)).all (fun y => allDescs w y) then
        modStream .encode s.region (fun s => { s with begun := true }) w else w) w

/-- Insert a stream in the order of its region's base. -/
def insertStream (w : W) (s : Stream) : List Stream → List Stream
  | [] => [s]
  | y :: t => if (getRgn w s.region).base < (getRgn w y.region).base then s :: y :: t else y :: insertStream w s t

/-- The END notice of a group follows the last fragment of the last of its regions. -/
def endEncodes (x : Nat) (w : W) : W :=
  let ss := encodesOf w x
  ss.foldl (fun w s =>
    let same := (encodesOf w x).filter (fun y => y.g == s.g)
    if same.all (fun y => allStreamed w y && y.begun) && same.any (fun y => !y.endSent) then
      let last := same.foldl (fun (t : Tbl Nat) y => y.commits.foldl (fun t e =>
        match tfind t e.1 with
        | some n => if seqAhead n e.2 < 2 ^ 23 then tset t e.1 e.2 else t
        | none => tset t e.1 e.2) t) []
      let w := sendEnd s last w
      { w with b.streams := mapIf (fun y => y.kind == .encode && y.g == s.g) (fun y => { y with endSent := true }) w.b.streams }
    else w) w

/-- One step of the encoding of a context: the first region, in ascending base order, that has something to stream. -/
def encodeStep (env : Env) (x : Nat) (w : W) : W :=
  let ss := (encodesOf w x).foldl (fun l s => insertStream w s l) []
  match ss.find? (fun s => s.begun && !allStreamed w s) with
  | none => endEncodes x w
  | some s =>
    match streamStep env .encode s.region w with
    | (.failed c f, w) =>
      let res := padTo 8 (toLe 2 s.region) ++ toLe 8 f
      failEncode env x (if c == .denied then { status := .denied, info := 0x1A, result := res }
                        else { status := .poisoned, result := res }) w
    | (_, w) => endEncodes x w

/-! ### Restripe (R349 to R353) -/

/-- Leave RESTRIPING (R319). -/
def leaveRestriping (gi : Nat) (w : W) : W :=
  modGrp gi (fun g => { g with state := if g.state == .restriping then .whole else g.state, rsSeen := []
                               rlPhase := if g.rlPhase = 5 then 0 else g.rlPhase }) w

/-- A Restripe is dropped: the provisional pairing is freed and the region stays on its group (R353). -/
def dropRestripe (env : Env) (ri : Nat) (o : Outc) (w : W) : W :=
  match findStream w .restripe ri with
  | none => w
  | some s =>
    let w := if streams s then undefPartner (streamView w s) (discardPartner s.partner (fun _ => true) w) else w
    let w := assignEngines 8 (dropStream .restripe ri (modRgn ri (fun r => { r with restripe := none }) w))
    done env s.cmd o.status o.info o.result (kickAll (leaveRestriping s.oldG (leaveRestriping s.g w)))

/-- The switch (R351); a region that joins becomes SOUNDED with a VALID Bearing (R217). -/
def switchRestripe (env : Env) (ri : Nat) (w : W) : W :=
  match findStream w .restripe ri with
  | none => w
  | some s =>
    let r := getRgn w ri
    let unpair := fun (w : W) => match r.partner with
      | some p => discardPartner p (fun _ => true) (modRgn p (fun x => { x with partner := none }) w)
      | none => w
    let w := unpair w
    let w := if streams s then
        modRgn s.partner (fun p => { p with partner := some ri })
          (modRgn ri (fun r => { r with bvalid := 1, brun := if r.bvalid = 0 then s.bear else r.brun, grp := some s.g, partner := some s.partner, frag := s.fragCode, sepoch := s.sepoch
                                        state := .sounded, restripe := none }) w)
      else setBearing ri 0 (modRgn ri (fun r => { r with state := .unsounded, partner := none, restripe := none }) w)
    let w := dropStream .restripe ri w
    done env s.cmd .ok 0 (toLe 8 s.next) (kickAll (leaveRestriping s.oldG (leaveRestriping s.g w)))

/-- Does a Restripe hold the END of every member of the new group, its own included? -/
def holdsAllEnds (w : W) (s : Stream) : Bool := allEnds w s && (!streams s || s.endSent)

/-- The Restripe goes on: the partner and the descriptors once every member accepted, the begin of streaming, the END once
every streamed unit is complete, the switch (R351). -/
def advanceRestripe (env : Env) (ri : Nat) (w : W) : W :=
  match findStream w .restripe ri with
  | none => w
  | some s =>
    if !s.waiting.isEmpty then w
    else
      let w := if streams s && !s.descSent then
          sendDescs s (modStream .restripe ri (fun s => { s with descSent := true }) (resetPartner env (streamView w s) w)) else w
      let (bad, w) := takeDescs .restripe ri w
      if bad then dropRestripe env ri { status := .denied, info := 0x18 } w
      else
        let w := match findStream w .restripe ri with
          | some s => if allDescs w s then modStream .restripe ri (fun s => { s with begun := true }) w else w
          | none => w
        let w := match findStream w .restripe ri with
          | some s => if streams s && allStreamed w s && !s.endSent && (streamUnits w s).all (·.complete) then
              endStream .restripe ri w else w
          | none => w
        match findStream w .restripe ri with
        | some s => if holdsAllEnds w s then switchRestripe env ri w else w
        | none => w

end Sys2Proof.Machine
end

