-- ==== Sys2Proof/Machine/Engine.lean ====
section
/-! DEFINITION. State engines: kernel runs and their windows, dispatch, chunk loads, the commit phase and its end, kernel
faults, discards (R24, R104, R159, R175, R267 to R290). -/

namespace Sys2Proof.Machine

/-! ### Instructions and registers (R267, R274) -/

/-- The fields of an instruction word (R274). -/
structure Ins where
  op : Nat
  d : Nat
  a : Nat
  b : Nat
  c : Nat
  md : Nat
  imm : Nat
  deriving DecidableEq, Repr

def insOf (x : Nat) : Ins :=
  { op := bits x 63 56, d := bits x 55 51, a := bits x 50 46, b := bits x 45 41, c := bits x 40 36, md := bits x 35 32
    imm := bits x 31 0 }

/-- Instruction word i of a kernel slot. -/
def kWord (w : W) (slot i : Nat) : Word := tget w.b.eng.kstore ((tget w.b.eng.kslots slot {}).base + i) 0

/-- An immediate extended with copies of bit 31 to 64 bits. -/
def simm (i : Ins) : Word := (BitVec.ofNat 32 i.imm).signExtend 64

def sreg (e : Se) (i : Nat) : Word := tget e.sregs (i % 16) 0
def setS (i : Nat) (v : Word) (e : Se) : Se := { e with sregs := tset e.sregs (i % 16) v }
def vreg (e : Se) (i : Nat) : List (BitVec 32) := tget e.vregs i (List.replicate 128 0)
def setV (i : Nat) (v : List (BitVec 32)) (e : Se) : Se := { e with vregs := tset e.vregs i v }

/-- A byte of the local store; one that nothing has loaded or stored since the chunk started is a free value (log entry
101). -/
def lsByte (e : Se) (a : Nat) : Byte := tget e.store a (Config.storeByte a)

/-- Bytes of the local store. -/
def lsGet (e : Se) (a n : Nat) : Bytes := (List.range n).map (fun i => lsByte e (a + i))

/-- Write bytes of the local store. -/
def lsPut : Nat → Bytes → Se → Se
  | _, [], e => e
  | a, x :: t, e => lsPut (a + 1) t { e with store := tset e.store a x }

/-- The lanes of a vector as bytes, and back. -/
def vecBytes (v : List (BitVec 32)) : Bytes := v.flatMap (fun x => toLe 4 x.toNat)
def bytesVec (b : Bytes) : List (BitVec 32) := (List.range 128).map (fun i => BitVec.ofNat 32 (fld b (4 * i) 4))

/-- A function on each lane of two vectors. -/
def lanes2 (f : BitVec 32 → BitVec 32 → BitVec 32) (x y : List (BitVec 32)) : List (BitVec 32) :=
  (x.zip y).map (fun p => f p.1 p.2)

/-! ### Runs (R174, R175, R283 to R286) -/

/-- The COD streams of a run, and the streams it loads (R269). -/
def codStreams (w : W) (r : Run) : List (Nat × Nat × Nat × Nat × Nat) := (runStreams w r).filter (fun x => x.2.1 == 2)
def loadedStreams (w : W) (r : Run) : List (Nat × Nat × Nat × Nat × Nat) :=
  (runStreams w r).filter (fun x => x.2.1 == 1 || x.2.1 == 2 || x.2.1 == 4)

/-- One stream of a run. -/
def streamNo (w : W) (r : Run) (k : Nat) : Option (Nat × Nat × Nat × Nat × Nat) := (runStreams w r).find? (fun x => x.1 == k)

/-- The lowest low-water mark of the run's COD entries; FIRST where an entry is not open; none without COD streams
(R175, R285, log entry 29). -/
def runLow (w : W) (r : Run) : Option Nat :=
  (codStreams w r).foldl (fun (m : Option Nat) x =>
    let g := getRgn w x.2.2.2.2
    let gi := g.grp.getD 0
    let l := match w.b.maps.find? (fun e => e.src == (getGrp w gi).self && e.g == gi && e.base == g.base
        && e.watch == r.watch && e.run == r.ordinal) with
      | some e => e.low
      | none => r.first
    some (match m with | none => l | some k => min k l)) none

/-- Does a run skip a chunk: under RESUME, one whose unit set the map records as applied (R285)? -/
def runSkips (w : W) (r : Run) (c : Nat) : Bool :=
  r.resume && !(codStreams w r).isEmpty && (codStreams w r).all (fun x =>
    let g := getRgn w x.2.2.2.2
    let gi := g.grp.getD 0
    chunkApplied w gi (getGrp w gi).self g.base r.watch r.ordinal c)

/-- Does a chunk wait for a line of its COD or OUT streams that an SE holds (R282)? -/
def chunkWaits (w : W) (r : Run) (c : Nat) : Bool :=
  let held := heldRuns w
  (runStreams w r).any (fun x => (x.2.1 == 2 || x.2.1 == 3) && held.any (overlap (runSpan w r c (getRgn w x.2.2.2.2))))

/-- The groups of a run's COD streams. -/
def runGroups (w : W) (r : Run) : List Nat := (codStreams w r).map (fun x => (getRgn w x.2.2.2.2).grp.getD 0)

/-- A run notes the state of its groups: not WHOLE, or BROKEN (R285). -/
def noteGroups (w : W) (r : Run) : Run :=
  let broken := (runGroups w r).any (fun g => (getGrp w g).state == .broken)
  { r with degraded := r.degraded || (runGroups w r).any (fun g => (getGrp w g).state != .whole)
           lost := r.lost || broken, stopped := r.stopped || broken }

/-- Every run notes the state of its groups. -/
def noteRuns (w : W) : W := { w with b.eng.runs := w.b.eng.runs.map (noteGroups w) }

/-- The lowest chunk from a number on that is neither dispatched nor skipped. -/
def slideNext (w : W) (r : Run) : Nat → Nat → Nat
  | 0, n => n
  | k + 1, n => if n < r.first + r.count && (r.taken.contains n || runSkips w r n) then slideNext w r k (n + 1) else n

/-- Move the lowest chunk up. -/
def slideRun (w : W) (r : Run) : Run :=
  let from_ := if r.resume then max r.next ((runLow w r).getD 0) else r.next
  let n := slideNext w r 1300 from_
  { r with next := n, taken := r.taken.filter (fun c => decide (n ≤ c)) }

/-- The lowest-numbered dispatchable chunk of a run (R175, R282, R286). -/
def nextChunk (w : W) (r : Run) : Option Nat :=
  let r := slideRun w (noteGroups w r)
  if r.stopped then none
  else
    let end_ := match runLow w r with | some l => min (r.first + r.count) (l + 128) | none => r.first + r.count
    (List.range 1025).map (r.next + ·) |>.find? (fun c =>
      decide (c < end_) && !r.taken.contains c && !runSkips w r c && !chunkWaits w r c)

/-- The statuses of R285, first that applies, with INFO and RESULT. -/
def runOutcome (w : W) (r : Run) : Outc :=
  let deg := r.degraded || ((findCmd w r.cmd).map (·.degraded)).getD false
  let where_ := match r.fault with | some f => toLe 8 (f.2.1 + f.2.2 <<< 40) | none => zeros 8
  let info := match r.fault with | some f => f.1 | none => 0
  let n := toLe 8 r.ended
  if r.aborted then { status := .aborted, result := n }
  else if r.lost then { status := .memberLost, result := n }
  else if r.poisoned then { status := .poisoned, info := info, result := n ++ where_ }
  else if r.denied then { status := .denied, info := info, result := n ++ where_ }
  else { status := if deg then .okDegraded else .ok, result := n }

/-- Does the footprint of a KERNEL_RUN hold a coded region? -/
def codedRun (w : W) (r : Run) : Bool := r.regions.any (fun i => codedKind (getRgn w i).kind)

/-- Do the torn actions still hold the completion of a run back: it comes at their fourth step (R211)? -/
def tornHolds (w : W) (r : Run) : Bool := r.aborted && codedRun w r && (getWatch w r.ctx).ending == some 6

/-- A run whose chunks have all ended gives its command its outcome, which waits for the run's units (R285). -/
def finishRun (env : Env) (c : CmdId) (w : W) : W :=
  match findRun w c with
  | none => w
  | some r =>
    let r := slideRun w (noteGroups w r)
    if !tornHolds w r && r.live.isEmpty && (r.stopped || decide (r.first + r.count ≤ r.next)) then
      outcome env c (runOutcome w r) { w with b.eng.runs := w.b.eng.runs.filter (fun x => x.cmd != c) }
    else w

/-! ### The end of a commit phase (R278, R288, R289) -/

/-- The PREPAREs of a chunk whose commit phase has ended; when all are sent the SE is free (R278 steps 3 and 4). -/
def finishCommit (e : Nat) (w : W) : W :=
  let s := getSe w e
  match s.ending with
  | none => w
  | some counted =>
    let us := s.units.map (·.2)
    let w := us.foldl (fun w u => tryPrepare u.1 u.2 w) w
    if us.all (fun u => ((findUnit w u.1 u.2).map (·.prepared)).getD true) then
      let w := if counted then
          cntSe e 0 1 (match s.run with | some c => modRun c (fun r => { r with ended := r.ended + 1 }) w | none => w)
        else w
      freeSe e w
    else w

/-- Every SE whose PREPAREs were waiting goes on. -/
def finishCommits (w : W) : W := w.b.eng.ses.foldl (fun w e => if e.2.ending.isSome then finishCommit e.1 w else w) w

/-- The commit phase ends: the chunk's units close and their PREPAREs follow. -/
def endCommit (e : Nat) (counted : Bool) (w : W) : W :=
  let us := (getSe w e).units.map (·.2)
  finishCommit e (modSe e (fun s => { s with ending := some counted }) (us.foldl (fun w u => closeUnit u.1 u.2 w) w))

/-- A run takes a fault: its first one is kept, no further chunk is dispatched, and the Watch is marked for replay
(R288). -/
def runFault (e code : Nat) (denied : Bool) (w : W) : W :=
  let s := getSe w e
  let upd := fun (r : Run) => { r with stopped := true, fault := some (r.fault.getD (code, s.chunk, s.pc))
                                       poisoned := r.poisoned || !denied, denied := r.denied || denied }
  let w := match s.run with | some c => modRun c upd w | none => w
  let w := modSe e (fun s => { s with err := s.err ||| 4 }) w
  logEv 0x0682 2 e s.ctx [(getSe w e).err.toNat ||| (getSe w e).resCnt <<< 32, e] (markReplay s.ctx w)

/-- A kernel fault stops its chunk (R288). -/
def kernelFault (code : Nat) (denied : Bool) (e : Nat) (w : W) : W :=
  let w := runFault e code denied w
  if (getSe w e).state == .commit then endCommit e false w else discardSe e w

/-- A store or DADD of a chunk failed: the run ends POISONED with INFO 0 where this is its first fault, and the chunk runs on;
for a coded store the Helm schedules a parity rebuild of the line's stripe line once the unit is applied (R159, R285, log entry
87). MD_ERROR is already set. -/
def storeFailed (e line : Nat) (unit : Option (Nat × BitVec 64)) (w : W) : W :=
  let s := getSe w e
  let upd := fun (r : Run) => { r with poisoned := true, fault := some (r.fault.getD (0, s.chunk, s.pc)) }
  let w := match s.run with | some c => modRun c upd w | none => w
  markReplay s.ctx (match unit with | some u => schedCheck line (some u) w | none => w)

/-! ### Loads (R276, R277) -/

/-- Is a strip loaded in every loaded stream? -/
def stripLoaded (w : W) (r : Run) (s : Se) (t : Nat) : Bool := (loadedStreams w r).isEmpty || decide (t < s.nextLoad)

/-- The first byte of strip t of a stream in memory. -/
def stripAt (w : W) (r : Run) (s : Se) (g : Region) (t : Nat) : Nat := (runSpan w r s.chunk g).1 + 128 * t * streamBytes g

/-- Request the lines of a strip, or first the state line of its tile for a DIN stream: each is a request in the hazard table
(R53, R54). -/
def requestStrip (e : Nat) (r : Run) (x : Nat × Nat × Nat × Nat × Nat) (t : Nat) (w : W) : W :=
  let s := getSe w e
  let k := x.1
  let g := getRgn w x.2.2.2.2
  let elem := s.chunk * chunkElems (runRgn w r).chunk + 128 * t
  let tile := elem / 4096
  let state := x.2.1 == 4 && tfind s.anchors (16 + k) != some (tile : Int)
  let a := if state then stateAt g 0 tile else stripAt w r s g t
  let n := if state then 64 else 128 * streamBytes g
  let w := modSe e (fun s => { s with loading := [(k, t, n / 64)] }) w
  (List.range (n / 64)).foldl (fun w i =>
    let l := a + 64 * i
    let p := portOf w.build l
    let w := addItem p l { job := .se e k t, write := false } false w
    kickLine p l ((hazAt w p l).length + 2) w) w

/-- Is an SE clock-gated or power-gated (R443)? -/
def seGated (w : W) (e : Nat) : Bool := w.b.crp.clockGated.contains (.se e) || w.b.crp.gateStat.getLsbD e

/-- Go on loading a chunk: the strip in hand, else the first loaded stream of the next strip; a gated SE wakes first
(R443). -/
def loadStep (e : Nat) (w : W) : W :=
  let s := getSe w e
  match if seGated w e then none else runOf w s with
  | none => w
  | some r =>
    let ls := loadedStreams w r
    match s.loading, ls with
    | (k, t, 0) :: _, _ => (match streamNo w r k with | some x => requestStrip e r x t w | none => w)
    | [], x :: _ =>
      if s.ending.isNone && decide (s.nextLoad < s.n / 128) then
        requestStrip e r x s.nextLoad (modSe e (fun s => { s with loading := [(x.1, s.nextLoad, 0)] }) w)
      else w
    | _, _ => w

/-- Every SE goes on loading. -/
def loadAll (w : W) : W := w.b.eng.ses.foldl (fun w e => if e.2.run.isSome then loadStep e.1 w else w) w

/-- A line of a strip is in: it is stored in the stream's local area, a DIN line as binary32; after the last line the next
stream or strip follows (R241, R276, R277). -/
def takeLine (e k t line : Nat) (d : Bytes) (w : W) : W :=
  let s := getSe w e
  match runOf w s, s.loading with
  | some r, (k', t', left) :: _ =>
    match streamNo w r k with
    | some x =>
      if k' != k || t' != t || left == 0 then w
      else
        let g := getRgn w x.2.2.2.2
        let off := line - (runSpan w r s.chunk g).1
        let ls := x.2.2.2.1 * 256
        let tile := (s.chunk * chunkElems (runRgn w r).chunk + 128 * t) / 4096
        let isState := x.2.1 == 4 && line == stateAt g 0 tile
        let s := if isState then
            { s with anchors := tset (tset s.anchors (8 + k) (tileOf d).anchor) (16 + k) (tile : Int) }
          else if x.2.1 == 4 then
            let es := streamBytes g
            let A := tget s.anchors (8 + k) 0
            let v := (List.range (64 / es)).flatMap (fun i =>
              toLe 4 (readOut f32 (signed (datumBits g) (loadInt g (bytesAt d (es * i) es))) A).1)
            lsPut (ls + off / es * 4) v s
          else lsPut (ls + off) d s
        let next := (loadedStreams w r).find? (fun y => decide (k < y.1))
        let s := if 1 < left then { s with loading := [(k, t, left - 1)] }
          else if isState then { s with loading := [(k, t, 0)] }
          else match next with
            | some y => { s with loading := [(y.1, t, 0)] }
            | none => { s with loading := [], nextLoad := t + 1 }
        let w := setSe e s w
        if 1 < left then w else loadStep e w
    | none => w
  | _, _ => w

/-- The answer to one line of a load (R55, R277): a degraded read serves a coded line, and keeps its hazard entry (R57). -/
def seLine (e k t line : Nat) (c : Rsp) (d : Bytes) (w : W) : W :=
  let p := portOf w.build line
  let freed := fun (w : W) => doneItem p line (.se e k t) w
  match c with
  | .ok => takeLine e k t line d (freed w)
  | .poison =>
    match fullRgn w line with
    | some (ri, g) =>
      if codedKind g.kind && covered w g then
        let gr := grpOf w g
        let (st, _, l) := stripeOf gr g gr.self (line - g.base)
        match startFetch (.se e k t line) (g.grp.getD 0) ri st l 1 gr.self w with
        | (some _, w) => w
        | (none, w) => kernelFault 0x76 false e (freed (setMpsErr p 3 line g.ctx w))
      else kernelFault 0x76 false e (freed w)
    | none => kernelFault 0x76 false e (freed w)
  | c => kernelFault 0x76 (c == .denied) e (freed (setMpsErr p 0 line (getSe w e).ctx w))

/-! ### Dispatch (R268, R286) -/

/-- The registers at the start of a chunk (R268). -/
def startRegs (w : W) (r : Run) (c : Nat) : Tbl Word :=
  let z := runRgn w r
  let n := chunkLen z c
  let s0 : List Nat := [c, n, c * chunkElems z.chunk, openWatch w r.ctx, r.ordinal, n / 128, 0, 0]
  ((List.range 8).zip s0).map (fun x => (x.1, BitVec.ofNat 64 x.2))
    ++ (List.range 8).map (fun i => (8 + i, BitVec.ofNat 64 (fld r.params (8 * i) 8)))

/-- The tile-state lines that an SE reads at the start of a chunk of a run (R290). -/
def startLines (w : W) (r : Run) : List Nat :=
  ((runStreams w r).filter (fun x => x.2.1 == 5)).map (fun x => stateAt (getRgn w x.2.2.2.2) 0 0)

/-- An SE takes a chunk: its registers are set, the anchors of DOUT streams are read, and its loads start (R268, R276,
R290). -/
def startChunk (env : Env) (e : Nat) (r : Run) (c : Nat) (w : W) : W :=
  let s := getSe w e
  let w := modRun r.cmd (fun r => slideRun w { r with taken := r.taken ++ [c], live := r.live ++ [c] }) w
  let k := tget w.b.eng.kslots r.slot {}
  let s := { s with state := .running, pc := k.entry, slot := r.slot, chunk := c, region := r.regions.getD 0 0
                    run := some r.cmd, n := chunkLen (runRgn w r) c, sregs := startRegs w r c, vregs := [], store := [], loading := []
                    nextLoad := 0, emax := none, qRange := false, qNonfinite := false, anchors := [], residue := false
                    units := [], ending := none }
  let w := setSe e s w
  let read := ((runStreams w r).filter (fun x => x.2.1 == 5)).foldl (fun (acc : Rsp × W) x =>
    let (code, tl, w) := readTileAs (seAcc env r.ctx) (getRgn acc.2 x.2.2.2.2) 0 0 acc.2
    (worse acc.1 code, if code == .ok then modSe e (fun s => { s with anchors := tset s.anchors x.1 tl.anchor }) w else w))
    (Rsp.ok, w)
  if read.1 != .ok then kernelFault 0x76 (read.1 == .denied) e read.2 else loadStep e read.2

/-- Contexts of a partition's runs with a dispatchable chunk. -/
def readyCtxs (w : W) (part : Nat) : List Nat :=
  w.b.eng.runs.foldl (fun l r => if r.part == part && (nextChunk w r).isSome then insertNat l r.ctx else l) []

/-- The earliest-fetched run of a context with a dispatchable chunk. -/
def readyRun (w : W) (part x : Nat) : Option (Run × Nat) :=
  (w.b.eng.runs.filter (fun r => r.part == part && r.ctx == x)).foldl (fun (best : Option (Run × Nat)) r =>
    match nextChunk w r with
    | none => best
    | some c => match best with
      | none => some (r, c)
      | some b => if r.order < b.1.order then some (r, c) else best) none

/-- One SE is served (R286); it waits while the lines it would read at once are not free. -/
def serveSe (env : Env) (part e : Nat) (w : W) : W :=
  let s := getSe w e
  let ready := readyCtxs w part
  if s.state != .idle || s.drain || !inService w || ready.isEmpty then w
  else
    let move := s.sliceOut || !ready.contains s.ctx
    let x := if move then ((rotateAfter (s.ctx + 1) ready).head?).getD s.ctx else s.ctx
    let w := if move then modSe e (fun s => { s with ctx := x, sliceOut := false }) w else w
    match readyRun w part x with
    | none => w
    | some (r, c) =>
      match (startLines w r).find? (fun l => !linesReadable w l 64) with
      | some l => flushLines l 64 w
      | none => startChunk env e r c w

/-! ### Instruction rows -/

/-- The residue check of a vector arithmetic instruction; detector 0x03 makes it mismatch (R289, R430). -/
def residueCheck (e : Nat) (w : W) : W :=
  if injHit w 3 e then modSe e (fun s => { s with residue := true, err := s.err ||| 1 }) (injFire 3 w) else w

/-- Go to an instruction; past the last one is a fault of the instruction that ran past (R288). -/
def goTo (e pc : Nat) (w : W) : W :=
  let w := cntSe e 0x18 1 w
  let s := getSe w e
  if (tget w.b.eng.kslots s.slot {}).ninstr ≤ pc then kernelFault 0x74 false e w else setSe e { s with pc := pc } w

/-- Go to the next instruction. -/
def goNext (e : Nat) (w : W) : W := goTo e ((getSe w e).pc + 1) w

/-- A row of the instruction set: the SE is awake and at an instruction with the row's opcode. -/
def seRow (e op : Nat) (act : Run → Se → Ins → W → W) (w : W) : W :=
  let s := getSe w e
  match runOf w s with
  | none => w
  | some r =>
    if s.ending.isSome then finishCommit e w
    else if (s.state != .running && s.state != .commit) || seGated w e then w
    else
      let i := insOf (kWord w s.slot s.pc).toNat
      if i.op != op then w else act r s i w

/-- A scalar instruction that writes sd. -/
def scalarRow (e op : Nat) (f : Se → Ins → Word) (w : W) : W :=
  seRow e op (fun _ s i w => goNext e (setSe e (setS i.d (f s i) s) w)) w

/-- A branch. -/
def branchRow (e op : Nat) (takes : Se → Ins → Bool) (w : W) : W :=
  seRow e op (fun _ s i w => if takes s i then goTo e (i.imm % 4096) w else goNext e w) w

/-- A vector instruction that writes vd, with its residue check. -/
def vectorRow (e op : Nat) (f : Se → Ins → List (BitVec 32)) (w : W) : W :=
  seRow e op (fun _ s i w => goNext e (residueCheck e (setSe e (setV i.d (f s i) s) w))) w

/-- An element operand of LDV, CST, ST and WAITL: a multiple of 128 below n, or fault 0x0072. -/
def elemOk (s : Se) (x : Word) : Bool := x.toNat % 128 == 0 && decide (x.toNat < s.n)

end Sys2Proof.Machine
end

