-- ==== Sys2Proof/Machine/Kernel.lean ====
section
/-! DEFINITION. KERNEL_LOAD and KERNEL_RUN, dispatch and its time limits, and the instructions of the engines
(R268 to R291). -/

namespace Sys2Proof.Machine

/-! ### Kernel images (R269 to R273) -/

/-- The fields an instruction uses (R275): the kinds of D, A, B and C (0 unused, 1 scalar, 2 vector), how many MOD values
it lists, and the bits of IMM it uses. -/
structure InsSpec where
  d : Nat
  a : Nat
  b : Nat
  c : Nat
  mods : Nat := 1
  imm : Nat := 0

/-- The assigned opcodes of R275. -/
def insSpec (op : Nat) : Option InsSpec :=
  let s3 : InsSpec := { d := 1, a := 1, b := 1, c := 0 }
  let v3 : InsSpec := { d := 2, a := 2, b := 2, c := 0 }
  let v2 : InsSpec := { d := 2, a := 2, b := 0, c := 0 }
  let no : InsSpec := { d := 0, a := 0, b := 0, c := 0 }
  match op with
  | 0x01 => some { no with d := 1, imm := 0xFFFFFFFF }
  | 0x02 => some { no with d := 1, imm := 0xFFFFFFFF }
  | 0x03 => some s3
  | 0x04 => some { no with d := 1, a := 1, imm := 0xFFFFFFFF }
  | 0x05 => some s3 | 0x06 => some s3 | 0x07 => some s3 | 0x08 => some s3 | 0x09 => some s3
  | 0x0A => some { no with d := 1, a := 1, imm := 63 }
  | 0x0B => some { no with d := 1, a := 1, imm := 63 }
  | 0x0C => some { no with d := 1, a := 1, imm := 63 }
  | 0x0D => some { s3 with mods := 6 }
  | 0x10 => some { no with imm := 0xFFF }
  | 0x11 => some { no with a := 1, imm := 0xFFF }
  | 0x12 => some { no with a := 1, imm := 0xFFF }
  | 0x13 => some { no with a := 1, imm := 0xFFF }
  | 0x20 => some v3 | 0x21 => some v3 | 0x22 => some v3
  | 0x23 => some { v3 with c := 2, mods := 4 }
  | 0x24 => some v3 | 0x25 => some v3
  | 0x28 => some v2 | 0x29 => some v2 | 0x2A => some v2 | 0x2B => some v2 | 0x2C => some v2
  | 0x30 => some { v3 with mods := 4 }
  | 0x31 => some { v3 with c := 2 }
  | 0x32 => some v3 | 0x33 => some v3 | 0x34 => some v3
  | 0x35 => some { v2 with imm := 31 }
  | 0x36 => some { v2 with imm := 31 }
  | 0x37 => some v3
  | 0x38 => some { v2 with mods := 2 }
  | 0x39 => some { no with d := 2, a := 1 }
  | 0x3A => some { no with d := 1, a := 2, imm := 127 }
  | 0x3B => some { no with d := 2, a := 1 }
  | 0x40 => some { no with d := 2, b := 1, imm := 7 }
  | 0x41 => some { no with d := 2, b := 1, imm := 0xFFFFFFFF }
  | 0x42 => some { no with a := 2, b := 1, imm := 0xFFFFFFFF }
  | 0x43 => some { no with a := 1 }
  | 0x44 => some { no with d := 1, a := 1, imm := 7 }
  | 0x48 => some no
  | 0x49 => some { no with a := 2, b := 1, imm := 7 }
  | 0x4A => some { no with a := 2, b := 1, c := 2, mods := 2, imm := 7 }
  | 0x4B => some { no with a := 1, b := 1, imm := 7 }
  | 0x4C => some no
  | 0x50 => some { no with d := 1, a := 2, imm := 7 }
  | 0x51 => some { no with d := 2, a := 1, b := 1, mods := 4, imm := 0xFFFF0007 }
  | 0x7E => some no
  | _ => none

/-- The roles of the streams an instruction may name (R269). -/
def insRoles (op : Nat) : Option (List Nat) :=
  match op with
  | 0x40 => some [1, 2, 4] | 0x49 => some [2] | 0x4A => some [3] | 0x51 => some [1, 2, 3, 4]
  | 0x50 => some [5] | 0x4B => some [5] | 0x44 => some [6] | _ => none

/-- The bytes of an instruction word that break the image rules (R272). -/
def insBad (ninstr : Nat) (streams : List (Nat × Nat × Nat)) (x : Nat) : List Nat :=
  let i := insOf x
  match insSpec i.op with
  | none => [7]
  | some sp =>
    let reg := fun (kind v pos : Nat) =>
      match kind with
      | 0 => (List.range 5).filterMap (fun j => if v.testBit j then some ((pos + j) / 8) else none)
      | 1 => if v.testBit 4 then [(pos + 4) / 8] else []
      | _ => []
    let extra := (List.range 4).filter (fun j => (i.imm >>> (8 * j)) % 256 &&& (255 - (sp.imm >>> (8 * j)) % 256) != 0)
    let k := i.imm % 8
    let st := streams.getD k (0, 0, 0)
    reg sp.d i.d 51 ++ reg sp.a i.a 46 ++ reg sp.b i.b 41 ++ reg sp.c i.c 36
      ++ (if i.md < sp.mods then [] else [4]) ++ extra
      ++ (if sp.imm = 0xFFF && decide (ninstr ≤ i.imm % 4096) then [0] else [])
      ++ (match insRoles i.op with
          | none => []
          | some l => if streams.length ≤ k || !l.contains st.1 then [0]
                      else if i.op = 0x4A && i.md = 1 && st.2.1 = 0 then [4] else [])
      ++ (if i.op = 0x51 && decide (0xFEFF < i.imm >>> 16) then [3] else [])

/-- The stream entries of a kernel image. -/
def imageStreams (img : Bytes) : List (Nat × Nat × Nat) :=
  (List.range (min 8 (fld img 8 1))).map (fun k => (fld img (16 + 4 * k) 1, fld img (17 + 4 * k) 1, fld img (18 + 4 * k) 2))

/-- The local areas at the largest chunk, each with the image offset of the field that places it (R270). -/
def imageAreas (img : Bytes) : List (Nat × Nat × Nat) :=
  let ss := imageStreams img
  let c := 4096 * 2 ^ fld img 9 1
  ((List.range ss.length).zip ss).filterMap (fun x =>
      if [1, 2, 4].contains x.2.1 then some (256 * x.2.2.2, c * (if x.2.2.1 = 0 then 4 else 2), 18 + 4 * x.1) else none)
    ++ if fld img 14 2 = 0 then [] else [(256 * fld img 12 2, 256 * fld img 14 2, 12)]

/-- The areas that leave the local store or overlap an earlier one. -/
def areasBad : List (Nat × Nat × Nat) → List (Nat × Nat × Nat) → List Nat
  | _, [] => []
  | before, a :: t =>
    (if 524288 < a.1 + a.2.1 || before.any (fun b => overlap (a.1, a.2.1) (b.1, b.2.1)) then [a.2.2] else [])
      ++ areasBad (before ++ [a]) t

/-- The image offset of the first byte that breaks the rules of R272; none for a good image. -/
def imageBad (img : Bytes) : Option Nat :=
  let ss := imageStreams img
  let n := fld img 6 2
  let magic : Bytes := [0x42, 0x4F, 0x4C, 0x47, 1, 3]
  let entry := fun (k : Nat) =>
    let o := 16 + 4 * k
    let role := fld img o 1
    if k ≥ ss.length || role = 0 then (List.range 4).filterMap (fun j => if img.getD (o + j) 0 != 0 then some (o + j) else none)
    else (if 6 < role then [o] else [])
      ++ (if 2 < fld img (o + 1) 1 || (4 ≤ role && fld img (o + 1) 1 != 0) then [o + 1] else [])
      ++ (if !([1, 2, 4].contains role) && fld img (o + 2) 2 != 0 then [o + 2] else [])
  let head := (List.range 6).filter (fun i => img.getD i 0 != magic.getD i 0)
    ++ (if n = 0 || 4096 < n || img.length != 64 + 8 * n then [6] else [])
    ++ (if fld img 8 1 = 0 || 8 < fld img 8 1 then [8] else []) ++ (if 4 < fld img 9 1 then [9] else [])
    ++ (if n ≤ fld img 10 2 then [10] else [])
    ++ (List.range 8).flatMap entry
    ++ (if [1, 2, 3, 4].contains (fld img 16 1) then [] else [16])
    ++ (List.range 16).filterMap (fun j => if img.getD (48 + j) 0 != 0 then some (48 + j) else none)
    ++ areasBad [] (imageAreas img)
  match least head with
  | some o => some o
  | none => (List.range n).findSome? (fun i => (least (insBad n ss (fld img (64 + 8 * i) 8))).map (64 + 8 * i + ·))

/-- The spans of the kernel store in use, but for one slot's. -/
def kSpans (w : W) (slot : Nat) : List (Nat × Nat) :=
  (w.b.eng.kslots.filter (fun k => k.1 != slot)).map (fun k => (k.2.base, k.2.ninstr))

/-- The lowest-addressed free span of n words (R273): it starts at 0 or at the end of a span in use. -/
def kAlloc (used : List (Nat × Nat)) (n : Nat) : Option Nat :=
  let ok := (0 :: used.map (fun s => s.1 + s.2)).filter (fun a =>
    decide (a + n ≤ 65536) && used.all (fun s => decide (a + n ≤ s.1) || decide (s.1 + s.2 ≤ a)))
  least ok

/-- Put an image into a slot. -/
def placeKernel (slot owner : Nat) (img : Bytes) (base : Nat) (w : W) : W :=
  let n := fld img 6 2
  let k : KSlot := { owner := owner, ninstr := n, base := base, nstream := fld img 8 1, cmax := fld img 9 1
                     entry := fld img 10 2, scrBase := fld img 12 2, scrSize := fld img 14 2, streams := imageStreams img }
  { w with b.eng.kslots := tset w.b.eng.kslots slot k
           b.eng.kstore := (List.range n).foldl (fun (t : Tbl Word) i =>
             tset t (base + i) (BitVec.ofNat 64 (fld img (64 + 8 * i) 8))) w.b.eng.kstore }

/-- KERNEL_RUN commands in flight that name a slot (R296). -/
def slotRuns (w : W) (slot : Nat) : Nat := (w.b.cmds.filter (fun k => opOf k == 0x40 && arg k 0x10 1 == slot)).length

/-- KERNEL_LOAD once its checks before the read have passed. -/
def kernelLoadGo (env : Env) (k : Cmd) (w : W) : W :=
  let slot := arg k 0x10 1
  let addr := arg k 0x18 8
  let len := arg k 0x20 4
  if len = 0 then done env k.id .ok 0 [] { w with b.eng.kslots := terase w.b.eng.kslots slot }
  else if !inPlain w k.ctx addr len then done env k.id .denied 0x67 [] w
  else onReads addr len (fun w =>
    let (c, img, w) := readBytes (seAcc env k.ctx) addr len w
    if c != .ok then done env k.id .denied 0x67 [] w
    else match imageBad img with
      | some o => done env k.id .denied 0x68 (toLe 4 o) w
      | none => match kAlloc (kSpans w slot) (fld img 6 2) with
        | none => done env k.id .quota 7 [] w
        | some b => done env k.id .ok 0 [] (placeKernel slot k.part img b w)) w

/-- The checks of KERNEL_LOAD before the image is read (R272). -/
def kernelLoadCheck (w : W) (k : Cmd) : Check :=
  let slot := arg k 0x10 1
  let len := arg k 0x20 4
  firstFail
    [if len = 0 && arg k 0x18 8 != 0 then fail .malformed 0x18 else none,
     if len != 0 && (decide (len < 72) || len % 8 != 0 || decide (32832 < len)) then fail .malformed 0x20 else none,
     deny ((match tfind w.b.eng.kslots slot with | some s => s.owner != k.part | none => false) || decide (0 < slotRuns w slot)
        || w.b.eng.runs.any (fun r => r.slot == slot)) 0x66]

/-- KERNEL_LOAD (R272, R273). -/
def execKernelLoad (c : CmdId) (env : Env) (s : State) : Host.Outcome State Fault Refusal :=
  run (cmdRow c (isOp 0x41) env (fun k w => checked env k (kernelLoadCheck w k) (kernelLoadGo env k) w) (kernelLoadGo env)) s

/-! ### KERNEL_RUN (R268, R283 to R285) -/

/-- The region kinds a role admits (R269). -/
def roleKinds : Nat → List Kind
  | 1 => [.plain, .coded, .window, .derived, .residual]
  | 2 => [.coded, .residual, .window]
  | 3 => [.plain, .derived]
  | _ => [.accum]

/-- The streams a KERNEL_RUN names: number, role, format, region index. -/
def namedStreams (w : W) (k : Cmd) : List (Nat × Nat × Nat × Nat) :=
  let ss := (tget w.b.eng.kslots (arg k 0x10 1) {}).streams
  ((List.range ss.length).zip ss).map (fun x => (x.1, x.2.1, x.2.2.1, arg k (0x30 + 2 * x.1) 2))

/-- Checks of KERNEL_RUN at steps 5 to 7 (R124, R195, R240, R284, R320). -/
def kernelRunCheck (w : W) (k : Cmd) : Check :=
  let slot := arg k 0x10 1
  let ks := tfind w.b.eng.kslots slot
  let ss := namedStreams w k
  let used := ss.filter (fun x => x.2.1 != 0)
  let z := getRgn w (arg k 0x30 2)
  let rg := fun (x : Nat × Nat × Nat × Nat) => getRgn w x.2.2.2
  let coded := used.any (fun x => codedKind (rg x).kind)
  let ph := (getWatch w k.ctx).phase
  firstFail
    [deny (match ks with | none => true | some s => slot < 192 && s.owner != k.part) 0x60,
     deny (arg k 0x11 1 != (tget w.b.eng.kslots slot {}).nstream) 0x62,
     deny (used.any (fun x => (rg x).state == .free || (rg x).ctx != k.ctx || !(roleKinds x.2.1).contains (rg x).kind)
        || ss.any (fun x => x.2.1 == 0 && x.2.2.2 != 0) || !inPlain w k.ctx (arg k 0x28 8) 64) 0x61,
     deny (used.any (fun x => decide (x.2.1 ≤ 3) && streamBytes (rg x) != (if x.2.2.1 = 0 then 4 else 2))
        || used.any (fun x => decide (x.2.1 ≤ 4) && decide (regionElems (rg x) < regionElems z))
        || decide ((tget w.b.eng.kslots slot {}).cmax < z.chunk)
        || used.any (fun x => x.2.1 == 2 && (rg x).chunk != z.chunk)) 0x62,
     deny (used.any (fun x => decide (x.2.1 ≤ 2) && ((rg x).state == .unsounded || (rg x).state == .sounding
        || (codedKind (rg x).kind && (grpOf w (rg x)).state == .broken)))) 0x16,
     deny (used.any (fun x => x.2.1 == 2 && (rg x).kind == .window && !(rg x).window)) 0x63,
     deny (used.any (fun x => used.any (fun y => x.1 != y.1 && x.2.2.2 == y.2.2.2 && [2, 3, 5].contains x.2.1))) 0x64,
     deny (used.any (fun x => foreignColl w k.id.q x.2.2.2)) 0x54,
     deny (decide (numChunks z ≤ arg k 0x18 8) || decide (numChunks z < arg k 0x18 8 + arg k 0x20 8)
        || (!bit (arg k 0x12 1) 0 && arg k 0x14 2 != 0)) 0x65,
     if coded then (if ph == .skip then fail .nonfinite 0 else if ph == .idle || ph == .window then none else fail .watchState 0x41)
     else if ph == .closing then fail .watchState 0x41 else none,
     if ((getPart w k.part).seMask == 0) then fail .quota 4 else none]

/-- A run starts: its parameter block is read once. Its ordinal is its place, in fetch order, among the KERNEL_RUNs without
RESUME of its context that were fetched after the instance's WATCH_OPEN (R174, R268, R283). -/
def kernelRunStart (env : Env) (k : Cmd) (w : W) : W :=
  onReads (arg k 0x28 8) 64 (fun w =>
    let (c, params, w) := readLine (seAcc env k.ctx) (arg k 0x28 8) w
    if c != .ok then done env k.id (rspStatus c) 0 [] w
    else
      let resume := bit (arg k 0x12 1) 0
      let wt := getWatch w k.ctx
      let z := getRgn w (arg k 0x30 2)
      let first := arg k 0x18 8
      let n := if arg k 0x20 8 = 0 then numChunks z - first else arg k 0x20 8
      let r : Run := { cmd := k.id, ctx := k.ctx, part := k.part, slot := arg k 0x10 1
                       regions := (List.range (arg k 0x11 1)).map (fun j => arg k (0x30 + 2 * j) 2 % 0x4000)
                       first := first, count := n, next := first
                       ordinal := if resume then arg k 0x14 2 else subMod k.runNo wt.runBase 65536, watch := openWatch w k.ctx, params := params
                       resume := resume, order := k.order }
      finishRun env k.id { w with b.eng.runs := w.b.eng.runs ++ [noteGroups w r] }) w

/-- A KERNEL_RUN goes on: it starts while its parameter block is still to be read, else it completes when its chunks have
ended. -/
def kernelRunGo (env : Env) (k : Cmd) (w : W) : W :=
  if (findRun w k.id).isSome then finishRun env k.id w else kernelRunStart env k w

/-- Is the start of a command held: a KERNEL_RUN of a library slot that an IMAGE_PATCH is about to replace (R373)? -/
def patchHolds (w : W) (c : CmdId) : Bool :=
  match findCmd w c, w.b.patch with
  | some k, some p => k.phase == .fetched && p.stage == 1 && p.slots.contains (arg k 0x10 1)
  | _, _ => false

/-- KERNEL_RUN (R283 to R285). -/
def execKernelRun (c : CmdId) (env : Env) (s : State) : Host.Outcome State Fault Refusal :=
  run (fun w =>
    if patchHolds w c then w
    else cmdRow c (isOp 0x40) env (fun k w => checked env k (kernelRunCheck w k) (kernelRunStart env k) w) (kernelRunGo env) w) s

/-! ### Dispatch and time limits (R286, R288) -/

/-- CHUNK_DISPATCH: the idle SEs of a partition are served in ascending order (R286). -/
def execChunkDispatch (part : Nat) (env : Env) (s : State) : Host.Outcome State Fault Refusal :=
  run (fun w => ((List.range w.build.nse).filter (fun e => partOfSe? w e == some part)).foldl
    (fun w e => serveSe env part e w) w) s

/-- SLICE_EXPIRY: the slice of an SE runs out (R286). -/
def execSliceExpiry (e : Nat) (s : State) : Host.Outcome State Fault Refusal :=
  run (modSe e (fun x => { x with sliceOut := true })) s

/-- The fault of a time limit, for a chunk whose commit phase has not ended. -/
def timeFault (e code : Nat) (commitOnly : Bool) (w : W) : W :=
  let x := getSe w e
  if x.run.isSome && x.ending.isNone && (x.state == .commit || (!commitOnly && x.state == .running)) then
    kernelFault code false e w
  else finishCommit e w

/-- KERNEL_TIMEOUT: 200,000 counted core cycles since dispatch (R288). -/
def execKernelTimeout (e : Nat) (_env : Env) (s : State) : Host.Outcome State Fault Refusal :=
  run (timeFault e 0x74 false) s

/-- COMMIT_PHASE_TIMEOUT: 16,384 counted core cycles since CBEGIN (R278, R288). -/
def execCommitPhaseTimeout (e : Nat) (_env : Env) (s : State) : Host.Outcome State Fault Refusal :=
  run (timeFault e 0x73 true) s

/-! ### Scalar instructions (R275) -/

def execSli (e : Nat) (s : State) : Host.Outcome State Fault Refusal := run (scalarRow e 0x01 (fun _ i => simm i)) s
def execSlih (e : Nat) (s : State) : Host.Outcome State Fault Refusal :=
  run (scalarRow e 0x02 (fun x i => (BitVec.ofNat 32 i.imm) ++ (sreg x i.d).setWidth 32)) s
def execSadd (e : Nat) (s : State) : Host.Outcome State Fault Refusal :=
  run (scalarRow e 0x03 (fun x i => sreg x i.a + sreg x i.b)) s
def execSaddi (e : Nat) (s : State) : Host.Outcome State Fault Refusal :=
  run (scalarRow e 0x04 (fun x i => sreg x i.a + simm i)) s
def execSsub (e : Nat) (s : State) : Host.Outcome State Fault Refusal :=
  run (scalarRow e 0x05 (fun x i => sreg x i.a - sreg x i.b)) s
def execSmul (e : Nat) (s : State) : Host.Outcome State Fault Refusal :=
  run (scalarRow e 0x06 (fun x i => sreg x i.a * sreg x i.b)) s
def execSand (e : Nat) (s : State) : Host.Outcome State Fault Refusal :=
  run (scalarRow e 0x07 (fun x i => sreg x i.a &&& sreg x i.b)) s
def execSor (e : Nat) (s : State) : Host.Outcome State Fault Refusal :=
  run (scalarRow e 0x08 (fun x i => sreg x i.a ||| sreg x i.b)) s
def execSxor (e : Nat) (s : State) : Host.Outcome State Fault Refusal :=
  run (scalarRow e 0x09 (fun x i => sreg x i.a ^^^ sreg x i.b)) s
def execSshl (e : Nat) (s : State) : Host.Outcome State Fault Refusal :=
  run (scalarRow e 0x0A (fun x i => sreg x i.a <<< (i.imm % 64))) s
def execSshr (e : Nat) (s : State) : Host.Outcome State Fault Refusal :=
  run (scalarRow e 0x0B (fun x i => sreg x i.a >>> (i.imm % 64))) s
def execSsra (e : Nat) (s : State) : Host.Outcome State Fault Refusal :=
  run (scalarRow e 0x0C (fun x i => (sreg x i.a).sshiftRight (i.imm % 64))) s

/-- The condition of SCMP by MOD: EQ, NE, LT, LTU, GE, GEU. -/
def scmp (md : Nat) (x y : Word) : Bool :=
  match md with
  | 0 => x == y | 1 => x != y | 2 => x.slt y | 3 => x.ult y | 4 => !x.slt y | _ => !x.ult y

def execScmp (e : Nat) (s : State) : Host.Outcome State Fault Refusal :=
  run (scalarRow e 0x0D (fun x i => if scmp i.md (sreg x i.a) (sreg x i.b) then 1 else 0)) s
def execBr (e : Nat) (s : State) : Host.Outcome State Fault Refusal := run (branchRow e 0x10 (fun _ _ => true)) s
def execBz (e : Nat) (s : State) : Host.Outcome State Fault Refusal := run (branchRow e 0x11 (fun x i => sreg x i.a == 0)) s
def execBnz (e : Nat) (s : State) : Host.Outcome State Fault Refusal := run (branchRow e 0x12 (fun x i => sreg x i.a != 0)) s
def execLoop (e : Nat) (s : State) : Host.Outcome State Fault Refusal :=
  run (seRow e 0x13 (fun _ x i w =>
    let v := sreg x i.a - 1
    let w := setSe e (setS i.a v x) w
    if v == 0 then goNext e w else goTo e (i.imm % 4096) w)) s

/-! ### Vector instructions (R275, R299 to R305) -/

def execVadd (e : Nat) (s : State) : Host.Outcome State Fault Refusal :=
  run (vectorRow e 0x20 (fun x i => lanes2 fAdd (vreg x i.a) (vreg x i.b))) s
def execVsub (e : Nat) (s : State) : Host.Outcome State Fault Refusal :=
  run (vectorRow e 0x21 (fun x i => lanes2 fSub (vreg x i.a) (vreg x i.b))) s
def execVmul (e : Nat) (s : State) : Host.Outcome State Fault Refusal :=
  run (vectorRow e 0x22 (fun x i => lanes2 fMul (vreg x i.a) (vreg x i.b))) s
def execVfma (e : Nat) (s : State) : Host.Outcome State Fault Refusal :=
  run (vectorRow e 0x23 (fun x i => (((vreg x i.a).zip (vreg x i.b)).zip (vreg x i.c)).map (fun p =>
    fFma p.1.1 p.1.2 p.2 (bit i.md 0) (bit i.md 1)))) s
def execVmin (e : Nat) (s : State) : Host.Outcome State Fault Refusal :=
  run (vectorRow e 0x24 (fun x i => lanes2 fMin (vreg x i.a) (vreg x i.b))) s
def execVmax (e : Nat) (s : State) : Host.Outcome State Fault Refusal :=
  run (vectorRow e 0x25 (fun x i => lanes2 fMax (vreg x i.a) (vreg x i.b))) s
def execVrcp (e : Nat) (s : State) : Host.Outcome State Fault Refusal := run (vectorRow e 0x28 (fun x i => (vreg x i.a).map fRcp)) s
def execVrsq (e : Nat) (s : State) : Host.Outcome State Fault Refusal := run (vectorRow e 0x29 (fun x i => (vreg x i.a).map fRsq)) s
def execVsqrt (e : Nat) (s : State) : Host.Outcome State Fault Refusal :=
  run (vectorRow e 0x2A (fun x i => (vreg x i.a).map fSqrt)) s
def execVexp2 (e : Nat) (s : State) : Host.Outcome State Fault Refusal :=
  run (vectorRow e 0x2B (fun x i => (vreg x i.a).map fExp2)) s
def execVlog2 (e : Nat) (s : State) : Host.Outcome State Fault Refusal :=
  run (vectorRow e 0x2C (fun x i => (vreg x i.a).map fLog2)) s
def execVcmp (e : Nat) (s : State) : Host.Outcome State Fault Refusal :=
  run (vectorRow e 0x30 (fun x i => lanes2 (fun a b => if fCmp i.md a b then 0xFFFFFFFF else 0) (vreg x i.a) (vreg x i.b))) s
def execVsel (e : Nat) (s : State) : Host.Outcome State Fault Refusal :=
  run (vectorRow e 0x31 (fun x i => (((vreg x i.a).zip (vreg x i.b)).zip (vreg x i.c)).map (fun p =>
    if p.2 != 0 then p.1.1 else p.1.2))) s
def execVand (e : Nat) (s : State) : Host.Outcome State Fault Refusal :=
  run (vectorRow e 0x32 (fun x i => lanes2 (· &&& ·) (vreg x i.a) (vreg x i.b))) s
def execVor (e : Nat) (s : State) : Host.Outcome State Fault Refusal :=
  run (vectorRow e 0x33 (fun x i => lanes2 (· ||| ·) (vreg x i.a) (vreg x i.b))) s
def execVxor (e : Nat) (s : State) : Host.Outcome State Fault Refusal :=
  run (vectorRow e 0x34 (fun x i => lanes2 (· ^^^ ·) (vreg x i.a) (vreg x i.b))) s
def execVshl (e : Nat) (s : State) : Host.Outcome State Fault Refusal :=
  run (vectorRow e 0x35 (fun x i => (vreg x i.a).map (fun (v : BitVec 32) => v <<< (i.imm % 32)))) s
def execVshr (e : Nat) (s : State) : Host.Outcome State Fault Refusal :=
  run (vectorRow e 0x36 (fun x i => (vreg x i.a).map (fun (v : BitVec 32) => v >>> (i.imm % 32)))) s
def execViadd (e : Nat) (s : State) : Host.Outcome State Fault Refusal :=
  run (vectorRow e 0x37 (fun x i => lanes2 (· + ·) (vreg x i.a) (vreg x i.b))) s
def execVcvt (e : Nat) (s : State) : Host.Outcome State Fault Refusal :=
  run (vectorRow e 0x38 (fun x i => (vreg x i.a).map (if i.md = 0 then fOfInt else fToInt))) s
def execVbcast (e : Nat) (s : State) : Host.Outcome State Fault Refusal :=
  run (vectorRow e 0x39 (fun x i => List.replicate 128 ((sreg x i.a).setWidth 32))) s
def execVext (e : Nat) (s : State) : Host.Outcome State Fault Refusal :=
  run (seRow e 0x3A (fun _ x i w =>
    goNext e (residueCheck e (setSe e (setS i.d (((vreg x i.a).getD (i.imm % 128) 0).setWidth 64) x) w)))) s
def execVidx (e : Nat) (s : State) : Host.Outcome State Fault Refusal :=
  run (vectorRow e 0x3B (fun x i => (List.range 128).map (fun l => (sreg x i.a).setWidth 32 + BitVec.ofNat 32 l))) s

/-! ### Local store and loads (R270, R275 to R277) -/

/-- The local areas of a run at its chunk size: the loaded streams' with the bytes of an element, and scratch. -/
def loadedAreas (w : W) (r : Run) : List (Nat × Nat × Nat) :=
  let c := chunkElems (runRgn w r).chunk
  (loadedStreams w r).map (fun x =>
    let es := if x.2.1 = 4 || x.2.2.1 = 0 then 4 else 2
    (256 * x.2.2.2.1, c * es, es))
def scratchArea (w : W) (r : Run) : Nat × Nat :=
  let k := tget w.b.eng.kslots r.slot {}
  (256 * k.scrBase, 256 * k.scrSize)

/-- Do the 512 B at a local address lie in an area? -/
def inArea (a base len : Nat) : Bool := decide (base ≤ a) && decide (a + 512 ≤ base + len)

/-- Is an access of LDL, or of STL, allowed (R270)? -/
def lsOk (w : W) (r : Run) (a : Nat) (store : Bool) : Bool :=
  let sc := scratchArea w r
  a % 64 == 0 && decide (a + 512 ≤ 524288)
    && (inArea a sc.1 sc.2 || (!store && (loadedAreas w r).any (fun x => inArea a x.1 x.2.1)))

/-- Is the part of a loaded area that an LDL reads loaded (R267: the SE interlocks on load dependences)? -/
def lsLoaded (w : W) (r : Run) (s : Se) (a : Nat) : Bool :=
  (loadedAreas w r).all (fun x =>
    !(inArea a x.1 x.2.1) || stripLoaded w r s (min ((a + 511 - x.1) / (128 * x.2.2)) (s.n / 128 - 1)))

/-- LDV (R275, R277). -/
def execLdv (e : Nat) (s : State) : Host.Outcome State Fault Refusal :=
  run (seRow e 0x40 (fun r x i w =>
    let el := sreg x i.b
    if !elemOk x el then kernelFault 0x72 false e w
    else if !stripLoaded w r x (el.toNat / 128) then loadStep e w
    else match streamNo w r (i.imm % 8) with
      | none => w
      | some st =>
        let wide := st.2.1 = 4 || st.2.2.1 = 0
        let a := 256 * st.2.2.2.1 + el.toNat * (if wide then 4 else 2)
        let v := if wide then bytesVec (lsGet x a 512)
          else let b := lsGet x a 256; (List.range 128).map (fun l => widen (streamFmt st.2.2.1) (fld b (2 * l) 2))
        goNext e (setSe e (setV i.d v x) w))) s

/-- LDL (R270, R275). -/
def execLdl (e : Nat) (s : State) : Host.Outcome State Fault Refusal :=
  run (seRow e 0x41 (fun r x i w =>
    let a := (sreg x i.b + BitVec.ofNat 64 i.imm).toNat
    if !lsOk w r a false then kernelFault 0x71 false e w
    else if !lsLoaded w r x a then loadStep e w
    else goNext e (setSe e (setV i.d (bytesVec (lsGet x a 512)) x) w))) s

/-- STL (R270, R275). -/
def execStl (e : Nat) (s : State) : Host.Outcome State Fault Refusal :=
  run (seRow e 0x42 (fun r x i w =>
    let a := (sreg x i.b + BitVec.ofNat 64 i.imm).toNat
    if !lsOk w r a true then kernelFault 0x71 false e w
    else goNext e (setSe e (lsPut a (vecBytes (vreg x i.a)) x) w))) s

/-- WAITL (R275, R276). -/
def execWaitl (e : Nat) (s : State) : Host.Outcome State Fault Refusal :=
  run (seRow e 0x43 (fun r x i w =>
    let el := sreg x i.a
    if !elemOk x el then kernelFault 0x72 false e w
    else if !stripLoaded w r x (el.toNat / 128) then loadStep e w else goNext e w)) s

/-- LDDS (R241, R275, R277): outside the commit phase; it waits for earlier work on the element's lines. -/
def execLdds (e : Nat) (env : Env) (s : State) : Host.Outcome State Fault Refusal :=
  run (seRow e 0x44 (fun r x i w =>
    if x.state == .commit then kernelFault 0x70 false e w
    else match streamNo w r (i.imm % 8) with
      | none => w
      | some st =>
        let ri := st.2.2.2.2
        let g := getRgn w ri
        let el := (sreg x i.a).toNat
        if elemsOf g ≤ el then kernelFault 0x72 false e w
        else if auBusy w ri then w
        else onReads (stateAt g 0 (el / 4096)) 64 (onReads (lineOf (elemAt g 0 el)) 64 (fun w =>
          let (c0, t, w) := readTileAs (seAcc env x.ctx) g 0 (el / 4096) w
          let (c1, b, w) := readBytes (seAcc env x.ctx) (elemAt g 0 el) (esOf g) w
          let c := worse c0 c1
          if c != .ok then kernelFault 0x76 (c == .denied) e w
          else
            let v := (readOut f32 (signed (datumBits g) (loadInt g b)) t.anchor).1
            goNext e (modSe e (setS i.d (BitVec.ofNat 64 v)) w))) w)) s

/-! ### The commit phase (R278 to R281) -/

/-- The chunk's units open, one for each COD stream (R280). -/
def openChunkUnits (e : Nat) (r : Run) (w : W) : W :=
  let x := getSe w e
  (codStreams w r).foldl (fun w st =>
    let ri := st.2.2.2.2
    let (u, w) := openUnit { origin := e, kind := 0, region := ri, index := x.chunk, watch := r.watch, cmd := some r.cmd
                             set_ := some (r.cmd, x.chunk), run := r.ordinal, runFirst := r.first, runCount := r.count } w
    let h := ((getRgn w ri).grp.getD 0, u)
    modCmd r.cmd (fun k => { k with units := k.units ++ [h] }) (modSe e (fun s => { s with units := tset s.units st.1 h }) w)) w

/-- CBEGIN (R278). -/
def execCbegin (e : Nat) (s : State) : Host.Outcome State Fault Refusal :=
  run (seRow e 0x48 (fun r x _ w =>
    if x.state == .commit then kernelFault 0x70 false e w
    else goNext e (openChunkUnits e r (modSe e (fun s => { s with state := .commit }) w)))) s

/-- May a store of a chunk go to memory: no other request is under way on its lines, no merge entry holds one, and no PDE
of its lines is full (R53, R184)? -/
def storeReady (w : W) (a n : Nat) (coded : Bool) : Bool :=
  linesReadable w a n && !(coded && (List.range (n / 64)).any (fun j =>
    sqFull (getSlice w (pathOf w (portOf w.build (a + 64 * j)))) || lineMode w (a + 64 * j) == .held))

/-- Store the lines of a strip: each line is written, and, for a COD stream that parity covers, its delta handed on for the
chunk's unit and for a Restripe's new group, and to the Bearing (R47, R159, R218, R352). -/
def storeLines (env : Env) (e : Nat) (unit : Option (Nat × BitVec 64)) : Nat → Nat → Bytes → Bytes → W → W
  | 0, _, _, _, w => w
  | n + 1, a, new, delta, w =>
    let coded := unit.isSome && lineMode w a == .coded
    let d := delta.take 64
    let (c, w) := writeLine (seAcc env (getSe w e).ctx) a (new.take 64) w
    let w := if c != .ok then
        storeFailed e a (if coded then unit else none) w
      else match unit, rgnAt w a with
        | some u, some (ri, _) =>
          if !coded || d.all (fun x => x == 0) then w
          else
            let w := handDelta u.1 u.2 ri a d w
            let w := ((deltaViews w ri a).drop 1).foldl (fun w v => (hostDelta v ri a none d w).2) w
            bearingDelta ri a d w
        | _, _ => w
    storeLines env e unit n (a + 64) (new.drop 64) (delta.drop 64) w

/-- CST (R159, R279). -/
def execCst (e : Nat) (env : Env) (s : State) : Host.Outcome State Fault Refusal :=
  run (seRow e 0x49 (fun r x i w =>
    let el := sreg x i.b
    let k := i.imm % 8
    if x.state != .commit then kernelFault 0x70 false e w
    else if !elemOk x el then kernelFault 0x72 false e w
    else if !stripLoaded w r x (el.toNat / 128) then loadStep e w
    else match streamNo w r k with
      | none => w
      | some st =>
        let es := if st.2.2.1 = 0 then 4 else 2
        let ls := 256 * st.2.2.2.1 + es * el.toNat
        let new := (vreg x i.a).flatMap (fun v => toLe es (if es = 4 then v.toNat else narrow (streamFmt st.2.2.1) v))
        let cur := lsGet x ls (128 * es)
        let a := stripAt w r x (getRgn w st.2.2.2.2) (el.toNat / 128)
        if !storeReady w a (128 * es) true then flushLines a (128 * es) w
        else
          let w := setSe e (lsPut ls new x) w
          goNext e (storeLines env e (tfind x.units k) (2 * es) a new (xorBytes cur new) w))) s

/-- ST: nearest or stochastic narrowing (R275, R306). -/
def execSt (e : Nat) (env : Env) (s : State) : Host.Outcome State Fault Refusal :=
  run (seRow e 0x4A (fun r x i w =>
    let el := sreg x i.b
    if x.state != .commit then kernelFault 0x70 false e w
    else if !elemOk x el then kernelFault 0x72 false e w
    else match streamNo w r (i.imm % 8) with
      | none => w
      | some st =>
        let f := streamFmt st.2.2.1
        let es := if st.2.2.1 = 0 then 4 else 2
        let new := ((vreg x i.a).zip (vreg x i.c)).flatMap (fun p =>
          toLe es (if es = 4 then p.1.toNat else if i.md = 1 then narrowSr f p.1 p.2 else narrow f p.1))
        let a := stripAt w r x (getRgn w st.2.2.2.2) (el.toNat / 128)
        if !storeReady w a (128 * es) false then flushLines a (128 * es) w
        else goNext e (storeLines env e none (2 * es) a new [] w))) s

/-- The tile after a DADD of v by a chunk, and the amount added (R290). -/
def daddTile (g : Region) (x : Se) (chunk : Nat) (v : Int) (t : Tile) : Tile × Int :=
  let big := decide (2 ^ (datumBits g - 1 - g.headroom) ≤ v.natAbs)
  let top : Option Int := if v = 0 then none else some (t.anchor + bitlen v.natAbs - 1)
  let t := { t with flags := t.flags ||| b2n x.qNonfinite ||| 2 * b2n (x.qRange || big), emax := maxE (maxE t.emax x.emax) top }
  (countTile g 1 chunk t, if big then 0 else v)

/-- DADD (R159, R290): a read-modify-write through the AU; a failed one adds nothing. -/
def execDadd (e : Nat) (env : Env) (s : State) : Host.Outcome State Fault Refusal :=
  run (seRow e 0x4B (fun r x i w =>
    if x.state != .commit then kernelFault 0x70 false e w
    else match streamNo w r (i.imm % 8) with
      | none => w
      | some st =>
        let ri := st.2.2.2.2
        let g := getRgn w ri
        let el := (sreg x i.a).toNat
        let a := elemAt g 0 el
        if 4096 ≤ el || elemsOf g ≤ el then kernelFault 0x72 false e w
        else if auBusy w ri then w
        else onLines (stateAt g 0 0) 64 (onLines (lineOf a) 64 (fun w =>
          let clear := modSe e (fun s => { s with emax := none, qRange := false, qNonfinite := false })
          let (c0, old, w) := readTile env g 0 0 w
          let (c1, b, w) := readBytes (auAcc env g.ctx) a (esOf g) w
          let (new, v) := daddTile g x x.chunk (signed (datumBits g) (sreg x i.b).toNat) old
          let sum := (((loadInt g b : Nat) : Int) + v) % (2 ^ datumBits g : Nat)
          let w := if worse c0 c1 != .ok then storeFailed e (lineOf a) none w
            else
              let (c2, w) := writePart (auAcc env g.ctx) a (storeInt g sum.toNat) w
              let (c3, w) := if c2 == .ok then writeTile env ri 0 0 old new w else (c2, w)
              if c3 == .ok then countEvent ri 0 new (cntMp (portOf w.build a) 0x60 1 w) else storeFailed e (lineOf a) none w
          goNext e (clear w))) w)) s

/-- CEND (R278, R289): outside a commit phase it enters and ends an empty one. -/
def execCend (e : Nat) (_env : Env) (s : State) : Host.Outcome State Fault Refusal :=
  run (seRow e 0x4C (fun r x _ w =>
    let w := cntSe e 0x18 1 w
    let w := if x.state == .commit then w else openChunkUnits e r (modSe e (fun s => { s with state := .commit }) w)
    let w := if x.residue then
        let w := runFault e 0x75 false w
        logEv 0x0683 2 e x.ctx [0, e] (modSe e (fun s => { s with resCnt := sat32 s.resCnt, drain := true, err := s.err ||| 9
                                                                  residue := false }) w)
      else w
    endCommit e true w)) s

/-! ### Datums and randomness (R290, R291) -/

/-- QACC (R233, R290). -/
def execQacc (e : Nat) (s : State) : Host.Outcome State Fault Refusal :=
  run (seRow e 0x50 (fun r x i w =>
    let k := i.imm % 8
    match streamNo w r k with
    | none => w
    | some st =>
      let g := getRgn w st.2.2.2.2
      let n := datumBits g
      let cs := (vreg x i.a).map (fun v => convert (val32 v) 0 (tget x.anchors k 0) n g.headroom)
      let sum := cs.foldl (fun (t : Int) c => t + signed n c.add) 0
      let x := { x with emax := cs.foldl (fun m c => maxE m c.exp) x.emax, qRange := x.qRange || cs.any (·.rangeQ)
                        qNonfinite := x.qNonfinite || cs.any (·.nonfinite) }
      goNext e (residueCheck e (setSe e (setS i.d (sreg x i.d + BitVec.ofInt 64 sum) x) w)))) s

/-- RAND (R291, R307 to R310). -/
def execRand (e : Nat) (s : State) : Host.Outcome State Fault Refusal :=
  run (seRow e 0x51 (fun r x i w =>
    let key : Quad := { x0 := BitVec.ofNat 32 (fld r.params 0x30 4), x1 := BitVec.ofNat 32 (fld r.params 0x34 4)
                        x2 := BitVec.ofNat 32 (fld r.params 0x38 4), x3 := BitVec.ofNat 32 (fld r.params 0x3C 4) }
    let ri := r.regions.getD (i.imm % 8) 0
    let v := (List.range 128).map (fun l =>
      (crg128 key (crgCounter ((sreg x i.a).toNat + l) ri (sreg x i.b).toNat (i.imm >>> 16))).at i.md)
    goNext e (residueCheck e (setSe e (setV i.d v x) w)))) s

/-- The instruction NOP (R275). -/
def execBolganNop (e : Nat) (s : State) : Host.Outcome State Fault Refusal :=
  run (seRow e 0x7E (fun _ _ _ w => goNext e w)) s

end Sys2Proof.Machine
end

