-- ==== Sys2Proof/Machine/Watch.lean ====
section
/-! DEFINITION. Watches: instances and phases, the poll and the barrier, the window, the close, abandon and torn actions,
and the Watch record (R193 to R214). -/

namespace Sys2Proof.Machine

/-! ### Domain and peers (R197, R199, R200) -/

/-- The local groups of a Watch domain, ascending index. -/
def domGroups (w : W) (wdom : Nat) : List (Nat × Group) := w.b.grps.filter (fun g => g.2.state != .free && g.2.wdom == wdom)

/-- The peer set of an instance (R197). -/
def domPeers (w : W) (wdom : Nat) : List Coord :=
  (domGroups w wdom).foldl (fun l g =>
    (slotsOf g.2).foldl (fun l s => if s.2.coord == w.b.lnk.coord || l.contains s.2.coord then l else l ++ [s.2.coord]) l) []

/-- The lowest-indexed local group of the domain that holds a coordinate, and its member index there (R200). -/
def sharedGroup (w : W) (wdom : Nat) (c : Coord) : Option (Nat × Nat) :=
  (domGroups w wdom).findSome? (fun g => (memberOf g.2 c).map (fun m => (g.1, m)))

/-- Is a peer's slot out? -/
def peerOut (w : W) (wdom : Nat) (c : Coord) : Bool :=
  match sharedGroup w wdom c with
  | some (gi, m) => slotOut (slotAt (getGrp w gi) m).state
  | none => true

/-- The payload of a POLL or BARRIER packet behind its MSGID (R200). -/
def roundPayload (k : Watch) (kind round : Nat) (value bearing : Word) : Bytes :=
  toLe 6 k.w ++ toLe 1 k.a ++ toLe 1 kind ++ toLe 2 k.wdom ++ toLe 1 round ++ zeros 5 ++ toLe 8 value.toNat
    ++ toLe 8 bearing.toNat ++ zeros 24

/-- Send a POLL or BARRIER packet of a KIND to one peer. -/
def sendPeer (k : Watch) (c : Coord) (op kind round : Nat) (value : Word) (w : W) : W :=
  match sharedGroup w k.wdom c with
  | some (gi, m) => (msgMember (getGrp w gi) m op false .other (roundPayload k kind round value 0) w).2
  | none => w

/-- Send a round's packet to every peer whose slot is not out, and keep it for a spare (R199, R202). -/
def sendRound (x : Nat) (bar : Bool) (round : Nat) (value : Word) (w : W) : W :=
  let k := getWatch w x
  let w := modWatch x (fun k => { k with sent := k.sent ++ [(bar, round, value)] }) w
  k.peers.foldl (fun w c => if peerOut w k.wdom c then w else sendPeer k c (if bar then 5 else 4) 0 round value w) w

/-- Send a notice to every peer, once, and keep its KIND for a spare (R202, R211). -/
def sendNotice (x kind : Nat) (w : W) : W :=
  let k := getWatch w x
  if k.notice.isSome then w
  else
    let w := modWatch x (fun k => { k with notice := some kind }) w
    k.peers.foldl (fun w c => if peerOut w k.wdom c then w else sendPeer k c 5 kind 0 0 w) w

/-- Send an own contribution to one member of its group (R208). -/
def sendContrib (k : Watch) (gi m : Nat) (v : Word) (w : W) : W :=
  (msgMember (getGrp w gi) m 5 false .other (roundPayload k 1 0 0 v) w).2

/-- A slot of a group has been rewritten: the spare gets every round packet, contribution and notice of the open instances that
the old coordinate got, and takes its place among the peers (R202); an adoption inside the window rolls the instance forward
(R348). -/
def adoptPeer (gi m : Nat) (old new : Coord) (w : W) : W :=
  let g := getGrp w gi
  w.b.ctxs.foldl (fun w e =>
    let k := e.2.watch
    if k.phase == .idle || k.wdom != g.wdom then w
    else
      let k := { k with peers := if k.peers.contains new then k.peers.filter (fun c => c != old)
                                 else k.peers.map (fun c => if c == old then new else c)
                        held := k.held ++ (k.held.filter (fun p => p.peer == old)).map (fun p => { p with peer := new })
                        adoptMask := tset k.adoptMask gi (tget k.adoptMask gi 0 ||| 1 <<< m)
                        rolled := if (k.phase == .window || k.phase == .closing) && !k.noRoll && !k.noRollGroups.contains gi
                                  then insertNat k.rolled gi else k.rolled }
      let w := modWatch e.1 (fun _ => k) w
      let w := k.sent.foldl (fun w s => sendPeer k new (if s.1 then 5 else 4) 0 s.2.1 s.2.2 w) w
      let w := (k.own.filter (fun c => c.dgn == g.dgn)).foldl (fun w c => sendContrib k gi m c.value w) w
      match k.notice with | some kind => sendPeer k new 5 kind 0 0 w | none => w) w

/-! ### Flag words (R198) -/

/-- The flag word of a context, with bits [63:16] given. -/
def flagWord (w : W) (x : Nat) (host : Word) : Word :=
  let k := getWatch w x
  let deg := (grpsOfCtx w x).any (fun g => (getGrp w g).state != .whole) || decide (0 < k.degr)
  BitVec.ofNat 64 (b2n (ctxNonfinite w x) + 2 * b2n (ctxRange w x) + 4 * b2n k.replay + 8 * b2n (decide (0 < k.late)) + 16 * b2n deg)
    ||| (host &&& 0xFFFFFFFFFFFF0000)

/-! ### Memory of the context's ACCUM regions -/

/-- The ACCUM regions of a context. -/
def accumsOf (w : W) (x : Nat) : List (Nat × Region) := (rgnsOfCtx w x).filter (fun r => r.2.kind == .accum)

/-- No AU work is under way on the ACCUM regions of a context. -/
def accumQuiet (w : W) (x : Nat) : Bool := (accumsOf w x).all (fun r => !auBusy w r.1)

/-- May the block work on all ACCUM regions of a context now (R22, R23)? -/
def accumsFree (w : W) (x : Nat) : Bool := (accumsOf w x).all (fun r => !auBusy w r.1 && linesFree w r.2.base (rgnBytes r.2))

/-- Clear tiles as ACCUM_CLEAR does: integers and tile state, ANCHOR kept (R239). -/
def clearTiles (env : Env) (ri first n : Nat) (w : W) : Rsp × W :=
  let (c, w) := zeroTiles (auAcc env (getRgn w ri).ctx) ri 0 n first w
  let (c2, _, w) := mapTiles env ri 0 (fun t => some (clearedTile t.anchor)) n first w
  (worse c c2, w)

/-- Clear every ACCUM region of a context (R210). -/
def clearAccums (env : Env) (x : Nat) (w : W) : W :=
  (accumsOf w x).foldl (fun w r => (clearTiles env r.1 0 (tilesOf r.2) w).2) w

/-- The automatic advance (R204, R244), with its ANCHOR_CLAMP events; the tiles moved are counted. -/
def autoAdvances (env : Env) (x : Nat) (w : W) : W :=
  (accumsOf w x).foldl (fun w r =>
    let w := (List.range (tilesOf r.2)).foldl (fun w t =>
      let (_, tl, w) := readTile env r.2 0 t w
      if tl.flags.testBit 1 && tl.anchor == 511 then logEv 0x0702 1 0 x [0, r.1, t] w else w) w
    let (_, n, w) := mapTiles env r.1 0 (autoAdvance r.2) (tilesOf r.2) 0 w
    modWatch x (fun k => { k with tilesAdvanced := k.tilesAdvanced + n }) w) w

/-- ANCHOR := ANEXT where ANEXT_V is 1 (R243). -/
def closeAnchors (env : Env) (x : Nat) (w : W) : W :=
  (accumsOf w x).foldl (fun w r => (mapTiles env r.1 0 takeAnext (tilesOf r.2) 0 w).2.2) w

/-! ### The record (R212, R213) -/

/-- CRC-64, one bit at a time, reflected (R212). -/
def crc64Bit : Nat → BitVec 64 → BitVec 64
  | 0, c => c
  | n + 1, c => crc64Bit n ((c >>> 1) ^^^ (if c.getLsbD 0 then 0xC96C5795D7870F42 else 0))

/-- The CRC-64 of a run of bytes (R212). -/
def crc64 (b : Bytes) : BitVec 64 :=
  ~~~(b.foldl (fun (c : BitVec 64) x => crc64Bit 8 (c ^^^ x.setWidth 64)) (BitVec.allOnes 64))

/-- Insert by a key. -/
def insertBy {α : Type} (key : α → Nat) (x : α) : List α → List α
  | [] => [x]
  | y :: t => if key x < key y then x :: y :: t else y :: insertBy key x t

/-- Sort by a key. -/
def sortBy {α : Type} (key : α → Nat) (l : List α) : List α := l.foldl (fun s x => insertBy key x s) []

/-- This member's contribution to a group: the one taken with the close word, else the present one. -/
def recContrib (w : W) (x gi : Nat) : Word × Bool :=
  match (getWatch w x).own.find? (fun c => c.dgn == (getGrp w gi).dgn) with
  | some c => (c.value, c.valid)
  | none => contribution w x gi

/-- The group Bearing: the XOR of every member's contribution (R219). -/
def groupBearing (w : W) (x gi : Nat) : Word :=
  let d := (getGrp w gi).dgn
  ((getWatch w x).contribs.filter (fun c => c.dgn == d)).foldl (fun (v : Word) c => v ^^^ c.value) (recContrib w x gi).1

/-- Codes of the group states (R148). -/
def grpCode : GrpState → Nat
  | .free => 0 | .forming => 1 | .whole => 2 | .degraded => 3 | .relighting => 4 | .restriping => 5 | .broken => 6

/-- A group entry of the record. -/
def groupEntry (w : W) (x gi outcome_ : Nat) : Bytes :=
  let g := getGrp w gi
  let k := getWatch w x
  let c := recContrib w x gi
  let flags := b2n (k.sawDegraded.contains gi) + 2 * b2n (k.sawRelighting.contains gi) + 4 * b2n (k.rolled.contains gi)
    + 8 * b2n c.2 + 16 * b2n (k.noRoll || k.noRollGroups.contains gi)
  toLe 2 g.dgn ++ toLe 1 (grpCode g.state) ++ toLe 1 flags ++ toLe 2 (outMask g) ++ toLe 2 (tget k.adoptMask gi 0)
    ++ toLe 8 c.1.toNat ++ toLe 8 (if outcome_ ≤ 2 then (groupBearing w x gi).toNat else 0) ++ zeros 8

/-- A region entry of the record. -/
def regionEntry (w : W) (x : Nat) (r : Nat × Region) : Bytes :=
  let k := getWatch w x
  toLe 4 (r.2.base / 65536) ++ toLe 1 (kindCode r.2.kind)
    ++ toLe 1 (b2n (r.2.bvalid == 1) + 2 * b2n (k.sweptOk.contains r.1) + 4 * b2n (k.sweepBad.contains r.1)) ++ zeros 2
    ++ toLe 8 (tget k.bear r.1 r.2.brun).toNat

/-- The Watch record of a context with an OUTCOME (R213). -/
def recordBytes (w : W) (x outcome_ : Nat) : Bytes :=
  let k := getWatch w x
  let gs := sortBy (fun g : Nat × Group => g.2.dgn) (domGroups w k.wdom)
  let rs := sortBy (fun r : Nat × Region => r.2.base) ((rgnsOfCtx w x).filter (fun r => codedKind r.2.kind))
  let status := b2n (k.noRoll || !k.noRollGroups.isEmpty) + 2 * b2n k.mapFull + 4 * b2n k.coded + 8 * b2n k.relit
    + 16 * b2n k.shortRounds + 32 * b2n (decide (10 < rs.length)) + 64 * b2n (decide (4 < gs.length))
    + 128 * b2n (gs.any (fun g => !(recContrib w x g.1).2)) + 256 * b2n (!k.sweepBad.isEmpty)
  let rosters := k.rosters.flatMap (fun r => toLe 2 r.coll ++ toLe 2 r.count ++ zeros 4 ++ toLe 32 r.map)
  let b := toLe 6 k.w ++ toLe 1 k.a ++ zeros 1 ++ toLe 2 x ++ toLe 1 1 ++ toLe 1 outcome_ ++ toLe 2 k.wdom
    ++ toLe 1 (min 4 gs.length) ++ toLe 1 (min 10 rs.length) ++ toLe 8 (k.pollV.getD 0).toNat ++ toLe 8 (k.closeV.getD 0).toNat
    ++ toLe 8 k.locWord.toNat ++ toLe 8 k.tOpen ++ toLe 8 k.tPoll ++ toLe 8 k.tWindow ++ toLe 8 k.tEnd ++ toLe 8 k.chunks
    ++ toLe 8 k.degr ++ toLe 8 status ++ toLe 8 k.tilesRange ++ toLe 8 k.tilesNonfinite ++ toLe 8 k.tilesAdvanced
    ++ toLe 4 k.late ++ zeros 4
    ++ padTo 128 ((gs.take 4).flatMap (fun g => groupEntry w x g.1 outcome_))
    ++ padTo 80 rosters ++ padTo 160 ((rs.take 10).flatMap (regionEntry w x)) ++ zeros 8
  b ++ toLe 8 (crc64 b).toNat

/-- The address of the next record of a context (R212). -/
def recordAddr (w : W) (x : Nat) : Nat :=
  let k := getWatch w x
  let r := getRgn w k.record
  let n := rgnBytes r / 512
  r.base + 512 * (if n = 0 then 0 else k.recSeq % n)

/-- May the record of a context be written now (R22, R23)? -/
def recordFree (w : W) (x : Nat) : Bool := linesFree w (recordAddr w x) 512

/-- Write the record: whether every line was answered OK, and its address (R212). -/
def writeRecord (env : Env) (x outcome_ : Nat) (w : W) : Bool × Nat × W :=
  let r := getRgn w (getWatch w x).record
  let addr := recordAddr w x
  let fits := r.kind == .record && r.state != .free && r.ctx == x
  let (c, w) := if fits then writeBytes (seAcc env x) addr (recordBytes w x outcome_) w else (.error, w)
  (c == .ok, addr, modWatch x (fun k => { k with recSeq := k.recSeq + 1, sweepBad := [] }) w)

/-! ### The end of an instance -/

/-- The commit-map entries of an instance are freed (R174): those of its Watch number in the domain's groups. -/
def freeMaps (x : Nat) (w : W) : W :=
  let k := getWatch w x
  { w with b.maps := w.b.maps.filter (fun e => !(e.watch == k.w && (getGrp w e.g).wdom == k.wdom)) }

/-- WINDOW regions of a context leave the window; the writes that waited go on (R208, R210, R211, R217). -/
def leaveWindow (x : Nat) (w : W) : W :=
  let w := stopEncode x w
  let ws := (rgnsOfCtx w x).filter (fun r => r.2.kind == .window)
  kickAll (ws.foldl (fun w r => modRgn r.1 (fun r => { leaveValid 0 r with window := false }) w) w)

/-- The RESIDUAL banks that the instance's collectives named flip (R261). -/
def flipBanks (x : Nat) (w : W) : W :=
  (getWatch w x).residuals.foldl (fun w r => modRgn r (fun r => { r with bank := 1 - r.bank }) w) w

/-- The instance ends: IDLE, and its collectives are forgotten. -/
def endInstance (x : Nat) (closed : Bool) (w : W) : W :=
  let w := { w with b.colls := w.b.colls.filter (fun c => c.ctx != x) }
  modWatch x (fun k => { k with phase := .idle, pollCmd := none, winCmd := none, closeCmd := none, ending := none
                                endCmd := none
                                lastClosed := if closed then k.w else k.lastClosed
                                lastAbandoned := if closed then k.lastAbandoned else some (k.w, k.a) }) w

/-- Opcodes whose commands an abandon ends (R210). -/
def watchOps : List Nat := [0x30, 0x31, 0x33, 0x34, 0x24, 0x22]

/-- The commands of a context that an abandon or a torn Watch ends complete ABORTED; a WINDOW_OPEN waits for the ENCODE
units already closed (R210, R211). -/
def abortCmds (env : Env) (x : Nat) (test : Cmd → Bool) (w : W) : W :=
  (w.b.cmds.filter (fun k => k.ctx == x && k.id.q != fabricQ && test k)).foldl (fun w k =>
    if opOf k = 0x22 then outcome env k.id { status := .aborted } w else done env k.id .aborted 0 [] w) w

/-- The command that waited for the end of an instance completes: WATCH_POLL with the verdict's status, WATCH_ABANDON OK
(R204, R210). -/
def endDone (env : Env) (k : Watch) (w : W) : W :=
  let res := toLe 8 (k.pollV.getD 0).toNat
  match k.endCmd, k.ending with
  | some c, some 3 => done env c .range 0 res w
  | some c, some 4 => done env c .poisoned 0 res w
  | some c, _ => done env c .ok 0 [] w
  | none, _ => w

/-- Actions 2 to 5 of R210, and the end of the instance. -/
def abandonActs (env : Env) (x outcome_ : Nat) (w : W) : W :=
  let k := getWatch w x
  let w := freeMaps x (leaveWindow x (clearAccums env x w))
  let w := modWatch x (fun k => { k with tEnd := w.b.crp.tCore }) w
  endDone env k (endInstance x false (writeRecord env x outcome_ w).2.2)

/-- Is action 1 of R210 over: every command that it ends has completed? -/
def aborted (w : W) (x : Nat) (keep : Option CmdId) : Bool :=
  !w.b.cmds.any (fun k => k.ctx == x && k.id.q != fabricQ && watchOps.contains (opOf k) && some k.id != keep)

/-- Action 1 of R210: the commands complete ABORTED, and nothing more is encoded. -/
def abandonBegin (env : Env) (x outcome_ : Nat) (keep : Option CmdId) (w : W) : W :=
  let w := modWatch x (fun k => { k with ending := some outcome_, endCmd := keep, pollCmd := none, winCmd := none }) w
  abortCmds env x (fun k => watchOps.contains (opOf k) && some k.id != keep) (stopEncode x w)

/-- Steps 1 and 2 of the torn actions (R211). -/
def tornBegin (x : Nat) (w : W) : W :=
  let test := fun (r : Run) => r.ctx == x && codedRun w r
  let w := modWatch x (fun k => { k with ending := some 6 }) w
  leaveWindow x (abortRuns test w)

/-- Steps 4 and 5 of the torn actions. -/
def tornActs (env : Env) (x : Nat) (w : W) : W :=
  let runs := (w.b.eng.runs.filter (fun r => r.ctx == x && tornHolds w r)).map (·.cmd)
  let w := modWatch x (fun k => { k with ending := none }) w
  let w := runs.foldl (fun w c => finishRun env c w) w
  let w := abortCmds env x (fun k => watchOps.contains (opOf k) || opOf k = 0x21) w
  let w := modWatch x (fun k => { k with tEnd := w.b.crp.tCore }) (closeAnchors env x (freeMaps x w))
  endInstance x true (flipBanks x (writeRecord env x 6 w).2.2)

/-- May the torn actions go past step 3: every unit of the context is complete, and no SE commits for it (R211)? -/
def tornReady (w : W) (x : Nat) : Bool :=
  !w.b.units.any (fun u => u.ctx == x && !u.complete)
    && !w.b.eng.ses.any (fun e => e.2.state == .commit && ((runOf w e.2).map (fun r => r.ctx == x && codedRun w r)).getD false)

/-- The abandon or torn actions of a context go on as soon as they can; their accesses wait for the lines they touch. -/
def endGo (env : Env) (x : Nat) (w : W) : W :=
  let k := getWatch w x
  match k.ending with
  | none => w
  | some o =>
    if !accumsFree w x || !recordFree w x then w
    else if o = 6 then (if tornReady w x then tornActs env x w else w)
    else if aborted w x k.endCmd then abandonActs env x o w else w

/-- Every Watch whose end has begun goes on. -/
def endAll (env : Env) (w : W) : W :=
  w.b.ctxs.foldl (fun w e => if e.2.watch.ending.isSome then endGo env e.1 w else w) w

/-- The Watch of a context that is torn down (R104, R194, R210): the notice is sent, nothing is written. Its WINDOW regions leave
the window as action 3 of R210 says, though R104 keeps them coded (DESIGN CHOICE, log entry 102). -/
def watchTeardown (x : Nat) (w : W) : W :=
  let k := getWatch w x
  if k.phase == .idle then w
  else
    let torn := k.phase == .window || k.phase == .closing
    endInstance x torn (freeMaps x (leaveWindow x (sendNotice x (if torn then 3 else 2) w)))

/-! ### Rounds (R199 to R203) -/

/-- The value a peer's packet of a round holds. -/
def heldRound (k : Watch) (bar : Bool) (c : Coord) (r : Nat) : Option Word :=
  (k.held.find? (fun p => p.bar == bar && p.peer == c && p.round == r)).map (·.value)

/-- Run rounds as far as the packets held allow: V and the round in progress. -/
def roundsGo (x : Nat) (bar : Bool) : Nat → Word → Nat → W → Word × Nat × W
  | 0, v, r, w => (v, r, w)
  | n + 1, v, r, w =>
    let k := getWatch w x
    if k.rounds ≤ r || !k.peers.all (fun c => (heldRound k bar c r).isSome) then (v, r, w)
    else
      let v' := k.peers.foldl (fun (a : Word) c => a ||| (heldRound k bar c r).getD 0) v
      let last := r + 1 = k.rounds
      let w := modWatch x (fun k => { k with held := k.held.filter (fun p => !(p.bar == bar && p.round == r)) }) w
      let w := if last && v' != v then
          logOther 13 2 0 x [0, v'.toNat, x] (modWatch x (fun k => { k with shortRounds := true }) w)
        else w
      let w := if last then w else sendRound x bar (r + 1) v' w
      roundsGo x bar n v' (r + 1) w

/-- The verdict of the poll decides the status and the next phase (R194, R204). -/
def verdict (env : Env) (x : Nat) (c : CmdId) (v : Word) (w : W) : W :=
  let res := toLe 8 v.toNat
  let w := modWatch x (fun k => { k with verdict := v, pollV := some v, tPoll := w.b.crp.tCore, pollCmd := none }) w
  if v.getLsbD 1 then endGo env x (abandonBegin env x 3 (some c) (autoAdvances env x w))
  else if v.getLsbD 2 then endGo env x (abandonBegin env x 4 (some c) w)
  else if v.getLsbD 0 then done env c .nonfinite 0 res (modWatch x (fun k => { k with phase := .skip }) w)
  else done env c .ok 0 res (modWatch x (fun k => { k with phase := .polled }) w)

/-- The poll goes on (R199); a verdict waits for the lines of the context's ACCUM regions. -/
def pollGo (env : Env) (x : Nat) (w : W) : W :=
  let k := getWatch w x
  match k.phase, k.pollRun, k.pollCmd with
  | .polling, some (v, r), some c =>
    let (v, r, w) := roundsGo x false 256 v r w
    let w := modWatch x (fun k => { k with pollRun := some (v, r) }) w
    if k.rounds ≤ r && accumsFree w x then verdict env x c v w else w
  | _, _, _ => w

/-- The poll of a context fails: the Watch returns to OPEN (R194). -/
def pollFail (env : Env) (x : Nat) (st : Status) (w : W) : W :=
  match (getWatch w x).pollCmd with
  | some c => done env c st 0 [] (modWatch x (fun k => { k with phase := .opened, pollCmd := none }) w)
  | none => w

/-- A coordinate has become LOST: polls that wait on it complete MEMBER_LOST (R194, R199). -/
def pollsLose (env : Env) (c : Coord) (w : W) : W :=
  w.b.ctxs.foldl (fun w e =>
    let k := e.2.watch
    match k.pollRun with
    | some (_, r) => if k.phase == .polling && k.peers.contains c && (heldRound k false c r).isNone then
        pollFail env e.1 .memberLost w else w
    | none => w) w

/-! ### The close (R208, R209) -/

/-- Was the verdict NONFINITE, so that the close writes SKIPPED? -/
def skipped (k : Watch) : Bool := (k.pollV.getD 0).getLsbD 0

/-- Every contribution of the domain's groups is held. -/
def allContribs (w : W) (k : Watch) : Bool :=
  (domGroups w k.wdom).all (fun g => (others g.2).all (fun m => k.contribs.any (fun c => c.dgn == g.2.dgn && c.member == m)))

/-- Steps 5 and 6: the record, the group registers, LAST_CLOSED, and the completion. -/
def closeEnd (env : Env) (x : Nat) (c : CmdId) (v : Word) (w : W) : W :=
  let k := getWatch w x
  let skip := skipped k
  let (good, addr, w) := writeRecord env x (if skip then 2 else 1) w
  let w := (domGroups w k.wdom).foldl (fun w g => modGrp g.1 (fun y =>
    { y with blast := groupBearing w x g.1, bmem := (recContrib w x g.1).1, bwatch := (k.w, k.a) }) w) w
  let w := endInstance x true (freeMaps x (if skip then w else flipBanks x w))
  let st := if v.getLsbD 2 || !good then Status.poisoned else if v.getLsbD 4 then .okDegraded else .ok
  done env c st 0 (toLe 8 addr ++ toLe 8 v.toNat) w

/-- The barrier goes on, and the close ends once its rounds are done and every contribution is held. -/
def closeGo (env : Env) (x : Nat) (w : W) : W :=
  let k := getWatch w x
  match k.phase, k.barRun, k.closeCmd with
  | .closing, some (v, r), some c =>
    if k.ending.isSome then w
    else
      let (v, r, w) := roundsGo x true 256 v r w
      let w := modWatch x (fun k => { k with barRun := some (v, r) }) w
      if r < k.rounds then w
      else
        let w := if k.closeV.isSome then w else modWatch x (fun k => { k with closeV := some v, tEnd := w.b.crp.tCore }) w
        if allContribs w (getWatch w x) && recordFree w x then closeEnd env x c v w else w
  | _, _, _ => w

/-- Step 2: every command of the context fetched before WATCH_CLOSE has completed, and every unit originated for the
domain's groups is complete. -/
def closeReady (w : W) (x : Nat) (c : CmdId) : Bool :=
  let k := getWatch w x
  !((w.b.cmds.takeWhile (fun e => e.id != c)).any (fun e => e.ctx == x && e.id.q != fabricQ))
    && (domGroups w k.wdom).all (fun g => w.b.units.all (fun u => u.complete || u.g != g.1)) && accumsFree w x

/-- Steps 3 and 4: the close word and the contributions are taken, and the barrier starts. -/
def startBarrier (env : Env) (x : Nat) (w : W) : W :=
  let k := getWatch w x
  let w := if skipped k then w else closeAnchors env x w
  let word := flagWord w x 0
  let gs := domGroups w k.wdom
  let own := gs.map (fun g => let c := contribution w x g.1
                              ({ dgn := g.2.dgn, member := g.2.self, value := c.1, valid := c.2 } : Contrib))
  let bear := ((rgnsOfCtx w x).filter (fun r => codedKind r.2.kind)).map (fun r => (r.1, r.2.brun))
  let w := modWatch x (fun k => { k with own := own, bear := bear, barRun := some (word, 0) }) w
  let w := gs.foldl (fun w g => (others g.2).foldl (fun w m =>
    if slotOut (slotAt g.2 m).state then w
    else sendContrib k g.1 m ((own.find? (fun c => c.dgn == g.2.dgn)).elim 0 (·.value)) w) w) w
  closeGo env x (sendRound x true 0 word w)

/-- A close ends without leaving CLOSING (R209). -/
def closeFail (env : Env) (x : Nat) (st : Status) (w : W) : W :=
  match (getWatch w x).closeCmd with
  | some c => done env c st 0 [] (modWatch x (fun k => { k with closeCmd := none }) w)
  | none => w

/-- A group has become BROKEN: the closes of its domain complete MEMBER_LOST (R209). -/
def closesBreak (env : Env) (gi : Nat) (w : W) : W :=
  w.b.ctxs.foldl (fun w e =>
    if e.2.watch.phase == .closing && e.2.watch.wdom == (getGrp w gi).wdom then closeFail env e.1 .memberLost w else w) w

/-! ### Packets (R201, R211) -/

/-- The context a POLL or BARRIER packet routes to (R197). -/
def watchCtx (w : W) (wdom : Nat) : Option Nat :=
  match w.b.ctxs.find? (fun e => e.2.watch.phase != .idle && e.2.watch.wdom == wdom) with
  | some e => some e.1
  | none => tfind w.b.wdoms wdom

/-- The plaintext of a packet as it arrives; none when its seal does not open. -/
def plainOf (w : W) (pk : Packet) : Option Bytes := 
  if pk.hdr.flags.getLsbD 0 && !w.b.lnk.helmTake then openPacket pk w else some pk.payload

/-- A packet row for an opcode and a kind in the payload. A packet whose seal does not open is taken by every row of its
opcode and discarded. -/
def onKind (rx : Rx) (op : Nat) (kind : Bytes → Bool) (act : Packet → W → W) (w : W) : W :=
  onPacket rx (fun pk => pk.hdr.opcode.toNat == op && ((plainOf w pk).map kind).getD true) act w

/-- A POLL or BARRIER packet against the instance of its context (R201). -/
def onInstance (pk : Packet) (act : Nat → W → W) (w : W) : W :=
  let p := pk.payload
  match watchCtx w (fld p 0x10 2) with
  | none => w
  | some x =>
    let k := getWatch w x
    let inst := fld p 8 6 * 256 + fld p 0xE 1
    let mine := k.w * 256 + k.a
    if mine < inst then w
    else
      let w := sendAck pk.hdr (fld p 0 8) w
      if inst = mine && k.phase != .idle && k.ending.isNone then act x w else w

/-- A round packet is held until its round is processed; the first copy decides. -/
def holdRound (x : Nat) (bar : Bool) (pk : Packet) (w : W) : W :=
  let r := fld pk.payload 0x12 1
  modWatch x (fun k =>
    let cur := if bar then (k.barRun.map (·.2)).getD 0 else (k.pollRun.map (·.2)).getD 0
    if r < cur || cur + 1 < r || (heldRound k bar pk.hdr.src r).isSome then k
    else { k with held := k.held ++ [{ bar := bar, peer := pk.hdr.src, round := r, value := BitVec.ofNat 64 (fld pk.payload 0x18 8) }] }) w

/-- An ABANDON or TORN notice for an open instance (R211). -/
def onNotice (env : Env) (kind : Nat) (pk : Packet) (w : W) : W :=
  onInstance pk (fun x w =>
    let ph := (getWatch w x).phase
    let w := sendNotice x kind w
    endGo env x (if ph == .window || ph == .closing then tornBegin x w else abandonBegin env x 5 none w)) w

end Sys2Proof.Machine
end

