-- ==== Sys2Proof/Machine/Collective.lean ====
section
/-! DEFINITION. Collectives: REDUCE and GATHER packets, PASSAGE and DIRECT, compression and folds, all-gather, lost packets
and lost members (R247 to R265). -/

namespace Sys2Proof.Machine

/-! ### Groups, shards and segments (R247, R248, R250) -/

/-- The members of a collective: those of the group whose coordinates lie between LO and HI (R247). -/
def collMembers (g : Group) (lo hi : Coord) : List Nat :=
  ((slotsOf g).filter (fun s => (List.range 4).all (fun i =>
    decide (axis lo i ≤ axis s.2.coord i) && decide (axis s.2.coord i ≤ axis hi i)))).map (·.1)

/-- Collective size. -/
def collP (c : Coll) : Nat := c.members.length

/-- First tile of a shard (R248). -/
def shardLo (r : Region) (p j : Nat) : Nat := if p = 0 then 0 else j * tilesOf r / p

/-- The shard of a tile. -/
def shardOf (r : Region) (p t : Nat) : Nat := ((List.range p).filter (fun j => decide (shardLo r p j ≤ t))).getLast?.getD 0

/-- The tiles of a shard. -/
def shardTiles (r : Region) (p j : Nat) : List Nat :=
  (List.range (shardLo r p (j + 1) - shardLo r p j)).map (· + shardLo r p j)

/-- The next and the previous position of the ring (R252). -/
def nextPos (c : Coll) (p : Nat) : Nat := if c.dir then subMod p 1 (collP c) else (p + 1) % collP c
def prevPos (c : Coll) (p : Nat) : Nat := if c.dir then (p + 1) % collP c else subMod p 1 (collP c)

/-- The member at a position. -/
def memberAt (c : Coll) (p : Nat) : Nat := c.members.getD p 0

/-- Elements of a segment, and segments of a tile: a compressed tile is one segment (R250). -/
def segElems (r : Region) : Nat := if r.width = 0 then 512 else 256
def numSegs (r : Region) (compressed : Bool) : Nat := if compressed then 1 else 4096 / segElems r

/-- Does a collective send compressed tiles? -/
def compressed (w : W) (c : Coll) : Bool := c.isReduce && (getRgn w c.region).comp != 0

/-- The segments of a collective's tiles. -/
def segsOf (w : W) (c : Coll) (ts : List Nat) : List (Nat × Nat) :=
  ts.flatMap (fun t => (List.range (numSegs (getRgn w c.region) (compressed w c))).map (fun s => (t, s)))

/-- Address of a segment's integers. -/
def segAt (r : Region) (t s : Nat) : Nat := elemAt r 0 (4096 * t + s * segElems r)

/-- Bytes of an element of a gather destination. -/
def outSize (c : Coll) : Nat := match c.outFmt with | 1 => 4 | 2 => 2 | _ => 0

/-- Address of a segment as RADDR names it: in the ACCUM region, or in the gather destination. -/
def segRaddr (w : W) (c : Coll) (t s : Nat) : Nat :=
  let r := getRgn w c.region
  if outSize c = 0 then segAt r t s else (getRgn w c.dst).base + outSize c * (4096 * t + s * segElems r)

def collIs (c : CmdId) (x : Coll) : Bool := x.cmd == c
def findColl (w : W) (c : CmdId) : Option Coll := w.b.colls.find? (collIs c)
def modColl (c : CmdId) (f : Coll → Coll) (w : W) : W := { w with b.colls := mapIf (collIs c) f w.b.colls }

/-! ### Packets (R250) -/

/-- What a packet of a collective says beside its collective. -/
structure SegMsg where
  repeat_ : Bool := false
  flags : Nat := 0
  origin : Nat := 0
  tile : Nat
  seg : Nat
  state : Option Tile := none
  data : Bytes := []

/-- The descriptor behind which a segment travels. -/
def collDesc (w : W) (c : Coll) (m : SegMsg) : Bytes :=
  let r := getRgn w c.region
  let k := getWatch w c.ctx
  let form := if c.isReduce then r.comp + 4 * b2n c.direct
    else (if c.outFmt = 0 then 0 else 3) + 8 * b2n (c.outFmt == 2)
  toLe 6 k.w ++ toLe 1 k.a ++ zeros 1 ++ toLe 2 c.coll ++ toLe 1 (b2n m.repeat_)
    ++ toLe 1 (m.flags + 8 * b2n m.state.isSome) ++ toLe 1 form ++ toLe 1 (collP c) ++ toLe 1 m.origin ++ toLe 1 m.seg
    ++ toLe 8 m.tile ++ toLe 8 (tilesOf r) ++ toLe 1 r.width ++ toLe 1 r.headroom ++ toLe 1 r.comp ++ zeros 29

/-- Send a packet of a collective to a member of its group. -/
def sendSeg (c : Coll) (dst : Nat) (m : SegMsg) (w : W) : W :=
  let r := getRgn w c.region
  let g := grpOf w r
  let dest := (slotAt g dst).coord
  let p := collDesc w c m ++ (m.state.map tileBytes).getD [] ++ m.data
  let w := if m.repeat_ then cntLp (portTo w dest) 0x110 1 w else w
  let (vc, op) := if c.isReduce then (2, 0x20) else (3, 0x30)
  (sendTo dest { grpForm g vc op dst r.isSealed p with raddr := segRaddr w c m.tile m.seg } w).2

/-- FIRST and LAST of a segment within a list of segments sent in order. -/
def endFlags (l : List (Nat × Nat)) (s : Nat × Nat) : Nat := b2n (l.head? == some s) + 2 * b2n (l.getLast? == some s)

/-! ### Integers and tile states (R229, R251, R255) -/

/-- The stored integers of a run of bytes, as signed numbers. -/
def intsOf (r : Region) (b : Bytes) : List Int :=
  (List.range (b.length / esOf r)).map (fun i => signed (datumBits r) (loadInt r (bytesAt b (esOf r * i) (esOf r))))

/-- The stored form of integers, modulo 2^w. -/
def intBytes (r : Region) (l : List Int) : Bytes :=
  l.flatMap (fun (q : Int) => storeInt r (q % (2 ^ datumBits r : Nat)).toNat)

/-- The element-wise sum of two lists of integers. -/
def addInts (a b : List Int) : List Int := (a.zip b).map (fun x => x.1 + x.2)

/-- An incoming tile-state line combined into a tile whose anchor it shares (R235, R251). -/
def combineTile (r : Region) (t inc : Tile) : Tile :=
  countTile r inc.count inc.cnsum { t with flags := t.flags ||| inc.flags % 8, emax := maxE t.emax inc.emax }

/-- Rescale a tile's integers from one anchor to another: the values, and whether some failed the range check. -/
def rescaleAll (r : Region) (l : List Int) (from_ to_ : Int) : List Int × Bool :=
  let x := l.map (fun q => rescale r q from_ to_)
  (x.map (·.1), x.any (·.2))

/-! ### Compression (R260 to R262) -/

/-- TOPK: the K elements of largest magnitude, ties to the lower index, in ascending index order. -/
def topkOf (k : Nat) (x : List Int) : List (Nat × Int) :=
  let all := (List.range x.length).zip x
  sortBy (·.1) ((sortBy (fun e : Nat × Int => 2 ^ 64 - e.2.natAbs) all).take k)

/-- SIGN: the mean magnitude, rounded under R233. -/
def signScale (x : List Int) : Nat :=
  let sum := x.foldl (fun n q => n + q.natAbs) 0
  let s := sum >>> 12
  let rem := sum - s <<< 12
  if 2048 < rem || (rem = 2048 && s % 2 = 1) then s + 1 else s

/-- Encode a tile: the payload, and the values that the owner decodes. -/
def encodeTile (r : Region) (k : Nat) (x : List Int) : Bytes × List Int :=
  let wb := datumBits r / 8
  if r.comp = 1 then
    let es := topkOf k x
    (es.flatMap (fun (e : Nat × Int) => toLe 2 e.1 ++ toLe wb (e.2 % (2 ^ datumBits r : Nat)).toNat),
     (List.range x.length).map (fun i => ((es.find? (fun e => e.1 == i)).map (·.2)).getD 0))
  else
    let s := signScale x
    let bits_ := (List.range 512).map (fun j =>
      BitVec.ofNat 8 ((List.range 8).foldl (fun n b => n + (if x.getD (8 * j + b) 0 < 0 then 1 <<< b else 0)) 0))
    (toLeInt 8 s ++ bits_, x.map (fun q => if q < 0 then -(s : Int) else (s : Int)))

/-- Decode the payload of a compressed tile. -/
def decodeTile (r : Region) (p : Bytes) : List Int :=
  let wb := datumBits r / 8
  if r.comp = 1 then
    let es := (List.range (p.length / (2 + wb))).map (fun j =>
      (fld p ((2 + wb) * j) 2 % 4096, signed (datumBits r) (fld p ((2 + wb) * j + 2) wb)))
    (List.range 4096).map (fun i => ((es.find? (fun e => e.1 == i)).map (·.2)).getD 0)
  else
    let s := signed 64 (fld p 0 8)
    (List.range 4096).map (fun i => if bit (fld p (8 + i / 8) 1) (i % 8) then -s else s)

/-- x := q + rescale(e) within the range, as R260 forms it, and whether RANGE_Q is set. -/
def residualSum (r : Region) (q e : List Int) (af a : Int) : List Int × Bool :=
  let (e, bad) := rescaleAll r e af a
  let bound : Int := (2 ^ (datumBits r - 1 - r.headroom) : Nat)
  let x := (addInts q e).map (fun v => if decide (bound ≤ v) || decide (v ≤ -bound) then (0, true) else (v, false))
  (x.map (·.1), bad || x.any (·.2))

/-! ### Coded banks (R259, R261) -/

/-- The lines of a tile in a bank: integers, then the state line. -/
def tileLines (r : Region) (bank t : Nat) : List Nat :=
  (List.range (64 * esOf r)).map (fun i => elemAt r bank (4096 * t) + 64 * i) ++ [stateAt r bank t]

/-- May the lines of a tile be read at once: no request is under way on them; a held write holds no read back (R23, R282)? -/
def tileReadable (w : W) (r : Region) (bank t : Nat) : Bool :=
  linesReadable w (elemAt r bank (4096 * t)) (4096 * esOf r) && linesReadable w (stateAt r bank t) 64

/-- May the lines of a tile be read and written at once: no request is under way on them, none is held, and no send queue is
full (R24, R46, R53, R184)? -/
def tileReady (w : W) (r : Region) (bank t : Nat) : Bool :=
  tileFree w r bank t
    && (tileLines r bank t).all (fun l => lineMode w l != .held && !chunkHeld w l) && !w.b.slices.any (fun s => sqFull s.2)

/-- Read a tile of a RESIDUAL bank, with degraded reads: its integers and state line. -/
def readBank (env : Env) (c : CmdId) (r : Region) (bank t : Nat) (w : W) : Got × W :=
  let (a, w) := cmdSpan env c (64 * esOf r) (elemAt r bank (4096 * t)) w
  let (b, w) := cmdLine env c (stateAt r bank t) w
  match a, b with
  | .got c1 d1, .got c2 d2 => (.got (worse c1 c2) (d1 ++ d2), w)
  | _, _ => (.waits, w)

/-- Write one line for a command at once: plainly, or as a coded write whose old line is at hand (R47, R259). -/
def putNow (env : Env) (c : CmdId) (line : Nat) (new : Bytes) (w : W) : Rsp × W :=
  if lineMode w line != .coded then writeLine (cmdAcc env w c) line new w
  else match cmdLine env c line w with
    | (.got .ok old, w) =>
      let (code, w) := writeLine (cmdAcc env w c) line new w
      if code != .ok then (code, w)
      else
        let (us, w) := codedDelta (((rgnAt w line).map (·.1)).getD 0) line (some c) (xorBytes old new) w
        (.ok, modCmd c (fun k => { k with units := us.foldl (fun l u => if l.contains u then l else l ++ [u]) k.units }) w)
    | (.got code _, w) => (code, w)
    | (.waits, w) => (.poison, w)

/-- Write lines one after another. -/
def putLines (env : Env) (c : CmdId) : List Nat → Bytes → W → Rsp × W
  | [], _, w => (.ok, w)
  | l :: t, d, w =>
    let (a, w) := putNow env c l (d.take 64) w
    let (b, w) := putLines env c t (d.drop 64) w
    (worse a b, w)

/-- Write a tile into a bank: integers and state line, whose write the region's counts follow (R231, R266). The decoded lines it
used are forgotten. -/
def writeBank (env : Env) (c : CmdId) (ri bank t : Nat) (old new : Tile) (ints : Bytes) (w : W) : Rsp × W :=
  let r := getRgn w ri
  let (c1, w) := putLines env c ((tileLines r bank t).dropLast) ints w
  let (c2, w) := putNow env c (stateAt r bank t) (tileBytes new) w
  let w := usedLines c (stateAt r bank t) 64 (usedLines c (elemAt r bank (4096 * t)) (4096 * esOf r) w)
  (worse c1 c2, if c2 == .ok then noteTile ri old new w else w)

/-! ### The end of a collective (R259, R265) -/

/-- The outcome of a collective is decided, once; it waits for the units of its coded writes. -/
def collEnd (env : Env) (c : CmdId) (o : Outc) (w : W) : W :=
  if ((findColl w c).map (·.finished)).getD true then w
  else outcome env c o (closeCmdUnits c (modColl c (fun x => { x with finished := true }) w))

/-- A failed access ends the collective; a POISON answer in an ACCUM region marks the Watch for replay (R55). -/
def collBad (env : Env) (c : Coll) (code : Rsp) (w : W) : W :=
  let w := if code == .poison then markReplay c.ctx w else w
  collEnd env c.cmd { status := rspStatus code } w

/-- The roster: under DIRECT the own member index with those whose FIRST arrived, or ROSTER (R253, R256). -/
def rosterMap (w : W) (c : Coll) : Nat :=
  let self := (grpOf w (getRgn w c.region)).self
  (insertNat c.first self).foldl (fun m i => m ||| 1 <<< i) 0

/-- The roster closes: it is kept for the record, and the contributors outside it are late (R253, R254). -/
def closeRoster (c : CmdId) (w : W) : W :=
  match findColl w c with
  | none => w
  | some x =>
    if x.closed || !x.direct then w
    else
      let self := (grpOf w (getRgn w x.region)).self
      let inc := insertNat x.first self
      let late := x.members.filter (fun m => !inc.contains m)
      let w := modWatch x.ctx (fun k =>
        { k with late := sat 0xFFFFFFFF (k.late + late.length)
                 rosters := k.rosters ++ [{ coll := x.coll, map := rosterMap w x, count := inc.length }] }) w
      modColl c (fun x => { x with closed := true }) w

/-- Every contributor's FIRST has arrived; a shard without tiles has none to wait for. -/
def allFirst (w : W) (c : Coll) : Bool :=
  let self := (grpOf w (getRgn w c.region)).self
  (shardTiles (getRgn w c.region) (collP c) c.pos).isEmpty || c.members.all (fun m => m == self || c.first.contains m)

/-- Was a packet of a member on the collective's VC found lost? -/
def lostFrom (w : W) (c : Coll) (m : Nat) : Bool :=
  let co := (slotAt (grpOf w (getRgn w c.region)) m).coord
  w.b.lnk.rxStreams.any (fun s => s.src == co && s.mcast.isNone && s.vc == (if c.isReduce then 2 else 3) && !s.lost.isEmpty)

/-- The segments this member still expects, with the contributor (0 but under DIRECT). -/
def lacking (w : W) (c : Coll) : List (Nat × Nat × Nat) :=
  let r := getRgn w c.region
  let self := (grpOf w r).self
  let missing := fun (q : Nat) (ts : List Nat) => ((segsOf w c ts).map (fun s => (q, s.1, s.2))).filter (fun s => !c.taken.contains s)
  if c.isReduce && c.direct then
    (c.members.filter (fun m => m != self && (c.first.contains m || (!c.closed && lostFrom w c m)))).flatMap (fun m => missing m (shardTiles r (collP c) c.pos))
  else
    let skip := if c.isReduce then prevPos c c.pos else c.pos
    missing 0 (((List.range (collP c)).filter (fun j => j != skip)).flatMap (shardTiles r (collP c)))

/-- Everything a member sends of its own has been sent: PROG counts the own shard's tiles, then all others. -/
def sentAll (w : W) (c : Coll) : Bool := ((findCmd w c.cmd).map (fun k => decide (tilesOf (getRgn w c.region) ≤ k.prog))).getD false

/-- The final hop of R243 on the tiles of the own shard of a DIRECT reduction. -/
def finishShard (env : Env) (c : Coll) (w : W) : Rsp × W :=
  let r := getRgn w c.region
  let lo := shardLo r (collP c) c.pos
  let n := shardLo r (collP c) (c.pos + 1) - lo
  if c.isReduce && c.direct then
    let (code, _, w) := mapTiles env c.region 0 (fun t => some (setAnext r { t with flags := t.flags ||| 16 })) n lo w
    (code, w)
  else (.ok, w)

/-- The copy of the reduced shard to OUT (R259). -/
def copyOut (env : Env) (c : Coll) : List Nat → Nat → W → Rsp × W
  | [], _, w => (.ok, w)
  | t :: ts, o, w =>
    match c.out with
    | none => (.ok, w)
    | some (oi, _) =>
      let r := getRgn w c.region
      let q := getRgn w oi
      let (c1, ints, w) := readSpan (seAcc env r.ctx) (64 * esOf r) (elemAt r 0 (4096 * t)) w
      let (c2, tl, w) := readTile env r 0 t w
      let (c3, old, w) := readTile env q 0 o w
      let code := worse c1 (worse c2 c3)
      if code != .ok then (code, w)
      else
        let (c4, w) := writeBytes (seAcc env q.ctx) (elemAt q 0 (4096 * o)) ints w
        let (c5, w) := writeTile env oi 0 o old tl w
        let (c6, w) := copyOut env c ts (o + 1) w
        (worse c4 (worse c5 c6), w)

/-- The flags of the tiles a member owns. -/
def ownFlags (env : Env) (r : Region) : List Nat → W → Rsp × Nat × W
  | [], w => (.ok, 0, w)
  | t :: ts, w =>
    let (c, x, w) := readTile env r 0 t w
    let (c2, f, w) := ownFlags env r ts w
    (worse c c2, x.flags ||| f, w)

/-- The collective completes once it has sent, forwarded and written all it has to, and the lines of its own tiles are free
(R252, R253, R259, R263). -/
def collGo (env : Env) (c : CmdId) (w : W) : W :=
  match findColl w c with
  | none => w
  | some x =>
    let w := if x.direct && !x.closed && x.ready && !x.force &&
        ((findCmd w c).map (fun k => arg k 0x20 4 == 0)).getD false && allFirst w x then closeRoster c w else w
    match findColl w c with
    | none => w
    | some x =>
      let r := getRgn w x.region
      let own := shardTiles r (collP x) x.pos
      let self := (grpOf w r).self
      let lasts := !x.direct || (x.closed && (own.isEmpty || x.first.all (fun m => m == self || x.lastSeen.contains m)))
      let outs := match x.out with
        | some (oi, o) => (List.range own.length).all (fun i => tileFree w (getRgn w oi) 0 (o + i))
        | none => true
      if x.finished || !x.ready || !sentAll w x || !lasts || !(lacking w x).isEmpty || !outs || !own.all (tileFree w r 0) then w
      else
        let (c1, w) := finishShard env x w
        let (c2, w) : Rsp × W := if c1 == .ok then copyOut env x own ((x.out.map (·.2)).getD 0) w else (c1, w)
        let (c3, f, w) := ownFlags env r own w
        let code := worse c1 (worse c2 c3)
        if code != .ok then collBad env x code w
        else
          let st := if f.testBit 0 then Status.nonfinite else if f.testBit 1 || f.testBit 2 then .range else .ok
          let map := if !x.isReduce then 0 else if x.direct then rosterMap w x else 2 ^ collP x - 1
          let late := if x.direct then x.members.length - (insertNat x.first self).length else 0
          let n := if x.isReduce then own.length else tilesOf r
          collEnd env c { status := st, result := toLe 2 map ++ toLe 2 late ++ zeros 4 ++ toLe 8 n } w

/-- The collectives of a group that wait on a member end MEMBER_LOST (R265). -/
def collsLose (env : Env) (gi m : Nat) (w : W) : W :=
  w.b.colls.foldl (fun w c =>
    if (getRgn w c.region).grp == some gi && c.members.contains m && m != (getGrp w gi).self then
      collEnd env c.cmd { status := .memberLost } w else w) w

/-! ### Sending -/

/-- Send the span of a tile of a shard this member originates under PASSAGE (R252). -/
def sendSpan (env : Env) (c : Coll) (shard : List (Nat × Nat)) (extra : Nat) : List (Nat × Nat) → W → Rsp × W
  | [], w => (.ok, w)
  | s :: rest, w =>
    let r := getRgn w c.region
    let (c1, d, w) := readSpan (seAcc env r.ctx) 32 (segAt r s.1 s.2) w
    let (c2, t, w) : Rsp × Tile × W := if s.2 = 0 then readTile env r 0 s.1 w else (.ok, {}, w)
    if worse c1 c2 != .ok then (worse c1 c2, w)
    else
      let m : SegMsg := { flags := extra + endFlags shard s, origin := c.pos, tile := s.1, seg := s.2
                          state := if s.2 = 0 then some t else none, data := d }
      sendSpan env c shard extra rest (sendSeg c (memberAt c (nextPos c c.pos)) m w)

/-- What a step on a tile did. -/
inductive Went where
  | waits | went
  | failed (c : Rsp)
  deriving DecidableEq, Repr

/-- A tile as a contributor sends it under DIRECT: integers, state line, and its payload when compressed; the residual is
written to the new bank (R260). -/
def contributorTile (env : Env) (c : Coll) (t : Nat) (w : W) : Went × (List Int × Tile × Bytes) × W :=
  let r := getRgn w c.region
  let nothing : List Int × Tile × Bytes := ([], {}, [])
  if !tileFree w r 0 t then (.waits, nothing, w)
  else
  let (c1, b, w) := readSpan (seAcc env r.ctx) (64 * esOf r) (elemAt r 0 (4096 * t)) w
  let (c2, tl, w) := readTile env r 0 t w
  if worse c1 c2 != .ok then (.failed (worse c1 c2), nothing, w)
  else match c.resid with
    | none => (.went, (intsOf r b, tl, b), w)
    | some ri =>
      let z := getRgn w ri
      let new := 1 - z.bank
      if !tileReadable w z z.bank t || !tileReady w z new t then (.waits, nothing, w)
      else
        let (e, w) := readBank env c.cmd z z.bank t w
        let (o, w) := readBank env c.cmd z new t w
        match e, o with
        | .got .ok e, .got .ok o =>
          let n := 4096 * esOf z
          let (x, bad) := residualSum r (intsOf r b) (intsOf z (e.take n)) (tileOf (e.drop n)).anchor tl.anchor
          let (p, xhat) := encodeTile r c.topk x
          let w := usedLines c.cmd (elemAt z z.bank (4096 * t)) n (usedLines c.cmd (stateAt z z.bank t) 64 w)
          let (code, w) := writeBank env c.cmd ri new t (tileOf (o.drop n)) (clearedTile tl.anchor)
            (intBytes z ((x.zip xhat).map (fun v => v.1 - v.2))) w
          let tl := if bad then { tl with flags := tl.flags ||| 2 } else tl
          (if code == .ok then .went else .failed code, (xhat, tl, p), w)
        | .got c1 _, .got c2 _ => (.failed (worse c1 c2), nothing, w)
        | _, _ => (.waits, nothing, w)

/-- Prepare a tile of the own shard under DIRECT: its compressed value becomes the first addend, the current bank of FOLD is
added, and the tile of the new bank is zeroed (R253, R255, R260). -/
def prepareOwn (env : Env) (c : Coll) (t : Nat) (w : W) : Went × W :=
  let r := getRgn w c.region
  let foldReady := match c.fold with
    | some fi => let z := getRgn w fi; tileReadable w z z.bank t && tileReady w z (1 - z.bank) t
    | none => true
  if c.resid.isNone && c.fold.isNone then (.went, w)
  else if !foldReady then (.waits, w)
  else
    let (f, w) : Option (Got × Got) × W := match c.fold with
      | some fi =>
        let z := getRgn w fi
        let (a, w) := readBank env c.cmd z z.bank t w
        let (b, w) := readBank env c.cmd z (1 - z.bank) t w
        (some (a, b), w)
      | none => (none, w)
    match f with
    | some (.waits, _) => (.waits, w)
    | some (_, .waits) => (.waits, w)
    | some (.got c1 a, .got c2 b) =>
      if worse c1 c2 != .ok then (.failed (worse c1 c2), w)
      else match contributorTile env c t w with
        | (.went, (q, tl, _), w) =>
          let fi := c.fold.getD 0
          let z := getRgn w fi
          let n := 4096 * esOf z
          let ft := tileOf (a.drop n)
          let (e, bad) := rescaleAll r (intsOf z (a.take n)) ft.anchor tl.anchor
          let new := combineTile r tl { ft with flags := ft.flags ||| 2 * b2n bad }
          let w := usedLines c.cmd (elemAt z z.bank (4096 * t)) n (usedLines c.cmd (stateAt z z.bank t) 64 w)
          let (c3, w) := writeBank env c.cmd fi (1 - z.bank) t (tileOf (b.drop n)) (clearedTile tl.anchor) (zeros n) w
          let (c4, w) := writeBytes (auAcc env r.ctx) (elemAt r 0 (4096 * t)) (intBytes r (addInts q e)) w
          let (c5, old, w) := readTile env r 0 t w
          let (c6, w) := writeTile env c.region 0 t old new w
          let code := worse (worse c3 c4) (worse c5 c6)
          (if code == .ok then .went else .failed code, countEvent c.region t new w)
        | (x, _, w) => (x, w)
    | none =>
      match contributorTile env c t w with
      | (.went, (q, tl, _), w) =>
        let (c4, w) := writeBytes (auAcc env r.ctx) (elemAt r 0 (4096 * t)) (intBytes r q) w
        let (c5, old, w) := readTile env r 0 t w
        let (c6, w) := writeTile env c.region 0 t old tl w
        let code := worse c4 (worse c5 c6)
        (if code == .ok then .went else .failed code, w)
      | (x, _, w) => (x, w)

/-- Send the segments of a tile to a member under DIRECT. -/
def sendDirect (c : Coll) (dst extra : Nat) (shard : List (Nat × Nat)) (only : Option Nat) (t : Nat) (b : Bytes) (tl : Tile)
    (self : Nat) (w : W) : W :=
  (segsOf w c [t]).foldl (fun w s =>
    if (only.map (fun o => o != s.2)).getD false then w
    else
      let data := if compressed w c then b else bytesAt b (2048 * s.2) 2048
      sendSeg c dst { flags := extra + endFlags shard s, origin := self, tile := t, seg := s.2
                      state := if s.2 = 0 then some tl else none, data := data } w) w

/-- The tiles in the order a DIRECT contributor works through them: its own shard, then the others ascending. -/
def directOrder (w : W) (c : Coll) : List Nat :=
  let r := getRgn w c.region
  let own := shardTiles r (collP c) c.pos
  own ++ (List.range (tilesOf r)).filter (fun t => !own.contains t)

/-- A DIRECT contributor works through its tiles as far as they go; PROG counts them (R253, R255, R260). -/
def directGo (env : Env) (c : CmdId) : List Nat → W → W
  | [], w => w
  | t :: ts, w =>
    match findColl w c with
    | none => w
    | some x =>
      let r := getRgn w x.region
      let own := shardTiles r (collP x) x.pos
      let step := fun (w : W) => modCmd c (fun k => { k with prog := k.prog + 1 }) w
      let (res, w) : Went × W :=
        if own.contains t then prepareOwn env x t w
        else match contributorTile env x t w with
          | (.went, (_, tl, b), w) =>
            let j := shardOf r (collP x) t
            (.went, sendDirect x (memberAt x j) 0 (segsOf w x (shardTiles r (collP x) j)) none t b tl (grpOf w r).self w)
          | (y, _, w) => (y, w)
      match res with
      | .waits => w
      | .failed code => collBad env x code w
      | .went => directGo env c ts (step w)

/-- A REDUCE_SCATTER or ALL_GATHER works on: its own tiles, then its end. -/
def reduceGo (env : Env) (c : CmdId) (w : W) : W :=
  match findColl w c, findCmd w c with
  | some x, some k =>
    if x.finished || auBusy w x.region then w
    else
      let r := getRgn w x.region
      let w :=
        if x.direct then directGo env c ((directOrder w x).drop k.prog) w
        else if k.prog = 0 && (shardTiles r (collP x) (prevPos x x.pos)).all (tileFree w r 0) then
          let l := segsOf w x (shardTiles r (collP x) (prevPos x x.pos))
          let (code, w) := sendSpan env x l 0 l w
          if code == .ok then modCmd c (fun k => { k with prog := max 1 (tilesOf r) }) w else collBad env x code w
        else w
      let own := (shardTiles r (collP x) x.pos).length
      let ready := !x.direct || ((findCmd w c).map (fun k => decide (own ≤ k.prog))).getD false
      collGo env c (modColl c (fun x => { x with ready := ready }) w)
  | _, _ => w

/-! ### All-gather (R263) -/

/-- The elements of a tile in the format of OUTFMT under its anchor, and whether one became an infinity (R241). -/
def floatTile (c : Coll) (q : List Int) (a : Int) : Bytes × Bool :=
  let x := q.map (fun v => readOut (if c.outFmt = 1 then f32 else bf16) v a)
  (x.flatMap (fun y => toLe (outSize c) y.1), x.any (·.2))

/-- Write a segment of a float gather into DST. -/
def putDst (env : Env) (c : Coll) (t s : Nat) (b : Bytes) (w : W) : Rsp × W :=
  let a := segRaddr w c t s
  putLines env c.cmd ((List.range (b.length / 64)).map (fun i => a + 64 * i)) b w

/-- Write a received or own tile-state line into INDEX, with GATHERED set. -/
def putState (env : Env) (c : Coll) (t : Nat) (tl : Tile) (w : W) : Rsp × W :=
  let (c1, old, w) := readTile env (getRgn w c.region) 0 t w
  let (c2, w) := writeTile env c.region 0 t old { tl with flags := tl.flags ||| 32 } w
  (worse c1 c2, w)

/-- May the lines of a gather destination be written at once? -/
def dstReady (w : W) (c : Coll) (a n : Nat) : Bool :=
  outSize c = 0 || (linesFree w a n && (List.range (n / 64)).all (fun i => lineMode w (a + 64 * i) != .held && !chunkHeld w (a + 64 * i))
    && !w.b.slices.any (fun s => sqFull s.2))

/-- An own tile is written locally and sent to the next position (R263). -/
def gatherTile (env : Env) (c : Coll) (extra : Nat) (only : Option Nat) (t : Nat) (w : W) : Went × W :=
  let r := getRgn w c.region
  if !tileFree w r 0 t then (.waits, w)
  else
  let (c1, b, w) := readSpan (seAcc env r.ctx) (64 * esOf r) (elemAt r 0 (4096 * t)) w
  let (c2, tl, w) := readTile env r 0 t w
  if worse c1 c2 != .ok then (.failed (worse c1 c2), w)
  else if !dstReady w c (segRaddr w c t 0) (4096 * outSize c) then (.waits, flushLines (segRaddr w c t 0) (4096 * outSize c) w)
  else
    let (fb, inf) := floatTile c (intsOf r b) tl.anchor
    let tl := { tl with flags := tl.flags ||| 32 ||| b2n (outSize c != 0 && inf) }
    let (c3, w) : Rsp × W := if outSize c = 0 then (.ok, w) else putDst env c t 0 fb w
    let (c4, w) := putState env c t tl w
    if worse c3 c4 != .ok then (.failed (worse c3 c4), w)
    else
      let n := if outSize c = 0 then 2048 else outSize c * segElems r
      let shard := segsOf w c (shardTiles r (collP c) c.pos)
      (.went, (segsOf w c [t]).foldl (fun w s =>
        if (only.map (fun o => o != s.2)).getD false then w
        else sendSeg c (memberAt c (nextPos c c.pos))
          { flags := extra + endFlags shard s, origin := c.pos, tile := t, seg := s.2
            state := if s.2 = 0 then some tl else none
            data := bytesAt (if outSize c = 0 then b else fb) (n * s.2) n } w) w)

/-- An ALL_GATHER works through its own tiles as far as they go. -/
def gatherTiles (env : Env) (c : CmdId) : List Nat → W → W
  | [], w => w
  | t :: ts, w =>
    match findColl w c with
    | none => w
    | some x =>
      match gatherTile env x 0 none t w with
      | (.waits, w) => w
      | (.failed code, w) => collBad env x code w
      | (.went, w) => gatherTiles env c ts (modCmd c (fun k => { k with prog := k.prog + 1 }) w)

/-- ALL_GATHER works on. PROG counts own tiles; once they are all sent it stands at the tile count. -/
def allGatherGo (env : Env) (c : CmdId) (w : W) : W :=
  match findColl w c, findCmd w c with
  | some x, some k =>
    if x.finished || auBusy w x.region then w
    else
      let r := getRgn w x.region
      let own := shardTiles r (collP x) x.pos
      let w := gatherTiles env c (own.drop k.prog) w
      let w := modCmd c (fun k => { k with prog := if own.length ≤ k.prog then max k.prog (tilesOf r) else k.prog }) w
      collGo env c (modColl c (fun x => { x with ready := true }) w)
  | _, _ => w

/-! ### Receiving (R249 to R254, R263) -/

/-- The collective a packet is for: its context by the region at RADDR, the open instance, and COLL; one under way before
one that has ended (log entry 48). -/
inductive Match where
  | waits
  | stale
  | coll (c : Coll)
  deriving DecidableEq, Repr

/-- Match a packet (R201, R249). -/
def matchColl (w : W) (pk : Packet) : Match :=
  match rgnAt w pk.hdr.raddr.toNat with
  | none => .stale
  | some (_, r) =>
    let k := getWatch w r.ctx
    let inst := fld pk.payload 0 6 * 256 + fld pk.payload 6 1
    let gone := match k.lastAbandoned with | some (v, a) => v * 256 + a | none => 0
    let past := decide (fld pk.payload 0 6 ≤ k.lastClosed) || decide (inst ≤ gone)
    if (getCtx w r.ctx).state != .active || past || (k.phase != .idle && (decide (inst < k.w * 256 + k.a) || (inst == k.w * 256 + k.a && k.ending.isSome))) then .stale
    else if k.phase == .idle || k.w * 256 + k.a != inst then .waits
    else
      let named := w.b.colls.filter (fun c => c.ctx == r.ctx && c.coll == fld pk.payload 8 2
        && c.isReduce == (pk.hdr.opcode == 0x20))
      match named.find? (fun c => !c.finished) <|> named.getLast? with
      | some c => if c.ready then .coll c else if c.finished then .stale else .waits
      | none => .waits

/-- Does a descriptor agree with this member's own region (R250)? -/
def descAgrees (w : W) (c : Coll) (p : Bytes) : Bool :=
  let r := getRgn w c.region
  fld p 0x20 1 == r.width && fld p 0x21 1 == r.headroom && fld p 0x22 1 == r.comp && fld p 0xD 1 == collP c
    && fld p 0x18 8 == tilesOf r

/-- The state line and the data of a packet. -/
def packetState (p : Bytes) : Option Tile := if bit (fld p 0xB 1) 3 then some (tileOf (bytesAt p 64 64)) else none
def packetData (p : Bytes) : Bytes := p.drop (if bit (fld p 0xB 1) 3 then 128 else 64)

/-- The packet's integers: a segment's, or a whole compressed tile's. -/
def packetInts (w : W) (c : Coll) (p : Bytes) : List Int :=
  let r := getRgn w c.region
  if compressed w c then decodeTile r (packetData p) else intsOf r (bytesAt (packetData p) 0 2048)

/-- An anchor that differs: the event, the replay mark and DENIED (R251). -/
def anchorMismatch (env : Env) (c : Coll) (t : Nat) (a : Int) (w : W) : W :=
  let w := logEv 0x0703 2 0 c.ctx [0, c.region, t, (a % 65536).toNat] (markReplay c.ctx w)
  collEnd env c.cmd { status := .denied, info := 0x56 } w

/-- Add a packet's integers into the owner's ACCUM region and combine its tile state (R251 to R253). -/
def addArrival (env : Env) (c : Coll) (pk : Packet) (final : Bool) (w : W) : W :=
  let p := pk.payload
  let t := fld p 0x10 8
  let s := fld p 0xF 1
  let r := getRgn w c.region
  let n := if compressed w c then 64 * esOf r else 32
  let a := if compressed w c then elemAt r 0 (4096 * t) else segAt r t s
  let (c1, b, w) := readSpan (auAcc env r.ctx) n a w
  let (c2, old, w) := readTile env r 0 t w
  if worse c1 c2 != .ok then collBad env c (worse c1 c2) w
  else
    let inc := packetState p
    if (inc.map (fun i => i.anchor != old.anchor)).getD false then anchorMismatch env c t ((inc.map (·.anchor)).getD 0) w
    else
      let (c3, w) := writeBytes (auAcc env r.ctx) a (intBytes r (addInts (intsOf r b) (packetInts w c p))) w
      let new := match inc with
        | none => old
        | some i =>
          let x := combineTile r old i
          if final then setAnext r { x with flags := x.flags ||| 16 } else x
      let (c4, w) : Rsp × W := if inc.isSome then writeTile env c.region 0 t old new w else (.ok, w)
      let w := if inc.isSome && c4 == .ok then countEvent c.region t new w else w
      if worse c3 c4 != .ok then collBad env c (worse c3 c4) w else w

/-- Add a late arrival into the new bank of FOLD (R254, R259); false while its lines have to wait. -/
def foldArrival (env : Env) (c : Coll) (fi : Nat) (pk : Packet) (w : W) : Bool × W :=
  let p := pk.payload
  let t := fld p 0x10 8
  let s := fld p 0xF 1
  let z := getRgn w fi
  let bank := 1 - z.bank
  if !tileReady w z bank t then (false, flushLines (elemAt z bank (4096 * t)) (4096 * esOf z) w)
  else match readBank env c.cmd z bank t w with
    | (.waits, w) => (false, w)
    | (.got code b, w) =>
      if code != .ok then (true, logOther 13 2 fi c.ctx [0, 0, fi] w)
      else
        let n := 4096 * esOf z
        let old := tileOf (b.drop n)
        let inc := packetState p
        if (inc.map (fun i => i.anchor != old.anchor)).getD false then (true, anchorMismatch env c t ((inc.map (·.anchor)).getD 0) w)
        else
          let ints := intsOf z (b.take n)
          let add := packetInts w c p
          let lo := if compressed w c then 0 else s * segElems z
          let sum := (List.range 4096).map (fun i =>
            ints.getD i 0 + if lo ≤ i ∧ i < lo + add.length then add.getD (i - lo) 0 else 0)
          let new := match inc with | some i => combineTile z old i | none => old
          let (code, w) := writeBank env c.cmd fi bank t old new (intBytes z sum) w
          (true, if inc.isSome && code == .ok then countEvent fi t new w else w)

/-- Ask for the segments this member lacks (R264). A segment asked for 16 times ends the command with TIMEOUT. -/
def sendRepeats (c : Coll) (l : List (Nat × Nat × Nat)) (w : W) : W :=
  let r := getRgn w c.region
  l.foldl (fun w s =>
    let n := (((findColl w c.cmd).bind (fun x => x.repeats.find? (fun e => e.1 == s))).map (·.2)).getD 0
    if 16 ≤ n then
      modCmd c.cmd (fun k => if k.outc.isNone then { k with outc := some { status := .timeout } } else k)
        (closeCmdUnits c.cmd (modColl c.cmd (fun x => { x with finished := true }) w))
    else
      let dst := if c.isReduce && c.direct then s.1
        else if c.isReduce then memberAt c (nextPos c (shardOf r (collP c) s.2.1)) else memberAt c (prevPos c c.pos)
      let w := modColl c.cmd (fun x => { x with repeats := (s, n + 1) :: x.repeats.filter (fun e => e.1 != s) }) w
      sendSeg c dst { repeat_ := true, origin := c.pos, tile := s.2.1, seg := s.2.2 } w) w

/-- A LAST packet after a loss: the segments of its stream that are lacking are asked for (R264). -/
def afterLast (c : CmdId) (src q : Nat) (ts : List Nat) (w : W) : W :=
  match findColl w c with
  | some x =>
    if x.finished || !lostFrom w x src then w
    else sendRepeats x ((lacking w x).filter (fun s => s.1 == q && ts.contains s.2.1)) w
  | none => w

/-- A DATA packet of a running collective; false while it has to wait. -/
def takePacket (env : Env) (port : Nat) (c : Coll) (pk : Packet) (w : W) : Bool × W :=
  let p := pk.payload
  let t := fld p 0x10 8
  let s := fld p 0xF 1
  let r := getRgn w c.region
  let flags := fld p 0xB 1
  let j := shardOf r (collP c) t
  let src := pk.hdr.member.toNat % 16
  let sits := decide (t < tilesOf r) && decide (s < numSegs r (compressed w c)) && c.members.contains src
  let seen := fun (q : Nat) (w : W) => modColl c.cmd (fun x => { x with taken := x.taken ++ [(q, t, s)] }) w
  let fin := fun (q : Nat) (w : W) =>
    collGo env c.cmd (if bit flags 1 then afterLast c.cmd src q (shardTiles r (collP c) j) w else w)
  if !sits then (true, w)
  else if !tileFree w r 0 t then (false, w)
  else if c.isReduce && c.direct then
    if j != c.pos then (true, w)
    else
      let w := if bit flags 0 && !c.closed then modColl c.cmd (fun x => { x with first := insertNat x.first src }) w else w
      let c := (findColl w c.cmd).getD c
      if c.first.contains src then
        if c.finished || c.taken.contains (src, t, s) then (true, fin src w)
        else
          let w := seen src (addArrival env c pk false w)
          let w := if bit flags 1 then modColl c.cmd (fun x => { x with lastSeen := insertNat x.lastSeen src }) w else w
          (true, fin src w)
      else if !c.closed then (true, w)
      else match c.fold with
        | none => (true, cntLp port 0x118 1 w)
        | some fi =>
          if c.taken.contains (src, t, s) then (true, w)
          else
            let (ok, w) := foldArrival env c fi pk w
            (ok, if ok then seen src w else w)
  else if c.isReduce then
    if j = c.pos then
      if c.finished || c.taken.contains (0, t, s) then (true, fin 0 w)
      else (true, fin 0 (seen 0 (addArrival env c pk true w)))
    else
      let (c1, b, w) := readSpan (seAcc env r.ctx) 32 (segAt r t s) w
      let (c2, tl, w) : Rsp × Tile × W := if s = 0 then readTile env r 0 t w else (.ok, {}, w)
      let inc := packetState p
      if worse c1 c2 != .ok then (true, collBad env c (worse c1 c2) w)
      else if (inc.map (fun i => i.anchor != tl.anchor)).getD false then
        (true, anchorMismatch env c t ((inc.map (·.anchor)).getD 0) w)
      else
        let sum := inc.map (combineTile r tl)
        let w := match sum with | some x => countEvent c.region t x w | none => w
        let m : SegMsg := { flags := flags % 8, origin := fld p 0xE 1, tile := t, seg := s, state := sum
                            data := intBytes r (addInts (intsOf r b) (packetInts w c p)) }
        (true, fin 0 (seen 0 (sendSeg c (memberAt c (nextPos c c.pos)) m w)))
  else if c.taken.contains (0, t, s) || j = c.pos || c.finished then (true, w)
  else
    let n := if outSize c = 0 then 2048 else outSize c * segElems r
    let d := bytesAt (packetData p) 0 n
    if !dstReady w c (segRaddr w c t s) n then (false, flushLines (segRaddr w c t s) n w)
    else
      let (c1, w) : Rsp × W := if outSize c = 0 then writeBytes (seAcc env r.ctx) (segAt r t s) d w else putDst env c t s d w
      let (c2, w) : Rsp × W := match packetState p with | some tl => putState env c t tl w | none => (.ok, w)
      if worse c1 c2 != .ok then (true, collBad env c (worse c1 c2) w)
      else
        let w := seen 0 w
        let w := if nextPos c c.pos = j then w
          else sendSeg c (memberAt c (nextPos c c.pos))
            { flags := flags % 8, origin := fld p 0xE 1, tile := t, seg := s, state := packetState p, data := d } w
        (true, fin 0 w)

/-- A REPEAT: what was asked for is sent again, with REPEATED (R264); false while the tile's lines are not free. -/
def answerRepeat (env : Env) (c : Coll) (pk : Packet) (w : W) : Bool × W :=
  let p := pk.payload
  let t := fld p 0x10 8
  let s := fld p 0xF 1
  let r := getRgn w c.region
  let j := shardOf r (collP c) t
  let src := pk.hdr.member.toNat % 16
  if !(decide (t < tilesOf r) && c.members.contains src) then (true, w)
  else if !tileFree w r 0 t then (false, w)
  else if c.isReduce && c.direct then
    match contributorTile env c t w with
    | (.went, (_, tl, b), w) =>
      (true, sendDirect c src 4 (segsOf w c (shardTiles r (collP c) j)) (some s) t b tl (grpOf w r).self w)
    | (.waits, _, w) => (false, w)
    | (_, _, w) => (true, w)
  else if c.isReduce then
    if prevPos c c.pos != j then (true, w)
    else (true, (sendSpan env c (segsOf w c (shardTiles r (collP c) j)) 4 [(t, s)] w).2)
  else if j != c.pos && !c.taken.contains (0, t, s) then (true, w)
  else
    let n := if outSize c = 0 then 2048 else outSize c * segElems r
    if !linesReadable w (segRaddr w c t s) n then (false, flushLines (segRaddr w c t s) n w)
    else
    let (c1, d, w) := readSpan (seAcc env r.ctx) (n / 64) (segRaddr w c t s) w
    let (c2, tl, w) : Rsp × Tile × W := if s = 0 then readTile env r 0 t w else (.ok, {}, w)
    if worse c1 c2 != .ok then (true, w)
    else (true, sendSeg c src { flags := 4 + endFlags (segsOf w c (shardTiles r (collP c) j)) (t, s), origin := j, tile := t, seg := s
                                state := if s = 0 then some tl else none, data := d } w)

/-- Act on a packet of VC2 or VC3; false while it has to wait at the head of its buffer (R249). A descriptor that differs ends
the command, whatever its OP (R250). -/
def collPacket (env : Env) (port : Nat) (pk : Packet) (w : W) : Bool × W :=
  match matchColl w pk with
  | .waits => (false, w)
  | .stale => (true, cntLp port 0x118 1 w)
  | .coll c =>
    if !descAgrees w c pk.payload then (true, collEnd env c.cmd { status := .denied, info := 0x57 } w)
    else match fld pk.payload 0xA 1 with
    | 0 => takePacket env port c pk w
    | 1 => answerRepeat env c pk w
    | _ => (true, w)

/-- The packets that wait in a buffer go on in order, until one has to wait. -/
def drainWaiting (env : Env) (port vc : Nat) : List Rx → W → W
  | [], w => w
  | x :: t, w =>
    match collPacket env port x.pk w with
    | (true, w) =>
      let rest := fun (l : Lp) => { l with waiting := l.waiting.filter (fun y => y.pk.hdr.vc.toNat != vc) ++ t }
      drainWaiting env port vc t (setOffs port (modLp port rest w))
    | (false, w) => w

/-- Every buffer of VC2 and VC3 goes on. -/
def collWaiting (env : Env) (w : W) : W :=
  w.b.lnk.ports.foldl (fun w l => [2, 3].foldl (fun w vc =>
    drainWaiting env l.1 vc (l.2.waiting.filter (fun x => x.pk.hdr.vc.toNat == vc)) w) w) w

/-- A packet of VC2 or VC3 that passed its checks: behind those that wait, else acted on (R249). -/
def onColl (env : Env) (rx : Rx) (pk : Packet) (w : W) : W :=
  let waits := (getLp w rx.port).waiting.any (fun x => x.pk.hdr.vc == pk.hdr.vc)
  let keep := fun (w : W) => setOffs rx.port (modLp rx.port (fun l => { l with waiting := l.waiting ++ [{ rx with pk := pk }] }) w)
  if waits then collWaiting env (keep w)
  else match collPacket env rx.port pk w with
    | (true, w) => w
    | (false, w) => keep w

end Sys2Proof.Machine
end

