-- ==== Sys2Proof/Machine/WatchRows.lean ====
section
/-! DEFINITION. The rows of Watches and Bearings: WATCH_OPEN to WATCH_ABANDON with their timers, POLL and BARRIER packets,
Bearing reads and sweeps, and the Bearing seed (R193 to R227). -/

namespace Sys2Proof.Machine

/-- A row that may end an instance: packets of collectives that waited for it go on or are discarded (R249). -/
def thenColl (env : Env) (f : W → W) (w : W) : W := collWaiting env (f w)

/-! ### WATCH_OPEN and WATCH_POLL -/

/-- The checks of WATCH_OPEN: those of R193, then R196's in order, of which the first is check 5 of R116, then the phase, check 6
(R195; DEDUCED, log entry 103). -/
def watchOpenCheck (w : W) (k : Cmd) : Check :=
  let x := getWatch w k.ctx
  let n := arg k 0x10 6
  let a := match x.lastAbandoned with | some (v, a) => if v = n then a + 1 else 0 | none => 0
  let wdom := arg k 0x16 2
  let rec_ := getRgn w (arg k 0x18 2)
  firstFail
    [if n ≤ x.lastClosed || 255 < a then fail .watchState 0x40 else none,
     deny (rec_.state == .free || rec_.ctx != k.ctx || rec_.kind != .record) 0x42,
     deny ((grpsOfCtx w k.ctx).any (fun g => (getGrp w g).wdom != wdom)) 0x43,
     deny (w.b.ctxs.any (fun e => e.1 != k.ctx && e.2.watch.phase != .idle && e.2.watch.wdom == wdom)) 0x44,
     inPhase w k [.idle]]

/-- An instance opens (R193, R194, R197). -/
def watchOpenGo (env : Env) (k : Cmd) (w : W) : W :=
  let n := arg k 0x10 6
  let wdom := arg k 0x16 2
  let gs := domGroups w wdom
  let w := modWatch k.ctx (fun x =>
    { phase := .opened, w := n, a := (match x.lastAbandoned with | some (v, a) => if v = n then a + 1 else 0 | none => 0)
      lastClosed := x.lastClosed, lastAbandoned := x.lastAbandoned, verdict := x.verdict, recSeq := x.recSeq
      rounds := arg k 0x1A 1, flags := arg k 0x1B 1, wdom := wdom, record := arg k 0x18 2, peers := domPeers w wdom
      tOpen := w.b.crp.tCore, sweepBad := x.sweepBad, runBase := k.runNo
      sawDegraded := (gs.filter (fun g => g.2.state == .degraded)).map (·.1)
      sawRelighting := (gs.filter (fun g => g.2.state == .relighting)).map (·.1) }) w
  done env k.id .ok 0 (toLe 1 (getWatch w k.ctx).a) { w with b.wdoms := tset w.b.wdoms wdom k.ctx }

/-- WATCH_OPEN (R193 to R197). -/
def execWatchOpen (c : CmdId) (env : Env) (s : State) : Host.Outcome State Fault Refusal :=
  run (cmdRow c (isOp 0x20) env (fun k w => checked env k (watchOpenCheck w k) (watchOpenGo env k) w) (fun _ w => w)) s

/-- The poll starts, or resumes its rounds: LOCAL and the tile counts are taken when it first starts (R194, R198, R199). -/
def pollStart (env : Env) (k : Cmd) (w : W) : W :=
  let x := k.ctx
  let first := (getWatch w x).pollRun.isNone
  let sum := fun (f : Region → Nat) => (accumsOf w x).foldl (fun n r => n + f r.2) 0
  let v := flagWord w x (BitVec.ofNat 64 (arg k 0x10 8))
  let w := modWatch x (fun y =>
    let y := { y with phase := .polling, pollCmd := some k.id }
    if first then { y with locWord := v, pollRun := some (v, 0), tilesRange := sum (·.rangeTiles)
                           tilesNonfinite := sum (·.nonfiniteTiles) } else y) w
  pollGo env x (if first then sendRound x false 0 v w else w)

/-- WATCH_POLL (R194, R198, R199, R204). -/
def execWatchPoll (c : CmdId) (env : Env) (s : State) : Host.Outcome State Fault Refusal :=
  run (thenColl env (cmdRow c (isOp 0x24) env (fun k w => checked env k (inPhase w k [.opened]) (pollStart env k) w)
    (fun k w => pollGo env k.ctx w))) s

/-- POLL_TIMEOUT (R194). -/
def execPollTimeout (x : Nat) (env : Env) (s : State) : Host.Outcome State Fault Refusal :=
  run (fun w => if (getWatch w x).phase == .polling then pollFail env x .timeout w else w) s

/-! ### WINDOW_OPEN (R205 to R207) -/

/-- The WINDOW regions of a context that name a group. -/
def windowRgns (w : W) (x : Nat) : List (Nat × Region) := (rgnsOfCtx w x).filter (fun r => r.2.kind == .window && r.2.grp.isSome)

/-- The Watch enters WINDOW. -/
def enterWindow (env : Env) (x : Nat) (c : CmdId) (w : W) : W :=
  done env c .ok 0 [] (modWatch x (fun k => { k with phase := .window, winCmd := none, tWindow := w.b.crp.tCore }) w)

/-- Encoding starts on one region: epoch, partner at zero, Bearing from 0, descriptors (R152, R205, R217). -/
def startEncode (env : Env) (x : Nat) (c : CmdId) (ri : Nat) (w : W) : W :=
  let k := getWatch w x
  let e := k.w % 255 + 1
  let w := startBearing ri (resetPartner env (getRgn w ri) (modRgn ri (fun r => { r with sepoch := e, window := true }) w))
  let s : Stream := { kind := .encode, region := ri, g := (getRgn w ri).grp.getD 0, cmd := c, sepoch := e, w := k.w, a := k.a }
  sendDescs s { w with b.streams := w.b.streams ++ [s] }

/-- WINDOW_OPEN starts: at once to WINDOW, or to ENCODING (R205, R206). -/
def windowStart (env : Env) (k : Cmd) (w : W) : W :=
  let x := k.ctx
  let rs := windowRgns w x
  if !bit (getWatch w x).flags 0 || rs.isEmpty then
    enterWindow env x k.id (modWatch x (fun y => { y with noRoll := true }) w)
  else
    let w := modWatch x (fun y => { y with phase := .encoding, winCmd := some k.id }) w
    beginEncode env x (rs.foldl (fun w r => startEncode env x k.id r.1 w) w)

/-- Encoding has ended well: every fragment is streamed, every END counts, every ENCODE unit is complete (R205). -/
def encodeDone (w : W) (x : Nat) : Bool :=
  let ss := encodesOf w x
  ss.all (fun s => allStreamed w s && s.endSent && allEnds w s && (streamUnits w s).all (·.complete))

/-- The encoded regions are VALID, and the Watch enters WINDOW. -/
def encodeEnd (env : Env) (x : Nat) (w : W) : W :=
  match (getWatch w x).phase, (getWatch w x).winCmd with
  | .encoding, some c =>
    if !encodeDone w x then w
    else
      let w := (encodesOf w x).foldl (fun w s => setBearing s.region 1 (dropStream .encode s.region w)) w
      enterWindow env x c (modWatch x (fun k => { k with coded := true }) (kickAll w))
  | _, _ => w

/-- WINDOW_OPEN (R205, R206); while it encodes, each occurrence streams a fragment. -/
def execWindowOpen (c : CmdId) (env : Env) (s : State) : Host.Outcome State Fault Refusal :=
  run (cmdRow c (isOp 0x22) env
    (fun k w => checked env k (if (getWatch w k.ctx).phase == .skip then fail .nonfinite 0 else inPhase w k [.polled])
      (windowStart env k) w)
    (fun k w => if (getWatch w k.ctx).phase == .encoding then encodeEnd env k.ctx (encodeStep env k.ctx w) else w)) s

/-- ENCODING_COMPLETE (R205). -/
def execEncodingComplete (x : Nat) (env : Env) (s : State) : Host.Outcome State Fault Refusal :=
  run (fun w => encodeEnd env x (if (getWatch w x).phase == .encoding then endEncodes x w else w)) s

/-- ENCODING_TIMEOUT: descriptors or end notices are missing (R207). -/
def execEncodingTimeout (x : Nat) (env : Env) (s : State) : Host.Outcome State Fault Refusal :=
  run (fun w =>
    if (getWatch w x).phase == .encoding && (encodesOf w x).any (fun s => !allDescs w s || (s.endSent && !allEnds w s)) then
      failEncode env x { status := .timeout } w else w) s

/-! ### WATCH_CLOSE and WATCH_ABANDON (R208 to R211) -/

/-- WATCH_CLOSE starts, or continues the barrier; a BROKEN group of the domain ends it (R194, R208, R209). -/
def closeStart (env : Env) (k : Cmd) (w : W) : W :=
  let x := k.ctx
  let first := (getWatch w x).phase != .closing
  let w := modWatch x (fun y => { y with phase := .closing, closeCmd := some k.id }) w
  let w := if first then leaveWindow x w else w
  if (domGroups w (getWatch w x).wdom).any (fun g => g.2.state == .broken) then closeFail env x .memberLost w
  else closeGo env x w

/-- WATCH_CLOSE (R208). -/
def execWatchClose (c : CmdId) (env : Env) (s : State) : Host.Outcome State Fault Refusal :=
  run (thenColl env (cmdRow c (isOp 0x21) env
    (fun k w => checked env k (inPhase w k [.polled, .window, .skip, .closing]) (closeStart env k) w)
    (fun k w => closeGo env k.ctx w))) s

/-- CLOSE_BARRIER (R208). -/
def execCloseBarrier (x : Nat) (env : Env) (s : State) : Host.Outcome State Fault Refusal :=
  run (thenColl env (fun w =>
    let k := getWatch w x
    match k.phase, k.closeCmd with
    | .closing, some c =>
      if k.ending.isSome then w
      else if k.barRun.isSome then closeGo env x w
      else if closeReady w x c then startBarrier env x w else w
    | _, _ => w)) s

/-- CLOSE_TIMEOUT (R209). -/
def execCloseTimeout (x : Nat) (env : Env) (s : State) : Host.Outcome State Fault Refusal :=
  run (fun w => if (getWatch w x).phase == .closing then closeFail env x .timeout w else w) s

/-- WATCH_ABANDON: the notices and the abandon actions, which complete it (R210, R211). -/
def abandonGo (env : Env) (k : Cmd) (w : W) : W :=
  let x := k.ctx
  if (getWatch w x).phase == .idle then done env k.id .ok 0 [] w
  else if (getWatch w x).ending.isSome then endGo env x w
  else endGo env x (abandonBegin env x 5 (some k.id) (sendNotice x 2 w))

/-- WATCH_ABANDON (R195, R210, R211). -/
def execWatchAbandon (c : CmdId) (env : Env) (s : State) : Host.Outcome State Fault Refusal :=
  run (thenColl env (cmdRow c (isOp 0x23) env
    (fun k w => checked env k (inPhase w k [.opened, .polling, .polled, .encoding, .skip]) (abandonGo env k) w)
    (abandonGo env))) s

/-! ### POLL and BARRIER packets -/

/-- POLL (R200, R201). -/
def execPoll (rx : Rx) (env : Env) (s : State) : Host.Outcome State Fault Refusal :=
  run (thenColl env (onKind rx 4 (fun _ => true) (fun pk => onInstance pk (fun x w => pollGo env x (holdRound x false pk w))))) s

/-- BARRIER round (R200, R201). -/
def execBarrier (rx : Rx) (env : Env) (s : State) : Host.Outcome State Fault Refusal :=
  run (thenColl env (onKind rx 5 (fun p => fld p 0xF 1 == 0 || decide (3 < fld p 0xF 1)) (fun pk => onInstance pk (fun x w => closeGo env x (holdRound x true pk w))))) s

/-- GROUP_BEARING: the first contribution of a member counts (R201, R219). -/
def execGroupBearing (rx : Rx) (env : Env) (s : State) : Host.Outcome State Fault Refusal :=
  run (thenColl env (onKind rx 5 (fun p => fld p 0xF 1 == 1) (fun pk => onInstance pk (fun x w =>
    let d := pk.hdr.group.toNat
    let m := pk.hdr.member.toNat % 16
    closeGo env x (modWatch x (fun k =>
      if k.contribs.any (fun c => c.dgn == d && c.member == m) then k
      else { k with contribs := k.contribs ++ [{ dgn := d, member := m, value := BitVec.ofNat 64 (fld pk.payload 0x20 8) }] }) w))))) s

/-- ABANDON notice (R211). -/
def execAbandonNotice (rx : Rx) (env : Env) (s : State) : Host.Outcome State Fault Refusal :=
  run (thenColl env (onKind rx 5 (fun p => fld p 0xF 1 == 2) (onNotice env 2))) s

/-- TORN notice (R211). -/
def execTornNotice (rx : Rx) (env : Env) (s : State) : Host.Outcome State Fault Refusal :=
  run (thenColl env (onKind rx 5 (fun p => fld p 0xF 1 == 3) (onNotice env 3))) s

/-! ### Bearings (R216, R220 to R224) -/

/-- May a word of a group's Bearing seed be written (R216)? -/
def seedOpen (w : W) (gi : Nat) : Bool :=
  let g := getGrp w gi
  ((g.state == .forming || g.state == .whole) && (rgnsOfGrp w gi).isEmpty)
    || (g.state != .free && (slotAt g g.self).state == .adopted && !g.relightBegun
      && !(rgnsOfGrp w gi).any (fun r => codedKind r.2.kind && (r.2.state == .sounding || r.2.state == .sounded)))

/-- A write to a word of GRP_BSEED (R216). -/
def seedWrite (gi : Nat) (hi : Bool) (v : Word) (w : W) : W :=
  if gi < 256 && seedOpen w gi then modGrp gi (fun g => if hi then { g with seedHi := v } else { g with seedLo := v }) w
  else writeIgnored (0xD8000 + 16 * gi + 8 * b2n hi) v w

/-- BSEED_WRITE (R216). -/
def execBseedWrite (g : Nat) (hi : Bool) (v : Word) (s : State) : Host.Outcome State Fault Refusal :=
  run (fun w => if portsOpen w then seedWrite g hi v w else w) s

/-- May a region's sweep run (R220)? -/
def sweepable (w : W) (ri : Nat) : Bool :=
  let r := getRgn w ri
  let st := (grpOf w r).state
  r.bvalid == 1 && st != .relighting && st != .restriping && inService w && r.state != .free

/-- RGN_BSTAT (R227). -/
def bstat (r : Region) : Nat :=
  ((r.front / 65536) % 2 ^ 24) <<< 32 ||| r.sweeps <<< 16 ||| b2n r.bad <<< 7 ||| b2n r.matched <<< 6 ||| b2n r.sweeping <<< 5
    ||| b2n r.adopting <<< 4 ||| r.bvalid

/-- A sweep starts from the region's base (R220, R224). -/
def startSweep (ri : Nat) (adopt : Bool) (c : Option CmdId) (w : W) : W :=
  modRgn ri (fun r => { r with sweeping := true, adopting := adopt, sweepS := 0, front := 0, sweepCmd := c }) w

/-- A running sweep is dropped (R220); its command completes ABORTED (R224). The write-back of its degraded read goes on. -/
def dropSweep (env : Env) (ri : Nat) (w : W) : W :=
  let c := (getRgn w ri).sweepCmd
  let w := modRgn ri (fun r => { r with sweeping := false, adopting := false, sweepCmd := none }) w
  let w := { w with b.fetches := mapIf (fun o => o.why == .sweep ri) (fun o => { o with why := .back }) w.b.fetches }
  match c with | some c => done env c .aborted 0 [] (kickAll w) | none => kickAll w

/-- The sweeps that may run no longer are dropped. -/
def dropSweeps (env : Env) (w : W) : W :=
  w.b.rgns.foldl (fun w r => if (r.2.sweeping || r.2.sweepCmd.isSome) && !(r.2.sweeping && sweepable w r.1) then dropSweep env r.1 w else w) w

/-- The next line of a sweep is in (R220). -/
def sweepLine (ri : Nat) (d : Bytes) (w : W) : W :=
  let r := getRgn w ri
  let x := bearingOf (grpOf w r) 8 (r.base + r.front) d
  modRgn ri (fun r => { r with sweepS := r.sweepS ^^^ x, front := r.front + 64 }) w

/-- One line of a sweep: it waits for requests under way on the line; a POISON answer is served by a degraded read; a line
that cannot be read drops the sweep (R23, R25, R220). -/
def sweepStep (env : Env) (ri : Nat) (w : W) : W :=
  let r := getRgn w ri
  let line := r.base + r.front
  if !r.sweeping then w
  else if !sweepable w ri then dropSweep env ri w
  else if rgnBytes r ≤ r.front || w.b.fetches.any (fun o => o.why == .sweep ri) then w
  else if !linesReadable w line 64 then flushLines line 64 w
  else
    let (c, d, w) := readLine (bgAcc env) line w
    match c with
    | .ok => sweepLine ri d w
    | .poison =>
      let g := grpOf w r
      let (st, _, l) := stripeOf g r g.self (line - r.base)
      match startFetch (.sweep ri) (r.grp.getD 0) ri st l 1 g.self w with
      | (some _, w) => w
      | (none, w) => dropSweep env ri (setMpsErr (portOf w.build line) 3 line r.ctx w)
    | _ => dropSweep env ri (logOther 5 2 ri r.ctx [0x600000 + 32 * ri, line, ri] w)

/-- The end of a sweep: S against the running Bearing (R222, R224). -/
def sweepEnd (env : Env) (ri : Nat) (w : W) : W :=
  let r := getRgn w ri
  if !r.sweeping || r.front < rgnBytes r then w
  else if !sweepable w ri then dropSweep env ri w
  else
    let same := r.sweepS == r.brun
    let w := modRgn ri (fun r =>
      let r := { r with sweeping := false, adopting := false, sweepCmd := none, matched := same, bswp := r.sweepS
                        btime := w.b.crp.tCore, sweeps := if same then sat 0xFFFF (r.sweeps + 1) else r.sweeps
                        bad := r.bad || !same }
      if r.state != .free && (getRgn w ri).adopting then { r with brun := r.sweepS, bad := false } else r) w
    let w := if same then modWatch r.ctx (fun k => if k.phase == .idle then k else { k with sweptOk := insertNat k.sweptOk ri }) w
      else modWatch r.ctx (fun k => { k with sweepBad := insertNat k.sweepBad ri })
        (raiseGirq 0x0500 ri r.ctx [0x600000 + 32 * ri, r.sweepS.toNat, r.brun.toNat] w)
    match r.sweepCmd with
    | some c => done env c .ok (b2n (!same)) (toLe 8 r.sweepS.toNat ++ toLe 8 r.brun.toNat) w
    | none => w

/-- BEARING_SWEEP_PERIOD: a periodic sweep starts; while a sweep runs, its next line is read (R220). -/
def execBearingSweepPeriod (r : Nat) (env : Env) (s : State) : Host.Outcome State Fault Refusal :=
  run (fun w =>
    let x := getRgn w r
    if x.sweeping then sweepStep env r w
    else if x.sweepEn && sweepable w r then startSweep r false none w else w) s

/-- SWEEP_COMPLETE (R222). -/
def execSweepComplete (r : Nat) (env : Env) (s : State) : Host.Outcome State Fault Refusal := run (sweepEnd env r) s

/-- BEARING_READ (R223). -/
def bearingRead (env : Env) (member : Bool) (k : Cmd) (w : W) : W :=
  let i := arg k 0x10 2
  let r := getRgn w i
  checked env k (firstFail [ownRgn w k i [], deny (!codedKind r.kind || (member && r.grp.isNone)) 0x45])
    (fun w => done env k.id .ok 0
      (if member then toLe 8 (contribution w r.ctx (r.grp.getD 0)).1.toNat ++ zeros 8
       else toLe 8 r.brun.toNat ++ toLe 8 (bstat r)) w) w

/-- BEARING_READ MODE 0; a reserved MODE ends here MALFORMED. -/
def execBearingReadRunning (c : CmdId) (env : Env) (s : State) : Host.Outcome State Fault Refusal :=
  run (cmdRow c (fun k => isOp 0x50 k && arg k 0x12 1 != 1) env (bearingRead env false) (fun _ w => w)) s

/-- BEARING_READ MODE 1. -/
def execBearingReadMember (c : CmdId) (env : Env) (s : State) : Host.Outcome State Fault Refusal :=
  run (cmdRow c (fun k => isOp 0x50 k && arg k 0x12 1 == 1) env (bearingRead env true) (fun _ w => w)) s

/-- BEARING_SWEEP: its checks (R224). -/
def sweepCheck (w : W) (k : Cmd) : Check :=
  let i := arg k 0x10 2
  let r := getRgn w i
  firstFail [ownRgn w k i [], deny (!codedKind r.kind || r.bvalid != 1 || !r.sweepEn) 0x45]

/-- BEARING_SWEEP starts its sweep, behind one that another command asked for; later occurrences read lines. -/
def sweepGo (env : Env) (adopt : Bool) (k : Cmd) (w : W) : W :=
  let i := arg k 0x10 2
  let r := getRgn w i
  if r.sweepCmd == some k.id then sweepEnd env i (sweepStep env i w)
  else if r.sweeping && r.sweepCmd.isSome then w
  else if !sweepable w i then done env k.id .aborted 0 [] w
  else startSweep i adopt (some k.id) { w with b.fetches := w.b.fetches.filter (fun o => o.why != .sweep i) }

/-- BEARING_SWEEP MODE 0 START; a reserved MODE ends here MALFORMED. -/
def execBearingSweepStart (c : CmdId) (env : Env) (s : State) : Host.Outcome State Fault Refusal :=
  run (cmdRow c (fun k => isOp 0x51 k && arg k 0x12 1 != 1) env (fun k w => checked env k (sweepCheck w k) (sweepGo env false k) w)
    (sweepGo env false)) s

/-- BEARING_SWEEP MODE 1 ADOPT. -/
def execBearingSweepAdopt (c : CmdId) (env : Env) (s : State) : Host.Outcome State Fault Refusal :=
  run (cmdRow c (fun k => isOp 0x51 k && arg k 0x12 1 == 1) env (fun k w => checked env k (sweepCheck w k) (sweepGo env true k) w)
    (sweepGo env true)) s

end Sys2Proof.Machine
end

