-- ==== Sys2Proof/Machine/Loss.lean ====
section
/-! DEFINITION. Loss handling: group states, degraded reads that fail, parity rebuilds and unknown lines, BROKEN groups,
applying pending units, settling, and a slot that is lost (R56 to R58, R170 to R173, R318 to R325, R353). -/

namespace Sys2Proof.Machine

/-! ### Fetch operations that fail (R58, R173, R330) -/

/-- The address, in its target's memory, of the first line a fetch operation rebuilds. -/
def opAddr (w : W) (o : FetchOp) : Nat :=
  let g := getGrp w o.g
  let v := opRegion w o
  roleAddr g v (partnerOf w v) (roleOf g.n g.m o.target o.stripe) o.stripe o.line

/-- A degraded read fails: POISON to a host request, POISONED to a command, DEGRADED_FAIL and the event (R58). -/
def failReq (env : Env) (o : FetchOp) (w : W) : W :=
  let line := opAddr w o
  let mark := fun (w : W) => setMpsErr (portOf w.build line) 3 line (getRgn w o.region).ctx w
  let w := assignEngines 8 (dropOp o.id w)
  match o.why with
  | .job p id => match findJob w p id with
    | some j => failJob p j .poison 3 w
    | none => w
  | .host p tag => hostFailed p tag line w
  | .se e k t l =>
    let w := doneItem (portOf w.build l) l (.se e k t) (mark w)
    if (getSe w e).loading.any (fun l => l.1 == k && l.2.1 == t) then kernelFault 0x76 false e w else w
  | .cmd c => match findCmd w c with
    | some k =>
      if opOf k = 0x64 then done env c .poisoned 0 (toLe 8 (64 * k.prog)) (mark w)
      else modCmd c (fun k => { k with patch := tset k.patch line [] }) (mark w)
    | none => w
  | .sweep r => dropSweep env r (mark w)
  | _ => w

/-- A parity scrub skips the stripe in hand (R424). -/
def skipScrub (o : FetchOp) (ri : Nat) (w : W) : W :=
  let w := assignEngines 8 (dropOp o.id w)
  let w := modRgn ri (fun r => { r with scrub := r.scrub.map (· + 1), scrubSkip := true }) w
  setRas 8 o.g o.stripe { w with b.ras.skipped := sat32 w.b.ras.skipped }

/-! ### Group states (R319, R320) -/

/-- The out count of a group (R319). -/
def outCount (g : Group) : Nat := ((slotsOf g).filter (fun s => slotOut s.2.state || s.2.state == .adopted)).length

/-- An open instance of the group's domain notes the group's state (R213). -/
def noteState (gi : Nat) (w : W) : W :=
  let g := getGrp w gi
  w.b.ctxs.foldl (fun w e =>
    if e.2.watch.phase == .idle || e.2.watch.wdom != g.wdom then w
    else modWatch e.1 (fun k =>
      { k with sawDegraded := if g.state == .degraded then insertNat k.sawDegraded gi else k.sawDegraded
               sawRelighting := if g.state == .relighting then insertNat k.sawRelighting gi else k.sawRelighting }) w) w

/-- What a BROKEN group keeps no more: units of this member, their deltas and COMMITs, pending units and held deltas of
other members (R320). -/
def dropTraffic (gi : Nat) (w : W) : W :=
  let d := BitVec.ofNat 16 (getGrp w gi).dgn
  let its := fun (pk : Packet) => pk.hdr.group == d && (pk.hdr.opcode == 0x10 || pk.hdr.opcode == 0x03)
  let w := (w.b.pool.filter (fun e => e.g == gi)).foldl (fun w e => freeEntry e w) w
  { w with b.units := w.b.units.filter (fun u => u.g != gi || u.complete)
           b.preps := w.b.preps.filter (fun p => p.g != gi)
           b.ahead := w.b.ahead.filter (fun a => a.1 != gi)
           b.lnk.vc0 := w.b.lnk.vc0.filter (fun m => !its m.pk)
           b.lnk.ports := w.b.lnk.ports.map (fun p => (p.1, { p.2 with queue := p.2.queue.filter (fun x => !its x.2) }))
           b.slices := w.b.slices.map (fun s => (s.1, { s.2 with openPkts := s.2.openPkts.filter (fun o => o.g != gi)
                                                                 sendQ := s.2.sendQ.filter (fun o => o.g != gi)
                                                                 backlog := s.2.backlog.filter (fun x => x.g != gi)
                                                                 hostUnits := s.2.hostUnits.filter (fun h => h.1 != gi) })) }

/-- The streams of a group end MEMBER_LOST: Sounding and window encoding (R154, R207). -/
def streamsLose (env : Env) (gi : Nat) (w : W) : W :=
  let ss := w.b.streams.filter (fun s => s.g == gi)
  let w := (ss.filter (fun s => s.kind == .sound)).foldl (fun w s => failSound env s.region { status := .memberLost } w) w
  (ss.filter (fun s => s.kind == .encode)).foldl (fun w s =>
    failEncode env (getRgn w s.region).ctx { status := .memberLost } w) w

/-- Runs of kernels that cannot go on end (R285). -/
def endRuns (env : Env) (w : W) : W :=
  let w := noteRuns w
  (w.b.eng.runs.map (·.cmd)).foldl (fun w c => finishRun env c w) w

/-- What a change of a group's members sets free: commits, completions, held writes, the ends of Watches, sweeps. -/
def afterChange (env : Env) (w : W) : W :=
  let w := finishCommits w
  let w := endRuns env w
  let w := settleCmds env (endAll env (dropSweeps env w))
  kickPde (kickAll w)

/-- A Relight of the own slot ends before its end: the regions it had begun are INVALID and outside the window, its fetches
and the frontier references go (R217, R345). -/
def relightOff (gi : Nat) (w : W) : W :=
  if (getGrp w gi).relight.isNone then w
  else
    let w := (rgnsOfGrp w gi).foldl (fun w r =>
      if codedKind r.2.kind && r.2.bvalid = 2 then modRgn r.1 (fun x => { leaveValid 0 x with window := false }) w else w) w
    let held := w.b.pool.filter (fun e => e.g == gi && e.onFrontier)
    let w := held.foldl (fun w e => dropFrontierRef e w) w
    let mine := fun (o : FetchOp) => o.g == gi && (match o.why with | .relight _ _ => true | _ => false)
    let w := modGrp gi (fun g => { g with relight := none }) { w with b.fetches := w.b.fetches.filter (fun o => !mine o) }
    assignEngines 8 w

/-- The group becomes BROKEN (R320). A MEMBER_FENCE that waits completes OK, for nothing is left to settle. -/
def breakGroup (env : Env) (gi : Nat) (w : W) : W :=
  let g := getGrp w gi
  if g.state == .broken || g.state == .free then w
  else
    let w := modGrp gi (fun g => { g with state := .broken, rlPhase := 0, deferred := [], cmds := []
                                          waitSettle := [], adopting := none }) (relightOff gi w)
    let w := raiseGirq 0x0E00 gi g.ctx [0xA0008 + 256 * gi, 6, gi] w
    let w := streamsLose env gi (dropTraffic gi w)
    let w := (w.b.streams.filter (fun s => s.kind == .restripe && (s.g == gi || s.oldG == gi))).foldl (fun w s =>
      dropRestripe env s.region { status := .memberLost, result := toLe 8 s.next } w) w
    let lost := fun (w : W) (c : CmdId) => done env c .memberLost 0 [] w
    let w := ((g.relight.map (·.cmd)).toList ++ g.cmds ++ g.adopting.toList).foldl lost w
    let w := g.waitSettle.foldl (fun w x => if x.2.2.isNone then done env x.1 .ok 0 [] w else lost w x.1) w
    let reads := w.b.cmds.filter (fun k => opOf k = 0x64 && k.phase == .running && (getRgn w (arg k 0x10 2)).grp == some gi)
    let w := reads.foldl (fun w k => done env k.id .memberLost 0 (toLe 8 (64 * k.prog)) w) w
    let w := (w.b.fetches.filter (fun o => o.g == gi)).foldl (fun w o =>
      if enginePrio o.why = 0 then failReq env o w else assignEngines 8 (dropOp o.id w)) w
    afterChange env (closesBreak env gi w)

/-- The group state follows the out count (R319). -/
def regroup (env : Env) (gi : Nat) (w : W) : W :=
  let g := getGrp w gi
  let out := outCount g
  if g.state == .free || g.state == .broken then w
  else if g.m < out then breakGroup env gi w
  else if (g.state == .whole || g.state == .restriping) && decide (0 < out) then
    noteState gi (modGrp gi (fun g => { g with state := .degraded }) w)
  else w

/-- Leave RELIGHTING (R319). -/
def leaveRelighting (gi : Nat) (w : W) : W :=
  noteState gi (modGrp gi (fun g =>
    { g with state := if g.state == .relighting then (if outCount g = 0 then .whole else .degraded) else g.state
             rlPhase := if g.rlPhase < 5 then 0 else g.rlPhase }) w)

/-! ### Unknown lines and rebuilds (R172, R173) -/

/-- Mark a stripe line PARITY_UNKNOWN: with more than m fragments missing the group is BROKEN (R172, R173). -/
def markUnknown (env : Env) (gi line : Nat) (w : W) : W :=
  let g := getGrp w gi
  if g.unknown.contains line || g.state == .broken then w
  else
    let w := setDpErr 8 gi line (modGrp gi (fun g => { g with unknown := insertNat g.unknown line }) w)
    if g.m < outCount g + 1 then breakGroup env gi w else w

/-- A holder rebuilds a stripe line (R173): once no unapplied unit has it gapped, and the Relight frontier has passed it; a rebuild of the line under way starts again; without its data members the line is unknown. -/
def rebuildLine (env : Env) (gi line : Nat) (w : W) : W :=
  match parityAt w line with
  | none => w
  | some x =>
    let g := getGrp w gi
    let pos := position g x.region x.stripe
    if g.state == .broken || x.view.grp != some gi || pos == .ahead then w
    else if pos == .active || w.b.preps.any (fun p => p.g == gi && p.gapped.contains line) then
      modGrp gi (fun g => { g with deferred := insertNat g.deferred line }) w
    else
      let same := fun (o : FetchOp) => o.why == .rebuild && o.g == gi && o.region == x.region && o.stripe == x.stripe && o.line == x.line
      let w := { (modGrp gi (fun g => { g with deferred := g.deferred.filter (fun l => l != line) }) w) with
                 b.fetches := w.b.fetches.filter (fun o => !same o) }
      match startFetch .rebuild gi x.region x.stripe x.line 1 g.self w with
      | (some _, w) => w
      | (none, w) => markUnknown env gi line w

/-- An operation loses a member of its group: another candidate takes its place, or it fails (R173, R330, R346). -/
def opLoses (env : Env) (gi m id : Nat) (w : W) : W :=
  match findOp w id with
  | none => w
  | some o =>
    if o.g != gi then w
    else
      let g := getGrp w gi
      let w := modOp id (fun o => { o with untried := o.untried.filter (fun x => x != m) }) w
      let few := decide ((candidates g o.stripe o.target (isRebuild o.why)).length < g.k)
      let fails := (isRebuild o.why && isDataOf g m o.stripe) || ((o.queued || o.waiting) && few)
      let give := fun (w : W) => match o.why with
        | .rebuild => markUnknown env gi (opAddr w o) (assignEngines 8 (dropOp id w))
        | .scrub r => skipScrub o r w
        | .relight _ _ => w
        | _ => failReq env o w
      if fails then give w
      else if !(o.chosen.any (fun c => c.1 == m)) then w
      else match dropMember id m w with
        | (.fails, w) => give w
        | (.restarts, w) => assignEngines 8 w
        | (.goesOn, w) => w

/-! ### Applying and discarding pending units (R170, R172) -/

/-- Rebuild the lines of a list that no other pending unit has gapped; the others wait. -/
def rebuildLines (env : Env) (gi : Nat) (ls : List Nat) (w : W) : W :=
  (ls.foldl insertNat []).foldl (fun w l => rebuildLine env gi l w) w

/-- A pending unit is applied: its deltas, the rebuild of its gapped and failed lines, the commit map, its references
(R170, R174). -/
def applyPrep (env : Env) (p : Prep) (w : W) : W :=
  let (bad, w) := applyUnit env p.g p.src p.unit w
  let w := setAhead p.g p.src p.unit 0 { w with b.preps := w.b.preps.filter (fun q => !prepIs p.g p.src p.unit q)
                                                b.applied := (p.g, p.src, p.unit) :: w.b.applied }
  let w := if p.kind = 0 then recordApplied p.g p.src p.base p.watch p.run p.runFirst p.runCount p.index w else w
  rebuildLines env p.g (bad ++ p.gapped) w

/-- A pending unit is discarded; lines whose rebuild waited for it are rebuilt (R172, R173). -/
def discardPrep (env : Env) (p : Prep) (w : W) : W :=
  let w := discardUnit p.g p.src p.unit w
  rebuildLines env p.g (p.gapped.filter (fun l => (getGrp w p.g).deferred.contains l)) w

/-! ### Settling (R324, R353) -/

/-- The ENDs this member holds, by member index of the new group, for the Restripe of a group (R353). -/
def endMask (w : W) (gi : Nat) : Nat :=
  match w.b.streams.find? (fun s => s.kind == .restripe && (s.g == gi || s.oldG == gi)) with
  | none => 0
  | some s =>
    let own := if s.endSent then [(getGrp w s.g).self] else []
    if !streams s then 0 else (own.foldl insertNat s.ends).foldl (fun m i => m ||| 1 <<< i) 0

/-- Cut a list into runs of at most 500, at least one. -/
def runs500 : Nat → List (BitVec 64) → List (List (BitVec 64))
  | 0, l => [l]
  | n + 1, l => if l.length ≤ 500 then [l] else l.take 500 :: runs500 n (l.drop 500)

/-- Send a list of units to a member as consecutive notices, the last one marked LAST (R323, R324). -/
def sendUnits (gi m kind slot mask : Nat) (coord : Coord) (us : List (BitVec 64)) (w : W) : W :=
  let rs := runs500 (us.length / 500 + 1) us
  ((List.range rs.length).zip rs).foldl (fun w r =>
    formTo gi m { kind := kind, slot := slot, code := b2n (r.1 + 1 == rs.length), coord := coord, count := r.2.length
                  endmask := mask, body := r.2.flatMap (fun u => toLe 8 u.toNat) } w) w

/-- Replace the settling record of a slot. -/
def modSettling (gi j : Nat) (f : Settling → Settling) (w : W) : W :=
  modGrp gi (fun g =>
    if g.settling.any (fun s => s.slot == j) then { g with settling := mapIf (fun s => s.slot == j) f g.settling }
    else { g with settling := g.settling ++ [f { slot := j, coord := (slotAt g j).coord }] }) w

/-- The record of a slot. -/
def settlingOf (g : Group) (j : Nat) : Option Settling := g.settling.find? (fun s => s.slot == j)

/-- Is a slot settled on this member? -/
def isSettled (g : Group) (j : Nat) : Bool := ((settlingOf g j).map (·.settled)).getD false

/-- Every out slot is settled (GRP_RCVSTAT.SETTLED, R322, R354). -/
def allSettled (g : Group) : Bool := (outMembers g).all (isSettled g)

/-- The decision on a Restripe whose new group has lost the coordinate of a settled slot (R353); a member of the old group
only, which cannot read an ENDMASK, decides by the ENDs it holds (log entry 32). -/
def decideRestripe (env : Env) (gi : Nat) (s : Settling) (w : W) : W :=
  match w.b.streams.find? (fun x => x.kind == .restripe && (if streams x then x.g else x.oldG) == gi
      && (match memberOf (getGrp w x.g) s.coord with
          | some m => streams x || rsNew (getGrp w x.g) x.sepoch m
          | none => false)) with
  | none => w
  | some x =>
    let mask := s.ends ||| endMask w gi
    if (if streams x then (List.range (getGrp w x.g).n).all (fun i => mask.testBit i) else allEnds w x) then switchRestripe env x.region w
    else dropRestripe env x.region { status := .memberLost, result := toLe 8 x.next } w

/-- A SURVIVOR adoption rewrites its slot; a coordinate that is still a peer keeps the epoch recorded for it (R87, R88, R94,
R336). -/
def adoptSurvivor (env : Env) (c : CmdId) (gi j : Nat) (new : Coord) (w : W) : W :=
  let g := getGrp w gi
  let old := (slotAt g j).coord
  let live := w.b.grps.any (fun x => x.2.state != .free &&
    (slotsOf x.2).any (fun s => s.2.coord == new && s.2.state != .unused && !slotOut s.2.state))
  let w := if isPeer w new && !live then dropStreams new w else w
  let w := modGrp gi (fun g =>
    { g with members := g.members.set j { coord := new, state := .adopted }
             settling := g.settling.filter (fun s => s.slot != j) }) w
  let w := { w with b.tombs := w.b.tombs.filter (fun t => !(t.g == gi && t.src == j))
                    b.applied := w.b.applied.filter (fun a => !(a.1 == gi && a.2.1 == j))
                    b.cutoffs := w.b.cutoffs.filter (fun a => !(a.1 == gi && a.2.1 == j)) }
  let w := addPeer new w
  let w := { w with b.lnk.peers := w.b.lnk.peers.map (fun p =>
    if p.2.coord != new then p
    else if live then (p.1, { p.2 with counting := true })
    else (p.1, { p.2 with state := .alive, counting := true })) }
  let w := prunePeers (adoptPeer gi j old new w)
  done env c .ok 0 [] (afterChange env w)

/-- The commands that waited for a slot to be settled go on (R333, R336). -/
def settleWaits (env : Env) (gi j : Nat) (w : W) : W :=
  let mine := (getGrp w gi).waitSettle.filter (fun x => x.2.1 == j)
  let w := modGrp gi (fun g => { g with waitSettle := g.waitSettle.filter (fun x => x.2.1 != j) }) w
  mine.foldl (fun w x => match x.2.2 with
    | none => done env x.1 .ok 0 [] w
    | some c => adoptSurvivor env x.1 gi j c w) w

/-- Does a pending unit of a slot in settling go on: some member, or this one, has applied a unit of its set (R281, R324)? -/
def settlesOn (w : W) (all : List (BitVec 64)) (p : Prep) : Bool := (setUnits w p).any (fun u => all.contains u)

/-- A slot is settled once every live member's last notice is held, and the memory ports can grant what the committed units
take: its pending units are applied when some member applied one of their set, and discarded otherwise (R22, R172, R324). -/
def settleTry (env : Env) (gi j : Nat) (w : W) : W :=
  let g := getGrp w gi
  match settlingOf g j with
  | none => w
  | some s =>
    if s.settled || g.state == .broken || !slotOut (slotAt g j).state || !(liveOthers g).all (fun m => s.got.contains m) then w
    else
      let own := (w.b.tombs.filter (fun t => t.g == gi && t.src == j)).map (·.unit)
      let all := s.listed ++ own
      let mine := w.b.preps.filter (fun p => p.g == gi && p.src == j)
      let goes := mine.filter (settlesOn w all)
      let more := (w.b.pool.filter (fun e => e.g == gi && e.src == j && !e.applied && all.contains e.unit)).map (·.unit)
      if !(goes.map (·.unit) ++ more).all (unitGrantable w gi j) then w
      else
      let w := mine.foldl (fun w p => if goes.any (fun q => q.unit == p.unit) then applyPrep env p w else discardPrep env p w) w
      let w := (w.b.pool.filter (fun e => e.g == gi && e.src == j && !e.applied)).foldl (fun w e =>
        if all.contains e.unit then (applyUnit env gi j e.unit w).2 else freeEntry e w) w
      let w := modSettling gi j (fun s => { s with settled := true }) w
      let w := decideRestripe env gi s w
      settleWaits env gi j w

/-- Every slot of a group whose settling can end does so. -/
def settleGrp (env : Env) (gi : Nat) (w : W) : W :=
  (((getGrp w gi).settling.filter (fun s => !s.settled)).map (·.slot)).foldl (fun w s => settleTry env gi s w) w

/-- The same for every group. -/
def settleAll (env : Env) (w : W) : W := (w.b.grps.map (·.1)).foldl (fun w gi => settleGrp env gi w) w

/-- Settling a slot begins: the notices go out; a FORMING member has nothing to settle (R324). -/
def settleBegin (env : Env) (gi j : Nat) (w : W) : W :=
  let g := getGrp w gi
  let c := (slotAt g j).coord
  if g.state == .forming then
    let w := (liveOthers g).foldl (fun w m => sendUnits gi m 4 j 0 c [] w) w
    settleWaits env gi j (modSettling gi j (fun s => { s with settled := true }) w)
  else
    let ts := (w.b.tombs.filter (fun t => t.g == gi && t.src == j)).map (·.unit)
    let mask := endMask w gi
    let w := (liveOthers g).foldl (fun w m => sendUnits gi m 4 j mask c ts w) w
    settleTry env gi j (modSettling gi j id w)

/-! ### Formation and a spare's adoption (R327, R328, R336) -/

/-- The group body (R327). -/
def groupBody (g : Group) : Bytes :=
  toLe 1 g.n ++ toLe 1 g.k ++ toLe 1 g.m ++ toLe 1 (b2n g.sealReq) ++ toLe 2 g.dgn ++ toLe 2 g.mcast ++ toLe 2 g.wdom ++ zeros 6
    ++ g.members.flatMap (fun s => toLe 4 s.coord.toNat)

/-- Send a JOIN (R328). -/
def sendJoin (gi m reply : Nat) (w : W) : W :=
  let g := getGrp w gi
  formTo gi m { kind := 0, slot := g.self, code := reply, coord := w.b.lnk.coord, body := groupBody g } w

/-- Periods are counted toward the peers of a group from now on (R94). -/
def startCounting (gi : Nat) (w : W) : W :=
  let g := getGrp w gi
  { w with b.lnk.peers := w.b.lnk.peers.map (fun p =>
      if (memberOf g p.2.coord).isSome then (p.1, { p.2 with counting := true }) else p) }

/-- Formation ends when a matching JOIN is held from every other member that is not out (R137, R328). -/
def formGo (env : Env) (gi : Nat) (w : W) : W :=
  let g := getGrp w gi
  if g.state == .forming && (liveOthers g).all (fun m => g.joins.contains m) then
    let whole := outCount g = 0
    let w := startCounting gi (modGrp gi (fun g => { g with state := if whole then .whole else .degraded, cmds := [] }) w)
    g.cmds.foldl (fun w c => done env c (if whole then .ok else .okDegraded) 0 [] w) (noteState gi w)
  else w

/-- The slot state of a code (R148). -/
def slotOfCode : Nat → SlotState
  | 1 => .alive | 2 => .suspect | 3 => .lost | 4 => .fenced | 5 => .adopted | _ => .unused
def slotCode : SlotState → Nat
  | .unused => 0 | .alive => 1 | .suspect => 2 | .lost => 3 | .fenced => 4 | .adopted => 5

/-- A spare takes the state its lowest-indexed answer reports for every slot but its own, and its adoption completes once every
member that is not out has answered (R336). What it finds lost is settled on it: it holds no unit of those members. -/
def spareGo (env : Env) (gi : Nat) (w : W) : W :=
  let g := getGrp w gi
  match g.adopting, g.adoptAns.foldl (fun (m : Option (Nat × List SlotState)) a =>
      match m with | some b => if a.1 < b.1 then some a else m | none => some a) none with
  | some c, some (_, sts) =>
    let upd := fun (x : Nat × Slot) =>
      let st := sts.getD x.1 x.2.state
      if x.1 == g.self || decide (g.n ≤ x.1) then x.2
      else { x.2 with state := st, outUs := if slotOut st && !slotOut x.2.state then nowUs w else x.2.outUs }
    let ms := ((List.range 16).zip g.members).map upd
    let gone := (List.range g.n).filter (fun i => !slotOut (slotAt g i).state && slotOut ((ms.getD i {}).state))
    let w := modGrp gi (fun g => { g with members := ms, settling := g.settling.filter (fun s => slotOut ((ms.getD s.slot {}).state)) }) w
    let w := gone.foldl (fun w j => modSettling gi j (fun s => { s with settled := true }) w) w
    let w := regroup env gi w
    let g := getGrp w gi
    if g.adopting.isSome && (liveOthers g).all (fun m => g.adoptAns.any (fun a => a.1 == m)) then
      done env c .ok 0 [] (modGrp gi (fun g => { g with adopting := none }) w)
    else w
  | _, _ => w

/-! ### A slot is lost (R318, R321, R322, R325) -/

/-- Record a loss (R322, R354) with its event. -/
def recordLoss (gi j cause : Nat) (w : W) : W :=
  let w := modGrp gi (fun g => { g with lastCause := cause, lastSlot := j, lossNs := w.b.crp.tCore }) w
  logOther 14 0 gi (getGrp w gi).ctx [0xA00E0 + 256 * gi, cause, j] w

/-- Is an instance inside its window, marked NO_ROLLFORWARD for the group (R325)? -/
def noRollInside (w : W) (gi : Nat) : Bool :=
  w.b.ctxs.any (fun e => (e.2.watch.phase == .window || e.2.watch.phase == .closing) && e.2.watch.wdom == (getGrp w gi).wdom
    && (e.2.watch.noRoll || e.2.watch.noRollGroups.contains gi))

/-- Nothing more is formed toward a lost slot: its messages, deltas and waiting FETCHes are dropped (R85, R322). -/
def dropToward (gi j : Nat) (w : W) : W :=
  let g := getGrp w gi
  let c := (slotAt g j).coord
  let d := BitVec.ofNat 16 g.dgn
  { w with b.lnk.vc0 := w.b.lnk.vc0.filter (fun m => !(m.dest == c && m.pk.hdr.group == d))
           b.fetchWaits := w.b.fetchWaits.filter (fun f => !(f.pk.hdr.group == d && f.pk.hdr.src == c))
           b.slices := w.b.slices.map (fun s => (s.1, { s.2 with openPkts := s.2.openPkts.filter (fun o => !(o.g == gi && o.dest == some j))
                                                                 sendQ := s.2.sendQ.filter (fun o => !(o.g == gi && o.dest == some j))
                                                                 backlog := s.2.backlog.filter (fun x => !(x.g == gi && x.dest == some j)) })) }

/-- The units of a group lose a member of their wait sets (R169). -/
def unitsLose (gi j : Nat) (w : W) : W :=
  let w := { w with b.units := mapIf (fun u => u.g == gi) (fun u => { u with waitSet := u.waitSet.filter (fun m => m != j) }) w.b.units }
  let w := (w.b.units.filter (fun u => u.g == gi && u.closed && !u.prepared)).foldl (fun w u => tryPrepare gi u.unit w) w
  advanceUnits gi w

/-- What a lost slot's wait ends: Sounding and window encoding, polls and collectives, in a BROKEN group too (R154, R194, R199,
R207, R265, R322). -/
def waitsLose (env : Env) (gi j : Nat) (c : Coord) (w : W) : W :=
  collsLose env gi j (pollsLose env c (streamsLose env gi w))

/-- Loss handling of a slot that has become LOST or FENCED, in R322's order: the group state; what goes toward the slot and what
waits for it; its settling (R322, R325). -/
def handleLoss (env : Env) (gi j : Nat) (w : W) : W :=
  let g := getGrp w gi
  let c := (slotAt g j).coord
  if g.state == .broken then afterChange env (waitsLose env gi j c (dropToward gi j w))
  else
    let w := if g.state == .relighting && g.rlSlot == j && g.relight.isNone then leaveRelighting gi w else w
    let w := regroup env gi w
    let w := if noRollInside w gi && g.state != .forming then breakGroup env gi w else w
    let w := modGrp gi (fun g =>
      { g with joins := g.joins.filter (fun m => m != j)
               relight := g.relight.map (fun r => { r with waiting := r.waiting.filter (fun m => m != j)
                                                           accepted := r.accepted.filter (fun m => m != j) }) }) w
    let w := { w with b.streams := w.b.streams.map (fun s => { s with waiting := s.waiting.filter (fun x => x != (gi, j)) }) }
    let w := dropToward gi j w
    let w := if (getGrp w gi).state == .broken then w else unitsLose gi j w
    let w := waitsLose env gi j c w
    if (getGrp w gi).state == .broken then afterChange env w
    else
      let w := (w.b.fetches.map (·.id)).foldl (fun w id => opLoses env gi j id w) w
      let w := settleBegin env gi j w
      let w := settleGrp env gi w
      let w := spareGo env gi (formGo env gi w)
      let w := ((w.b.streams.filter (fun s => s.kind == .restripe)).map (·.region)).foldl (fun w r => advanceRestripe env r w) w
      afterChange env w

/-- A slot becomes LOST or FENCED: its state, the LOSS notice on own detection, and loss handling unless it was LOST already
(R318, R321). -/
def loseSlot (env : Env) (gi j : Nat) (st : SlotState) (cause : Nat) (notice : Option Nat) (w : W) : W :=
  let g := getGrp w gi
  let was := (slotAt g j).state
  let to_ := if was == .adopted then .lost else st
  if g.state == .free || decide (g.n ≤ j) || j == g.self || was == .unused || was == .fenced || (was == .lost && to_ == .lost) then w
  else
    let s := { slotAt g j with state := to_, outUs := if was == .lost then (slotAt g j).outUs else nowUs w }
    let w := modGrp gi (fun g => { g with members := g.members.set j s }) w
    let w := if was == .lost then w else recordLoss gi j cause w
    let w := match notice with
      | some code => formToAll gi (liveOthers (getGrp w gi)) (fun _ =>
          { kind := 3, slot := j, code := code, coord := (slotAt g j).coord }) w
      | none => w
    if was == .lost then w else handleLoss env gi j w

/-- A coordinate is LOST by own detection: every slot that holds it, in every group (R94, R321). -/
def loseCoord (env : Env) (c : Coord) (cause : Nat) (w : W) : W :=
  let w := { w with b.lnk.peers := w.b.lnk.peers.map (fun p => if p.2.coord == c then (p.1, { p.2 with state := .lost }) else p)
                    b.lnk.vc0 := w.b.lnk.vc0.filter (fun m => m.dest != c) }
  let w := logOther 14 0 0 0 [0, cause, c.toNat] w
  w.b.grps.foldl (fun w x =>
    (slotsOf x.2).foldl (fun w s => if s.2.coord == c && s.1 != x.2.self then loseSlot env x.1 s.1 .lost cause (some cause) w else w) w) w

/-- Another member has excluded this one: the own slot is marked and the group is BROKEN here (R321, R334). -/
def excludeSelf (env : Env) (gi : Nat) (st : SlotState) (cause : Nat) (w : W) : W :=
  let g := getGrp w gi
  let w := modGrp gi (fun g => { g with members := g.members.set g.self { slotAt g g.self with state := st } }) w
  breakGroup env gi (recordLoss gi g.self cause w)

end Sys2Proof.Machine
end

