-- ==== Sys2Proof/Machine/GroupRows.lean ====
section
/-! DEFINITION. The rows of groups: GROUP_DEFINE with the placement check, formation, MEMBER_FENCE, MEMBER_ADOPT, and the
FORM messages JOIN, LOSS, SETTLE, DONE, FENCED, ADOPT and ADOPTED (R135 to R140, R318 to R336). -/

namespace Sys2Proof.Machine

/-! ### FORM messages as they arrive -/

/-- A FORM row: every copy is acknowledged, the first is acted on (R85, R326). -/
def formRow (rx : Rx) (kind : Nat) (act : Packet → W → W) (w : W) : W :=
  onKind rx 2 (fun p => fld p 8 1 == kind || (kind == 0 && decide (14 < fld p 8 1))) (fun pk w =>
    let (first, w) := firstCopy pk.hdr.src (fld pk.payload 0 8) w
    let w := sendAck pk.hdr (fld pk.payload 0 8) w
    if first then act pk w else w) w

/-- SLOT and COORD of a FORM message. -/
def msgSlot (pk : Packet) : Nat := fld pk.payload 9 1
def msgCoord (pk : Packet) : Coord := BitVec.ofNat 32 (fld pk.payload 0xC 4)

/-- The group of a FORM message and the index of its sender, a member whose coordinate holds the slot. -/
def formFrom (w : W) (pk : Packet) : Option (Nat × Group × Nat) :=
  (senderOf w pk.hdr).filter (fun x => decide (x.2.2 < x.2.1.n) && (slotAt x.2.1 x.2.2).coord == pk.hdr.src)

/-- The sender is held ALIVE, SUSPECT or ADOPTED. -/
def senderLive (g : Group) (m : Nat) : Bool := !slotOut (slotAt g m).state

/-! ### Checks of R136 -/

/-- The member list of the ARGS, when it can be read. -/
def readMlist (env : Env) (k : Cmd) (w : W) : Option (List Coord) × W :=
  let a := arg k 0x20 8
  if !inPlain w k.ctx a 64 then (none, w)
  else
    let (c, b, w) := readBytes (seAcc env k.ctx) a 64 w
    (if c = .ok then some ((List.range 16).map (fun i => BitVec.ofNat 32 (fld b (4 * i) 4))) else none, w)

/-- The list holds this SCE's coordinate at SELF, coordinates of the torus that differ, and zeros beyond (R136). -/
def mlistOk (w : W) (n self : Nat) (l : List Coord) : Bool :=
  l.getD self 0 == w.b.lnk.coord && (l.drop n).all (· == 0) && (l.take n).all (inTorus w)
    && (List.range n).all (fun i => (List.range i).all (fun j => l.getD i 0 != l.getD j 0))

/-- Binary search of the placement map, read as context 0 in the background class (R140, R149): the entry found, between two
entries already read. -/
def mapFind (env : Env) (c : Nat) : Nat → Nat → Nat → Option Nat → Option Nat → W → Option Bytes × W
  | 0, _, _, _, _, w => (none, w)
  | n + 1, lo, hi, below, above, w =>
    if hi ≤ lo then (none, w)
    else
      let mid := (lo + hi) / 2
      let (code, e, w) := readBytes (bgAcc env) (w.b.pmapBase + 16 * mid) 16 w
      let x := fld e 0 4
      let order := (match below with | some b => decide (b < x) | none => true) && (match above with | some a => decide (x < a) | none => true)
      if code != .ok || !order then (none, w)
      else if x = c then (some e, w)
      else if x < c then mapFind env c n (mid + 1) hi (some x) above w
      else mapFind env c n lo mid below (some x) w

/-- The entries of the members of a list in turn, or the index of the first that fails. -/
def mapEntries (env : Env) : List (Nat × Coord) → List Bytes → W → (Except Nat (List Bytes)) × W
  | [], acc, w => (.ok acc, w)
  | (i, c) :: t, acc, w =>
    let (e, w) := mapFind env c.toNat 64 0 w.b.pmapCnt none none w
    match e with
    | none => (.error i, w)
    | some e => if fld e 4 4 = 0 || fld e 8 2 = 0 || fld e 0xE 2 != 0 then (.error i, w) else mapEntries env t (acc ++ [e]) w

/-- The class in which two entries meet (R140). -/
def shareClass (a b : Bytes) : Option Nat :=
  if fld a 4 4 = fld b 4 4 then some 1
  else if fld a 8 2 = fld b 8 2 then some 2
  else if fld a 0xA 2 != 0 && fld a 0xA 2 == fld b 0xA 2 then some 3
  else if fld a 0xC 2 != 0 && fld a 0xC 2 == fld b 0xC 2 then some 4 else none

/-- The placement check (R140): RESULT of its failure. -/
def placement (env : Env) (l : List Coord) (w : W) : Option Bytes × W :=
  if w.b.pmapCnt = 0 then (some [0xFF, 0xFF, 0], w)
  else
    match mapEntries env ((List.range l.length).zip l) [] w with
    | (.error i, w) => (some [BitVec.ofNat 8 i, 0xFF, 0], w)
    | (.ok es, w) =>
      let pairs := (List.range es.length).flatMap (fun i => ((List.range es.length).filter (i < ·)).map (fun j => (i, j)))
      ((pairs.findSome? (fun p => (shareClass (es.getD p.1 []) (es.getD p.2 [])).map (fun c =>
        [BitVec.ofNat 8 p.1, BitVec.ofNat 8 p.2, BitVec.ofNat 8 c]))), w)

/-- Coordinates of a list that are neither this SCE's nor a peer's. -/
def newPeers (w : W) (l : List Coord) : Nat :=
  (l.foldl (fun (a : List Coord) c => if a.contains c || c == w.b.lnk.coord || isPeer w c then a else c :: a) []).length

/-- Peers that an adoption into a slot ends: the coordinate it replaces, where no other slot of any group names it (R88, R91). -/
def gonePeers (w : W) (gi j : Nat) (l : List Coord) : Nat :=
  let old := (slotAt (getGrp w gi) j).coord
  let named := w.b.grps.any (fun g => g.2.state != .free && (slotsOf g.2).any (fun s =>
    s.2.coord == old && s.2.state != .unused && !(g.1 == gi && s.1 == j)))
  b2n (isPeer w old && !named && !l.contains old)

/-- The rows of R136 behind the in-use row, for a list of n members with this SCE at SELF of the ARGS; quotas for a group that
is new here, and the slot adopted in one that is not (R335). The seal-key row sees entries of the own partition only (R393). -/
def listChecks (env : Env) (k : Cmd) (adopt : Option (Nat × Nat)) (w : W) : Except Outc (List Coord) × W :=
  let n := arg k 0x11 1
  let dgn := arg k 0x16 2
  let b := arg k 0x18 2
  let no := fun (info : Nat) => (Except.error { status := .denied, info := info } : Except Outc (List Coord))
  match readMlist env k w with
  | (none, w) => (no 0x22, w)
  | (some l, w) =>
    if !mlistOk w n (arg k 0x14 1) l then (no 0x23, w)
    else if w.b.grps.any (fun x => x.2.state != .free && x.2.dgn == dgn && some x.1 != adopt.map (·.1)) then (no 0x24, w)
    else if b != 0 && (!w.b.lnk.mcastEn || decide (0xFFFF < b + n - 1)) then (no 0x25, w)
    else if bit (arg k 0x15 1) 0 && !((sealEntry w dgn).map (fun e => e.2.owner == k.part && (e.2.key0.isSome || e.2.key1.isSome))).getD false then (no 0x26, w)
    else
      match placement env (l.take n) w with
      | (some res, w) => (.error { status := .denied, info := 0x27, result := res }, w)
      | (none, w) =>
        let used := (w.b.grps.filter (fun x => x.2.state != .free && x.2.part == k.part)).length
        let gone := match adopt with | some (gi, j) => gonePeers w gi j l | none => 0
        if adopt.isNone && decide ((getPart w k.part).groupMax < used + 1) then (.error { status := .quota, info := 2 }, w)
        else if decide (1024 < w.b.lnk.peers.length + newPeers w (l.take n) - gone) then (.error { status := .quota, info := 3 }, w)
        else (.ok l, w)

/-- Fill a group entry from the ARGS; the streams of its multicast IDs start anew, and its members become peers
(R88, R91, R137). -/
def fillGroup (k : Cmd) (l : List Coord) (state : GrpState) (own : SlotState) (w : W) : W :=
  let gi := arg k 0x10 1
  let n := arg k 0x11 1
  let self := arg k 0x14 1
  let b := arg k 0x18 2
  let ms := (List.range 16).map (fun i =>
    if i < n then ({ coord := l.getD i 0, state := if i = self then own else .alive } : Slot) else {})
  let g : Group :=
    { state := state, n := n, k := arg k 0x12 1, m := arg k 0x13 1, self := self, dgn := arg k 0x16 2, mcast := b
      wdom := arg k 0x1A 2, sealReq := bit (arg k 0x15 1) 0, formMs := if arg k 0x28 4 = 0 then 2000 else arg k 0x28 4
      members := ms, ctx := k.ctx, part := k.part }
  let ids := fun (i : Nat) => b != 0 && decide (b ≤ i) && decide (i < b + n)
  let w := { (setGrp gi g w) with
             b.lnk.txStreams := w.b.lnk.txStreams.filter (fun s => !(s.mcast && ids s.dest))
             b.lnk.rxStreams := w.b.lnk.rxStreams.filter (fun s => !((s.mcast.map ids).getD false)) }
  (l.take n).foldl (fun w c => addPeer c w) w

/-- The entry returns to FREE, and what the SCE kept for the group goes with it (R137). -/
def freeGroup (gi : Nat) (w : W) : W :=
  let d := BitVec.ofNat 16 (getGrp w gi).dgn
  let w := dropTraffic gi w
  prunePeers { (setGrp gi {} w) with
    b.units := w.b.units.filter (fun u => u.g != gi), b.tombs := w.b.tombs.filter (fun t => t.g != gi)
    b.applied := w.b.applied.filter (fun a => a.1 != gi), b.cutoffs := w.b.cutoffs.filter (fun a => a.1 != gi)
    b.maps := w.b.maps.filter (fun e => e.g != gi), b.descs := w.b.descs.filter (fun x => x.g != gi)
    b.ends := w.b.ends.filter (fun x => x.g != gi), b.fetches := w.b.fetches.filter (fun o => o.g != gi)
    b.lnk.vc0 := w.b.lnk.vc0.filter (fun m => m.pk.hdr.group != d)
    b.fetchWaits := w.b.fetchWaits.filter (fun f => f.pk.hdr.group != d) }

/-! ### GROUP_DEFINE and formation -/

/-- A relation between the fields of a group command that does not hold: MALFORMED at the lowest offset, after R116 (R136, R335). -/
def fieldRow (bad : List Nat) : Check := (least bad).map (fun o => { status := .malformed, info := o })

/-- The relations between the fields of MEMBER_ADOPT: those of a define, and under SPARE that SELF is SLOT (R335). -/
def adoptFields (k : Cmd) : Check :=
  fieldRow (groupBad k.slot true ++ if arg k 0x2D 1 = 1 && arg k 0x14 1 != arg k 0x2C 1 then [0x14] else [])

/-- A command that reads a member list and the placement map begins once the lines of both may be read (R22, R25, R53, R149). -/
def listReads (c : CmdId) (f : W → W) (w : W) : W :=
  match findCmd w c with
  | none => f w
  | some k => if k.phase == .running || !mayStart w k then f w
              else onReads (arg k 0x20 8) 64 (onReads w.b.pmapBase (16 * w.b.pmapCnt) f) w

/-- A define: the checks, the entry, and the first JOINs (R136, R137, R328). -/
def groupDefine (env : Env) (k : Cmd) (w : W) : W :=
  let gi := arg k 0x10 1
  checked env k (firstFail [fieldRow (groupBad k.slot true), deny (!w.b.lnk.en) 0x20, deny ((getGrp w gi).state != .free) 0x21])
    (fun w => match listChecks env k none w with
      | (.error o, w) => complete env false k.id o w
      | (.ok l, w) =>
        let w := fillGroup k l .forming .alive w
        let w := modGrp gi (fun g => { g with cmds := [k.id] }) w
        (others (getGrp w gi)).foldl (fun w m => sendJoin gi m 0 w) w) w

/-- A release (R136, R137). -/
def groupRelease (env : Env) (k : Cmd) (w : W) : W :=
  let gi := arg k 0x10 1
  let st := (getGrp w gi).state
  let used := st == .forming || st == .relighting || st == .restriping || !(rgnsOfGrp w gi).isEmpty
  checked env k (firstFail [ownGrp w k gi, fieldRow (groupBad k.slot false), deny (!w.b.lnk.en) 0x20, deny used 0x21])
    (fun w => done env k.id .ok 0 [] (freeGroup gi w)) w

/-- GROUP_DEFINE with N non-zero. -/
def execGroupDefine (c : CmdId) (env : Env) (s : State) : Host.Outcome State Fault Refusal :=
  run (listReads c (cmdRow c (fun k => isOp 0x85 k && arg k 0x11 1 != 0) env (groupDefine env) (fun _ w => w))) s

/-- GROUP_DEFINE with N zero. -/
def execGroupRelease (c : CmdId) (env : Env) (s : State) : Host.Outcome State Fault Refusal :=
  run (cmdRow c (fun k => isOp 0x85 k && arg k 0x11 1 == 0) env (groupRelease env) (fun _ w => w)) s

/-- FORMATION_JOIN_RESEND: a fresh JOIN to each member whose JOIN is not held and that is not out (R328). -/
def execFormationJoinResend (g : Nat) (s : State) : Host.Outcome State Fault Refusal :=
  run (fun w =>
    let x := getGrp w g
    if x.state == .forming then ((liveOthers x).filter (fun m => !x.joins.contains m)).foldl (fun w m => sendJoin g m 0 w) w else w) s

/-- A mask of member indices. -/
def maskOf (l : List Nat) : Nat := (l.foldl insertNat []).foldl (fun m i => m ||| 1 <<< i) 0

/-- FORMATION_TIMEOUT (R137, R328). -/
def execFormationTimeout (g : Nat) (env : Env) (s : State) : Host.Outcome State Fault Refusal :=
  run (fun w =>
    let x := getGrp w g
    if x.state != .forming then w
    else
      let missing := (others x).filter (fun m => !x.joins.contains m)
      let w := freeGroup g w
      x.cmds.foldl (fun w c => done env c .timeout 0 (toLe 2 (maskOf missing) ++ toLe 2 (maskOf x.mismatched)) w) w) s

/-- JOIN (R328). A sender whose coordinate does not hold the slot of its own list here is recorded mismatched under the index the
own list gives its coordinate, else under its own (log entry 105). -/
def execJoin (rx : Rx) (env : Env) (s : State) : Host.Outcome State Fault Refusal :=
  run (formRow rx 0 (fun pk w =>
    match senderOf w pk.hdr with
    | none => w
    | some (gi, g, x) =>
      let m := (memberOf g pk.hdr.src).getD x
      if !(g.state == .forming || g.state == .whole || g.state == .degraded) || slotOut (slotAt g m).state || m == g.self then w
      else if m != x || (formFrom w pk).isNone || bytesAt pk.payload 32 80 != groupBody g then
        logOther 14 0 gi g.ctx [2, 0, m] (modGrp gi (fun g => { g with mismatched := insertNat g.mismatched m }) w)
      else
        let w := modGrp gi (fun g => { g with joins := insertNat g.joins m }) w
        let w := if fld pk.payload 0xA 1 % 2 = 0 then sendJoin gi m 1 w else w
        formGo env gi w)) s

/-! ### Loss notices and settling -/

/-- LOSS (R318, R321). -/
def execLoss (rx : Rx) (env : Env) (s : State) : Host.Outcome State Fault Refusal :=
  run (formRow rx 3 (fun pk w =>
    match formFrom w pk with
    | none => w
    | some (gi, g, m) =>
      let j := msgSlot pk
      let st := if fld pk.payload 0xA 1 = 4 then SlotState.fenced else .lost
      if !senderLive g m || (slotAt g j).coord != msgCoord pk || decide (g.n ≤ j) then w
      else if j == g.self then excludeSelf env gi st 4 w else loseSlot env gi j st 4 none w)) s

/-- SETTLE: the units listed and the END notices held elsewhere (R324, R353). -/
def execSettle (rx : Rx) (env : Env) (s : State) : Host.Outcome State Fault Refusal :=
  run (formRow rx 4 (fun pk w =>
    match formFrom w pk with
    | none => w
    | some (gi, g, m) =>
      let j := msgSlot pk
      if !senderLive g m || (slotAt g j).coord != msgCoord pk || decide (g.n ≤ j) || g.state == .forming then w
      else
        let us := (List.range (fld pk.payload 0x18 4)).map (fun i => BitVec.ofNat 64 (fld pk.payload (32 + 8 * i) 8))
        let w := modSettling gi j (fun s =>
          { s with listed := s.listed ++ us, ends := s.ends ||| fld pk.payload 0x1C 2
                   got := if bit (fld pk.payload 0xA 1) 0 then insertNat s.got m else s.got }) w
        afterChange env (settleTry env gi j w))) s

/-- A tombstone learns that units of a source are complete: none remains once its whole set is (R281, R323, log entry 94). -/
def tombDone (gi m : Nat) (us : List (BitVec 64)) (t : Tomb) : Option Tomb :=
  if t.g != gi || t.src != m then some t
  else
    let t := { t with done := t.done ++ us.filter (fun u => (u == t.unit || t.units.contains u) && !t.done.contains u) }
    if (t.unit :: t.units).all (fun u => t.done.contains u) then none else some t

/-- DONE: the tombstones of the listed units are deleted (R323). -/
def execDone (rx : Rx) (_env : Env) (s : State) : Host.Outcome State Fault Refusal :=
  run (formRow rx 5 (fun pk w =>
    match formFrom w pk with
    | none => w
    | some (gi, _, m) =>
      let us := (List.range (fld pk.payload 0x18 4)).map (fun i => BitVec.ofNat 64 (fld pk.payload (32 + 8 * i) 8))
      { w with b.tombs := w.b.tombs.filterMap (tombDone gi m us) })) s

/-- DONE_NOTICE_TIMER, or 500 units: each member of a wait set gets the complete units it took part in, which then need not
be kept (R323). -/
def execDoneNoticeTimer (g : Nat) (s : State) : Host.Outcome State Fault Refusal :=
  run (fun w =>
    let us := w.b.units.filter (fun u => u.g == g && u.complete)
    let w := (others (getGrp w g)).foldl (fun w m =>
      let mine := (us.filter (fun u => u.waitSet.contains m)).map (·.unit)
      if mine.isEmpty then w else sendUnits g m 5 (getGrp w g).self 0 w.b.lnk.coord mine w) w
    { w with b.units := w.b.units.filter (fun u => !(u.g == g && u.complete)) }) s

/-- FENCED (R334). -/
def execFenced (rx : Rx) (env : Env) (s : State) : Host.Outcome State Fault Refusal :=
  run (formRow rx 6 (fun pk w =>
    match formFrom w pk with
    | none => w
    | some (gi, g, m) =>
      let st := (slotAt g m).state
      if msgSlot pk == g.self && msgCoord pk == w.b.lnk.coord && (st == .alive || st == .suspect) then
        excludeSelf env gi .fenced 6 w
      else w)) s

/-! ### MEMBER_FENCE (R333, R334) -/

/-- MEMBER_FENCE starts: the slot is FENCED with its notices; it completes when the slot is settled. -/
def memberFence (env : Env) (k : Cmd) (w : W) : W :=
  let gi := arg k 0x10 1
  let j := arg k 0x11 1
  let g := getGrp w gi
  let st := (slotAt g j).state
  let no := g.state == .forming || g.state == .broken || j == g.self || decide (g.n ≤ j) || st == .fenced || st == .adopted
  checked env k (firstFail [deny (g.state == .free) 0x90, ownGrp w k gi, deny no 0x90]) (fun w =>
    let c := (slotAt g j).coord
    let w := modGrp gi (fun g => { g with waitSettle := g.waitSettle ++ [(k.id, j, none)] }) w
    let w := loseSlot env gi j .fenced 5 (some 4) w
    let w := if bit (arg k 0x12 1) 0 then
        let id := w.b.lnk.nextMsg
        let p := toLe 8 id ++ formPayload w { kind := 6, slot := j, coord := c }
        (sendTo c (grpForm (getGrp w gi) 0 2 j false p) { w with b.lnk.nextMsg := id + 1 }).2
      else w
    if isSettled (getGrp w gi) j then afterChange env (settleWaits env gi j w) else w) w

/-- MEMBER_FENCE. -/
def execMemberFence (c : CmdId) (env : Env) (s : State) : Host.Outcome State Fault Refusal :=
  run (cmdRow c (isOp 0x60) env (memberFence env) (fun _ w => w)) s

/-! ### MEMBER_ADOPT (R335, R336) -/

/-- Does the entry differ from the ARGS of a SURVIVOR adoption (R335)? -/
def adoptDiffers (k : Cmd) (g : Group) : Bool :=
  arg k 0x11 1 != g.n || arg k 0x12 1 != g.k || arg k 0x13 1 != g.m || bit (arg k 0x15 1) 0 != g.sealReq || arg k 0x16 2 != g.dgn
    || arg k 0x18 2 != g.mcast || arg k 0x1A 2 != g.wdom

/-- SURVIVOR: the checks, then the wait for the slot to be settled (R335, R336). -/
def adoptSurvivorGo (env : Env) (k : Cmd) (w : W) : W :=
  let gi := arg k 0x10 1
  let j := arg k 0x2C 1
  let g := getGrp w gi
  let no91 : Check := some { status := .denied, info := 0x91 }
  let pre := firstFail
    [if g.state == .free then none else ownGrp w k gi, adoptFields k, deny (g.state == .free || g.state == .forming || g.state == .broken || j == g.self || decide (g.n ≤ j)
      || !slotOut (slotAt g j).state || adoptDiffers k g) 0x91]
  checked env k pre (fun w =>
    let (ml, w) := readMlist env k w
    let differs := match ml with
      | some l => (List.range 16).any (fun i => i != j && l.getD i 0 != (slotAt g i).coord)
      | none => false
    if differs then checked env k no91 (fun w => w) w
    else match listChecks env k (some (gi, j)) w with
      | (.error o, w) => complete env false k.id o w
      | (.ok l, w) =>
        let new := l.getD j 0
        if isSettled g j then adoptSurvivor env k.id gi j new w
        else modGrp gi (fun g => { g with waitSettle := g.waitSettle ++ [(k.id, j, some new)] }) w) w

/-- Send an ADOPT notice (R336). -/
def sendAdopt (gi m : Nat) (w : W) : W :=
  let g := getGrp w gi
  formTo gi m { kind := 7, slot := g.self, coord := w.b.lnk.coord, body := groupBody g } w

/-- SPARE: the entry is filled, and every other listed member is told (R335, R336). -/
def adoptSpareGo (env : Env) (k : Cmd) (w : W) : W :=
  let gi := arg k 0x10 1
  checked env k (firstFail [adoptFields k, deny ((getGrp w gi).state != .free) 0x21]) (fun w =>
    match listChecks env k none w with
    | (.error o, w) => complete env false k.id o w
    | (.ok l, w) =>
      let w := fillGroup k l .degraded .adopted w
      let w := startCounting gi (modGrp gi (fun g => { g with adopting := some k.id }) w)
      (others (getGrp w gi)).foldl (fun w m => sendAdopt gi m w) w) w

/-- MEMBER_ADOPT with ROLE SURVIVOR. -/
def execMemberAdoptSurvivor (c : CmdId) (env : Env) (s : State) : Host.Outcome State Fault Refusal :=
  run (listReads c (cmdRow c (fun k => isOp 0x61 k && arg k 0x2D 1 != 1) env (adoptSurvivorGo env) (fun _ w => w))) s

/-- MEMBER_ADOPT with ROLE SPARE. -/
def execMemberAdoptSpare (c : CmdId) (env : Env) (s : State) : Host.Outcome State Fault Refusal :=
  run (listReads c (cmdRow c (fun k => isOp 0x61 k && arg k 0x2D 1 == 1) env (adoptSpareGo env) (fun _ w => w))) s

/-- ADOPT_RESEND: a fresh ADOPT to each member that has not answered (R336). -/
def execAdoptResend (g : Nat) (s : State) : Host.Outcome State Fault Refusal :=
  run (fun w =>
    let x := getGrp w g
    if x.adopting.isSome then
      ((liveOthers x).filter (fun m => !x.adoptAns.any (fun a => a.1 == m))).foldl (fun w m => sendAdopt g m w) w
    else w) s

/-- ADOPT_TIMEOUT: the entry returns to FREE (R336). -/
def execAdoptTimeout (g : Nat) (env : Env) (s : State) : Host.Outcome State Fault Refusal :=
  run (fun w =>
    match (getGrp w g).adopting with
    | some c => done env c .timeout 0 [] (freeGroup g w)
    | none => w) s

/-- ADOPT: answered with the slot states by a member that has adopted the spare (R336). -/
def execAdopt (rx : Rx) (_env : Env) (s : State) : Host.Outcome State Fault Refusal :=
  run (formRow rx 7 (fun pk w =>
    match formFrom w pk with
    | none => w
    | some (gi, g, m) =>
      let st := (slotAt g m).state
      if msgSlot pk == m && msgCoord pk == pk.hdr.src && st == .adopted then
        formTo gi m { kind := 8, slot := m, coord := pk.hdr.src
                      body := g.members.flatMap (fun s => toLe 1 (slotCode s.state)) } w
      else w)) s

/-- ADOPTED (R336). -/
def execAdopted (rx : Rx) (env : Env) (s : State) : Host.Outcome State Fault Refusal :=
  run (formRow rx 8 (fun pk w =>
    match formFrom w pk with
    | none => w
    | some (gi, g, m) =>
      if g.adopting.isSome && msgSlot pk == g.self && msgCoord pk == w.b.lnk.coord && !g.adoptAns.any (fun a => a.1 == m) then
        let sts := (List.range 16).map (fun i => slotOfCode (fld pk.payload (32 + i) 1))
        afterChange env (spareGo env gi (modGrp gi (fun g => { g with adoptAns := g.adoptAns ++ [(m, sts)] }) w))
      else w)) s

end Sys2Proof.Machine
end

