-- ==== Sys2Proof/Machine/RegionRows.lean ====
section
/-! DEFINITION. The rows of regions: REGION_DEFINE, REGION_RETIRE, Sounding, the DESC and END notices, and DEGRADED_READ
(R141 to R154, R326, R332). -/

namespace Sys2Proof.Machine

/-! ### REGION_DEFINE (R143 to R145) -/

/-- A size in units of 64 KiB, rounded up. -/
def units64 (n : Nat) : Nat := (n + 65535) / 65536

/-- R143 for a coded region of z bytes with a fragment code, and its partner's size in units. -/
def sizesOk (g : Group) (z frag partnerUnits : Nat) : Bool :=
  decide (0 < g.k) && z % (g.k * fragSize frag) == 0 && partnerUnits == units64 (z * g.m / g.k)

/-- Does some Restripe hold a PARITY region as its provisional partner? -/
def provisional (w : W) (pi : Nat) : Bool := w.b.streams.any (fun s => s.kind == .restripe && s.partner == pi)

/-- Is a PARITY region of a context and group free to be paired? -/
def freePartner (w : W) (x gi pi : Nat) : Bool :=
  let p := getRgn w pi
  p.state != .free && p.kind == .parity && p.ctx == x && p.grp == some gi && p.partner.isNone && !provisional w pi

/-- The checks of R145, after R116: first the relations between the fields of the layout. -/
def regionCheck (w : W) (k : Cmd) : Check :=
  let base := arg k 0x10 8
  let z := 65536 * arg k 0x18 4
  let kind := (kindOfCode (arg k 0x1C 1)).getD .plain
  let gv := bit (arg k 0x23 1) 2
  let gi := arg k 0x1D 1
  let g := getGrp w gi
  let pi := arg k 0x1E 2
  let needs := codedKind kind || kind == .parity || kind == .staging
  let badGrp := g.part != k.part || g.state == .free || g.state == .forming || g.state == .broken
  let req := arg k 0x28 2
  let full := match partOfCtx? w k.ctx with
    | some p => decide ((getPart w p).regionMax < ((definedRgns w).filter (fun r => partOfCtx w r.2.ctx == p)).length + 1)
    | none => true
  firstFail
    [fieldRow (regionBad k.slot),
     deny (decide (2 ^ 48 < base + z) || (definedRgns w).any (fun r => overlap (base, z) (r.2.base, rgnBytes r.2))) 0x10,
     deny ((needs && !gv) || (gv && badGrp)) 0x11,
     deny (codedKind kind && (!freePartner w k.ctx gi pi || !sizesOk g z (arg k 0x20 1) (getRgn w pi).size)) 0x12,
     deny (kind == .staging && (stagingOf w gi).isSome) 0x13,
     deny (bit req 15 && (getRgn w (req % 0x4000)).state != .free) 0x19,
     if full || decide (16384 ≤ (definedRgns w).length) then fail .quota 1 else none]

/-- The entry is filled and paired (R145). -/
def regionDefine (env : Env) (k : Cmd) (w : W) : W :=
  let req := arg k 0x28 2
  let i := if bit req 15 then req % 0x4000
    else ((List.range 16384).find? (fun i => (getRgn w i).state == .free)).getD 0
  let kind := (kindOfCode (arg k 0x1C 1)).getD .plain
  let pi := arg k 0x1E 2
  let r : Region :=
    { state := if kind == .coded || kind == .residual then .unsounded else .active, base := arg k 0x10 8, size := arg k 0x18 4
      kind := kind, ctx := k.ctx, grp := if bit (arg k 0x23 1) 2 then some (arg k 0x1D 1) else none, frag := arg k 0x20 1
      chunk := arg k 0x21 1, elem := arg k 0x22 1, isSealed := bit (arg k 0x23 1) 0, sweepEn := bit (arg k 0x23 1) 1
      comp := arg k 0x26 1, partner := if codedKind kind then some pi else none, infmt := arg k 0x27 1
      headroom := arg k 0x25 1, width := arg k 0x24 1 }
  let w := setRgn i r w
  let w := if codedKind kind then modRgn pi (fun p => { p with partner := some i }) w else w
  done env k.id .ok 0 (toLe 2 i) w

/-- REGION_DEFINE. -/
def execRegionDefine (c : CmdId) (env : Env) (s : State) : Host.Outcome State Fault Refusal :=
  run (cmdRow c (isOp 0x10) env (fun k w => checked env k (regionCheck w k) (regionDefine env k) w) (fun _ w => w)) s

/-! ### REGION_RETIRE (R147) -/

/-- The region indices a command names. -/
def namedRgns (k : Cmd) : List Nat :=
  let idx := arg k 0x10 2 % 0x4000
  match opOf k with
  | 0x10 => if codedKind ((kindOfCode (arg k 0x1C 1)).getD .plain) then [arg k 0x1E 2 % 0x4000] else []
  | 0x11 => [idx] | 0x12 => [idx] | 0x20 => [arg k 0x18 2] | 0x30 => [idx] | 0x31 => [idx]
  | 0x33 => idx :: optIdx (arg k 0x26 2) ++ optIdx (arg k 0x28 2) ++ if bit (arg k 0x17 1) 1 then [arg k 0x2C 2 % 0x4000] else []
  | 0x34 => idx :: optIdx (arg k 0x16 2)
  | 0x35 => [idx]
  | 0x40 => (List.range (min 8 (arg k 0x11 1))).map (fun j => arg k (0x30 + 2 * j) 2 % 0x4000)
  | 0x50 => [idx] | 0x51 => [idx]
  | 0x63 => idx :: optIdx (arg k 0x14 2)
  | 0x64 => [idx]
  | _ => []

/-- Does a ring of an enabled queue pair lie in a run of bytes? -/
def ringIn (w : W) (a n : Nat) : Bool :=
  w.b.qps.any (fun q => q.2.enable && (overlap (a, n) (q.2.sqBase, 64 * 2 ^ q.2.sqLog2) || overlap (a, n) (q.2.cqBase, 32 * 2 ^ q.2.cqLog2)))

/-- The checks of R147, and of R240 for the region of a running collective of another queue. -/
def retireCheck (w : W) (k : Cmd) : Check :=
  let i := arg k 0x10 2
  let r := getRgn w i
  let inUse := w.b.cmds.any (fun e => e.id != k.id && (namedRgns e).contains i) || ringIn w r.base (rgnBytes r) || r.state == .sounding
    || (r.kind == .parity && (r.partner.isSome || provisional w i))
  firstFail
    [deny (r.state == .free) 0x14, ownRgn w k i [], deny (foreignColl w k.id.q i) 0x54, deny inUse 0x15,
     if (r.kind == .accum || r.kind == .window || r.kind == .residual) && (getWatch w k.ctx).phase != .idle then fail .watchState 0
     else none]

/-- A RETIRING context whose last region is retired is ACTIVE again (R102). -/
def retireCtx (x : Nat) (w : W) : W :=
  if (getCtx w x).state == .retiring && (rgnsOfCtx w x).isEmpty then
    logOther 3 0 0 x [0x200008 + 64 * x, 1, x] (modCtx x (fun c => { c with state := .active }) w)
  else w

/-- The entry is FREE (R147). -/
def regionRetire (env : Env) (k : Cmd) (w : W) : W :=
  let i := arg k 0x10 2
  let r := getRgn w i
  let w := if r.sweeping then dropSweep env i w else w
  let w := if r.kind == .parity then discardPartner i (fun _ => true) w else w
  let w := match r.kind == .parity, r.partner with
    | false, some p => modRgn p (fun x => { x with partner := none }) w
    | _, _ => w
  let w := setRgn i {} w
  done env k.id .ok 0 [] (kickAll (retireCtx k.ctx w))

/-- REGION_RETIRE. -/
def execRegionRetire (c : CmdId) (env : Env) (s : State) : Host.Outcome State Fault Refusal :=
  run (cmdRow c (isOp 0x11) env (fun k w => checked env k (retireCheck w k) (regionRetire env k) w) (fun _ w => w)) s

/-! ### Sounding (R151 to R154) -/

/-- The checks of R151. -/
def soundCheck (w : W) (k : Cmd) : Check :=
  let i := arg k 0x10 2
  let r := getRgn w i
  firstFail
    [ownRgn w k i [], deny (!(r.kind == .coded || r.kind == .residual) || r.state != .unsounded || r.sepoch == arg k 0x12 1) 0x17,
     if (grpOf w r).state != .whole then some { status := .memberLost } else none]

/-- Steps 1 and 2 of R152. -/
def soundStart (env : Env) (k : Cmd) (w : W) : W :=
  let i := arg k 0x10 2
  let e := arg k 0x12 1
  let w := modRgn i (fun r => { r with state := .sounding, sepoch := e, frontier := 0 }) w
  let w := startBearing i (resetPartner env (getRgn w i) w)
  let s : Stream := { kind := .sound, region := i, g := (getRgn w i).grp.getD 0, cmd := k.id, sepoch := e }
  beginSound env i (sendDescs s { w with b.streams := w.b.streams ++ [s] })

/-- REGION_SOUND. -/
def execRegionSound (c : CmdId) (env : Env) (s : State) : Host.Outcome State Fault Refusal :=
  run (cmdRow c (isOp 0x12) env (fun k w => checked env k (soundCheck w k) (soundStart env k) w) (fun _ w => w)) s

/-- SOUNDING_STREAM: the next fragment, or the end notice (R152, R154). -/
def execSoundingStream (r : Nat) (env : Env) (s : State) : Host.Outcome State Fault Refusal :=
  run (fun w =>
    match streamStep env .sound r w with
    | (.failed c f, w) => failSound env r (soundFailure c f) w
    | (_, w) => endStream .sound r w) s

/-- SOUNDING_COMPLETE: with every end notice the region is SOUNDED; the completion waits for its SOUND units (R152, R171). -/
def execSoundingComplete (r : Nat) (env : Env) (s : State) : Host.Outcome State Fault Refusal :=
  run (fun w =>
    let w := countEnds (endStream .sound r w)
    match findStream w .sound r with
    | none => w
    | some st =>
      if !(st.endSent && allEnds w st) then w
      else
        let w := setBearing r 1 (dropStream .sound r (modRgn r (fun x => { x with state := .sounded }) w))
        outcome env st.cmd { status := .ok, result := toLe 8 st.next } (kickAll w)) s

/-- SOUNDING_TIMEOUT (R154). -/
def execSoundingTimeout (r : Nat) (env : Env) (s : State) : Host.Outcome State Fault Refusal :=
  run (fun w =>
    match findStream w .sound r with
    | some st => if !allDescs w st || (st.endSent && !allEnds w st) then failSound env r { status := .timeout } w else w
    | none => w) s

/-! ### DESC and END (R152, R153) -/

/-- Streams that were waiting for descriptors or end notices of a group go on. -/
def streamsGo (env : Env) (gi : Nat) (w : W) : W :=
  (w.b.streams.filter (fun s => s.g == gi || s.oldG == gi)).foldl (fun w s => match s.kind with
    | .sound => beginSound env s.region w
    | .encode => beginEncode env (getRgn w s.region).ctx w
    | .restripe => advanceRestripe env s.region w) w

/-- The DELTA numbers of a descriptor that mark an earlier attempt's packets: by stream (R153). -/
def addCutoffs (gi : Nat) (g : Group) (m : Nat) (body : Bytes) (w : W) : W :=
  let base := fld body 16 8
  ((List.range 5).zip (seqFields body 36)).foldl (fun w x =>
    let stream := if x.1 = 0 then none else some (g.mcast + subMod g.self (x.1 - 1) g.n)
    match x.2 with
    | none => w
    | some n => { w with b.cutoffs := w.b.cutoffs.filter (fun c => !(c.1 == gi && c.2.1 == m && c.2.2.1 == base && c.2.2.2.1 == stream))
                                        ++ [(gi, m, base, stream, n)] }) w

/-- DESC: the latest of its sender for the region is held, and the sender's earlier deltas are discarded (R152, R153). -/
def execDesc (rx : Rx) (env : Env) (s : State) : Host.Outcome State Fault Refusal :=
  run (formRow rx 1 (fun pk w =>
    match formFrom w pk with
    | none => w
    | some (gi, g, m) =>
      if !senderLive g m then w
      else
        let body := bytesAt pk.payload 32 56
        let base := fld body 0 8
        let w := match (codedByBase w gi base).bind (fun x => x.2.partner) with
          | some pi => discardPartner pi (fun i => i == m) w
          | none => w
        let d : DescHeld := { g := gi, src := m, base := base, sepoch := fld pk.payload 0xB 1, body := body, seqs := seqFields body 36 }
        let w := { w with b.descs := w.b.descs.filter (fun x => !(x.g == gi && x.src == m && x.base == base)) ++ [d] }
        streamsGo env gi (addCutoffs gi g m body w))) s

/-- END: held until its packet has arrived, then counted (R152). -/
def execEndNotice (rx : Rx) (env : Env) (s : State) : Host.Outcome State Fault Refusal :=
  run (formRow rx 2 (fun pk w =>
    match formFrom w pk with
    | none => w
    | some (gi, g, m) =>
      if !senderLive g m then w
      else
        let x := fld pk.payload 32 4
        let e : EndHeld := { g := gi, src := m, sepoch := fld pk.payload 0xB 1
                             seq := if x.testBit 31 then some (x % 2 ^ 24) else none }
        streamsGo env gi (countEnds { w with b.ends := w.b.ends ++ [e] }))) s

/-! ### DEGRADED_READ (R332) -/

/-- The checks of R332; a range beyond the region is refused as they are. -/
def degradedCheck (w : W) (k : Cmd) : Check :=
  let i := arg k 0x10 2
  let r := getRgn w i
  let g := grpOf w r
  let j := arg k 0x12 1
  let n := arg k 0x20 8
  firstFail
    [ownRgn w k i [.coded, .residual],
     deny (!(j == g.self || (decide (j < g.n) && slotOut (slotAt g j).state)) || r.state != .sounded || !inPlain w k.ctx (arg k 0x28 8) n
       || decide (rgnBytes r < arg k 0x18 8 + n)) 0x98]

/-- The next line of a DEGRADED_READ: its decoded bytes go to DST, and the fetch of the line after it begins. -/
def degradedGo (env : Env) (k : Cmd) (w : W) : W :=
  let n := arg k 0x20 8 / 64
  let dst := arg k 0x28 8 + 64 * k.prog
  let start := fun (i : Nat) (w : W) =>
    let ri := arg k 0x10 2
    let r := getRgn w ri
    let g := grpOf w r
    let j := arg k 0x12 1
    let (s, _, l) := stripeOf g r j (arg k 0x18 8 + 64 * i)
    if n ≤ i then done env k.id .okDegraded 0 (toLe 8 (64 * i)) w
    else if w.b.fetches.any (fun o => o.why == .cmd k.id) then w
    else match startFetch (.cmd k.id) (r.grp.getD 0) ri s l 1 j w with
      | (some _, w) => w
      | (none, w) => done env k.id .memberLost 0 (toLe 8 (64 * i)) w
  match tfind k.patch dst with
  | none => start k.prog w
  | some d =>
    if !linesFree w dst 64 then flushLines dst 64 w
    else
      let (c, w) := writeLine (seAcc env k.ctx) dst d w
      if c != .ok then done env k.id (rspStatus c) 0 (toLe 8 (64 * k.prog)) w
      else start (k.prog + 1) (kickAll (modCmd k.id (fun k => { k with prog := k.prog + 1, patch := [] }) w))

/-- DEGRADED_READ. -/
def execDegradedRead (c : CmdId) (env : Env) (s : State) : Host.Outcome State Fault Refusal :=
  run (cmdRow c (isOp 0x64) env (fun k w => checked env k (degradedCheck w k) (degradedGo env k) w) (degradedGo env)) s

end Sys2Proof.Machine
end

