-- ==== Sys2Proof/Machine/Relight.lean ====
section
/-! DEFINITION. Relight: the spare's request, the state transfer with its answers, the stripes it rebuilds, and its end
(R338 to R348). -/

namespace Sys2Proof.Machine

/-- Codes of the Watch phases (R194). -/
def phaseCode : Phase → Nat
  | .idle => 0 | .opened => 1 | .polling => 2 | .polled => 3 | .encoding => 4 | .window => 5 | .skip => 6 | .closing => 7

def modRelight (gi : Nat) (f : Relight → Relight) (w : W) : W := modGrp gi (fun g => { g with relight := g.relight.map f }) w

/-- Send a Relight message about the own slot (R326). -/
def rlMsg (gi kind m : Nat) (body : Bytes) (w : W) : W :=
  formTo gi m { kind := kind, slot := (getGrp w gi).self, coord := w.b.lnk.coord, body := body } w

/-- The Relight ends without success: RL_CANCEL to the members that accepted, and the outcome (R339, R345). -/
def failRelight (env : Env) (gi : Nat) (o : Outc) (w : W) : W :=
  match (getGrp w gi).relight with
  | none => w
  | some rl =>
    let w := rl.accepted.foldl (fun w m => rlMsg gi 12 m [] w) w
    complete env false rl.cmd o (leaveRelighting gi (relightOff gi w))

/-! ### RELIGHT_START (R338, R339) -/

/-- The coded regions of a context that name a group. -/
def codedOf (w : W) (x gi : Nat) : List (Nat × Region) :=
  (rgnsOfCtx w x).filter (fun r => codedKind r.2.kind && r.2.grp == some gi)

/-- The checks of R338 that need no answer. -/
def relightCheck (w : W) (k : Cmd) : Check :=
  let gi := arg k 0x10 1
  let g := getGrp w gi
  let bad := (codedOf w k.ctx gi).any (fun r => r.2.partner.isNone || (r.2.kind != .window && r.2.state != .unsounded))
    || (stagingOf w gi).isNone
  firstFail [ownGrp w k gi, deny (g.state != .degraded || (slotAt g g.self).state != .adopted) 0x94, deny bad 0x95]

/-- RL_BEGIN goes to every member held ALIVE or SUSPECT, and the group is RELIGHTING. -/
def relightGo (k : Cmd) (w : W) : W :=
  let gi := arg k 0x10 1
  let g := getGrp w gi
  let ask := (others g).filter (fun m => (slotAt g m).state == .alive || (slotAt g m).state == .suspect)
  let us := arg k 0x12 2
  let rl : Relight := { cmd := k.id, fetchUs := if us = 0 then 200 else us, waiting := ask }
  let w := modGrp gi (fun g => { g with state := .relighting, rlSlot := g.self, rlPhase := 1, rlDone := 0, rlFront := (0, 0)
                                        relight := some rl, relightBegun := true }) w
  ask.foldl (fun w m => rlMsg gi 9 m [] w) (noteState gi w)

/-! ### Stripes (R341 to R344) -/

/-- Insert a region into a list by rising base. -/
def insertBase (w : W) (i : Nat) : List Nat → List Nat
  | [] => [i]
  | j :: t => if (getRgn w i).base < (getRgn w j).base then i :: j :: t else j :: insertBase w i t

/-- Start a stripe on an engine; with too few members ALIVE it waits for the restart of R330. -/
def relightOp (gi ri s : Nat) (w : W) : W :=
  let g := getGrp w gi
  let few := decide ((candidates g s g.self false).length < g.k)
  let o : FetchOp := { id := w.b.nextFetch, why := .relight ri s, g := gi, region := ri, stripe := s, line := 0
                       lines := fragSize (getRgn w ri).frag / 64, target := g.self, queued := !few, waiting := few
                       order := w.b.nextFetch }
  assignEngines 8 { w with b.fetches := w.b.fetches ++ [o], b.nextFetch := w.b.nextFetch + 1 }

/-- GRP_RLFRONT shows the lowest stripe in progress (R341). -/
def showFront (gi : Nat) (w : W) : W :=
  match (getGrp w gi).relight with
  | none => w
  | some rl => match rl.regions with
    | [] => w
    | ri :: _ => modGrp gi (fun g => { g with rlFront := (ri, rl.active.foldl (fun m a => min m a.2) rl.next) }) w

/-- Start stripes, at most 8 in progress, in ascending order; the next region follows when a region's stripes are done. -/
def startStripes (gi : Nat) : Nat → W → W
  | 0, w => w
  | n + 1, w =>
    let g := getGrp w gi
    match g.relight with
    | none => w
    | some rl => match rl.regions with
      | [] => w
      | ri :: rest =>
        if numStripes g (getRgn w ri) ≤ rl.next then
          if rl.active.isEmpty then startStripes gi n (modRelight gi (fun r => { r with regions := rest, next := 0 }) w) else w
        else if 8 ≤ rl.active.length then w
        else
          let w := modRelight gi (fun r => { r with next := rl.next + 1, active := rl.active ++ [(ri, rl.next)] }) w
          startStripes gi n (relightOp gi ri rl.next w)

/-- An ADOPTED slot is ALIVE again, with its event (R318). -/
def nowAlive (gi j : Nat) (w : W) : W :=
  let w := modGrp gi (fun g => { g with members := g.members.set j { slotAt g j with state := .alive } }) w
  logOther 14 0 gi (getGrp w gi).ctx [0xA0008 + 256 * gi, 5, j] w

/-- The Relight has no stripe left: regions SOUNDED and VALID, RL_END, the own slot ALIVE, the completion (R345). -/
def relightEnd (env : Env) (gi : Nat) (w : W) : W :=
  let g := getGrp w gi
  match g.relight with
  | none => w
  | some rl =>
    if !rl.regions.isEmpty || g.rlPhase != 3 then w
    else
      let w := (rgnsOfGrp w gi).foldl (fun w r =>
        if codedKind r.2.kind && r.2.bvalid = 2 then
          modRgn r.1 (fun x => { x with bvalid := 1, state := if x.kind == .window then x.state else .sounded }) w
        else w) w
      let w := (liveOthers g).foldl (fun w m => rlMsg gi 11 m (toLe 8 g.rlDone) w) w
      let w := nowAlive gi g.self (modGrp gi (fun g => { g with relight := none }) w)
      let w := leaveRelighting gi w
      let st := if (getGrp w gi).state == .whole then Status.ok else .okDegraded
      afterChange env (done env rl.cmd st 0 (toLe 8 g.rlDone ++ toLe 8 rl.bytes) w)

/-- Go on with the stripes of a Relight. -/
def relightNext (env : Env) (gi : Nat) (w : W) : W :=
  let n := ((getGrp w gi).relight.map (·.regions.length)).getD 0
  relightEnd env gi (showFront gi (startStripes gi (n + 9) w))

/-- The stream of a member that carries a stripe (R89). -/
def stripeStream (w : W) (g : Group) (s : Nat) : Option Nat :=
  if w.b.lnk.mcastEn && g.mcast != 0 then some (g.mcast + s % g.n) else none

/-- What a data member reported for the holder with parity index p (R342). -/
def reportedSeq (o : FetchOp) (src p : Nat) : Option Nat :=
  ((o.answers.find? (fun a => a.member == src && a.role == 0)).bind (fun a => a.seqh.getD p none))

/-- Every DELTA packet up to the reported numbers has arrived or is lost (R342). -/
def heldUpTo (w : W) (o : FetchOp) (g : Group) (p : Nat) : Bool :=
  (o.answers.filter (fun a => a.role == 0)).all (fun a => match a.seqh.getD p none with
    | none => true
    | some n => reached w (slotAt g a.member).coord (stripeStream w g o.stripe) 1 n)

/-- The XOR of the held deltas of a parity line that lie in packets up to the reported numbers and whose unit is not marked
applied (R344). -/
def heldXor (w : W) (o : FetchOp) (g : Group) (p a : Nat) (l : Bytes) : Bytes :=
  let es := w.b.pool.filter (fun e => e.g == o.g && !e.applied)
  es.foldl (fun (l : Bytes) e => match reportedSeq o e.src p with
    | none => l
    | some n => (e.pkts.filter (fun k => decide (seqAhead k.seq n < 2 ^ 23))).foldl (fun (l : Bytes) k =>
        (k.lines.filter (fun x => x.1 == a)).foldl (fun (l : Bytes) x =>
          xorBytes l (gfScale (coef g.m p (roleOf g.n g.m e.src o.stripe).2) x.2)) l) l) l

/-- Write the lines of the spare's fragment: the decoded data, which enter the running Bearing, or the parity less the held
deltas (R344). -/
def writeStripe (env : Env) (o : FetchOp) (ri : Nat) : Nat → W → Rsp × W
  | 0, w => (.ok, w)
  | n + 1, w =>
    let (c0, w) := writeStripe env o ri n w
    let g := getGrp w o.g
    let role := roleOf g.n g.m g.self o.stripe
    let r := getRgn w ri
    let a := roleAddr g r (partnerOf w r) role o.stripe n
    let d := (decodedLine w o n).getD (zeros 64)
    if role.1 then
      let (c, w) := writeLine (relightAcc env r.ctx) a d w
      (worse c0 c, bearingDelta ri a d w)
    else
      let (c, w) := writeLine (relightAcc env r.ctx) a (heldXor w o g role.2 a d) w
      (worse c0 c, w)

/-- The frontier passes a stripe: its hold references go, and rebuilds that waited for it are made (R344, R173). -/
def passStripe (env : Env) (gi ri s : Nat) (w : W) : W :=
  let g := getGrp w gi
  let r := getRgn w ri
  let role := roleOf g.n g.m g.self s
  let w := modRelight gi (fun rl => { rl with active := rl.active.filter (fun a => a != (ri, s))
                                              bytes := rl.bytes + g.k * fragSize r.frag }) w
  let w := modGrp gi (fun g => { g with rlDone := g.rlDone + 1 }) w
  if role.1 then w
  else
    let a := roleAddr g r (partnerOf w r) role s 0
    let w := (w.b.pool.filter (fun e => e.g == gi && e.frag == a && e.onFrontier)).foldl (fun w e => dropFrontierRef e w) w
    rebuildLines env gi (g.deferred.filter (fun l => decide (a ≤ l) && decide (l < a + fragSize r.frag))) w

/-- A stripe of a Relight has its answers: its fragment is written, once the ports can grant it (R22, R342, R344, R376). -/
def stripeDone (env : Env) (id : Nat) (w : W) : W :=
  match findOp w id with
  | none => w
  | some o => match o.why with
    | .relight ri s =>
      let g := getGrp w o.g
      let role := roleOf g.n g.m g.self s
      let a := roleAddr g (getRgn w ri) (partnerOf w (getRgn w ri)) role s 0
      if !opReady w o || (!role.1 && !heldUpTo w o g role.2) then w
      else if !linesFree w a (64 * o.lines) then flushLines a (64 * o.lines) w
      else
        let (c, w) := writeStripe env o ri o.lines w
        if c != .ok then failRelight env o.g { status := rspStatus c } w
        else
          let w := cntGlb 0x10 1 (assignEngines 8 (dropOp id w))
          relightNext env o.g (passStripe env o.g ri s w)
    | _ => w

/-! ### The state transfer (R340) -/

/-- Send a FETCH of the state transfer to the lowest ALIVE member. -/
def askState (gi : Nat) (f : StateFetch) (w : W) : W :=
  let g := getGrp w gi
  let r := getRgn w f.region
  let arg := match f.kind with | 3 => g.self | 5 => f.first | _ => 0
  let put := fun (f : StateFetch) (w : W) => modRelight gi (fun rl => { rl with fetches := rl.fetches ++ [f] }) w
  match (others g).find? (fun m => (slotAt g m).state == .alive) with
  | none => put { f with id := w.b.nextReq, data := [] } { w with b.nextReq := w.b.nextReq + 1 }
  | some m =>
    let (id, w) := sendFetch g m f.kind 0 r.sepoch 0 f.lines (if f.kind = 6 then 0 else r.base) arg [] (f.kind != 6 && r.isSealed) w
    put { f with id := id, member := m, data := [] } w

/-- The first FETCHes of a state transfer. -/
def stateFetches (w : W) (x gi : Nat) : List StateFetch :=
  let f := fun (kind ri lines : Nat) => ({ id := 0, kind := kind, region := ri, member := 0, lines := lines } : StateFetch)
  let cs := (codedOf w x gi).map (·.1)
  let as_ := ((rgnsOfCtx w x).filter (fun r => r.2.kind == .accum && r.2.grp == some gi)).map (·.1)
  (cs ++ as_).map (fun i => f 4 i 1) ++ [f 6 0 1]
    ++ (as_.filter (fun i => decide (0 < tilesOf (getRgn w i)))).map (fun i => f 5 i (min 1024 (tilesOf (getRgn w i))))
    ++ cs.map (fun i => f 3 i 1024)

/-- The rebuild begins: every coded region inside the cover streams its Bearing from 0 (R217, R341). -/
def startRebuild (env : Env) (gi : Nat) (w : W) : W :=
  match (getGrp w gi).relight with
  | none => w
  | some rl =>
    match findCmd w rl.cmd with
    | none => w
    | some k =>
      let cs := ((codedOf w k.ctx gi).filter (fun r => r.2.kind != .window || r.2.window)).map (·.1)
      let w := cs.foldl (fun w i => startBearing i w) w
      let order := cs.foldl (fun l i => insertBase w i l) []
      relightNext env gi (modRelight gi (fun r => { r with regions := order, next := 0 })
        (modGrp gi (fun g => { g with rlPhase := 3 }) w))

/-- What a STATE answer sets; none when it differs from the spare's own definition (R338, R340). -/
def takeState (ri : Nat) (l : Bytes) (w : W) : Option W :=
  let r := getRgn w ri
  if (l.drop 4).take 16 != (descHead r (partnerOf w r) 0 0).take 16 then none
  else some (modRgn ri (fun r => { r with sepoch := fld l 0 1, window := bit (fld l 1 1) 0, bank := fld l 2 1
                                          margin := fld l 3 1 }) w)

/-- An instance in 8 bytes: w in bits [47:0], a in bits [55:48]; 0 is none. -/
def instBytes : Option (Nat × Nat) → Bytes
  | none => zeros 8
  | some (n, a) => toLe 6 n ++ toLe 1 a ++ [0]
def instOf (l : Bytes) (off : Nat) : Option (Nat × Nat) := if fld l off 6 = 0 then none else some (fld l off 6, fld l (off + 6) 1)

/-- What a WATCH answer sets on the spare's context: the survivors' instance as its last abandoned one, or, inside the
window, the window itself (R347, R348). The Relight of a further group finds the spare in that instance already: only that group
joins what the instance notes (R201, R213). -/
def takeWatch (x gi : Nat) (l : Bytes) (w : W) : W :=
  let g := getGrp w gi
  let phase := fld l 0 1
  let closed := fld l 8 8 % 2 ^ 48
  let cur := instOf l 16
  if phase = 5 || phase = 7 then
    let rec_ := ((rgnsOfCtx w x).find? (fun r => r.2.kind == .record)).map (·.1)
    let i := cur.getD (0, 0)
    let k := getWatch w x
    let upd : Watch :=
      { phase := .window, w := i.1, a := i.2, lastClosed := closed, lastAbandoned := instOf l 24, verdict := k.verdict
        recSeq := k.recSeq, flags := fld l 1 1, rounds := fld l 2 1, wdom := g.wdom, record := rec_.getD 0
        peers := domPeers w g.wdom, relit := true, rolled := [gi], adoptMask := [(gi, 1 <<< g.self)], sawRelighting := [gi]
        sawDegraded := [gi], coded := bit (fld l 1 1) 0
        runBase := (getCtx w x).runsFetched }
    if (k.phase == .window || k.phase == .closing) && k.w == i.1 && k.a == i.2 then
      modWatch x (fun k => { k with relit := true, rolled := insertNat k.rolled gi
                                    adoptMask := (k.adoptMask.filter (fun a => a.1 != gi)) ++ [(gi, 1 <<< g.self)]
                                    sawRelighting := insertNat k.sawRelighting gi, sawDegraded := insertNat k.sawDegraded gi }) w
    else { (modWatch x (fun _ => upd) w) with b.wdoms := tset w.b.wdoms g.wdom x }
  else
    let last := if phase = 0 then instOf l 24 else cur
    modWatch x (fun k => { k with lastClosed := closed, lastAbandoned := last }) w

/-- Install the commit-map records of a MAP answer as the own slot's entries (R174, R340). -/
def takeMap (gi : Nat) : Nat → Bytes → W → W
  | 0, _, w => w
  | n + 1, b, w =>
    let e : MapEntry := { src := (getGrp w gi).self, g := gi, base := fld b 0 8, watch := fld b 8 8, run := fld b 16 2
                          first := fld b 24 8, count := fld b 32 8, low := fld b 40 8, win := BitVec.ofNat 128 (fld b 48 16) }
    let same := fun (x : MapEntry) => x.src == e.src && x.g == gi && x.base == e.base && x.watch == e.watch && x.run == e.run
    let w := if w.b.maps.any same then { w with b.maps := mapIf same (fun _ => e) w.b.maps }
      else if w.b.maps.length < 4096 then { w with b.maps := w.b.maps ++ [e] } else w
    takeMap gi n (b.drop 64) w

/-- Tile-state lines of a TILES answer: ANCHOR kept, the rest cleared as ACCUM_CLEAR clears it (R340). -/
def takeTiles (env : Env) (ri : Nat) : Nat → Nat → Bytes → W → Rsp × W
  | 0, _, _, w => (.ok, w)
  | n + 1, t, b, w =>
    let acc := relightAcc env (getRgn w ri).ctx
    let (c0, w) := zeroTiles acc ri 0 1 t w
    let (c, w) := writeLine acc (stateAt (getRgn w ri) 0 t) (tileBytes (clearedTile (tileOf (b.take 64)).anchor)) w
    let (c2, w) := takeTiles env ri n (t + 1) (b.drop 64) w
    (worse c0 (worse c c2), w)

/-- Lines of a full copy of an ACCUM region; the flags of its tile-state lines are counted (R231, R340). -/
def takeRaw (env : Env) (ri : Nat) : Nat → Nat → Bytes → W → Rsp × W
  | 0, _, _, w => (.ok, w)
  | n + 1, i, b, w =>
    let r := getRgn w ri
    let a := r.base + 64 * i
    let (c, w) := writeLine (relightAcc env r.ctx) a (b.take 64) w
    let w := if c == .ok && decide (stateAt r 0 0 ≤ a) then noteTile ri {} (tileOf (b.take 64)) w else w
    let (c2, w) := takeRaw env ri n (i + 1) (b.drop 64) w
    (worse c c2, w)

/-- A TILES answer is complete: it is stored, and the next part is asked for: more tile-state lines, or, when every tile is
GATHERED, the lines of the whole region, named from the tile count on (R340, log entry 31). -/
def tilesDone (env : Env) (gi : Nat) (f : StateFetch) (w : W) : Rsp × W :=
  let r := getRgn w f.region
  let n := tilesOf r
  let all := rgnBytes r / 64
  let ask := fun (first lines : Nat) (gathered : Bool) (w : W) =>
    askState gi { f with first := first, lines := lines, gathered := gathered } w
  if f.first < n then
    let w := if f.first = 0 then modRgn f.region (fun r => { r with rangeTiles := 0, nonfiniteTiles := 0 }) w else w
    let (c, w) := takeTiles env f.region f.lines f.first f.data w
    let g := f.gathered && (toLines f.data f.lines).all (fun l => (tileOf l).flags.testBit 5)
    let next := f.first + f.lines
    (c, if next < n then ask next (min 1024 (n - next)) g w else if g then ask n (min 1024 all) true w else w)
  else
    let (c, w) := takeRaw env f.region f.lines (f.first - n) f.data w
    let next := f.first + f.lines
    (c, if next < n + all then ask next (min 1024 (n + all - next)) true w else w)

/-- Is a FETCH of the state transfer answered in full? -/
def stateFull (f : StateFetch) : Bool := f.kind != 3 && decide (64 * f.lines ≤ f.data.length)

/-- The runs of lines that the answer to a TILES FETCH is stored in. -/
def tileRuns (w : W) (f : StateFetch) : List (Nat × Nat) :=
  let r := getRgn w f.region
  let n := tilesOf r
  if f.kind != 5 then []
  else if f.first < n then [(elemAt r 0 (4096 * f.first), 4096 * esOf r * f.lines), (stateAt r 0 f.first, 64 * f.lines)]
  else [(r.base + 64 * (f.first - n), 64 * f.lines)]

/-- A FETCH of the state transfer is answered in full (R340). -/
def stateDone (env : Env) (gi : Nat) (f : StateFetch) (w : W) : W :=
  match (getGrp w gi).relight.bind (fun rl => findCmd w rl.cmd) with
  | none => w
  | some k =>
    let w := modRelight gi (fun rl => { rl with fetches := rl.fetches.filter (fun x => x.id != f.id) }) w
    let (o, w) : Option Outc × W := match f.kind with
      | 4 => match takeState f.region f.data w with
        | none => (some { status := .denied, info := 0x96 }, w)
        | some w => (none, w)
      | 6 => (none, takeWatch k.ctx gi f.data w)
      | 3 => (none, takeMap gi (f.data.length / 64) f.data w)
      | _ =>
        let (c, w) := tilesDone env gi f w
        (if c == .ok then none else some { status := rspStatus c }, w)
    match o with
    | some o => failRelight env gi o w
    | none =>
      if ((getGrp w gi).relight.map (·.fetches.isEmpty)).getD false then startRebuild env gi w else w

/-- The answer of a TILES FETCH waits for the ports to grant its lines (R22, R376). -/
def stateStore (env : Env) (gi : Nat) (f : StateFetch) (w : W) : W :=
  match (tileRuns w f).find? (fun a => !linesFree w a.1 a.2) with
  | some a => flushLines a.1 a.2 w
  | none => stateDone env gi f w

/-- Answers that waited for the ports are stored. -/
def stateResume (env : Env) (w : W) : W :=
  w.b.grps.foldl (fun w x => match x.2.relight with
    | none => w
    | some rl => (rl.fetches.filter stateFull).foldl (fun w f => stateStore env x.1 f w) w) w

/-- A FETCH_RSP of the state transfer: its lines are taken in order; a refused STATE ends the command, another refusal or a
POISON leaves its FETCH to be asked again (R331, R338, R340). -/
def stateRsp (env : Env) (gi m : Nat) (p : Bytes) (w : W) : W :=
  match ((getGrp w gi).relight.map (·.fetches)).getD [] |>.find? (fun f => f.id == fld p 0 8 && f.member == m) with
  | none => w
  | some f =>
    if fld p 8 1 != 0 then if f.kind = 4 then failRelight env gi { status := .denied, info := 0x96 } w else w
    else if fld p 0xA 2 != f.data.length / 64 then w
    else
      let n := fld p 0xC 2
      let f := { f with data := f.data ++ bytesAt p 32 (64 * n) }
      let w := modRelight gi (fun rl => { rl with fetches := mapIf (fun x => x.id == f.id) (fun _ => f) rl.fetches }) w
      if (if f.kind = 3 then decide (n < 63) else stateFull f) then stateStore env gi f w else w

/-! ### The responder of the state transfer (R331, R340) -/

/-- The context a member has on the domain of a group: the one that last opened an instance, else the owner of a region of
the group, else the group's own. -/
def domCtx (w : W) (gi : Nat) : Nat :=
  let g := getGrp w gi
  (tfind w.b.wdoms g.wdom).getD ((((rgnsOfGrp w gi).head?).map (·.2.ctx)).getD g.ctx)

/-- A STATE answer. -/
def answerState (gi m : Nat) (p : Bytes) (w : W) : W :=
  let g := getGrp w gi
  match stateRgn w gi (fld p 0x10 6) (fun k => codedKind k || k == .accum) with
  | none => refuseFetch g m (fld p 0 8) 2 false w
  | some (_, r) =>
    let l := toLe 1 r.sepoch ++ toLe 1 (b2n r.window) ++ toLe 1 r.bank ++ toLe 1 r.margin ++ descHead r (partnerOf w r) 0 0 ++ zeros 20
    sendRsp g m (fld p 0 8) 0 [] r.isSealed 1 0 (padTo 64 l) w

/-- A WATCH answer. -/
def answerWatch (gi m : Nat) (p : Bytes) (w : W) : W :=
  let k := getWatch w (domCtx w gi)
  let inst := if k.phase == .idle then none else some (k.w, k.a)
  let l := toLe 1 (phaseCode k.phase) ++ toLe 1 k.flags ++ toLe 1 k.rounds ++ zeros 5 ++ toLe 8 k.lastClosed ++ instBytes inst
    ++ instBytes k.lastAbandoned
  sendRsp (getGrp w gi) m (fld p 0 8) 0 [] false 1 0 (padTo 64 l) w

/-- A commit-map record (R331). -/
def mapRecord (e : MapEntry) : Bytes :=
  toLe 8 e.base ++ toLe 8 e.watch ++ toLe 2 e.run ++ zeros 6 ++ toLe 8 e.first ++ toLe 8 e.count ++ toLe 8 e.low
    ++ toLe 16 e.win.toNat

/-- A MAP answer: the records of a source slot and region for the open instance; it ends with the first packet of fewer than
63 lines. -/
def answerMap (gi m : Nat) (p : Bytes) (w : W) : W :=
  let g := getGrp w gi
  let base := fld p 0x10 6
  match stateRgn w gi base codedKind with
  | none => refuseFetch g m (fld p 0 8) 2 false w
  | some (_, r) =>
    let n := openWatch w (domCtx w gi)
    let es := w.b.maps.filter (fun e => e.g == gi && e.src == fld p 0x18 1 % 16 && e.base == base && e.watch == n && n != 0)
    let w := sendRsp g m (fld p 0 8) 0 [] r.isSealed 66 0 (es.flatMap mapRecord) w
    if es.length % 63 = 0 && es.length != 0 then sendRsp g m (fld p 0 8) 0 [] r.isSealed 1 es.length [] w else w

end Sys2Proof.Machine
end

