-- ==== Sys2Proof/Machine/RelightRows.lean ====
section
/-! DEFINITION. The rows of Relight, Restripe and fetches: the commands with their timers and messages, FETCH and FETCH_RSP,
deadlines, degraded reads, parity rebuilds and the parity scrub (R56 to R58, R173, R330 to R353, R424). -/

namespace Sys2Proof.Machine

/-! ### Relight (R338 to R346) -/

/-- RELIGHT_START. -/
def execRelightStart (c : CmdId) (env : Env) (s : State) : Host.Outcome State Fault Refusal :=
  run (cmdRow c (isOp 0x62) env (fun k w => checked env k (relightCheck w k) (relightGo k) w) (fun _ w => w)) s

/-- RELIGHT_STATE_TRANSFER: once every live member has accepted, the state is fetched; what is not answered yet is fetched
again (R340). -/
def execRelightStateTransfer (g : Nat) (env : Env) (s : State) : Host.Outcome State Fault Refusal :=
  run (fun w =>
    let x := getGrp w g
    match x.relight with
    | none => w
    | some rl =>
      if !rl.waiting.isEmpty || 2 < x.rlPhase then w
      else
        let w := stateResume env w
        let rl := ((getGrp w g).relight).getD rl
        let fs := if x.rlPhase = 1 then
            (match findCmd w rl.cmd with | some k => stateFetches w k.ctx g | none => [])
          else rl.fetches.filter (fun f => !stateFull f)
        let w := modGrp g (fun g => { g with rlPhase := if g.rlPhase ≤ 2 then 2 else g.rlPhase
                                             relight := g.relight.map (fun r => { r with fetches := r.fetches.filter stateFull }) }) w
        if x.rlPhase = 1 && fs.isEmpty then startRebuild env g w else fs.foldl (fun w f => askState g f w) w) s

/-- RELIGHT_STRIPE_DONE (R344, R345). -/
def execRelightStripeDone (op : Nat) (env : Env) (s : State) : Host.Outcome State Fault Refusal := run (stripeDone env op) s

/-- RELIGHT_TIMEOUT (R345). -/
def execRelightTimeout (g : Nat) (env : Env) (s : State) : Host.Outcome State Fault Refusal :=
  run (failRelight env g { status := .timeout }) s

/-- RL_BEGIN: accepted when every out slot is settled and nothing else runs (R339). -/
def execRlBegin (rx : Rx) (_env : Env) (s : State) : Host.Outcome State Fault Refusal :=
  run (formRow rx 9 (fun pk w =>
    match formFrom w pk with
    | none => w
    | some (gi, g, m) =>
      if msgSlot pk != m || (slotAt g m).state != .adopted then w
      else
        let busy := g.state == .relighting || g.state == .restriping || w.b.streams.any (fun s => s.kind == .restripe && (s.g == gi || s.oldG == gi))
        let code := if g.state == .broken then 3 else if busy then 1 else if !allSettled g then 2 else 0
        let w := formTo gi m { kind := 10, slot := m, code := code, coord := pk.hdr.src } w
        if code != 0 then w
        else noteState gi (modGrp gi (fun g => { g with state := .relighting, rlSlot := m, rlPhase := 4 }) w))) s

/-- RL_ANSWER: a refusal cancels the Relight; an acceptance that nobody waits for is cancelled (R339). -/
def execRlAnswer (rx : Rx) (env : Env) (s : State) : Host.Outcome State Fault Refusal :=
  run (formRow rx 10 (fun pk w =>
    match formFrom w pk with
    | none => w
    | some (gi, g, m) =>
      let code := fld pk.payload 0xA 1
      if msgSlot pk != g.self || msgCoord pk != w.b.lnk.coord then w
      else match g.relight with
        | none => if code = 0 then rlMsg gi 12 m [] w else w
        | some rl =>
          if !rl.waiting.contains m then w
          else if code = 0 then
            modRelight gi (fun r => { r with waiting := r.waiting.filter (fun x => x != m), accepted := r.accepted ++ [m] }) w
          else failRelight env gi { status := .denied, info := 0x97, result := toLe 1 code } w)) s

/-- RL_END: the slot is ALIVE, RELIGHTING is left, and unknown lines are rebuilt (R173, R345). -/
def execRlEnd (rx : Rx) (env : Env) (s : State) : Host.Outcome State Fault Refusal :=
  run (formRow rx 11 (fun pk w =>
    match formFrom w pk with
    | none => w
    | some (gi, g, m) =>
      if msgSlot pk != m || (slotAt g m).state != .adopted then w
      else
        let w := leaveRelighting gi (nowAlive gi m w)
        afterChange env (rebuildLines env gi (getGrp w gi).unknown w))) s

/-- RL_CANCEL (R339). -/
def execRlCancel (rx : Rx) (_env : Env) (s : State) : Host.Outcome State Fault Refusal :=
  run (formRow rx 12 (fun pk w =>
    match formFrom w pk with
    | none => w
    | some (gi, g, m) => if g.relight.isNone && g.rlSlot == m && msgSlot pk == m then leaveRelighting gi w else w)) s

/-! ### Restripe (R349 to R353) -/

/-- The checks of R350; a member of the old group only has no entry of the new one to check. A region that names the new group is
SOUNDED where the Restripe stays within its group, and UNSOUNDED where this member only joins. -/
def restripeCheck (w : W) (k : Cmd) : Check :=
  let i := arg k 0x10 2
  let r := getRgn w i
  let gi := r.grp.getD 0
  let ng := arg k 0x12 1
  let only := arg k 0x14 2 = 0xFFFF
  let g := getGrp w gi
  let g' := getGrp w ng
  let joins := r.grp == some ng
  let bad := !only && (g'.state != .whole || g.wdom != g'.wdom || g.part != g'.part)
  firstFail
    [ownRgn w k i [],
     deny (!(r.kind == .coded || r.kind == .residual) || !(r.state == .sounded || (joins && r.state == .unsounded))) 0x9A,
     deny (g.state != .whole || g.part != k.part || bad) 0x9B,
     deny (if only then joins
           else !freePartner w k.ctx ng (arg k 0x14 2) || !sizesOk g' (rgnBytes r) (arg k 0x13 1) (getRgn w (arg k 0x14 2)).size) 0x9C]

/-- Every other member of both groups this member can name: group and member index. -/
def restripePeers (w : W) (s : Stream) : List (Nat × Nat) :=
  (others (getGrp w s.g)).map (fun m => (s.g, m)) ++ (oldOnly w s).map (fun m => (s.oldG, m))

/-- Step 1 of R351. -/
def restripeGo (env : Env) (k : Cmd) (w : W) : W :=
  let i := arg k 0x10 2
  let gi := (getRgn w i).grp.getD 0
  let only := arg k 0x14 2 = 0xFFFF
  let s : Stream := { kind := .restripe, region := i, g := if only then gi else arg k 0x12 1, cmd := k.id, sepoch := arg k 0x16 1
                      oldG := gi, partner := arg k 0x14 2, fragCode := arg k 0x13 1 }
  let s := { s with waiting := restripePeers w s }
  let w := if only then w else
    modRgn i (fun r => { r with restripe := some (s.g, s.fragCode, s.partner, s.sepoch) }) w
  let w := [s.g, s.oldG].foldl (fun w x => modGrp x (fun g => { g with state := .restriping, rlPhase := 5, rlFront := (i, 0) }) w)
    { w with b.streams := w.b.streams ++ [s] }
  let w := s.waiting.foldl (fun w x =>
    formTo x.1 x.2 { kind := 13, slot := (getGrp w x.1).self, coord := w.b.lnk.coord, body := bytesAt k.slot 0x10 16 } w) w
  advanceRestripe env i w

/-- RESTRIPE. -/
def execRestripe (c : CmdId) (env : Env) (s : State) : Host.Outcome State Fault Refusal :=
  run (cmdRow c (isOp 0x63) env (fun k w => checked env k (restripeCheck w k) (restripeGo env k) w)
    (fun k w => advanceRestripe env (arg k 0x10 2) w)) s

/-- RESTRIPE_STREAM: the next fragment (R351); a fragment that cannot be read drops the Restripe. -/
def execRestripeStream (r : Nat) (env : Env) (s : State) : Host.Outcome State Fault Refusal :=
  run (fun w =>
    match streamStep env .restripe r w with
    | (.failed c f, w) => dropRestripe env r { status := rspStatus c, result := toLe 8 f } w
    | (_, w) => advanceRestripe env r w) s

/-- RESTRIPE_TIMEOUT (R353). -/
def execRestripeTimeout (r : Nat) (env : Env) (s : State) : Host.Outcome State Fault Refusal :=
  run (fun w => match findStream w .restripe r with
    | some s => dropRestripe env r { status := .timeout, result := toLe 8 s.next } w
    | none => w) s

/-- RS_BEGIN: refused while the group is BROKEN, relights, runs another Restripe or has a slot out; accepted otherwise
(R351; the conditions are log entry 33). -/
def execRsBegin (rx : Rx) (env : Env) (s : State) : Host.Outcome State Fault Refusal :=
  run (formRow rx 13 (fun pk w =>
    match formFrom w pk with
    | none => w
    | some (gi, g, m) =>
      let e := fld pk.payload (32 + 6) 1
      let other := w.b.streams.any (fun s => s.kind == .restripe && (s.g == gi || s.oldG == gi) && s.sepoch != e)
      let code := if g.state == .broken then 3 else if g.state == .relighting || g.state == .forming || other then 1
        else if !(outMembers g).isEmpty then 2 else 0
      let w := formTo gi m { kind := 14, slot := g.self, code := code, coord := w.b.lnk.coord } w
      if code != 0 then w
      else
        let seen := (m, e, fld pk.payload (32 + 4) 2 != 0xFFFF)
        streamsGo env gi (modGrp gi (fun g => { g with rsSeen := g.rsSeen.filter (fun x => x.1 != m) ++ [seen] }) w))) s

/-- RS_ANSWER (R350, R351). -/
def execRsAnswer (rx : Rx) (env : Env) (s : State) : Host.Outcome State Fault Refusal :=
  run (formRow rx 14 (fun pk w =>
    match formFrom w pk with
    | none => w
    | some (gi, _, m) =>
      match w.b.streams.find? (fun s => s.kind == .restripe && s.waiting.contains (gi, m)) with
      | none => w
      | some s =>
        if fld pk.payload 0xA 1 != 0 then dropRestripe env s.region { status := .denied, info := 0x9D } w
        else advanceRestripe env s.region
          (modStream .restripe s.region (fun s => { s with waiting := s.waiting.filter (fun x => x != (gi, m)) }) w))) s

/-! ### FETCH (R331, R340) -/

/-- A FETCH row by KIND. -/
def fetchRow (rx : Rx) (kind : Nat → Bool) (act : Nat → Nat → Packet → W → W) (w : W) : W :=
  onKind rx 0x40 (fun p => kind (fld p 8 1)) (fun pk w =>
    match senderOf w pk.hdr with
    | some (gi, _, m) => act gi m pk w
    | none => w) w

/-- FETCH with KIND LINE; a reserved KIND is refused here. -/
def execFetchLine (rx : Rx) (env : Env) (s : State) : Host.Outcome State Fault Refusal :=
  run (fetchRow rx (fun k => k == 0 || decide (6 < k)) (fun gi m pk w =>
    if 6 < fld pk.payload 8 1 then refuseFetch (getGrp w gi) m (fld pk.payload 0 8) 2 false w else acceptFetch env pk w)) s

/-- FETCH with KIND FRAG. -/
def execFetchFrag (rx : Rx) (env : Env) (s : State) : Host.Outcome State Fault Refusal :=
  run (fetchRow rx (· == 1) (fun _ _ pk w => acceptFetch env pk w)) s

/-- FETCH with KIND REBUILD. -/
def execFetchRebuild (rx : Rx) (env : Env) (s : State) : Host.Outcome State Fault Refusal :=
  run (fetchRow rx (· == 2) (fun _ _ pk w => acceptFetch env pk w)) s

/-- FETCH with KIND MAP. -/
def execFetchMap (rx : Rx) (_env : Env) (s : State) : Host.Outcome State Fault Refusal :=
  run (fetchRow rx (· == 3) (fun gi m pk w => answerMap gi m pk.payload w)) s

/-- FETCH with KIND STATE. -/
def execFetchState (rx : Rx) (_env : Env) (s : State) : Host.Outcome State Fault Refusal :=
  run (fetchRow rx (· == 4) (fun gi m pk w => answerState gi m pk.payload w)) s

/-- FETCH with KIND TILES. -/
def execFetchTiles (rx : Rx) (env : Env) (s : State) : Host.Outcome State Fault Refusal :=
  run (fetchRow rx (· == 5) (fun gi m pk w => answerTiles env { pk := pk, units := [] } gi m w)) s

/-- FETCH with KIND WATCH. -/
def execFetchWatch (rx : Rx) (_env : Env) (s : State) : Host.Outcome State Fault Refusal :=
  run (fetchRow rx (· == 6) (fun gi m pk w => answerWatch gi m pk.payload w)) s

/-! ### What the parity scrub holds and goes on with (R424) -/

/-- Does a parity scrub hold the parity writes of a unit: it works on a fragment the unit would write (R424)? -/
def scrubHolds (w : W) (p : Prep) : Bool :=
  w.b.fetches.any (fun o => (match o.why with | .scrub _ => true | _ => false) && o.g == p.g &&
    (let a := opAddr w o
     (unitEntries w p.g p.src p.unit).any (fun e => e.frag == a) || p.gapped.any (fun l => decide (a ≤ l) && decide (l < a + 64 * o.lines))))

/-- Does an APPLY wait: for a parity scrub, or for ports that cannot grant its accesses (R54, R376, R424)? -/
def applyWaits (w : W) (p : Prep) : Bool := scrubHolds w p || !unitGrantable w p.g p.src p.unit

/-- APPLYs that waited are acted on (R424). -/
def heldApplies (env : Env) (w : W) : W :=
  (w.b.preps.filter (fun p => !p.applyCopies.isEmpty)).foldl (fun w p =>
    if applyWaits w p then w else p.applyCopies.foldl (fun w id => sendAck p.hdr id w) (applyPrep env p w)) w

/-- May a coded region be scrubbed: it is covered, and its group WHOLE or DEGRADED (R424)? -/
def scrubbable (w : W) (ri : Nat) : Bool :=
  let r := getRgn w ri
  let g := grpOf w r
  codedKind r.kind && covered w r && (g.state == .whole || g.state == .degraded) && !w.b.ras.bgctl.getLsbD 1

/-- Start the next parity fragment of a scrub, skipping stripes that cannot be fetched; after the last one the pass ends
(R424). -/
def scrubNext (ri : Nat) : Nat → W → W
  | 0, w => w
  | n + 1, w =>
    let r := getRgn w ri
    let g := grpOf w r
    match r.scrub with
    | none => w
    | some x =>
      if !scrubbable w ri then modRgn ri (fun r => { r with scrub := none }) w
      else if numParity g r ≤ x then
        let ms := nowUs w / 1000 - r.scrubMs
        let w := if r.scrubSkip then w else { w with b.ras.passMs := sat 0xFFFFFFFF ms }
        modRgn ri (fun r => { r with scrub := none }) w
      else
        let s := parityStripe g.n g.m g.self x
        match startFetch (.scrub ri) (r.grp.getD 0) ri s 0 (fragSize r.frag / 64) g.self w with
        | (some _, w) => w
        | (none, w) =>
          let w := setRas 8 (r.grp.getD 0) s { w with b.ras.skipped := sat32 w.b.ras.skipped }
          scrubNext ri n (modRgn ri (fun r => { r with scrub := some (x + 1), scrubSkip := true }) w)

/-- The scrub of a region goes on where no stripe of it is in hand. -/
def scrubGo (ri : Nat) (w : W) : W :=
  if w.b.fetches.any (fun o => o.why == .scrub ri) then w
  else scrubNext ri (numParity (grpOf w (getRgn w ri)) (getRgn w ri) + 1) w

/-! ### FETCH_RSP and the engines (R30, R56, R330) -/

/-- A chosen member is dropped from an operation (R330); a scrub's stripe is skipped when none is left (R424). -/
def opDrops (env : Env) (m id : Nat) (w : W) : W :=
  match findOp w id with
  | none => w
  | some o => match dropMember id m w with
    | (.goesOn, w) => w
    | (.fails, w) => failReq env o w
    | (.restarts, w) => match o.why with
      | .scrub r => scrubGo r (heldApplies env (skipScrub o r w))
      | _ => assignEngines 8 w

/-- Lines of a FETCH_RSP join the answer of their member. -/
def addAnswer (m : Nat) (p : Bytes) (g : Group) (o : FetchOp) : FetchOp :=
  let first := fld p 0xA 2
  let ls := ((List.range (fld p 0xC 2)).map (fun i => (first + i, bytesAt p (32 + 64 * i) 64))).filter (fun l => decide (l.1 < o.lines))
  let role := if isDataOf g m o.stripe then 0 else 1
  let a := ((o.answers.find? (fun a => a.member == m)).getD { member := m, role := role, lines := [], seqh := [] })
  let a := { a with lines := ls.foldl (fun t l => tset t l.1 l.2) a.lines
                    seqh := if first = 0 then seqFields p 16 else a.seqh }
  { o with answers := o.answers.filter (fun a => a.member != m) ++ [a] }

/-- FETCH_RSP: the lines join their operation, and the holders follow the data members; POISON and REFUSED drop the member;
answers of members dropped are discarded (R56, R330, R331, R340). -/
def execFetchRsp (rx : Rx) (env : Env) (s : State) : Host.Outcome State Fault Refusal :=
  run (onKind rx 0x50 (fun _ => true) (fun pk w =>
    match senderOf w pk.hdr with
    | none => w
    | some (gi, g, m) =>
      let p := pk.payload
      match w.b.fetches.find? (fun o => o.g == gi && o.chosen.contains (m, fld p 0 8)) with
      | some o =>
        if fld p 8 1 != 0 then opDrops env m o.id w
        else askHolders o.id (modOp o.id (addAnswer m p g) w)
      | none => stateRsp env gi m p w)) s

/-- FETCH_DEADLINE_EXPIRY (R330). -/
def execFetchDeadlineExpiry (op : Nat) (member : Nat) (env : Env) (s : State) : Host.Outcome State Fault Refusal :=
  run (fun w =>
    match findOp w op with
    | some o => if o.chosen.any (fun c => c.1 == member) && !answered o member then opDrops env member op w else w
    | none => w) s

/-- FETCH_RETRY_TIMER: the operation asks for an engine again, with every candidate eligible (R330). -/
def execFetchRetryTimer (op : Nat) (s : State) : Host.Outcome State Fault Refusal :=
  run (fun w =>
    match findOp w op with
    | some o => if o.waiting then assignEngines 8 (modOp op (fun o => { o with waiting := false, queued := true, engine := none }) w) else w
    | none => w) s

/-! ### Degraded reads (R56, R57, R332) -/

/-- A decoded line is written back for a requester other than a host read, as the region's context; a failure is logged (R57,
R63, R64). -/
def writeBack (env : Env) (line : Nat) (d : Bytes) (w : W) : W :=
  let (c, w) := writeLine (relightAcc env (((rgnAt w line).map (·.2.ctx)).getD 0)) line d w
  if c == .poison then noteFailed (portOf w.build line) line 0 c w else w

/-- The held deltas of a parity line whose unit is not applied yet (R173). -/
def allHeldXor (w : W) (o : FetchOp) (g : Group) (p a : Nat) (l : Bytes) : Bytes :=
  (w.b.pool.filter (fun e => e.g == o.g && !e.applied)).foldl (fun (l : Bytes) e =>
    e.pkts.foldl (fun (l : Bytes) k => (k.lines.filter (fun x => x.1 == a)).foldl (fun (l : Bytes) x =>
      xorBytes l (gfScale (coef g.m p (roleOf g.n g.m e.src o.stripe).2) x.2)) l) l) l

/-- This member's own line of an operation that chose it (R332): none while a holder's packets, or earlier requests for the line,
are awaited; its answer, and what the read of its line gave. -/
def ownAnswer (env : Env) (o : FetchOp) (w : W) : Option (Rsp × FetchOp × W) :=
  let g := getGrp w o.g
  let role := roleOf g.n g.m g.self o.stripe
  if !(o.chosen.any (fun c => c.1 == g.self)) then some (.ok, o, w)
  else
    let r := opRegion w o
    let a := roleAddr g r (partnerOf w r) role o.stripe o.line
    if !linesReadable w a 64 || (!role.1 && !heldUpTo w o g role.2) then none
    else
    let (c, d, w) := readLine (relightAcc env r.ctx) a w
    if role.1 then some (c, o, w)
    else
      let gone := (o.answers.filter (fun x => x.role == 0)).any (fun x => match x.seqh.getD role.2 none with
        | some n => lostUpTo w (slotAt g x.member).coord (stripeStream w g o.stripe) 1 n
        | none => false)
      let l := allHeldXor w o g role.2 a d
      some (if gone || g.unknown.contains a then .error else c,
        { o with answers := o.answers ++ [{ member := g.self, role := 1, lines := [(0, l)], seqh := [] }] }, w)

/-- DEGRADED_READ_DONE: the decoded line goes to its requester and is written back (R57), once the port can grant it. A coded write
takes it as its old line and writes the new one; the requester may be gone, which leaves the write-back (R104). -/
def execDegradedReadDone (op : Nat) (env : Env) (s : State) : Host.Outcome State Fault Refusal :=
  run (fun w =>
    match findOp w op with
    | none => w
    | some o =>
      if enginePrio o.why != 0 || !opReady w o || !portsReady w (opAddr w o) 64 then w
      else match ownAnswer env o w with
      | none => w
      | some (c, o, w) =>
        if c != .ok then opDrops env (getGrp w o.g).self op w
        else
        let line := opAddr w o
        let d := (decodedLine w o 0).getD (zeros 64)
        let p := portOf w.build line
        let w := assignEngines 8 (dropOp op w)
        let own := o.target == (getGrp w o.g).self
        let note := fun (w : W) => if own then noteDegraded p line (opRegion w o).ctx w else w
        match o.why with
        | .job p id => writeNew p id d (note w)
        | .host p tag => hostDecoded p tag line d w
        | .se e k t _ =>
          let w := writeBack env line d (note w)
          let w := match (getSe w e).run with | some c => modRun c (fun r => { r with degraded := true }) w | none => w
          kickAll (seLine e k t line .ok d w)
        | .sweep r =>
          let w := writeBack env line d (note w)
          if (getRgn w r).sweeping && (getRgn w r).base + (getRgn w r).front == line then kickAll (sweepLine r d w) else w
        | .cmd c =>
          match findCmd w c with
          | none => kickAll (writeBack env line d (note w))
          | some k =>
            if opOf k = 0x64 then
              let dst := arg k 0x28 8 + 64 * k.prog
              match findCmd (modCmd c (fun k => { k with patch := [(dst, d)] }) w) c with
              | some k' => degradedGo env k' (modCmd c (fun k => { k with patch := [(dst, d)] }) (note w))
              | none => w
            else kickAll (modCmd c (fun k => { k with patch := tset k.patch line d, degraded := true }) (writeBack env line d (note w)))
        | _ => kickAll (writeBack env line d (note w))) s

/-! ### Parity rebuild and parity scrub (R173, R424) -/

/-- Line i of the parity that a rebuild or a scrub computes (R173). -/
def rebuiltLine (w : W) (o : FetchOp) (i : Nat) : Nat × Bytes :=
  let g := getGrp w o.g
  let a := opAddr w o + 64 * i
  let p := (roleOf g.n g.m g.self o.stripe).2
  (a, allHeldXor w o g p a ((decodedLine w o i).getD (zeros 64)))

/-- PARITY_REBUILD: the parity line is computed with a snapshot of the held deltas and written, and is known again (R173, R179); a write that fails starts the rebuild
again after the restart time. -/
def execParityRebuild (op : Nat) (env : Env) (s : State) : Host.Outcome State Fault Refusal :=
  run (fun w =>
    match findOp w op with
    | none => w
    | some o =>
      let g := getGrp w o.g
      if o.why != .rebuild || !opReady w o || !heldUpTo w o g (roleOf g.n g.m g.self o.stripe).2 || !linesFree w (opAddr w o) 64 then w
      else
        let (a, d) := rebuiltLine w o 0
        let w := snapEntries (w.b.pool.filter (fun e => e.g == o.g && !e.applied && e.pkts.any (fun k => k.lines.any (fun l => l.1 == a)))) w
        let (c, w) := writeLine (holderAcc env (opRegion w o).ctx) a d w
        if c != .ok then
          let w := logOther 4 0 (portOf w.build a) 0 [0, 0, a] w
          assignEngines 8 (modOp op (fun o => { o with waiting := true, chosen := [], answers := [] }) w)
        else
          retryFetches env (modGrp o.g (fun g => { g with unknown := g.unknown.filter (fun l => l != a) }) (assignEngines 8 (dropOp op w)))) s

/-- A parity scrub pass starts; while one runs, it goes on after a stripe that was skipped (R424). -/
def scrubStart (r : Nat) (w : W) : W :=
  let x := getRgn w r
  if x.scrub.isSome then scrubGo r w
  else if !scrubbable w r then w
  else scrubGo r (modRgn r (fun x => { x with scrub := some 0, scrubMs := nowUs w / 1000, scrubSkip := false })
    { w with b.ras.skipped := 0 })

/-- PARITY_SCRUB_START. -/
def execParityScrubStart (r : Nat) (s : State) : Host.Outcome State Fault Refusal := run (scrubStart r) s

/-- Compare and repair the lines of a parity fragment: the lines that differed, and the worst answer (R424). -/
def scrubLines (env : Env) (o : FetchOp) : Nat → W → Nat × Rsp × W
  | 0, w => (0, .ok, w)
  | n + 1, w =>
    let (bad, c0, w) := scrubLines env o n w
    let (a, d) := rebuiltLine w o n
    let (c, old, w) := readLine (bgAcc env) a w
    if c == .ok && old == d then (bad, c0, w)
    else
      let (c2, w) := writeLine (bgAcc env) a d w
      (bad + 1, worse c0 c2, w)

/-- PARITY_SCRUB_STRIPE: stored parity against computed parity; a mismatch is repaired, counted and raises the interrupt
(R424). -/
def execParityScrubStripe (op : Nat) (env : Env) (s : State) : Host.Outcome State Fault Refusal :=
  run (fun w =>
    match findOp w op with
    | none => w
    | some o => match o.why with
      | .scrub ri =>
        let g := getGrp w o.g
        if !opReady w o || !heldUpTo w o g (roleOf g.n g.m g.self o.stripe).2 || !linesFree w (opAddr w o) (64 * o.lines) then w
        else
          let (bad, c, w) := scrubLines env o o.lines w
          let w := if c == .ok then w else logOther 4 0 o.g 0 [0, 0, opAddr w o] w
          let w := if bad = 0 then w else setRas 6 o.g o.stripe { w with b.ras.cntScrub := w.b.ras.cntScrub + bad }
          let w := assignEngines 8 (dropOp op (modRgn ri (fun r => { r with scrub := r.scrub.map (· + 1) }) w))
          scrubGo ri (heldApplies env w)
      | _ => w) s

end Sys2Proof.Machine
end

