-- ==== Sys2Proof/Machine/HolderRows.lean ====
section
/-! DEFINITION. The rows of deltas and commits: at the source the closing of units and packets and the acknowledgements, at
the holder DELTA, PREPARE, APPLY and readiness; the pool audit, stalls and pressure (R85, R160 to R185, R323, R489). -/

namespace Sys2Proof.Machine

/-! ### At the source -/

/-- What a unit that moved on sets free: completions, runs, held writes, FETCHes that waited for it, streams. -/
def afterUnits (env : Env) (gi : Nat) (w : W) : W := streamsGo env gi (retryFetches env (afterChange env w))

/-- UNIT_PREPARE (R167). -/
def execUnitPrepare (g : Nat) (u : BitVec 64) (env : Env) (s : State) : Host.Outcome State Fault Refusal :=
  run (fun w => afterUnits env g (tryPrepare g u w)) s

/-- HOST_UNIT_TIMEOUT: an open HOST unit of the PDE closes (R160). -/
def execHostUnitTimeout (p : Nat) (g : Nat) (u : BitVec 64) (s : State) : Host.Outcome State Fault Refusal :=
  run (fun w => if (getSlice w p).hostUnits.contains (g, u) then closeUnit g u w else w) s

/-- DELTA_PACKET_TIMEOUT: an open packet closes (R164). -/
def execDeltaPacketTimeout (p : Nat) (k : Nat) (s : State) : Host.Outcome State Fault Refusal :=
  run (fun w => match (getSlice w p).openPkts.find? (fun o => o.id == k) with
    | some o => closePkt p o w
    | none => w) s

/-- ACK: the message is not repeated any more, and the wait sets of R169 and R171 move on. -/
def execAck (rx : Rx) (env : Env) (s : State) : Host.Outcome State Fault Refusal :=
  run (onKind rx 6 (fun _ => true) (fun pk w =>
    let is := fun (m : Vc0Msg) => m.msgid == fld pk.payload 0 8 && m.dest == pk.hdr.src
    match w.b.lnk.vc0.find? is with
    | none => w
    | some m =>
      let w := { w with b.lnk.vc0 := w.b.lnk.vc0.filter (fun m => !is m) }
      match m.why with
      | .prepare g u i => afterUnits env g (advanceUnits g (modUnit g u (fun x => { x with ackP := insertNat x.ackP i }) w))
      | .apply g u i => afterUnits env g (advanceUnits g (modUnit g u (fun x => { x with ackA := insertNat x.ackA i }) w))
      | .other => w)) s

/-! ### At the holder -/

/-- What a packet that arrived, or was found lost, sets free at a holder: units that become ready, FETCHes, END notices. -/
def afterDelta (env : Env) (w : W) : W :=
  let w := countEnds (retryFetches env (tryReadyAll w))
  (w.b.grps.map (·.1)).foldl (fun w g => streamsGo env g w) w

/-- Is a DELTA one that an earlier attempt sent (R153)? -/
def cutOff (w : W) (gi m base : Nat) (h : Hdr) : Bool :=
  let stream := if h.flags.getLsbD 1 then some h.dest.toNat else none
  w.b.cutoffs.any (fun c => c.1 == gi && c.2.1 == m && c.2.2.1 == base && c.2.2.2.1 == stream
    && decide (seqAhead h.seq.toNat c.2.2.2.2 < 2 ^ 23))

/-- An accepted DELTA packet: discarded, counted ahead of the frontier, or placed where there is a place
(R150, R153, R177, R183, R320, R343). -/
def takeDelta (env : Env) (pk : Packet) (w : W) : Placed × W :=
  match senderOf w pk.hdr with
  | none => (.placed, w)
  | some (gi, g, m) =>
    match holderBase w g pk.hdr, deltaLines pk.payload with
    | some (a, pr, _, _), some ls =>
      match parityAt w a with
      | none => (.placed, w)
      | some x =>
        let own := (slotAt g g.self).state == .adopted
        if g.state == .broken || cutOff w gi m pr.base pk.hdr || (!own && !holderTakes w x.view (fld pk.payload 0x11 1)) then (.placed, w)
        else
          let u := BitVec.ofNat 64 (fld pk.payload 0 8)
          match position g x.region x.stripe with
          | .ahead => (.placed, setAhead gi m u (aheadLines w gi m u + ls.length) w)
          | pos =>
            let fs := fragSize x.view.frag
            let held : HeldPkt := { seq := pk.hdr.seq.toNat, mcast := if pk.hdr.flags.getLsbD 1 then some pk.hdr.dest.toNat else none
                                    size := pk.payload.length, lines := ls.map (fun l => (a + 64 * l.1, l.2)) }
            placePacket env { g := gi, src := m, coord := pk.hdr.src, unit := u, frag := a - (a - pr.base) % fs
                              partner := x.partner, pkt := held, raddr := pk.hdr.raddr.toNat, payload := pk.payload
                              hold := pos == .active } w
    | _, _ => (.placed, w)

/-- Receive a DELTA packet; nothing changes when it finds no place. -/
def deltaIn (env : Env) (rx : Rx) (w : W) : Placed × W :=
  match receive rx w with
  | (none, w) => (.placed, w)
  | (some pk, w') =>
    match takeDelta env pk w' with
    | (.placed, w) => (.placed, w)
    | (x, _) => (x, w)

/-- A packet stays at the head of the VC1 receive buffer: STAGE_FULL when no place is free (R183). -/
def stall (rx : Rx) (full : Bool) (w : W) : W :=
  let w := setOffs rx.port (modLp rx.port (fun l => { l with stalled := l.stalled ++ [rx] }) w)
  if full then setDpErr 1 rx.port rx.pk.hdr.seq.toNat w else w

/-- DELTA: behind a stalled packet of its port it waits; else it is received (R177, R183). -/
def execDelta (rx : Rx) (env : Env) (s : State) : Host.Outcome State Fault Refusal :=
  run (fun w =>
    if rx.pk.hdr.opcode != 0x10 then w
    else if !(getLp w rx.port).stalled.isEmpty && inService w && w.b.lnk.en then
      if noRoom w rx then setLnkErr 7 rx.port 1 (cntLp rx.port 0xF0 1 w)
      else stall rx false w
    else match deltaIn env rx w with
      | (.placed, w) => afterDelta env w
      | (x, w) => stall rx (x == .full) w) s

/-- Receive stalled packets in order until one finds no place. -/
def resume (env : Env) (port : Nat) : List Rx → W → W
  | [], w => w
  | x :: t, w =>
    match deltaIn env { x with room := true } (modLp port (fun l => { l with stalled := t }) w) with
    | (.placed, w) => resume env port t (setOffs port w)
    | (_, _) => w

/-- STAGE_FULL_RESUME (R183). -/
def execStageFullResume (port : Nat) (env : Env) (s : State) : Host.Outcome State Fault Refusal :=
  run (fun w =>
    let q := (getLp w port).stalled
    if q.isEmpty then w else afterDelta env (resume env port q w)) s

/-- What a COMMIT says (R166). -/
def prepOf (gi m : Nat) (pk : Packet) : Prep :=
  let p := pk.payload
  { g := gi, src := m, unit := BitVec.ofNat 64 (fld p 8 8), kind := fld p 0x11 1, sepoch := fld p 0x12 1, nlines := fld p 0x14 4
    base := fld p 0x18 8, watch := fld p 0x20 8, index := fld p 0x28 8, run := fld p 0x30 2, runFirst := fld p 0x38 8
    runCount := fld p 0x40 8, seqs := seqFields p 0x48, copies := [fld p 0 8], hdr := pk.hdr }

/-- Does the receiver's own state discard a COMMIT: the group is BROKEN here, the partner retired, the region UNSOUNDED or
of another epoch (R489)? A spare takes the commits of regions it has still to rebuild (R343). -/
def commitDiscarded (w : W) (g : Group) (p : Prep) : Bool :=
  g.state == .broken ||
    match codedByBase w p.g p.base with
    | none => true
    | some (_, v) => v.partner.isNone || ((slotAt g g.self).state != .adopted && !holderTakes w v p.sepoch)

/-- A COMMIT row of one stage. -/
def commitRow (rx : Rx) (stage : Nat) (act : Group → Prep → W → W) (w : W) : W :=
  onKind rx 3 (fun p => fld p 0x10 1 == stage || (stage == 0 && decide (1 < fld p 0x10 1))) (fun pk w =>
    match senderOf w pk.hdr with
    | none => w
    | some (gi, g, m) =>
      let p := prepOf gi m pk
      if commitDiscarded w g p || w.b.applied.contains (gi, m, p.unit) then sendAck pk.hdr (fld pk.payload 0 8) w else act g p w) w

/-- PREPARE: held until the member is ready for the unit, every copy acknowledged then (R168). -/
def execPrepare (rx : Rx) (env : Env) (s : State) : Host.Outcome State Fault Refusal :=
  run (commitRow rx 0 (fun _ p w =>
    let w := match findPrep w p.g p.src p.unit with
      | some q => if q.ready then p.copies.foldl (fun w id => sendAck p.hdr id w) w
                  else modPrep p.g p.src p.unit (fun q => { q with copies := q.copies ++ p.copies }) w
      | none => tryReady p.g p.src p.unit { w with b.preps := w.b.preps ++ [p] }
    streamsGo env p.g (countEnds w))) s

/-- Record the tombstone of a unit, or of its set, before it is applied; false when the table is full (R281, R323). -/
def recordTomb (p : Prep) (w : W) : Bool × W :=
  if (tombOf w p.g p.src p.unit).isSome then (true, w)
  else
    let t := newTomb w p
    if w.b.tombs.length ≥ 32768 then
      (false, logOther 4 2 p.g 0 [0xB0018, 2 ^ 16 + 32768, t.unit.toNat % 2 ^ 56] { w with b.tombFull := true })
    else (true, { w with b.tombs := w.b.tombs ++ [t] })

/-- APPLY: the tombstone, the deltas, the commit map, then the ACK; a parity scrub on the fragment holds it, and
ports that cannot grant its accesses (R170, R323, R376, R424). An APPLY for a unit this member never prepared is acknowledged and changes nothing. -/
def execApply (rx : Rx) (env : Env) (s : State) : Host.Outcome State Fault Refusal :=
  run (commitRow rx 1 (fun _ a w =>
    match findPrep w a.g a.src a.unit with
    | none => a.copies.foldl (fun w id => sendAck a.hdr id w) w
    | some p =>
      if !p.ready then w
      else
        let (ok, w) := recordTomb p w
        if !ok then w
        else if applyWaits w p then
          modPrep p.g p.src p.unit (fun q => { q with applyCopies := q.applyCopies ++ a.copies }) w
        else
          let w := a.copies.foldl (fun w id => sendAck a.hdr id w) (applyPrep env p w)
          streamsGo env p.g (countEnds w))) s

/-- UNIT_READY (R168). -/
def execUnitReady (g : Nat) (src : Nat) (u : BitVec 64) (s : State) : Host.Outcome State Fault Refusal :=
  run (tryReady g src u) s

/-! ### The audit (R180, R190) -/

/-- Age of an entry in µs. -/
def entryAge (w : W) (e : PoolEntry) : Nat := sat 0xFFFFFFFF (nowUs w - e.bornUs)

/-- Bytes an entry holds: its class, or its slot. -/
def entrySize (e : PoolEntry) : Nat := match e.span with | some s => 256 * s.2 | none => 4160

/-- Is an entry one the audit reclaims: its count exceeds the lists that name it, or its source has been out for longer than
MAX_AGE_US and no settling that still runs will decide it (R180, log entry 106)? -/
def entryLeaked (w : W) (e : PoolEntry) : Bool :=
  let g := getGrp w e.g
  decide (b2n e.onApply + b2n e.onFrontier < e.refs) || e.refs == 0 ||
    (slotOut (slotAt g e.src).state && decide (w.b.maxAgeUs < nowUs w - (slotAt g e.src).outUs)
      && !g.settling.any (fun s => s.slot == e.src && !s.settled))

/-- The audit results of one owner, with its AGE event. -/
def auditOwner (gi i : Nat) (w : W) : W :=
  let mine := w.b.pool.filter (fun e => e.g == gi && e.src == i)
  let age := mine.foldl (fun n e => max n (entryAge w e)) 0
  let kib := (mine.foldl (fun n e => n + entrySize e) 0 + 1023) / 1024
  let isOld := decide (w.b.maxAgeUs < age) && !(getGrp w gi).aged.contains i
  let w := modGrp gi (fun g =>
    { g with owners := tset g.owners i (sat 0xFFFF mine.length, kib, age)
             aged := if mine.isEmpty then g.aged.filter (fun x => x != i) else if isOld then insertNat g.aged i else g.aged }) w
  if isOld then setDpErr 3 gi i w else w

/-- POOL_AUDIT: what leaked is reclaimed, and each owner's holdings are recorded (R180); RAS_BGCTL bit 3 stops it (R431). -/
def execPoolAudit (s : State) : Host.Outcome State Fault Refusal :=
  run (fun w =>
    if w.b.ras.bgctl.getLsbD 3 then w
    else
      let w := w.b.leaks.foldl (fun w l => setDpErr 2 0 l.1 w) { w with b.leaks := [] }
      let w := (w.b.pool.filter (entryLeaked w)).foldl (fun w e => setDpErr 2 e.g e.id (freeEntry e w)) w
      w.b.grps.foldl (fun w g => if g.2.state == .free then w else (List.range 16).foldl (fun w i => auditOwner g.1 i w) w) w) s

/-! ### Pressure (R185) -/

/-- Is there pressure: a send queue is full, or VC1 of a port is off? -/
def underPressure (w : W) : Bool := w.b.slices.any (fun s => sqFull s.2) || w.b.lnk.ports.any (fun l => l.2.rxOff.getLsbD 1)

/-- Log SUSTAINED_PRESSURE. -/
def logPressure (began : Bool) (w : W) : W := logEv 0x0401 0 0 0 [(w.b.crp.tCore - w.b.pressure.startNs) / 1000, b2n began] w

/-- PRESSURE_EPISODE_10MS. -/
def execPressureEpisode10ms (s : State) : Host.Outcome State Fault Refusal :=
  run (fun w => if w.b.pressure.active && !w.b.pressure.logged then logPressure false { w with b.pressure.logged := true } else w) s

/-- PRESSURE_REPEAT_LOG. -/
def execPressureRepeatLog (s : State) : Host.Outcome State Fault Refusal :=
  run (fun w => if w.b.pressure.active && w.b.pressure.logged then logPressure false w else w) s

/-- PRESSURE_EPISODE_END: a millisecond without pressure has passed. -/
def execPressureEpisodeEnd (s : State) : Host.Outcome State Fault Refusal :=
  run (fun w => if w.b.pressure.active && !underPressure w then { (logPressure true w) with b.pressure := {} } else w) s

end Sys2Proof.Machine
end

