-- ==== Sys2Proof/Machine/LinkRows.lean ====
section
/-! DEFINITION. The rows of the link ports: Lantern, affinity, down indications, the off and up signals, packets found lost
by time, repeats of VC0 messages, and the enables (R65 to R96). -/

namespace Sys2Proof.Machine

/-! ### Lantern (R92 to R96) -/

/-- Replace the peer entry of a coordinate. -/
def modPeer (c : Coord) (f : Peer → Peer) (w : W) : W :=
  { w with b.lnk.peers := w.b.lnk.peers.map (fun p => if p.2.coord == c then (p.1, f p.2) else p) }

/-- Codes of a peer's state (R96). -/
def peerCode : PeerState → Nat
  | .unused => 0 | .alive => 1 | .suspect => 2 | .lost => 3

/-- A peer's state changes between ALIVE and SUSPECT, in every slot that holds its coordinate, with an event
(R94, R318). -/
def setPeer (c : Coord) (to_ : PeerState) (from_ st : SlotState) (w : W) : W :=
  let i := ((peerOf w c).map (·.1)).getD 0
  let w := logOther 2 0 0 0 [0x72000 + 8 * i, peerCode to_, i] (modPeer c (fun p => { p with state := to_ }) w)
  let upd := fun (s : Slot) => if s.coord == c && s.state == from_ then { s with state := st } else s
  { w with b.grps := w.b.grps.map (fun g => (g.1, { g.2 with members := g.2.members.map upd })) }

/-- The affinity port becomes the candidate once its count is 16 (R96). -/
def moveAff (p : Peer) : Peer := if 16 ≤ p.cnt then { p with aff := p.cand, cnt := 0 } else p

/-- The update of a peer's entry at the end of a period (R96). -/
def updateAff (p : Peer) : Peer :=
  match p.observed with
  | none => p
  | some o =>
    let p := if o = p.aff then { p with cnt := 0 } else if o = p.cand then { p with cnt := p.cnt + 1 } else { p with cand := o, cnt := 1 }
    moveAff { p with observed := none }

/-- Does the update at the end of this period move the affinity of a peer (R96)? -/
def affMoves (p : Peer) : Bool := p.observed == some p.cand && p.cand != p.aff && decide (15 ≤ p.cnt)

/-- The payload of a beacon (R92). COUNT counts this beacon too. -/
def beacon (w : W) : Bytes :=
  toLe 1 (stateCode w.b.glb.state) ++ zeros 3 ++ toLe 4 w.b.lnk.periodUs ++ toLe 8 w.b.lnk.epoch.toNat
    ++ toLe 8 (w.b.lnk.beacons + 1) ++ toLe 8 w.b.crp.tCore ++ zeros 32

/-- LANTERN_PERIOD: the entries are updated, and every peer is sent a beacon (R92, R96); no beacon once the Helm stays stopped
(R421), or while the block's state sends none (R76). -/
def execLanternPeriod (s : State) : Host.Outcome State Fault Refusal :=
  run (fun w =>
    let w := { w with b.lnk.peers := w.b.lnk.peers.map (fun (p : Nat × Peer) => (p.1, updateAff p.2)) }
    if !canSend w 0 1 || w.b.glb.helmStopped then w
    else
      w.b.lnk.peers.foldl (fun (w : W) (p : Nat × Peer) =>
        let w := (sendTo p.2.coord { vc := 0, op := 1, payload := beacon w } w).2
        { w with b.lnk.beacons := w.b.lnk.beacons + 1 }) w) s

/-- AFFINITY_MOVE: the period of a peer ends with the update that brings its count to 16, and the affinity moves (R96). -/
def execAffinityMove (coord : Coord) (s : State) : Host.Outcome State Fault Refusal :=
  run (modPeer coord (fun p => if affMoves p then updateAff p else p)) s

/-- Is a beacon from a peer ignored by detector 0x0C (R430)? -/
def beaconIgnored (w : W) (i : Nat) : Bool := injHit w 0x0C 0 && (tget w.b.ras.inj 0x0C {}).arg % 1024 == i

/-- The packets of the row LANTERN: beacons, and the packets whose opcode no row has, which check 1 discards or whose
acceptance changes nothing more (R84, R94). -/
def isBeacon (pk : Packet) : Bool := pk.hdr.opcode == 1 || pk.hdr.opcode == 8 || (vcOfOpcode pk.hdr.opcode.toNat).isNone

/-- LANTERN: liveness, the observed port and the epoch of the peer (R94, R96). -/
def execLantern (rx : Rx) (env : Env) (s : State) : Host.Outcome State Fault Refusal :=
  run (onPacket rx isBeacon (fun pk w =>
    if pk.hdr.opcode != 1 then w else
    let c := pk.hdr.src
    let e : Word := BitVec.ofNat 64 (fld pk.payload 8 8)
    match peerOf w c with
    | none => w
    | some (i, p) =>
      if beaconIgnored w i then w
      else
        let o := match p.observed with | some o => min o rx.port | none => rx.port
        let w := modPeer c (fun p => { p with observed := some o }) w
        if p.state == .lost then w
        else if (p.epoch.map (fun x => x != e)).getD false then loseCoord env c 3 w
        else
        let w := modPeer c (fun p => { p with epoch := some e, counting := true }) w
        if p.state == .suspect then setPeer c .alive .suspect .alive w else w)) s

/-- LANTERN_SUSPECT: three whole periods without a beacon (R94). -/
def execLanternSuspect (coord : Coord) (s : State) : Host.Outcome State Fault Refusal :=
  run (fun w => match peerOf w coord with
    | some (_, p) => if p.counting && p.state == .alive then setPeer coord .suspect .alive .suspect w else w
    | none => w) s

/-- A peer is LOST by own detection; an injected Lantern loss of it has then acted (R94, R430). -/
def losePeer (env : Env) (c : Coord) (cause : Nat) (w : W) : W :=
  match peerOf w c with
  | none => w
  | some (i, p) =>
    if p.state == .lost || p.state == .unused then w
    else loseCoord env c cause (if cause = 1 && beaconIgnored w i then injFire 0x0C w else w)

/-- LANTERN_LOST: eight whole periods without a beacon (R94). -/
def execLanternLost (coord : Coord) (env : Env) (s : State) : Host.Outcome State Fault Refusal :=
  run (fun w => match peerOf w coord with
    | some (_, p) => if p.counting then losePeer env coord 1 w else w
    | none => w) s

/-- DOWN_INDICATION (R68, R94). -/
def execDownIndication (port : Nat) (coord : Coord) (env : Env) (s : State) : Host.Outcome State Fault Refusal :=
  run (fun w =>
    if w.build.nlp ≤ port then w
    else losePeer env coord 2 (modLp port (fun l => { l with dnSeen := true }) w)) s

/-! ### Signals and enables -/

/-- A port goes on with what waits for it, and the PDEs with what waits for a port (R73, R78, R184). Two rounds of the ports let
traffic that has moved to another port follow what it left behind (R82). A FETCH that waited for packets on their way out is asked
or answered (R56, R173); its accesses are answered OK (log entry 107). -/
def drainLinks (w : W) : W :=
  let ports := List.range w.build.nlp
  let w := (ports ++ ports).foldl (fun w l => drainPort l (getLp w l).queue.length w) w
  let w := kickPde (drainAll w)
  if w.b.fetchWaits.isEmpty && w.b.fetches.all (·.asked) then w else retryFetches {} w

/-- LP_TX_OFF: bits 7:6 are ignored (R73). -/
def execLpTxOff (port : Nat) (off : BitVec 8) (s : State) : Host.Outcome State Fault Refusal :=
  run (fun w =>
    if w.build.nlp ≤ port then w
    else drainLinks (modLp port (fun l => { l with txOff := off.setWidth 6 }) w)) s

/-- LP_LINK_UP (R68). -/
def execLpLinkUp (port : Nat) (up : Bool) (s : State) : Host.Outcome State Fault Refusal :=
  run (fun w => if w.build.nlp ≤ port then w else modLp port (fun l => { l with linkUp := up }) w) s

/-- A write to LNK_CTL: MCAST_EN only where the router offers multicast (R65, R89); LINK_EN not where the Helm failed its
self-test (R360). -/
def writeLnkCtl (v : Word) (w : W) : W :=
  if v.getLsbD 1 && !w.build.mcastCap then writeIgnored 0x70000 v w
  else
    let helm := !w.b.glb.stfail1.getLsbD 59
    drainLinks { w with b.lnk.en := if helm then v.getLsbD 0 else w.b.lnk.en
                        b.lnk.mcastEn := v.getLsbD 1 }

/-- LINK_ENABLE: LNK_CTL written with MCAST_EN as it is (R65); the window takes writes from PASS on (R468). -/
def execLinkEnable (en : Bool) (s : State) : Host.Outcome State Fault Refusal :=
  run (fun w => if portsOpen w then writeLnkCtl (BitVec.ofNat 64 (b2n en + 2 * b2n w.b.lnk.mcastEn)) w else w) s

/-- MCAST_ENABLE: LNK_CTL written with LINK_EN as it is (R89). -/
def execMcastEnable (en : Bool) (s : State) : Host.Outcome State Fault Refusal :=
  run (fun w => if portsOpen w then writeLnkCtl (BitVec.ofNat 64 (b2n w.b.lnk.en + 2 * b2n en)) w else w) s

/-! ### Loss by time, and repeats (R83, R85) -/

/-- Does something wait on this member for the packets of a stream up to a number: a PREPARE, an END notice, a FETCH to a
holder, or a decode on a holder (R56, R152, R168, R173, R331, R342)? -/
def awaited (w : W) (src : Coord) (vc : Nat) (mcast : Option Nat) (n : Nat) : Bool :=
  w.b.preps.any (fun p => !p.ready && p.hdr.src == src && vc == 1 && (prepStreams (getGrp w p.g) p).contains (mcast, n))
    || w.b.ends.any (fun e => vc == 0 && mcast.isNone && e.seq == some n && (slotAt (getGrp w e.g) e.src).coord == src)
    || w.b.fetchWaits.any (fun f => vc == 1 && (match senderOf w f.pk.hdr with
        | some (_, g, _) => (namedSeqs f.pk.payload).any (fun x => x.2 == n && (slotAt g x.1).coord == src)
        | none => false))
    || w.b.fetches.any (fun o => vc == 1 && o.answers.any (fun a => a.seqh.contains (some n) && (slotAt (getGrp w o.g) a.member).coord == src))

/-- Every packet of a stream up to a number that has not arrived is lost (R83). Where the stream has no expected value, nothing says
how many came before: the named packet alone is lost (DESIGN CHOICE, log entry 113). -/
def loseUpTo (src : Coord) (vc : Nat) (mcast : Option Nat) (n : Nat) (w : W) : W :=
  let is := fun (s : RxStream) => s.src == src && s.mcast == mcast && s.vc == vc
  let next := some ((n + 1) % 2 ^ 24)
  let known := (w.b.lnk.rxStreams.find? is).bind (·.exp)
  let gap := match known with | some e => seqAhead e ((n + 1) % 2 ^ 24) | none => 1
  if 2 ^ 23 ≤ gap || gap = 0 then w
  else
    let lost := match known with | some e => seqRange e gap | none => [n]
    let w := if w.b.lnk.rxStreams.any is then w
      else { w with b.lnk.rxStreams := w.b.lnk.rxStreams ++ [{ src := src, mcast := mcast, vc := vc, exp := none }] }
    let w := { w with b.lnk.rxStreams := mapIf is (fun s => { s with exp := next, lost := s.lost ++ lost }) w.b.lnk.rxStreams }
    setLnkErr 6 (portTo w src) n (cntLp (portTo w src) 0xF8 gap w)

/-- SEQ_LOSS_TIMEOUT: 100 µs after a message that depends on them, missing packets are lost (R83). -/
def execSeqLossTimeout (src : Coord) (vc : Nat) (mcast : Option Nat) (upTo : Nat) (env : Env) (s : State) : Host.Outcome State Fault Refusal :=
  run (fun w => if isPeer w src && awaited w src vc mcast upTo then afterDelta env (loseUpTo src vc mcast upTo w) else w) s

/-- VC0_REPEAT_TIMER: the message is sent again, with the next number of its stream; a repeated COMMIT counts for the END
notice of its attempt (R85, R152). -/
def execVc0RepeatTimer (msgid : Nat) (s : State) : Host.Outcome State Fault Refusal :=
  run (fun w =>
    match w.b.lnk.vc0.find? (fun m => m.msgid == msgid) with
    | none => w
    | some m =>
      let h := m.pk.hdr
      let (seq, w) := sendTo m.dest { vc := 0, op := h.opcode.toNat, dgn := h.group.toNat, srcM := h.member.toNat % 16
                                      dstM := h.member.toNat / 16, sealed_ := h.flags.getLsbD 0, raddr := h.raddr.toNat
                                      part := m.part, payload := m.pk.payload } w
      let note := fun (g : Nat) (u : BitVec 64) (i : Nat) => match findUnit w g u, seq with
        | some x, some n =>
          { w with b.streams := mapIf (fun s => s.region == x.region && s.g == x.g && decide (2 ≤ x.kind))
                                      (fun s => { s with commits := tset s.commits i n }) w.b.streams }
        | _, _ => w
      match m.why with
      | .prepare g u i => note g u i
      | .apply g u i => note g u i
      | .other => w) s

end Sys2Proof.Machine
end

