-- ==== Sys2Proof/Machine/ContextRows.lean ====
section
/-! DEFINITION. The rows of the front end: fetching, doorbells, interrupts, PARTITION_SET, contexts with their teardown and
reset, and queue pairs (R97 to R128). -/

namespace Sys2Proof.Machine

/-! ### Fetching (R109, R112, R123) -/

/-- Does the front end run: not before PASS, and not in PASS with a Helm that failed its self-test (R356, R360)? -/
def frontRuns (w : W) : Bool := portsOpen w && !w.b.glb.stfail1.getLsbD 59

/-- Does a queue pair serve: enabled, ACTIVE, its context running? -/
def qpLive (w : W) (q : Nat) : Bool := qpServes w q && (partOfQp? w q).isSome

/-- Commands of a queue pair in flight, beside the critical one whose second slot is still to be fetched. -/
def inFlight (w : W) (q : Nat) : Nat := (w.b.cmds.filter (fun k => k.id.q == q)).length

/-- Completion entries that host software has not read. -/
def unread (k : Qp) : Nat := subMod k.cqTail k.cqHead (2 ^ k.cqLog2)

/-- May the next slot of a queue pair be fetched: a completion entry, the partition's share and the SCE's have room for its
command, which a first slot already takes (R112, R123)? -/
def hasCredit (w : W) (q : Nat) : Bool :=
  let k := getQp w q
  let p := (partOfQp? w q).getD 0
  let own := b2n (!k.half.isEmpty)
  decide (inFlight w q + unread k < 2 ^ k.cqLog2 - 1) && decide (cmdsOfPart w p - own < (getPart w p).cmdShare)
    && decide ((w.b.cmds.filter (fun k => k.id.q != fabricQ)).length + halves w (fun _ => true) - own < 4096)

/-- A fetched command enters the front end; a FENCE awaits the commands of its own queue that are in flight then (DESIGN CHOICE,
log entry 97); one with an unassigned opcode completes at once when it may start (R115). -/
def enterCmd (env : Env) (q : Nat) (slot : Bytes) (w : W) : W :=
  let k := getQp w q
  let id : CmdId := { q := q, n := k.numBase + k.fetched }
  let c : Cmd := { id := id, slot := slot, ctx := k.ctx, part := (partOfQp? w q).getD 0, fetchedUs := nowUs w
                   awaits := (w.b.cmds.filter (fun e => e.id.q == q)).map (·.id.n), runNo := (getCtx w k.ctx).runsFetched
                   order := w.b.eng.nextOrder }
  let w := if opOf c = 0x40 && !bit (arg c 0x12 1) 0 then
      modCtx k.ctx (fun x => { x with runsFetched := (x.runsFetched + 1) % 65536 }) w else w
  let w := modQp q (fun k => { k with fetched := k.fetched + 1, half := [] }) { w with b.cmds := w.b.cmds ++ [c], b.eng.nextOrder := w.b.eng.nextOrder + 1 }
  if (opInfo (opOf c)).isNone && mayStart w c then complete env false id { status := .unsupported } (countStart c w) else w

/-- Take slots in order while there is credit. -/
def takeSlots (env : Env) (q : Nat) : List Bytes → W → W
  | [], w => w
  | s :: t, w =>
    let k := getQp w q
    let past := modQp q (fun k => { k with sqHead := (k.sqHead + 1) % 2 ^ k.sqLog2 })
    if !hasCredit w q then w
    else if !k.half.isEmpty then takeSlots env q t (enterCmd env q (k.half ++ s) (past w))
    else if ((opInfo (fld s 0 1)).map (·.1)).getD false then takeSlots env q t (modQp q (fun k => { k with half := s }) (past w))
    else takeSlots env q t (enterCmd env q s (past w))

/-- The slots that one grant reads: up to four of one 256 B block, not past the ring's end or SQ_TAIL (R112). -/
def readySlots (k : Qp) : Nat :=
  let n := 2 ^ k.sqLog2
  min (min (4 - k.sqHead % 4) (n - k.sqHead)) (subMod k.sqTail k.sqHead n)

/-- Has a queue pair ready slots and credit? -/
def qpReady (w : W) (q : Nat) : Bool := qpLive w q && readySlots (getQp w q) != 0 && hasCredit w q

/-- The queue pairs of a partition that are ready, and the partitions that have one, each in ascending order. -/
def readyQps (w : W) (p : Nat) : List Nat := (w.b.qps.filter (fun q => partOfQp? w q.1 == some p && qpReady w q.1)).map (·.1)
def readyParts (w : W) : List Nat := (List.range 16).filter (fun p => !(readyQps w p).isEmpty)

/-- The queue pair that is served next: round-robin over the partitions, and within a partition over its queue pairs
(R112). -/
def nextFetch (w : W) : Option Nat :=
  match (rotateAfter (w.b.fetchPart + 1) (readyParts w)).head? with
  | none => none
  | some p => (rotateAfter (tget w.b.fetchQps p 8191 + 1) (readyQps w p)).head?

/-- The front end takes the entry that it fetched: how often its byte parity fails, by the fault the row carries or by detector 0x02
with the front end's machine code; each failure but a second is a retry (R416, R430). -/
def frontParity (env : Env) (w : W) : Nat × W :=
  let hit := fun (w : W) => injHit w 2 0 && (tget w.b.ras.inj 2 {}).arg / 256 == 7
  let fire := fun (w : W) => if hit w then injFire 2 w else w
  if !hit w && env.par = 0 then (0, w)
  else
    let w := noteParity 0 7 (fire w)
    if hit w || decide (2 ≤ env.par) then (2, fire w) else (1, w)

/-- Queue pairs whose front-end state was hit: fault cause 7, and their Watches are marked for replay (R417, R418). -/
def frontReset (qs : List Nat) (w : W) : W :=
  qs.foldl (fun w q => if q < 8192 then qpFault q 7 (markReplay (getQp w q).ctx w) else w) w

/-- COMMAND_FETCH, of the queue pair whose turn it is: a read not answered OK faults the queue pair (R112). The read waits for
earlier requests of its lines. An entry whose parity fails is discarded and read once more; a second failure is one of the front
end (R416, R417). -/
def execCommandFetch (q : Nat) (env : Env) (s : State) : Host.Outcome State Fault Refusal :=
  run (fun w =>
    let k := getQp w q
    let slots := readySlots k
    if !frontRuns w || nextFetch w != some q then w
    else
      let a := k.sqBase + 64 * k.sqHead
      if !linesFree w a (64 * slots) then flushLines a (64 * slots) w
      else
        let p := (partOfQp? w q).getD 0
        let (c, d, w) := readSpan (seAcc env k.ctx) slots a { w with b.fetchPart := p, b.fetchQps := tset w.b.fetchQps p q }
        if c != .ok then qpFault q 1 w
        else match frontParity env w with
          | (0, w) => takeSlots env q (toLines d slots) w
          | (1, w) =>
            let (c, d, w) := readSpan (seAcc env k.ctx) slots a w
            if c != .ok then qpFault q 1 w else takeSlots env q (toLines d slots) w
          | (_, w) => setRas 3 0 7 (frontReset [q] (setRasLast 2 7 0 0 w))) s

/-! ### Doorbells and interrupts (R110, R125) -/

/-- A doorbell write (R110); one with neither valid bit does nothing (R481). -/
def doorbell (q : Nat) (v : Word) (w : W) : W :=
  let k := getQp w q
  if !v.getLsbD 16 && !v.getLsbD 48 then w
  else if !k.enable || !ctxRuns (getCtx w k.ctx) then writeIgnored (0x100000 + 8 * q) v w
  else
    let tail := bits v.toNat 15 0
    if v.getLsbD 16 && decide (2 ^ k.sqLog2 ≤ tail) then qpFault q 3 w
    else
      let w := if v.getLsbD 16 then modQp q (fun k => { k with sqTail := tail }) w else w
      let head := bits v.toNat 47 32
      let m := 2 ^ k.cqLog2
      if !v.getLsbD 48 then w
      else if m ≤ head || subMod k.cqTail k.cqHead m < subMod head k.cqHead m then qpFault q 6 w
      else modQp q (fun k => { k with cqHead := head }) w

/-- DOORBELL. -/
def execDoorbell (q : Nat) (v : Word) (s : State) : Host.Outcome State Fault Refusal :=
  run (fun w => if q < 8192 && portsOpen w then doorbell q v w else w) s

/-- IRQ_HOLDOFF_EXPIRY (R125). -/
def execIrqHoldoffExpiry (q : Nat) (s : State) : Host.Outcome State Fault Refusal :=
  run (fun w =>
    if !(getQp w q).holding then w
    else modQp q (fun k =>
      if k.heldIrq then { k with irqPend := true, heldIrq := false, holding := decide (0 < k.holdoffUs) }
      else { k with holding := false }) w) s

/-! ### PARTITION_SET (R99, R100) -/

/-- The definition that a PARTITION_SET gives. -/
def partOfArgs (k : Cmd) : Part :=
  { seMask := BitVec.ofNat 64 (arg k 0x18 8), ctxFirst := arg k 0x20 2, ctxCount := arg k 0x22 2, qpFirst := arg k 0x24 2
    qpCount := arg k 0x26 2, sliceUs := arg k 0x12 2, cmdShare := arg k 0x14 2, groupMax := arg k 0x28 2
    regionMax := arg k 0x16 2, poolKib := arg k 0x30 4 }

/-- Does the build lack an SE, or has it failed its self-test (R360)? -/
def seAbsent (w : W) (e : Nat) : Bool := decide (w.build.nse ≤ e) || w.b.glb.stfail0.getLsbD e

/-- Do two ranges, first and count, share a number? -/
def sharesRange (f n g m : Nat) : Bool := decide (f < g + m) && decide (g < f + n) && decide (0 < n) && decide (0 < m)

/-- Does a range, first and count, hold a number? -/
def inRange (f n i : Nat) : Bool := decide (f ≤ i) && decide (i < f + n)

/-- Group entries that a partition holds. -/
def groupsOf (w : W) (p : Nat) : Nat := (w.b.grps.filter (fun g => g.2.state != .free && g.2.part == p)).length

/-- Region entries that a partition holds. -/
def regionsOf (w : W) (p : Nat) : Nat := ((definedRgns w).filter (fun r => partOfCtx? w r.2.ctx == some p)).length

/-- The partitions with every pending move of an SE carried out (R100). -/
def definedParts (w : W) : Tbl Part :=
  w.b.parts.map (fun p => (p.1, { p.2 with seMask := (List.range 64).foldl (fun (m : Word) e =>
    match (getSe w e).moveTo with
    | none => m
    | some t => if t = p.1 then m ||| 1#64 <<< e else m &&& ~~~(1#64 <<< e)) p.2.seMask }))

/-- The checks of R99 on a new definition of a partition, beside the definitions the others have. Of several fields at fault
in the first row, INFO names the one at the lowest offset, and of a range that runs too far its COUNT (log entry 76). -/
def partCheck (w : W) (others : Tbl Part) (p : Nat) (d : Part) : Check :=
  let old := getPart w p
  let bad := fun (b : Bool) (off : Nat) => if b then fail .malformed off else none
  let sum := fun (f : Part → Nat) => others.foldl (fun n x => n + f x.2) (f d)
  firstFail [
    bad (decide (d.sliceUs < 10) || decide (10000 < d.sliceUs)) 0x12,
    bad ((List.range 64).any (fun e => d.seMask.getLsbD e && seAbsent w e)) 0x18,
    bad (d.ctxFirst == 0) 0x20, bad (decide (4096 < d.ctxFirst + d.ctxCount)) 0x22,
    bad (d.qpFirst % 512 != 0) 0x24, bad (d.qpCount % 512 != 0 || decide (8192 < d.qpFirst + d.qpCount)) 0x26,
    deny (others.any (fun x => x.2.seMask &&& d.seMask != 0)) 0x18,
    deny (others.any (fun x => sharesRange x.2.ctxFirst x.2.ctxCount d.ctxFirst d.ctxCount)) 0x20,
    deny (others.any (fun x => sharesRange x.2.qpFirst x.2.qpCount d.qpFirst d.qpCount)) 0x24,
    deny (w.b.ctxs.any (fun c => inRange old.ctxFirst old.ctxCount c.1 && !inRange d.ctxFirst d.ctxCount c.1 && c.2.state != .disabled)
      || w.b.qps.any (fun q => inRange old.qpFirst old.qpCount q.1 && !inRange d.qpFirst d.qpCount q.1 && q.2.enable)) 1,
    deny (decide (d.regionMax < regionsOf w p) || decide (d.groupMax < groupsOf w p)) 2,
    if 4096 < sum (·.cmdShare) || 16384 < sum (·.regionMax) || 256 < sum (·.groupMax) || 24576 < sum (·.poolKib)
    then fail .quota 5 else none]

/-- The partitions with every SE that they own or that moves to them (R100). -/
def claimedParts (w : W) : Tbl Part :=
  (definedParts w).map (fun x => (x.1, { x.2 with seMask := x.2.seMask ||| (getPart w x.1).seMask }))

/-- The checks of PARTITION_SET, in order (R99). -/
def partitionCheck (w : W) (k : Cmd) : Check :=
  let p := arg k 0x10 1 % 16
  firstFail [deny (k.id.q != fabricQ && k.part != 0) 0, partCheck w ((claimedParts w).filter (fun x => x.1 != p)) p (partOfArgs k)]

/-- The SEs that have still to leave a partition or to join it (R100). -/
def leaving (w : W) (p : Nat) : List Nat :=
  (List.range 64).filter (fun e => (getSe w e).moveTo == some p || ((getPart w p).seMask.getLsbD e && (getSe w e).moveTo.isSome))

/-- PARTITION_SET completes once every moved SE has left and joined (R100). -/
def partitionGo (env : Env) (k : Cmd) (w : W) : W :=
  if (leaving w (arg k 0x10 1 % 16)).isEmpty then done env k.id .ok 0 [] w else w

/-- The partition that owns an SE in a table of definitions; 16 for none. -/
def ownerIn (t : Tbl Part) (e : Nat) : Nat := ((t.find? (fun p => p.2.seMask.getLsbD e)).map (·.1)).getD 16

/-- New definitions take effect: an SE that holds a chunk leaves, and joins its new partition, when the chunk ends (R100). -/
def applyParts (new : Tbl Part) (w : W) : W :=
  let from_ := fun (e : Nat) => ownerIn w.b.parts e
  let stays := fun (e : Nat) => from_ e != 16 && from_ e != ownerIn new e && (getSe w e).run.isSome
  let mask := fun (p : Nat) => (List.range 64).foldl (fun (m : Word) e =>
    if (if stays e then from_ e else ownerIn new e) = p then m ||| 1#64 <<< e else m) 0
  let w1 := (List.range 64).foldl (fun w e =>
    let to_ := if stays e then some (ownerIn new e) else none
    if (getSe w e).moveTo == to_ then w else modSe e (fun s => { s with moveTo := to_ }) w) w
  { w1 with b.parts := new.map (fun (p : Nat × Part) => (p.1, { p.2 with seMask := mask p.1 })) }

/-- The new definition of PARTITION_SET; moves that wait for a chunk go on waiting (R100). -/
def partitionStart (env : Env) (k : Cmd) (w : W) : W :=
  partitionGo env k (applyParts (tset (definedParts w) (arg k 0x10 1 % 16) (partOfArgs k)) w)

/-- Is the start of a PARTITION_SET held: an IMAGE_PATCH runs, and the two are carried out one at a time (R373)? -/
def setHolds (w : W) (c : CmdId) : Bool := ((findCmd w c).map (fun k => k.phase == .fetched)).getD false && w.b.patch.isSome

/-- PARTITION_SET. -/
def execPartitionSet (c : CmdId) (env : Env) (s : State) : Host.Outcome State Fault Refusal :=
  run (fun w =>
    if setHolds w c then w
    else cmdRow c (isOp 0x84) env (fun k w => checked env k (partitionCheck w k) (partitionStart env k) w) (partitionGo env) w) s

/-! ### Contexts (R101 to R107) -/

/-- The streams and jobs of a command that is aborted, beside its runs and its Watch: Sounding, Restripe, Relight, a group's
waits, fetches (R104). -/
def dropWork (env : Env) (k : Cmd) (w : W) : W :=
  let o : Outc := { status := .aborted }
  let w := (w.b.streams.filter (fun s => s.cmd == k.id)).foldl (fun w s => match s.kind with
    | .sound => failSound env s.region o w
    | .restripe => dropRestripe env s.region o w
    | .encode => w) w
  let w := w.b.grps.foldl (fun w g =>
    if (g.2.relight.map (·.cmd)) == some k.id then failRelight env g.1 o w
    else modGrp g.1 (fun x => { x with cmds := x.cmds.filter (fun c => c != k.id)
                                       waitSettle := x.waitSettle.filter (fun c => c.1 != k.id)
                                       adopting := if x.adopting == some k.id then none else x.adopting }) w) w
  let w := { w with b.rgns := w.b.rgns.map (fun r => (r.1, if r.2.sweepCmd == some k.id then { r.2 with sweepCmd := none } else r.2))
                    b.fetches := (w.b.fetches.filter (fun o => opOf k != 0x64 || o.why != .cmd k.id)).map (fun o =>
                      if o.why == .cmd k.id then { o with why := .back } else o)
                    b.patch := if (w.b.patch.map (·.cmd)) == some k.id then none else w.b.patch
                    b.colls := w.b.colls.filter (fun c => c.cmd != k.id) }
  assignEngines 8 w

/-- Does an SE hold a chunk of a context in its commit phase? -/
def committing (w : W) (x : Nat) : Bool :=
  w.b.eng.ses.any (fun e => ((runOf w e.2).map (fun r => r.ctx == x)).getD false)

/-- The commands of a context that were fetched from its queue pairs and have not completed. -/
def ctxCmds (w : W) (x : Nat) : List Cmd := w.b.cmds.filter (fun k => k.ctx == x && k.id.q != fabricQ)

/-- What teardown does beyond the disable point (R104): the Watch is abandoned, every command completes ABORTED; a KERNEL_RUN
does so when its commit phases under way have ended and its units are complete (R285). The write-back of a degraded read in
progress goes on. -/
def teardownActs (env : Env) (x : Nat) (w : W) : W :=
  let w := watchTeardown x (abortRuns (fun r => r.ctx == x) w)
  let w := (ctxCmds w x).foldl (fun w k => dropWork env k w) w
  let w := (w.b.eng.runs.filter (fun r => r.ctx == x)).foldl (fun w r => finishRun env r.cmd w) w
  let busy := fun (w : W) (k : Cmd) => w.b.eng.runs.any (fun r => r.cmd == k.id) || k.outc.isSome
  let w := (ctxCmds w x).foldl (fun w k => if busy w k then w else complete env true k.id (abortOutc w k) w) w
  let w := settleCmds env w
  collWaiting env (kickAll w)

/-- The queue-pair actions of a reset (R107, R127), which also clear FAULT_CAUSE (DESIGN CHOICE, log entry 98); FENCEs that
wait on the queue pair complete ABORTED (R107, R121). -/
def resetQp (q : Nat) (w : W) : W :=
  modQp q (fun k => { k with enable := false, state := .disabled, faultCause := 0, sqHead := 0, sqTail := 0, cqHead := 0
                             cqTail := 0, numBase := k.numBase + k.fetched, fetched := 0, done := 0, phase := true
                             half := [], notOk := [] }) (failFences q w)

/-- The reset actions of a context (R107). -/
def resetCtx (env : Env) (x : Nat) (w : W) : W :=
  let qs := (w.b.qps.filter (fun q => q.2.ctx == x)).map (·.1)
  let w := settleCmds env (qs.foldl (fun w q => resetQp q w) w)
  modCtx x (fun c => { c with fault := false, faultCause := 0, faultQp := 0, tdLate := false, resetAfter := false }) w

/-- CTX_CTL.ENABLE written 1 (R101, R102). -/
def enableCtx (x : Nat) (w : W) : W :=
  let ignored := writeIgnored (0x200000 + 64 * x) 1 w
  if x = 0 then ignored
  else match (getCtx w x).state with
    | .disabled => if (partOfCtx? w x).isSome then modCtx x (fun c => { c with state := .active, enable := true }) w else ignored
    | .frozen => modCtx x (fun c => { c with state := .retiring, enable := true }) w
    | _ => ignored

/-- CTX_CTL.ENABLE written 0 (R102, R104). -/
def disableCtx (env : Env) (x : Nat) (w : W) : W :=
  if x = 0 || !ctxRuns (getCtx w x) then writeIgnored (0x200000 + 64 * x) 0 w
  else teardownActs env x (disablePoint x false w)

/-- CTX_CTL.RESET written 1 (R102, R107). -/
def ctxReset (env : Env) (x : Nat) (w : W) : W :=
  if x != 0 && ctxRuns (getCtx w x) then teardownActs env x (disablePoint x true w)
  else if x != 0 && (getCtx w x).state == .frozen then resetCtx env x w
  else writeIgnored (0x200000 + 64 * x) 4 w

/-- CTX_ENABLE. -/
def execCtxEnable (x : Nat) (s : State) : Host.Outcome State Fault Refusal := 
  run (fun w => if x < 4096 && portsOpen w then enableCtx x w else w) s

/-- CTX_DISABLE. -/
def execCtxDisable (x : Nat) (env : Env) (s : State) : Host.Outcome State Fault Refusal :=
  run (fun w => if x < 4096 && portsOpen w then disableCtx env x w else w) s

/-- CTX_RESET. -/
def execCtxReset (x : Nat) (env : Env) (s : State) : Host.Outcome State Fault Refusal :=
  run (fun w => if x < 4096 && portsOpen w then ctxReset env x w else w) s

/-- TEARDOWN_DONE: what is left of R104 is done, the reads that outlive teardown are noted, and the context is FROZEN, or
DISABLED without regions, after `ns` ns (R102, R105, R107). It waits for a commit phase under way (R278), and for completions
that still wait. -/
def execTeardownDone (x : Nat) (ns : Nat) (env : Env) (s : State) : Host.Outcome State Fault Refusal :=
  run (fun w =>
    if (getCtx w x).state != .teardown then w
    else
      let w := teardownActs env x w
      if committing w x || !(ctxCmds w x).isEmpty then w
      else
        let late := w.b.slices.any (fun s => s.2.md.any (fun m => m.who == .late x))
        let owns := !(rgnsOfCtx w x).isEmpty
        let reset := (getCtx w x).resetAfter
        let w := modCtx x (fun c => { c with state := if owns then .frozen else .disabled, tdNs := sat 0xFFFFFFFF ns
                                             tdLate := c.tdLate || late }) w
        let w := logOther 3 0 0 x [0x200018 + 64 * x, sat 0xFFFFFFFF ns, x] w
        if reset then resetCtx env x w else w) s

/-! ### Queue pairs (R108, R127) -/

/-- Does a run of bytes lie wholly in one RING region of a context? -/
def inRing (w : W) (x a n : Nat) : Bool :=
  (rgnsOfCtx w x).any (fun r => r.2.kind == .ring && decide (r.2.base ≤ a) && decide (a + n ≤ r.2.base + rgnBytes r.2))

/-- The cause for which a queue pair cannot be enabled (R108). -/
def enableFails (w : W) (q : Nat) : Option Nat :=
  let k := getQp w q
  let sq := (k.sqBase, 64 * 2 ^ k.sqLog2)
  let cq := (k.cqBase, 32 * 2 ^ k.cqLog2)
  if !ctxRuns (getCtx w k.ctx) || (partOfQp? w q).isNone || partOfCtx? w k.ctx != partOfQp? w q then some 5
  else if !inRing w k.ctx sq.1 sq.2 || !inRing w k.ctx cq.1 cq.2 || overlap sq cq then some 4
  else none

/-- ENABLE written 1 to a queue pair that is not enabled (R108). -/
def enableQp (q : Nat) (w : W) : W :=
  match enableFails w q with
  | some c => logOther 3 2 0 (getQp w q).ctx [0x110020 + 64 * q, c, q] (modQp q (fun k => { k with state := .fault, faultCause := c }) w)
  | none => modQp q (fun k => { k with enable := true, state := .active, faultCause := 0 }) w

/-- A write to QP_CTL (R12, R108, R127). While ENABLE is 1 the LOG2 fields are ignored, so that a reserved encoding in them
does not stop ENABLE, IRQ_ALL and HOLDOFF_US from acting, and no event is logged (DESIGN CHOICE, log entry 99: R12 would
ignore the whole write). FENCEs that wait on a queue pair that is disabled or reset complete ABORTED (R121). -/
def writeQpCtl (q : Nat) (v : Word) (w : W) : W :=
  let n := v.toNat
  let k := getQp w q
  let log := fun (x : Nat) => decide (4 ≤ x) && decide (x ≤ 16)
  if !k.enable && !(log (bits n 36 32) && log (bits n 44 40)) then writeIgnored (0x110000 + 64 * q) v w
  else
    let w := modQp q (fun k => { k with irqAll := v.getLsbD 1, holdoffUs := bits n 63 56 }) w
    if k.enable then
      if v.getLsbD 0 then w else settleCmds {} (modQp q (fun k => { k with enable := false, state := .disabled }) (failFences q w))
    else
      let w := modQp q (fun k => { k with ctx := bits n 27 16, sqLog2 := bits n 36 32, cqLog2 := bits n 44 40 }) w
      let w := if v.getLsbD 2 then settleCmds {} (resetQp q w) else w
      if v.getLsbD 0 then enableQp q w else w

/-- QP_ENABLE: QP_CTL written with ENABLE 1. -/
def execQpEnable (q : Nat) (v : Word) (s : State) : Host.Outcome State Fault Refusal :=
  run (fun w => if q < 8192 && portsOpen w then writeQpCtl q (v ||| 1) w else w) s

/-- QP_RESET: RESET written 1, which acts while ENABLE is 0. -/
def execQpReset (q : Nat) (s : State) : Host.Outcome State Fault Refusal :=
  run (fun w =>
    if 8192 ≤ q || !portsOpen w then w
    else if (getQp w q).enable then writeIgnored (0x110000 + 64 * q) 4 w
    else settleCmds {} (resetQp q w)) s

end Sys2Proof.Machine
end

