-- ==== Sys2Proof/Machine/Registers.lean ====
section
/-! DEFINITION. Register writes without an agent of their own that a PRESET may also make, and the quiescing of a slice
(R12, R78, R93, R189, R227, R355, R369, R376, R434, R457, R462). -/

namespace Sys2Proof.Machine

/-- What becomes of a write to an address. -/
inductive Wrote where
  /-- no register that software writes is there: ignored without an event (R462) -/
  | nothing
  /-- a reserved encoding, or a write the register's rule ignores: an event (R12) -/
  | ignored
  /-- the write acts -/
  | acts (w : W)

/-- A field of a written word. -/
def vbits (v : Word) (hi lo : Nat) : Nat := bits v.toNat hi lo

/-- The bits of a word from hi down to lo, in place. -/
def vmask (v : Word) (hi lo : Nat) : Word := BitVec.ofNat 64 (vbits v hi lo <<< lo)

/-- A write that acts unless a field holds a reserved encoding. -/
def writeIf (reserved : Bool) (w : W) : Wrote := if reserved then .ignored else .acts w

/-! ### Quiesce (R376, R434) -/

/-- The slots of a telemetry sample are written, each once its lines are free; a slot that collides with a request for its lines
yields and is tried again (R25, R450). -/
def sampleGo (env : Env) (w : W) : W :=
  w.b.tlm.todo.foldl (fun w x =>
    if linesFree w x.1 x.2.length then (writeBytes (bgAcc env) x.1 x.2 { w with b.tlm.todo := w.b.tlm.todo.filter (fun y => y != x) }).2
    else flushLines x.1 x.2.length w) w

/-- Does no work of the block's own wait for lines or ports apart from commands that have not started: no FETCH to answer, no
operation to ask its holders, no end of a Watch, no APPLY, no settling, no state transfer, no telemetry sample and no completion entry? -/
def nothingWaits (w : W) : Bool :=
  w.b.fetchWaits.isEmpty && w.b.fetches.all (fun o => o.asked || o.queued || o.waiting)
    && w.b.ctxs.all (fun c => c.2.watch.ending.isNone) && w.b.preps.all (fun p => p.applyCopies.isEmpty)
    && w.b.grps.all (fun g => g.2.settling.all (fun s => s.settled) && (g.2.relight.map (fun r => r.fetches.all (fun f => !stateFull f))).getD true)
    && w.b.cmds.all (fun k => k.outc.isNone) && w.b.tlm.todo.isEmpty

/-- Work of the block's own that waited for lines or ports goes on where it can (R22, R53, R376). Its accesses are answered OK: the
rows that set it free carry no answers of theirs (DESIGN CHOICE, log entry 107). -/
def resumeWork (w : W) : W :=
  if nothingWaits w then w
  else sampleGo {} (settleCmds {} (endAll {} (retryFetches {} (stateResume {} (settleAll {} (heldApplies {} w))))))

/-- Everything that waits for a slice goes on. -/
def wakeSlices (w : W) : W :=
  let w := (w.b.slices.map (·.1)).foldl (fun w p => serve p w) w
  resumeWork (loadAll (kickPde (kickAll w)))

/-- QUIESCE written 1: the merge buffer flushes and the open HOST units close (R376). -/
def quiesceOn (p : Nat) (w : W) : W :=
  if (getSlice w p).quiesce then w
  else
    let w := modSlice p (fun s => { s with quiesce := true }) w
    let w := (getSlice w p).merge.foldl (fun w m =>
      let w := flushEntry p m w
      kickLine p m.line ((hazAt w p m.line).length + 2) w) w
    closeHostUnits (pathOf w p) (fun _ => true) w

/-- The clock of a slice's memory port as CRP_CLKSTAT shows it (R434). -/
def noteClock (p : Nat) (on : Bool) (w : W) : W :=
  let m : BitVec 32 := 1#32 <<< p
  { w with b.crp.memClk := if on then w.b.crp.memClk ||| m else w.b.crp.memClk &&& ~~~m }

/-- QUIESCE goes back to 0; a quiesced slice whose clock has not toggled stays QUIESCED (R376, R434). -/
def quiesceOff (p : Nat) (clock : Bool) (w : W) : W :=
  let s := getSlice w p
  if !s.quiesce then w
  else
    let stays := isQuiesced s && !clock
    let w := noteClock p clock (modSlice p (fun s => { s with quiesce := false, noClock := stays }) w)
    if stays then logEv 0x0A01 1 p 0 [0, p] w else wakeSlices w

/-! ### Plain registers -/

/-- Beacon load of a port under a period: 512 B a peer against 4,100 B a µs (R93). -/
def beaconsFit (w : W) (period : Nat) : Bool :=
  (List.range w.build.nlp).all (fun l =>
    decide (512 * (w.b.lnk.peers.filter (fun p => p.2.aff == l)).length ≤ 4100 * period))

/-- A write to LNK_LANTERN (R93). -/
def writeLantern (v : Word) (w : W) : Wrote :=
  let n := vbits v 9 0
  writeIf (n == 0 || decide (1000 < n) || !beaconsFit w n) { w with b.lnk.periodUs := n }

/-- A write to MPS_CTL (R64). -/
def writeMpsCtl (p : Nat) (v : Word) (w : W) : W :=
  let w := modSlice p (fun s => { s with mergeDis := v.getLsbD 1 }) w
  if v.getLsbD 0 then quiesceOn p w else quiesceOff p true w

/-- A write to a register that a PRESET may name: an RW register of TLM, LNK_VCWT, LNK_PWT, LNK_LANTERN, MPS_CTL, GRP_DPCTL,
GRP_DPAGE, GRP_RCTL, RGN_BSWPCTL (R369). -/
def plainWrite (addr : Nat) (v : Word) (w : W) : Wrote :=
  if addr = 0x30018 then .acts { w with b.tlm.elAck := v }
  else if addr = 0x30028 then .acts { w with b.tlm.elSel := v }
  else if addr = 0x30080 then .acts { w with b.tlm.sampBase := vmask v 47 14 ||| vmask v 0 0 }
  else if addr = 0x30088 then
    writeIf (decide (vbits v 47 32 < 2) || vbits v 15 0 == 0 || decide (60000 < vbits v 15 0))
      { w with b.tlm.sampCfg := vmask v 47 32 ||| vmask v 15 0 }
  else if addr = 0x70018 then writeLantern v w
  else if 0x70100 ≤ addr && addr < 0x70180 then
    writeIf (vbits v 39 0 == 0) { w with b.lnk.vcwt := tset w.b.lnk.vcwt ((addr - 0x70100) / 8) (vmask v 39 0) }
  else if addr = 0x70180 then .acts { w with b.lnk.pwt0 := v }
  else if addr = 0x70188 then .acts { w with b.lnk.pwt1 := v }
  else if 0x80000 ≤ addr && addr < 0x90000 && addr % 0x800 = 0 then
    let p := (addr - 0x80000) / 0x800
    if p < w.build.nmp then .acts (writeMpsCtl p v w) else .nothing
  else if addr = 0xB0010 then writeIf (vbits v 15 0 == 0) { w with b.fetchUs := vbits v 15 0 }
  else if addr = 0xC0000 then
    writeIf (decide (vbits v 47 32 < 64) || vbits v 15 0 == 0)
      { w with b.hostCyc := vbits v 47 32, b.srcqKib := vbits v 31 16, b.auditMs := vbits v 15 0 }
  else if addr = 0xC0008 then writeIf (vbits v 31 0 == 0) { w with b.maxAgeUs := vbits v 31 0 }
  else if addr = 0x700000 then writeIf (vbits v 15 0 == 0) { w with b.sweepPeriodS := vbits v 15 0 }
  else .nothing

end Sys2Proof.Machine
end

