-- ==== Sys2Proof/Machine/Loader.lean ====
section
/-! DEFINITION. The loader: downloading, the checks and the verification of Naled images, their sections, and applying them
(R98, R360 to R374). -/

namespace Sys2Proof.Machine

/-! ### The image (R364 to R366) -/

/-- A section of an image: type, offset, bytes. -/
structure Sect where
  kind : Nat
  off : Nat
  len : Nat
  deriving DecidableEq, Repr

/-- The section table (R364). -/
def sectsOf (img : Bytes) : List Sect :=
  (List.range (fld img 7 1)).map (fun i =>
    let o := 0x40 + 16 * i
    { kind := fld img o 1, off := fld img (o + 4) 4, len := fld img (o + 8) 4 })

/-- The bytes of a section; none where the image has no section of the type. -/
def sectBytes (img : Bytes) (kind : Nat) : Option Bytes :=
  ((sectsOf img).find? (fun s => s.kind == kind)).map (fun s => bytesAt img s.off s.len)

/-- The offset of the SIG section. -/
def sigOff (img : Bytes) : Nat := (((sectsOf img).find? (fun s => s.kind == 4)).map (·.off)).getD 0

/-- The bit of a build in BUILD_MASK (R364). -/
def buildBit (b : Build) : Nat := 6 * b2n (b.nmp == 32) + 3 * b2n (b.nlp == 8) + (if b.nse = 64 then 2 else if b.nse = 32 then 1 else 0)

/-- Does the header break a rule other than those of FORMAT, NUMGEN and BUILD_MASK (R364, R365)? -/
def headerBreach (patch : Bool) (img : Bytes) (len : Nat) : Bool :=
  bytesAt img 0 4 != [0x4E, 0x41, 0x4C, 0x44] || fld img 6 1 != b2n patch || decide (fld img 7 1 < 2) || decide (8 < fld img 7 1)
    || fld img 8 4 != len || !zeroAt img 0x1E 34

/-- Does the section table break a rule (R364 to R366)? -/
def tableBreach (patch : Bool) (img : Bytes) (len : Nat) : Bool :=
  let ss := sectsOf img
  let has := fun (k : Nat) => ss.any (fun s => s.kind == k)
  let ix := List.range ss.length
  let at_ := fun (i : Nat) => ss.getD i { kind := 0, off := 0, len := 0 }
  decide (len < 0x40 + 16 * ss.length)
    || ss.any (fun s => s.kind == 0 || decide (4 < s.kind) || s.off % 64 != 0 || decide (s.off < 0xC0) || decide (len < s.off + s.len))
    || ix.any (fun i => !zeroAt img (0x41 + 16 * i) 3 || !zeroAt img (0x4C + 16 * i) 4)
    || ix.any (fun i => ix.any (fun j => decide (i < j) &&
        ((at_ i).kind == (at_ j).kind || overlap ((at_ i).off, (at_ i).len) ((at_ j).off, (at_ j).len))))
    || (match ss.getLast? with | some s => s.kind != 4 || s.off + s.len != len || s.len != 5504 | none => true)
    || (if patch then decide (ss.length < 2) else !(has 1 && has 2 && has 3 && has 4))

/-- The ERR of the header and section table; the breach with a code of its own decides (R365). -/
def tableErr (b : Build) (patch : Bool) (img : Bytes) (len : Nat) : Option Nat :=
  if fld img 4 1 != 2 || fld img 5 1 != 3 then some 4
  else if !bit (fld img 0x18 2) (buildBit b) then some 3
  else if headerBreach patch img len then some 1
  else if tableBreach patch img len then some 2
  else none

/-- Fuse words from an index on, as bytes (R380). -/
def fuseBytes (s : Sec) (first n : Nat) : Bytes := ((s.fuses.drop first).take n).flatMap (fun w => toLe 8 w.toNat)

/-- MIN_SVN (R380). -/
def minSvn (s : Sec) : Nat := ((s.fuses.getD 16 0).toNat) % 2 ^ 32

/-- The ERR of an image's verification, in the order of R366; `floor` is the least SVN admitted. -/
def verifyErr (w : W) (patch : Bool) (floor : Nat) (img : Bytes) (len : Nat) : Option Nat :=
  match tableErr w.build patch img len with
  | some e => some e
  | none =>
    let s := w.b.sec
    let o := sigOff img
    let sig := bytesAt img o 5504
    let d := padTo 48 (Config.sha3_384 (img.take o))
    if !s.keyOk || padTo 48 (Config.sha3_384 (bytesAt sig 0 96)) != fuseBytes s 4 6 then some 5
    else if padTo 48 (Config.sha3_384 (bytesAt sig 0xC0 1952)) != fuseBytes s 10 6 then some 6
    else if !Config.ecdsaVerify (bytesAt sig 0 96) d (bytesAt sig 0x60 96) then some 7
    else if !Config.mldsaVerify (bytesAt sig 0xC0 1952) d (bytesAt sig 0x860 3309) then some 8
    else if fld img 0x0C 4 < floor then some 9
    else none

/-! ### Sections (R367 to R369) -/

/-- Is a HELM section one the loader can start (R367)? -/
def helmOk (h : Bytes) : Bool :=
  let n := fld h 0 4
  decide (4 ≤ n) && decide (n ≤ 1048576) && decide (64 + n ≤ h.length) && decide (fld h 4 4 < n)

/-- The entries of a LIB section: slot and kernel image, empty to empty the slot; none for a broken section (R368). -/
def libEntries : Nat → Bytes → Option (List (Nat × Bytes))
  | 0, _ => none
  | n + 1, b =>
    if b.isEmpty then some []
    else
      let slot := fld b 0 1
      let len := fld b 4 4
      let img := (b.drop 8).take len
      if b.length < 8 + len || slot < 192 || !zeroAt b 1 3 || (len != 0 && (imageBad img).isSome) then none
      else (libEntries n (b.drop (8 + len))).map (fun t => (slot, img) :: t)

/-- The LIB entries of an image; no section, no entries. -/
def libOf (img : Bytes) : Option (List (Nat × Bytes)) :=
  match sectBytes img 2 with
  | none => some []
  | some b => libEntries (b.length + 1) b

/-- Place library kernels in section order, each in the lowest free span; none when one does not fit (R273, R368). -/
def placeLib : List (Nat × Bytes) → W → Option W
  | [], w => some w
  | (slot, img) :: t, w =>
    if img.isEmpty then placeLib t { w with b.eng.kslots := terase w.b.eng.kslots slot }
    else match kAlloc (kSpans w slot) (fld img 6 2) with
      | none => none
      | some base => placeLib t (placeKernel slot 0 img base w)

/-- Replace every slot of a library at once (R368, R373). -/
def swapLib (l : List (Nat × Bytes)) (w : W) : Option W :=
  placeLib l { w with b.eng.kslots := w.b.eng.kslots.filter (fun k => !(l.any (fun e => e.1 == k.1))) }

/-- The records of a STRUCT section. -/
def recordsOf (b : Bytes) : List Bytes := toLines b (b.length / 64)

/-- Does a record break its layout; presets only where they are allowed (R369)? -/
def recordBad (presets : Bool) (r : Bytes) : Bool :=
  match fld r 0 1 with
  | 1 => !zeroAt r 1 15 || !((argsOf 0x84).flatMap (fieldBad r)).isEmpty
      || !(uncoveredBad r (fAny 0 16 :: argsOf 0x84)).isEmpty
  | 2 => !presets || !zeroAt r 1 7 || !zeroAt r 0x0C 4 || !zeroAt r 0x18 40 || fld r 8 4 % 8 != 0
  | _ => true

/-- The records of an image's STRUCT section; none for a broken one (R369). -/
def structOf (presets : Bool) (img : Bytes) : Option (List Bytes) :=
  match sectBytes img 3 with
  | none => some []
  | some b => if b.length % 64 != 0 || (recordsOf b).any (recordBad presets) then none else some (recordsOf b)

/-- A record as the command it stands for, to read its fields. -/
def recordCmd (r : Bytes) : Cmd := { id := { q := fabricQ, n := 0 }, slot := padTo 64 r, ctx := 0, part := 0 }

/-- The partition definitions of a list of records, over a table (R369). -/
def partsOver (rs : List Bytes) (t : Tbl Part) : Tbl Part :=
  (rs.filter (fun r => fld r 0 1 == 1)).foldl (fun t r => tset t (fld r 0x10 1 % 16) (partOfArgs (recordCmd r))) t

/-- The first check of R99 that the partitions named by records fail in a resulting table. -/
def partsCheck (w : W) (rs : List Bytes) (t : Tbl Part) : Check :=
  (rs.filter (fun r => fld r 0 1 == 1)).findSome? (fun r =>
    let p := fld r 0x10 1 % 16
    partCheck w (t.filter (fun x => x.1 != p)) p (tget t p {}))

/-- The partition table of an image without PARTITION records (R98). -/
def defaultParts (b : Build) : Tbl Part :=
  [(0, { seMask := BitVec.ofNat 64 (2 ^ b.nse - 1), ctxFirst := 1, ctxCount := 4095, qpFirst := 0, qpCount := 8192, sliceUs := 100
         cmdShare := 4096, groupMax := 256, regionMax := 16384, poolKib := 24576 })]

/-- Make the presets in record order; none when one names another register or writes a reserved encoding (R369). -/
def makePresets : List Bytes → W → Option W
  | [], w => some w
  | r :: t, w =>
    if fld r 0 1 != 2 then makePresets t w
    else match plainWrite (fld r 8 4) (BitVec.ofNat 64 (fld r 0x10 8)) w with
      | .acts w => makePresets t w
      | _ => none

/-- The code of a HELM section, and where it starts (R367). -/
def helmCode (h : Bytes) : Bytes := bytesAt h 64 (fld h 0 4)

/-- Copy the code of a HELM section into an instruction bank (R367, R374). -/
def loadBank (bank : Nat) (h : Bytes) (w : W) : W :=
  { w with b.glb.banks := tset w.b.glb.banks bank (helmCode h), b.glb.entries := tset w.b.glb.entries bank (fld h 4 4) }

/-- The firmware of a HELM section runs from a bank (R367, R374). -/
def runBank (bank : Nat) (h : Bytes) (w : W) : W :=
  { w with b.glb.bank := bank, b.glb.helmVer := BitVec.ofNat 64 (fld h 0x10 8), b.glb.hstate := fld h 8 2 }

/-! ### Applying a FULL image (R370) -/

/-- The tables of every other unit, cleared (R370). -/
def clearTables (w : W) : W :=
  { w with b.ctxs := [], b.qps := [], b.cmds := [], b.rgns := [], b.grps := [], b.units := [], b.pool := [], b.preps := []
           b.maps := [], b.tombs := [], b.applied := [], b.ahead := [], b.cutoffs := [], b.fetches := [], b.fetchWaits := []
           b.streams := [], b.descs := [], b.ends := [], b.colls := [], b.wdoms := [], b.lnk.peers := [] }

/-- The load fails: back to DARK with nothing applied, the loader READY again (R356, R370). -/
def failLoad (err : Nat) (w : W) : W :=
  logOther 0x0C 0 0 0 [0x20008, err, 0] (setState .dark { w with b.ldr.phase := .ready, b.ldr.err := err })

/-- A FULL image applied in the order of R370, or the ERR of the section that fails. -/
def applyImage (img : Bytes) (w : W) : Except Nat W :=
  match sectBytes img 1, libOf img, structOf true img with
  | none, _, _ => .error 0x0E
  | some _, none, _ => .error 0x0C
  | some _, _, none => .error 0x0D
  | some h, some lib, some rs =>
    if !helmOk h then .error 0x0E
    else match placeLib lib { w with b.eng.kslots := [] } with
      | none => .error 0x0C
      | some w =>
        let parts := partsOver rs []
        let parts := if parts.isEmpty then defaultParts w.build else parts
        if (partsCheck w rs parts).isSome then .error 0x0D
        else match makePresets rs { w with b.parts := parts } with
          | none => .error 0x0D
          | some w =>
            let report := [fld h 0x10 8, fld h 8 2, w.b.eng.kslots.length, (rs.filter (fun r => fld r 0 1 == 1)).length,
              (rs.filter (fun r => fld r 0 1 == 2)).length, w.b.crp.tCore - w.b.ldr.verNs, 0, 0]
            .ok { (runBank 0 h (loadBank 0 h (clearTables w))) with
              b.glb.imgId := BitVec.ofNat 64 (fld img 0x10 8), b.glb.svn := fld img 0x0C 4, b.glb.imgOk := true, b.glb.helmOk := true
              b.ldr.mbox := report.map (BitVec.ofNat 64) }

/-! ### Downloading (R361 to R363) -/

/-- The download ends: the image is in the loader buffer and its verification begins (R356). -/
def downloaded (img : Bytes) (w : W) : W :=
  setState .loading { w with b.ldr.buf := img, b.ldr.phase := .verifying, b.ldr.lines := [] }

/-- Does a download run: it started in DARK and the block has not left DARK since (R356, R361)? -/
def downloading (w : W) : Bool := w.b.glb.state == .dark && w.b.ldr.phase == .receiving

/-- Is a request the loader's? -/
def ofLoader (m : MdReq) : Bool := match m.who with | .loader _ => true | _ => false

/-- Reads of the loader outstanding on a port (R363). -/
def loaderReads (w : W) (p : Nat) : Nat :=
  let s := getSlice w p
  (s.md.filter ofLoader).length + (s.waitq.filter (fun x => ofLoader x.req)).length

/-- Ask for the next lines of a FETCH download, at most 16 a port (R363). -/
def fetchMore (base : Nat) : Nat → W → W
  | 0, w => w
  | n + 1, w =>
    let o := w.b.ldr.next
    let p := portOf w.build (base + o)
    if w.b.ldr.total ≤ o || 16 ≤ loaderReads w p then w
    else fetchMore base n (issue p { tag := 0, addr := base + o, lines := 1, op := 0, cls := .background, who := .loader o }
      { w with b.ldr.next := o + 64 })

/-- The reads of a download that has ended are answered to nobody; those that still wait are not made. -/
def dropReads (w : W) : W :=
  { w with b.slices := w.b.slices.map (fun (s : Nat × Slice) => (s.1, { s.2 with
      md := mapIf ofLoader (fun m => { m with who := .late 0 }) s.2.md, waitq := s.2.waitq.filter (fun x => !ofLoader x.req) })) }

/-- GO (R361): acts in DARK while the loader is READY, with a LEN of the rule. -/
def startDownload (w : W) : Wrote :=
  let l := w.b.ldr
  if w.b.glb.state != .dark || l.phase != .ready || l.len % 64 != 0 || l.len < 64 || 2097152 < l.len then .ignored
  else
    let fetch := l.mode == 2
    let w := { w with b.ldr.phase := .receiving, b.ldr.bytes := 0, b.ldr.buf := [], b.ldr.lines := [], b.ldr.next := 0
                      b.ldr.total := l.len, b.ldr.base := if fetch then some l.addr else none }
    .acts (if fetch then fetchMore l.addr 512 w else w)

/-- A write to LDR_CTL (R12, R361, R362, R378). -/
def writeLdrCtl (v : Word) (w : W) : Wrote :=
  let mode := vbits v 1 0
  if mode = 0 || mode = 3 then .ignored
  else
    let w := { w with b.ldr.mode := mode, b.ldr.len := vbits v 63 32 }
    let stream := downloading w && w.b.ldr.base.isNone
    if v.getLsbD 3 && stream then .acts { w with b.ldr.phase := .ready, b.ldr.err := 0x0B, b.ldr.buf := [] }
    else if v.getLsbD 2 then startDownload w
    else .acts w

/-- A write to LDR_DATA: the next 8 bytes, outside RECEIVING of a stream ignored and logged (R362). -/
def writeLdrData (v : Word) (w : W) : Wrote :=
  let l := w.b.ldr
  if !downloading w || l.base.isSome then .ignored
  else
    let buf := l.buf ++ toLe 8 v.toNat
    let w := { w with b.ldr.buf := buf, b.ldr.bytes := l.bytes + 8 }
    .acts (if l.bytes + 8 = l.total then downloaded buf w else w)

/-- The answer to a read of a FETCH download (R363). -/
def loaderAnswer (off : Nat) (c : Rsp) (w : W) : W :=
  match w.b.ldr.base with
  | none => w
  | some base =>
    if !downloading w then w
    else if c != .ok then
      logOther 0x0C 0 0 0 [0x20008, 0x0A, base + off] (dropReads { w with b.ldr.phase := .ready, b.ldr.err := 0x0A, b.ldr.lines := [] })
    else
      let ls := tset w.b.ldr.lines off (getBytes w (base + off) 64)
      let w := { w with b.ldr.lines := ls, b.ldr.bytes := w.b.ldr.bytes + 64 }
      if w.b.ldr.bytes = w.b.ldr.total then downloaded (ls.flatMap (·.2)) w else fetchMore base 512 w

/-! ### The rows -/

/-- The outcome of a write with its event (R12, R462). -/
def settleWrite (addr : Nat) (v : Word) (w : W) : Wrote → W
  | .nothing => w
  | .ignored => writeIgnored addr v w
  | .acts w => w

/-- May a write act in a window of DARK, LOADING and the states after them (R468)? -/
def writable (w : W) : Bool := w.b.glb.state != .reset

/-- LDR_DOWNLOAD_GO: LDR_CTL written with GO 1. -/
def execLdrDownloadGo (v : Word) (s : State) : Host.Outcome State Fault Refusal :=
  run (fun w => if writable w then settleWrite 0x20000 (v ||| 4) w (writeLdrCtl (v ||| 4) w) else w) s

/-- LDR_ABORT: LDR_CTL written with ABORT 1, MODE and LEN as they are (R362). -/
def execLdrAbort (s : State) : Host.Outcome State Fault Refusal :=
  run (fun w =>
    let v := BitVec.ofNat 64 (w.b.ldr.len <<< 32 + 8 + w.b.ldr.mode)
    if writable w then settleWrite 0x20000 v w (writeLdrCtl v w) else w) s

/-- LDR_DATA (R362). -/
def execLdrData (v : Word) (s : State) : Host.Outcome State Fault Refusal :=
  run (fun w => if writable w then settleWrite 0x20018 v w (writeLdrData v w) else w) s

/-- Did the Helm fail its self-test (R360)? -/
def helmFailed (w : W) : Bool := w.b.glb.stfail1.getLsbD 59

/-- IMAGE_VERIFIED: verification ends. With a Helm that failed its self-test the block enters PASS with nothing applied
(R360, R366, R370, R397). -/
def execImageVerified (s : State) : Host.Outcome State Fault Refusal :=
  run (fun w =>
    if w.b.glb.state != .loading || w.b.ldr.phase != .verifying then w
    else match verifyErr w false (minSvn w.b.sec) w.b.ldr.buf w.b.ldr.total with
      | some e => failLoad e (if 5 ≤ e && e ≤ 8 then authFailure e w else w)
      | none =>
        if helmFailed w then setState .pass { (clearTables w) with b.ldr.phase := .done }
        else { w with b.ldr.phase := .applying, b.ldr.verNs := w.b.crp.tCore }) s

/-- IMAGE_APPLIED: the Helm has applied the sections and reported, or a section failed (R370). -/
def execImageApplied (s : State) : Host.Outcome State Fault Refusal :=
  run (fun w =>
    if w.b.glb.state != .loading || w.b.ldr.phase != .applying then w
    else match applyImage w.b.ldr.buf w with
      | .ok w => setState .pass { w with b.ldr.phase := .done }
      | .error e => failLoad e w) s

/-- HELM_REPORT_TIMEOUT (R370). -/
def execHelmReportTimeout (s : State) : Host.Outcome State Fault Refusal :=
  run (fun w => if w.b.glb.state == .loading && w.b.ldr.phase == .applying then failLoad 0x0E w else w) s

/-! ### IMAGE_PATCH (R372 to R374) -/

/-- The partition table that a patch's records give, the SEs of a pending move counted for both their partitions (R369). -/
def patchTable (w : W) (rs : List Bytes) : Tbl Part := partsOver rs (claimedParts w)

/-- Why a patch image is not accepted: the ERR of its verification, or of a section (R367 to R369, log entry 109). -/
def patchErr (w : W) (img : Bytes) (len : Nat) : Option Nat :=
  match verifyErr w true (max (minSvn w.b.sec) w.b.glb.svn) img len with
  | some e => some e
  | none =>
    if ((sectBytes img 1).map (fun h => !helmOk h)).getD false then some 0x0E
    else match libOf img, structOf false img with
      | none, _ => some 0x0C
      | _, none => some 0x0D
      | some _, some rs => if (partsCheck w rs (patchTable w rs)).isSome then some 0x0D else none

/-- The Helm state format lies outside what a HELM section takes over from (R372). -/
def formatRefused (w : W) (img : Bytes) : Bool :=
  (sectBytes img 1).isSome && (decide (w.b.glb.hstate < fld img 0x1A 2) || decide (fld img 0x1C 2 < w.b.glb.hstate))

/-- A patch ends with a status. -/
def endPatch (env : Env) (c : CmdId) (st : Status) (info : Nat) (w : W) : W := done env c st info [] { w with b.patch := none }

/-- A patch has succeeded (R373). -/
def finishPatch (env : Env) (p : Patch) (w : W) : W :=
  endPatch env p.cmd .ok 0 { w with b.glb.imgId := BitVec.ofNat 64 (fld p.image 0x10 8), b.glb.svn := fld p.image 0x0C 4 }

/-- SEs that have still to move (R100). -/
def sesMoving (w : W) : Bool := (List.range 64).any (fun e => (getSe w e).moveTo.isSome)

/-- Stages 2 and 3 of a patch: the PARTITION records as one set (R99, R100, R373). -/
def patchParts (env : Env) (p : Patch) (w : W) : W :=
  if p.stage = 3 then (if sesMoving w then w else finishPatch env p w)
  else match structOf false p.image with
    | none => endPatch env p.cmd .denied 0xA2 w
    | some rs =>
      match partsCheck w rs (patchTable w rs) with
      | some o => endPatch env p.cmd o.status o.info w
      | none =>
        let w := if rs.isEmpty then w else applyParts (partsOver rs (definedParts w)) w
        if sesMoving w && !rs.isEmpty then { w with b.patch := some { p with stage := 3 } } else finishPatch env p w

/-- Kernel runs that have started and name one of the slots (R373). -/
def slotsBusy (w : W) (slots : List Nat) : Bool :=
  w.b.cmds.any (fun k => opOf k == 0x40 && k.phase == .running && slots.contains (arg k 0x10 1))

/-- Stage 1 of a patch: once no run names a slot of the section, the slots are replaced at once (R373). -/
def patchLib (env : Env) (p : Patch) (w : W) : W :=
  let lib := (libOf p.image).getD []
  if slotsBusy w p.slots then { w with b.patch := some { p with stage := 1 } }
  else match swapLib lib w with
    | none => endPatch env p.cmd .quota 7 w
    | some w =>
      let p := { p with stage := 2 }
      patchParts env p { w with b.patch := some p }

/-- A hand-over begins: the new code stands in the inactive bank, and the running Helm has written its state (R374). -/
def handOver (h : Bytes) (w : W) : W := loadBank (1 - w.b.glb.bank) h { w with b.glb.savedFmt := some w.b.glb.hstate }

/-- Go on with a patch where it stands. -/
def patchGo (env : Env) (w : W) : W :=
  match w.b.patch with
  | none => w
  | some p => if p.stage = 0 then w else if p.stage = 1 then patchLib env p w else patchParts env p w

/-- IMAGE_PATCH once its source and place are accepted: read, verify, and start (R372, R373, R397). -/
def patchStart (env : Env) (k : Cmd) (w : W) : W :=
  let a := arg k 0x10 8
  let len := arg k 0x18 4
  onReads a len (fun w =>
    let (c, img, w) := readBytes (seAcc env k.ctx) a len w
    if c != .ok then done env k.id .denied 0xA1 [] w
    else match patchErr w img len with
      | some e =>
        let w := if 5 ≤ e && e ≤ 8 && (w.b.glb.state == .service || w.b.glb.state == .pass) then alarm2 2 w else w
        done env k.id .denied 0xA2 (toLe 1 e) w
      | none =>
        let lib := (libOf img).getD []
        if formatRefused w img then done env k.id .denied 0xA3 [] w
        else if w.b.patch.isSome then done env k.id .denied 0xA5 [] w
        else if (swapLib lib w).isNone then done env k.id .quota 7 [] w
        else
          let p : Patch := { cmd := k.id, image := img, stage := if (sectBytes img 1).isSome then 0 else 1
                             slots := lib.map (·.1) }
          let w := { w with b.patch := some p, b.ldr.buf := img }
          match sectBytes img 1 with
          | some h => handOver h w
          | none => patchGo env w) w

/-- The checks of IMAGE_PATCH before the image is read (R372). -/
def patchCheck (w : W) (k : Cmd) : Check :=
  firstFail [deny (k.id.q != fabricQ && k.part != 0) 0xA0, deny (!inPlain w k.ctx (arg k 0x10 8) (arg k 0x18 4)) 0xA1]

/-- IMAGE_PATCH. -/
def execImagePatch (c : CmdId) (env : Env) (s : State) : Host.Outcome State Fault Refusal :=
  run (cmdRow c (isOp 0x83) env (fun k w => checked env k (patchCheck w k) (patchStart env k) w)
    (fun k w => if (w.b.patch.map (·.cmd)) == some k.id then patchGo env w else patchStart env k w)) s

/-- The pause of the Helm ends (R374). -/
def endPause (w : W) : W := { w with b.glb.savedFmt := none }

/-- The new firmware signals ready: the inactive bank runs, and the library follows (R373, R374). A hand-over whose command is
gone leaves the old bank running. -/
def handOverReady (env : Env) (w : W) : W :=
  match w.b.patch with
  | some p =>
    if p.stage != 0 then endPause w
    else patchGo env (runBank (1 - w.b.glb.bank) ((sectBytes p.image 1).getD [])
      (endPause { w with b.patch := some { p with stage := 1 } }))
  | none => endPause w

/-- The new firmware does not signal ready: the old bank restarts on the saved state and nothing changes (R373, R374). -/
def handOverFailed (env : Env) (w : W) : W :=
  let w := endPause { w with b.glb.hstate := w.b.glb.savedFmt.getD w.b.glb.hstate }
  match w.b.patch with
  | some p => if p.stage = 0 then endPatch env p.cmd .denied 0xA4 w else w
  | none => w

/-- PATCH_LIBRARY_SWAP. -/
def execPatchLibrarySwap (env : Env) (s : State) : Host.Outcome State Fault Refusal :=
  run (fun w => match w.b.patch with
    | some p => if p.stage = 1 then patchLib env p w else w
    | none => w) s

/-- PATCH_SLOT_TIMEOUT: step 1 stands, step 2 changes nothing (R373). -/
def execPatchSlotTimeout (env : Env) (s : State) : Host.Outcome State Fault Refusal :=
  run (fun w => match w.b.patch with
    | some p => if p.stage = 1 then endPatch env p.cmd .timeout 0 w else w
    | none => w) s

end Sys2Proof.Machine
end

