-- ==== Sys2Proof/Machine/Ports.lean ====
section
/-! DEFINITION. The rows of the memory ports, of quiescing, of SERVE, and of draining one state engine (R33 to R64, R287,
R357, R375, R376, R434). -/

namespace Sys2Proof.Machine

/-! ### Host requests (R35 to R54, R59) -/

/-- MP_READ. -/
def execMpRead (p : Nat) (r : MpReq) (s : State) : Host.Outcome State Fault Refusal := run (acceptHost p 0 r) s

/-- MP_WRITE. -/
def execMpWrite (p : Nat) (r : MpReq) (s : State) : Host.Outcome State Fault Refusal := run (acceptHost p 1 r) s

/-- MP_WRITE_MASKED. -/
def execMpWriteMasked (p : Nat) (r : MpReq) (s : State) : Host.Outcome State Fault Refusal := run (acceptHost p 2 r) s

/-- MP_ATOMIC. -/
def execMpAtomic (p : Nat) (r : MpReq) (s : State) : Host.Outcome State Fault Refusal := run (acceptHost p 3 r) s

/-! ### Downstream answers (R39, R55) -/

/-- The answers to the lines of an SE's load. -/
def seAnswers (e k t : Nat) (m : MdReq) (codes : List Rsp) (w : W) : W :=
  (List.range m.lines).foldl (fun w i =>
    let line := m.addr + 64 * i
    let (c, d, w) := memAnswer { m with addr := line } (codes.getD i .error) w
    seLine e k t line c d w) w

/-- The answer to a load that its SE no longer waits for: the load's hazard entry is free (R53, R276). -/
def lateLoad (p line : Nat) (w : W) : W :=
  let q := (hazAt w p line).filter (fun i => !(i.started && (match i.job with | .se _ _ _ => true | _ => false)))
  goOnSlice p (kickLine p line (q.length + 2) (setHaz p line q w))

/-- The answers of a request that nobody waits for, or of the loader's: DENIED and ERROR set MD_ERROR (R64). -/
def noteAnswers (p : Nat) (m : MdReq) (codes : List Rsp) (w : W) : W :=
  (List.range m.lines).foldl (fun w i =>
    let c := codes.getD i .error
    if c == .denied || c == .error then setMpsErr p 0 (m.addr + 64 * i) m.ctx w else w) w

/-- A downstream answer goes to the one who asked (R55); nobody waits for an answer of a torn-down context (R105). -/
def mdAnswer (p : Nat) (m : MdReq) (codes : List Rsp) (w : W) : W :=
  match m.who with
  | .host tag =>
    match (getSlice w p).reqs.find? (fun r => r.tag == tag) with
    | none => w
    | some r => (List.range m.lines).foldl (fun w i => hostLine p r i (codes.getD i .error) w) w
  | .job q id =>
    let (c, d, w) := memAnswer m (codes.getD 0 .error) w
    jobAnswer q id c d w
  | .se e k t => loadAll (seAnswers e k t m codes w)
  | .loader off => loaderAnswer off (codes.getD 0 .error) (noteAnswers p m codes w)
  | .late _ =>
    let w := noteAnswers p m codes w
    if m.op = 0 then lateLoad p m.addr w else lateAnswer m codes w

/-- MD_RESPONSE: an answer with one code a line frees its tag and goes to its requester, then what waits for the port goes on; one
that answers no request outstanding is discarded (R22, R39, R55). -/
def execMdResponse (p : Nat) (tag : Nat) (codes : List Rsp) (s : State) : Host.Outcome State Fault Refusal :=
  run (fun w =>
    match (getSlice w p).md.find? (fun m => m.tag == tag) with
    | none => w
    | some m =>
      if codes.length != m.lines then w
      else resumeWork (serve p (mdAnswer p m codes (modSlice p (fun s => { s with md := s.md.filter (fun x => x.tag != tag) }) w)))) s

/-- MERGE_FLUSH_TIMEOUT: a merge entry has reached its age (R51). -/
def execMergeFlushTimeout (p : Nat) (line : Nat) (s : State) : Host.Outcome State Fault Refusal :=
  run (fun w =>
    match mergeAt w p line with
    | none => w
    | some m =>
      let w := flushEntry p m w
      kickLine p line ((hazAt w p line).length + 2) w) s

/-! ### Quiesce (R376, R434) -/

/-- May a write act in every window (R468)? -/
def allWritable (w : W) : Bool := portsOpen w

/-- QUIESCE: MPS_CTL.QUIESCE written 1. -/
def execQuiesce (p : Nat) (s : State) : Host.Outcome State Fault Refusal :=
  run (fun w => if p < w.build.nmp && allWritable w then quiesceOn p w else w) s

/-- QUIESCE_EXPIRED: 50 µs after QUIESCE was set (R376). -/
def execQuiesceExpired (p : Nat) (clock : Bool) (s : State) : Host.Outcome State Fault Refusal :=
  run (fun w => if (getSlice w p).quiesce then quiesceOff p clock (logEv 0x0101 0 p 0 [0, p] w) else w) s

/-- QUIESCE_CLEARED: MPS_CTL.QUIESCE written 0. -/
def execQuiesceCleared (p : Nat) (clock : Bool) (s : State) : Host.Outcome State Fault Refusal :=
  run (fun w => if p < w.build.nmp && allWritable w then quiesceOff p clock w else w) s

/-- MEM_CLOCK_RESUMED: 1 µs after the clock toggles again (R434). -/
def execMemClockResumed (p : Nat) (s : State) : Host.Outcome State Fault Refusal :=
  run (fun w =>
    if (getSlice w p).noClock then wakeSlices (modSlice p (fun s => { s with noClock := false }) (noteClock p true w)) else w) s

/-! ### SERVE (R60, R287, R357) -/

/-- The conditions of SERVE written 1. -/
def mayServe (w : W) : Bool :=
  w.b.glb.state == .pass && w.b.glb.helmOk && w.b.sec.keyOk
    && (List.range w.build.nmp).any (fun p => !w.b.glb.stfail1.getLsbD p) && (List.range w.build.nlp).any (lpWorks w)

/-- The conditions of SERVE written 0. -/
def mayStopServing (w : W) : Bool :=
  w.b.glb.state == .service && w.b.grps.all (fun g => g.2.state == .free) && w.b.ctxs.all (fun c => c.2.watch.phase == .idle)

/-- Coded traffic ends: the open HOST units close (R160) and the merge buffers flush; in the new state every chunk outside its commit
phase is discarded, so that held writes start as that state gives (R24, R59), and every KERNEL_RUN completes ABORTED (R60, R287). -/
def leaveService (env : Env) (to_ : BlockState) (w : W) : W :=
  let w := w.b.slices.foldl (fun w s => closeHostUnits s.1 (fun _ => true) w) w
  let w := setState to_ (flushMerges (fun _ => true) w)
  kickAll (endRuns env (abortRuns (fun _ => true) w))

/-- A write to GLB_CTL (R356, R357). -/
def writeServe (env : Env) (on : Bool) (w : W) : W :=
  let log := fun (w : W) => logOther 0x0C 0 0 0 [0x10, b2n on, stateCode w.b.glb.state] w
  if on then
    if mayServe w then log (setState .service { w with b.glb.serve := true }) else writeIgnored 0x10 1 w
  else if mayStopServing w then log (leaveService env .pass { w with b.glb.serve := false })
  else writeIgnored 0x10 0 w

/-- SERVE_ON. -/
def execServeOn (s : State) : Host.Outcome State Fault Refusal :=
  run (fun w => if writable w then writeServe {} true w else w) s

/-- SERVE_OFF. -/
def execServeOff (env : Env) (s : State) : Host.Outcome State Fault Refusal :=
  run (fun w => if writable w then writeServe env false w else w) s

/-! ### Draining an SE (R287, R375) -/

/-- A write to ENG_SECTL: DRAIN 1 drains, also while a self-test of re-admission runs; DRAIN 0 starts that self-test, and is ignored
while SELF_DRAIN is 1 (R375). -/
def writeSeCtl (e : Nat) (v : Word) (w : W) : W :=
  let s := getSe w e
  if v.getLsbD 0 then
    setSe e { s with drain := true, readmit := false, state := if s.state == .idle then .drained else s.state } w
  else if !s.drain || s.err.getLsbD 3 || s.state == .absent then w
  else setSe e { s with testing := true, readmit := true } w

/-- SE_DRAIN. -/
def execSeDrain (e : Nat) (s : State) : Host.Outcome State Fault Refusal :=
  run (fun w => if e < w.build.nse && allWritable w then writeSeCtl e 1 w else w) s

/-- SE_READMIT. -/
def execSeReadmit (e : Nat) (s : State) : Host.Outcome State Fault Refusal :=
  run (fun w => if e < w.build.nse && allWritable w then writeSeCtl e 0 w else w) s

/-- SE_SELF_TEST_RERUN_DONE: the SE has ended its chunk and its self-test, of a re-admission (R375) or of a reset (R417); an
SE that fails is drained. -/
def execSeSelfTestRerunDone (e : Nat) (ok : Bool) (s : State) : Host.Outcome State Fault Refusal :=
  run (fun w =>
    let x := getSe w e
    if !x.testing || x.run.isSome then w
    else if ok then
      let drain := x.drain && !x.readmit
      setSe e { x with testing := false, readmit := false, drain := drain, state := if drain then .drained else .idle } w
    else logOther 6 0 e 0 [0x90000 + 0x40 * e, 1, e] (setSe e { x with testing := false, readmit := false, drain := true, state := .drained } w)) s

end Sys2Proof.Machine
end

