-- ==== Sys2Proof/Machine/Security.lean ====
section
/-! DEFINITION. Security: the key port, key installation, fabric commands, the monitors, Snuff, and the service port
(R379 to R411). -/

namespace Sys2Proof.Machine

/-! ### Snuff (R401 to R403) -/

/-- Step 4 of Snuff: SNUFFED, every command in flight ABORTED, every group BROKEN with no message sent. -/
def enterSnuffed (env : Env) (w : W) : W :=
  let w := leaveService env .snuffed w
  let w := { w with b.lnk.ports := w.b.lnk.ports.map (fun (p : Nat × Lp) => (p.1, { p.2 with queue := [] })), b.patch := none
                    b.lnk.helmQ := [], b.glb.savedFmt := none }
  let w := w.b.cmds.foldl (fun w k => dropWork env k w) w
  let busy := fun (w : W) (k : Cmd) => w.b.eng.runs.any (fun r => r.cmd == k.id && !r.live.isEmpty)
  let w := w.b.cmds.foldl (fun w k =>
    if busy w k then w else complete env false k.id { abortOutc w k with result := (k.outc.getD (abortOutc w k)).result } w) w
  let w := w.b.grps.foldl (fun w g => breakGroup env g.1 w) w
  { w with b.lnk.vc0 := [] }

/-- Snuff (R401): the latch, cause and time; the keys zeroised; with the main domain running, SNUFFED. A trigger after the
latch is set changes nothing (log entry 35). `own` is the SNUFF command of a queue pair, which completes OK. -/
def snuffAll (env : Env) (cause : Nat) (own : Option CmdId) (w : W) : W :=
  if w.b.sec.snuffLatch then w
  else
    let w := zeroise { w with b.sec.snuffLatch := true, b.sec.l3Cause := cause, b.sec.alarmNs := w.b.crp.tAon, b.sec.pend := true
                              b.sec.level := 3 }
    let w := logEv 0x0982 2 0 0 [secAlarm w.b.sec, cause] w
    let w := match own with | some c => done env c .ok 0 [] w | none => w
    if w.b.glb.mainReset || !w.b.glb.power then w else enterSnuffed env w

/-- SNUFF (R402): from a queue pair of partition 0, or from the fabric; CAUSE goes into the event log. -/
def execSnuff (c : CmdId) (env : Env) (s : State) : Host.Outcome State Fault Refusal :=
  run (cmdRow c (isOp 0x82) env
    (fun k w =>
      let fabric := k.id.q == fabricQ
      checked env k (deny (!fabric && k.part != 0) 0xB2)
        (fun w => snuffAll env (if fabric then 5 else 4) (if fabric then none else some k.id) (logOther 9 0 0 k.ctx [0x82, arg k 0x10 1, 0] w)) w)
    (fun _ w => w)) s

/-! ### Seal keys (R392, R393) -/

/-- The fields of a KEY_INSTALL. -/
def keySlotOf (k : Cmd) : Nat := arg k 0x11 1 % 2
def keyDgn (k : Cmd) : Nat := arg k 0x12 2

/-- Is a KEY_INSTALL of one OP; codes the table does not list belong to INSTALL's row. -/
def keyOp (op : Nat) (k : Cmd) : Bool := isOp 0x80 k && (arg k 0x10 1 == op || (op == 0 && decide (2 < arg k 0x10 1)))

/-- The entry of another partition (R393). -/
def foreignKey (w : W) (k : Cmd) : Check :=
  deny (match sealEntry w (keyDgn k) with | some (_, e) => e.owner != k.part | none => false) 0xB3

/-- Set a key slot with its counters at 0 (R393, R395). -/
def setKeySlot (i : Nat) (key : Option Bytes) (e : SealKey) : SealKey :=
  let e := { e with inv := e.inv.filter (fun c => c.1 % 2 != i) }
  if i = 0 then { e with key0 := key, near0 := false } else { e with key1 := key, near1 := false }

/-- INSTALL (R393). -/
def installKey (env : Env) (k : Cmd) (w : W) : W :=
  let i := keySlotOf k
  match Config.aesUnwrap (kWrap w.b.sec k.part) (bytesAt k.slot 0x18 40) with
  | none => done env k.id .denied 0xB4 [] (authFailure 0x80 w)
  | some key =>
    match sealEntry w (keyDgn k) with
    | some (n, e) =>
      if e.active = i then done env k.id .denied 0xB5 [] w
      else done env k.id .ok 0 [] (drainLinks { w with b.sec.skeys := tset w.b.sec.skeys n (setKeySlot i (some (padTo 32 key)) e) })
    | none =>
      match freeIndex w.b.sec.skeys 256 with
      | none => done env k.id .quota 8 [] w
      | some n =>
        let e : SealKey := { dgn := keyDgn k, owner := k.part, active := i }
        done env k.id .ok 0 [] (drainLinks { w with b.sec.skeys := tset w.b.sec.skeys n (setKeySlot i (some (padTo 32 key)) e) })

/-- ACTIVATE (R393). -/
def activateKey (env : Env) (k : Cmd) (w : W) : W :=
  match sealEntry w (keyDgn k) with
  | some (n, e) =>
    if (keySlot e (keySlotOf k)).isNone then done env k.id .denied 0xB5 [] w
    else done env k.id .ok 0 [] (drainLinks { w with b.sec.skeys := tset w.b.sec.skeys n { e with active := keySlotOf k } })
  | none => done env k.id .denied 0xB5 [] w

/-- ERASE (R393). -/
def eraseKey (env : Env) (k : Cmd) (w : W) : W :=
  match sealEntry w (keyDgn k) with
  | none => done env k.id .ok 0 [] w
  | some (n, e) =>
    if e.active = keySlotOf k && w.b.grps.any (fun g => g.2.state != .free && g.2.dgn == keyDgn k) then
      done env k.id .denied 0xB5 [] w
    else
      let e := setKeySlot (keySlotOf k) none e
      let t := if e.key0.isNone && e.key1.isNone then terase w.b.sec.skeys n else tset w.b.sec.skeys n e
      done env k.id .ok 0 [] { w with b.sec.skeys := t }

/-- A KEY_INSTALL row. -/
def keyRow (op : Nat) (act : Env → Cmd → W → W) (c : CmdId) (env : Env) (w : W) : W :=
  cmdRow c (keyOp op) env (fun k w => checked env k (foreignKey w k) (act env k) w) (fun _ w => w) w

/-- KEY_INSTALL, OP INSTALL. -/
def execKeyInstallInstall (c : CmdId) (env : Env) (s : State) : Host.Outcome State Fault Refusal :=
  run (keyRow 0 installKey c env) s

/-- KEY_INSTALL, OP ACTIVATE. -/
def execKeyInstallActivate (c : CmdId) (env : Env) (s : State) : Host.Outcome State Fault Refusal :=
  run (keyRow 1 activateKey c env) s

/-- KEY_INSTALL, OP ERASE. -/
def execKeyInstallErase (c : CmdId) (env : Env) (s : State) : Host.Outcome State Fault Refusal :=
  run (keyRow 2 eraseKey c env) s

/-- COUNTER_RESYNC: check 2 has set LAST and RSN, which RESULT returns (R389). -/
def execCounterResync (c : CmdId) (env : Env) (s : State) : Host.Outcome State Fault Refusal :=
  run (cmdRow c (isOp 0x81) env (fun k w => done env k.id .ok 0 (counters w.b.sec k.part k.cls) w) (fun _ w => w)) s

/-! ### Fabric commands (R390, R391) -/

/-- A fabric command enters its queue; an opcode that is not assigned completes UNSUPPORTED when its turn has come. -/
def enterFabric (env : Env) (pk : Packet) (w : W) : W :=
  let p := pk.payload
  let id : CmdId := { q := fabricQ, n := w.b.nextFabric }
  let k : Cmd := { id := id, slot := bytesAt p 0x10 128, ctx := fld p 0x0A 2 % 4096, part := fld p 8 1 % 16, cls := 1
                   msgid := BitVec.ofNat 64 (fld p 0 8), src := pk.hdr.src, fetchedUs := nowUs w }
  let w := { w with b.nextFabric := w.b.nextFabric + 1, b.cmds := w.b.cmds ++ [k] }
  if (opInfo (opOf k)).isNone && mayStart w k then complete env false id { status := .unsupported } w else w

/-- FABRIC_CMD: acknowledged; a repeated copy is answered with the same response and never runs twice. -/
def execFabricCmd (rx : Rx) (env : Env) (s : State) : Host.Outcome State Fault Refusal :=
  run (onPacket rx (fun pk => pk.hdr.opcode == 7) (fun pk w =>
    let id := fld pk.payload 0 8
    let w := sendAck pk.hdr id w
    match w.b.fabRsps.find? (fun r => r.msgid == id && r.src == pk.hdr.src) with
    | some r => sendFabric r.src r.pk.payload w
    | none =>
      if w.b.cmds.any (fun k => k.id.q == fabricQ && k.msgid.toNat == id && k.src == pk.hdr.src) then w
      else enterFabric env pk w)) s

/-! ### The key port (R379 to R383) -/

/-- SEC_KSTAT (R409). -/
def kstat (s : Sec) : Nat :=
  s.kpWords <<< 16 + 16 * b2n s.zeroised + 8 * b2n s.rkZero + 4 * b2n s.kpOrder + 2 * b2n s.kpErr + b2n s.keyOk

/-- The delivery fails, with its event (R381). -/
def failDelivery (idx : Nat) (s : Sec) (w : W) : W :=
  logOther 9 0 0 0 [0x50000, kstat s, idx] { w with b.sec := { s with kpFailed := true } }

/-- KP_WORD: the words in ascending order, none with kp_err, RK not zero; the last one starts the derivation with the key
epoch sampled. After Snuff kp_ack is low. -/
def execKpWord (idx : BitVec 5) (data : Word) (err : Bool) (s : State) : Host.Outcome State Fault Refusal :=
  run (fun w =>
    let s := w.b.sec
    if s.snuffLatch || s.kpFailed || 17 ≤ s.kpWords then w
    else if err || idx.toNat != s.kpWords then
      failDelivery idx.toNat { s with kpErr := err, kpOrder := idx.toNat != s.kpWords } w
    else
      let s := { s with fuses := s.fuses ++ [data], kpWords := s.kpWords + 1 }
      if s.kpWords < 17 then { w with b.sec := s }
      else if (s.fuses.take 4).all (fun x => x == 0) then failDelivery idx.toNat { s with rkZero := true } w
      else { w with b.sec := { s with deriving_ := true, kepoch := w.b.crp.tAon } }) s

/-- KEY_DERIVATION_DONE (R382). -/
def execKeyDerivationDone (s : State) : Host.Outcome State Fault Refusal :=
  run (fun w =>
    let s := w.b.sec
    if !s.deriving_ then w
    else { w with b.sec := { s with deriving_ := false, derived := true, keyOk := true, kid := padTo 16 (kidOf s) } }) s

/-- The inputs that have fallen since the last row that saw them are low (R409, log entry 112). -/
def noteFalls (env : Env) (w : W) : W := { w with b.sec.mon := w.b.sec.mon &&& ~~~env.fell }

/-- KID_CHECK: the stored KID against one computed again; detector 0x0E compares with an inverted copy (R398, R430). -/
def execKidCheck (env : Env) (s : State) : Host.Outcome State Fault Refusal :=
  run (fun w =>
    let w := noteFalls env w
    if !w.b.sec.keyOk then w
    else
      let hit := injHit w 0x0E 0
      let w := if hit then injFire 0x0E w else w
      if hit || padTo 16 (kidOf w.b.sec) != w.b.sec.kid then alarm2 3 w else w) s

/-! ### Tamper and monitor inputs (R397, R399) -/

/-- The place of an input in SEC_MON's 36 bits, counted from bit 28 of the register, and its width. -/
def monBase : MonKind → Nat × Nat
  | .tamper => (32, 4) | .vwarn => (24, 8) | .vtrip => (16, 8) | .cwarn => (8, 8) | .ctrip => (0, 8)

/-- An input is seen high (R409). -/
def noteInput (kind : MonKind) (bit : Nat) (w : W) : W :=
  { w with b.sec.mon := w.b.sec.mon ||| (1#36 <<< ((monBase kind).1 + bit)) }

/-- The Snuff cause of an input; none for the warn inputs (R399, R409). -/
def tripCause : MonKind → Option Nat
  | .tamper => some 1 | .vtrip => some 2 | .ctrip => some 3 | _ => none

/-- TAMPER_TRIP: a tamper or trip input has been high for three AON cycles. -/
def execTamperTrip (kind : MonKind) (bit : Nat) (env : Env) (s : State) : Host.Outcome State Fault Refusal :=
  run (fun w => match tripCause kind with
    | some c => if bit < (monBase kind).2 then snuffAll env c none (noteInput kind bit (noteFalls env w)) else w
    | none => w) s

/-- MONITOR_WARN: a warn input rises: one level-1 event. -/
def execMonitorWarn (kind : MonKind) (bit : Nat) (env : Env) (s : State) : Host.Outcome State Fault Refusal :=
  run (fun w => match tripCause kind with
    | some _ => w
    | none => if bit < (monBase kind).2 then alarm1 bit (noteInput kind bit (noteFalls env w)) else w) s

/-! ### The service port (R404 to R408) -/

/-- GLB_ID (R377). -/
def glbId (b : Build) : Nat := 0x0A75CE4203200000 + b.nmp <<< 14 + b.nlp <<< 10 + b.nse <<< 3

/-- SEC_SSERR (R409). -/
def ssErr (s : Sec) : Nat := s.frames <<< 48 + s.midword <<< 32 + s.long <<< 16 + s.short

/-- A 32-bit word of the service status space (R408). -/
def statusWord (w : W) (a : Nat) : BitVec 32 :=
  let s := w.b.sec
  let lo := fun (x i : Nat) => x >>> (32 * i) % 2 ^ 32
  let id := glbId w.build
  let kid := leNat s.kid
  let st := stateCode s.lastState + 8 * b2n w.b.glb.power + 16 * b2n w.b.glb.mainReset + 32 * b2n s.snuffLatch
  let l : List Nat := [lo id 1, lo id 0, lo kid 0, lo kid 1, lo kid 2, lo kid 3, lo s.kepoch 0, lo s.kepoch 1, lo (kstat s) 0,
    lo (secAlarm s) 0, lo (secAlarm s) 1, lo s.alarmNs 0, lo s.alarmNs 1, st, lo (lastOf s 0 2) 0, lo (lastOf s 0 2) 1,
    lo (rsnOf s 0 2) 0, lo (rsnOf s 0 2) 1, lo (ssErr s) 0, lo (ssErr s) 1, s.lastRes + 16 * b2n s.overlong]
  BitVec.ofNat 32 (l.getD a 0)

/-- Add one, saturating at 0xFFFF (R409). -/
def sat16 (n : Nat) : Nat := sat 0xFFFF (n + 1)

/-- The settling of a frame at select release (R407): a frame with too few edges is discarded and counted; one that has all
of them acts, with OVERLONG and LONG when it has more. -/
def settleFrame (header : BitVec 32) (edges : Nat) (act : W → W) (w : W) : W :=
  let n := 32 * (1 + bits header.toNat 23 16)
  if edges < 32 || edges < n then
    if edges % 32 != 0 then { w with b.sec.midword := sat16 w.b.sec.midword } else { w with b.sec.short := sat16 w.b.sec.short }
  else
    let w := { w with b.sec.overlong := decide (n < edges), b.sec.long := if n < edges then sat16 w.b.sec.long else w.b.sec.long }
    act w

/-- A malformed frame (R405). -/
def malformedFrame (w : W) : W := { w with b.sec.lastRes := 2 }

/-- SS_READ_FRAME: the status words that were wholly sent stand; a frame of an OP other than READ and SNUFF is malformed
(R405). -/
def execSsReadFrame (header : BitVec 32) (edges : Nat) (s : State) : Host.Outcome State Fault Refusal :=
  run (fun w =>
    let h := header.toNat
    let op := bits h 31 24
    let len := bits h 23 16
    if op = 2 then w
    else
      let good := op = 1 && decide (1 ≤ len) && decide (len ≤ 32)
      let sent := if good then (List.range (min len (edges / 32 - 1))).map (fun i => statusWord w (bits h 15 0 + i)) else []
      let w := if good then { w with b.sec.ssOut := sent } else w
      settleFrame header edges (fun w =>
        if good then { w with b.sec.lastRes := 0, b.sec.frames := sat16 w.b.sec.frames } else malformedFrame w) w) s

/-- The four bytes of a word in frame order. -/
def frameBytes (x : BitVec 32) : Bytes := (toLe 4 x.toNat).reverse

/-- SS_SNUFF_FRAME (R405, R406): Snuff when the tag verifies and COUNTER is above LAST. -/
def execSsSnuffFrame (words : List (BitVec 32)) (edges : Nat) (env : Env) (s : State) : Host.Outcome State Fault Refusal :=
  run (fun w =>
    let at_ := fun (i : Nat) => words.getD i 0
    let h := (at_ 0).toNat
    if bits h 31 24 != 2 then w
    else settleFrame (at_ 0) edges (fun w =>
      if bits h 23 16 != 7 || bits h 15 0 != 0 then malformedFrame w
      else
        let s := w.b.sec
        let w := { w with b.sec.frames := sat16 s.frames }
        let x := (List.range 4).flatMap (fun i => frameBytes (at_ i))
        let tag := (List.range 4).flatMap (fun i => frameBytes (at_ (4 + i)))
        let count := (at_ 1).toNat * 2 ^ 32 + (at_ 2).toNat
        let good := s.derived && padTo 16 (Config.kmac256 (kCmd s 0 2) x 128 (ascii "OLIPHOR TAG")) == tag
        if good && decide (lastOf s 0 2 < count) then
          let w := { w with b.sec.lastRes := 0, b.sec.last := tset s.last 2 count }
          snuffAll env 6 none (logOther 9 0 0 0 [0x82, (at_ 3).toNat % 256, 0] w)
        else authFailure 2 { w with b.sec.lastRes := 1 }) w) s

end Sys2Proof.Machine
end

