-- ==== Sys2Proof/Machine/Ras.lean ====
section
/-! DEFINITION. Faults of the block and their injection: SRAM errors, unit resets, watchdogs, the Helm's restarts, arming,
and the injection registers (R412 to R431). -/

namespace Sys2Proof.Machine

/-! ### Counters and places -/

/-- Is the main domain running? -/
def mainRuns (w : W) : Bool := !w.b.glb.mainReset

/-- An uncorrectable word: counted, flagged, and recorded (R414, R431). -/
def noteDouble (array inst word : Nat) (w : W) : W :=
  setRas 1 inst word (setRasLast 1 array inst word { w with b.ras.cntDbe := w.b.ras.cntDbe + 1 })

/-- A corrected word; one of a local store shows in ENG_SEERR too (R295, R423). -/
def noteSingle (array inst word : Nat) (w : W) : W :=
  let w := setRas 0 inst word { w with b.ras.cntSbe := w.b.ras.cntSbe + 1 }
  if array != 1 then w
  else
    let w := modSe inst (fun s => { s with err := s.err ||| 2 }) w
    logEv 0x0681 2 inst (getSe w inst).ctx [(getSe w inst).err.toNat ||| (getSe w inst).resCnt <<< 32, inst] w

/-- The arrays that are mirrored (R414). -/
def mirrored (array : Nat) : Bool := [0x03, 0x05, 0x0C, 0x0D, 0x0E, 0x11].contains array

/-- Does the build have a unit? -/
def unitExists (w : W) : UnitId → Bool
  | .slice p => decide (p < w.build.nmp)
  | .se e => decide (e < w.build.nse)
  | .pr l => decide (l < w.build.nlp)
  | .relight j => decide (j < 8)
  | .seal j => decide (2 * j < w.build.nlp)
  | _ => true

/-- The instance number of a unit. -/
def unitInst : UnitId → Nat
  | .slice p => p | .se e => e | .pr l => l | .relight j => j | .seal j => j | _ => 0

/-- The open instances of contexts are marked for replay (R418). -/
def replayAll (xs : List Nat) (w : W) : W := xs.foldl (fun w x => markReplay x w) w

/-! ### MP slice reset (R417) -/

/-- The context of the region a line lies in. -/
def lineCtx (w : W) (line : Nat) : List Nat := ((rgnAt w line).map (·.2.ctx)).toList

/-- Contexts with an operation in flight in a slice: those of its requests, of whatever class, those whose lines they touch, and
those of the units whose deltas it holds. -/
def sliceCtxs (w : W) (p : Nat) : List Nat :=
  let s := getSlice w p
  let md := s.md ++ s.waitq.map (·.req)
  (s.reqs.map (fun r => r.req.ctx.toNat)) ++ s.jobs.map (·.ctx) ++ s.merge.map (·.ctx) ++ md.map (·.ctx)
    ++ (s.jobs.map (·.line) ++ s.merge.map (·.line) ++ md.map (·.addr)).flatMap (lineCtx w)
    ++ ((s.openPkts ++ s.sendQ).map (fun o => (o.g, o.unit)) ++ s.backlog.map (fun d => (d.g, d.unit))).filterMap
         (fun u => (findUnit w u.1 u.2).map (·.ctx))

/-- Delta lines of a unit that are lost count into NLINES of the members they would have gone to, so that those members see
the gap (R168, R417). -/
def loseLines (g : Nat) (u : BitVec 64) (ms : List Nat) (n : Nat) (w : W) : W :=
  modUnit g u (fun x => { x with lines := x.lines + n, nlines := ms.foldl (fun t m => tadd t m n) x.nlines }) w

/-- A coded line that is written and whose delta was not accepted: its delta is lost, and the Helm schedules a rebuild of its stripe
line (R417, log entry 87). -/
def loseDelta (p : Nat) (j : Job) (w : W) : W :=
  match rgnAt w j.line with
  | none => w
  | some (ri, _) =>
    if j.step != .pde || lineMode w j.line == .plain then w
    else (deltaViews w ri j.line).foldl (fun w v =>
      let (h, w) := hostUnit v (pathOf w p) ri j.line none w
      let g := getGrp w h.1
      let (s, _, _) := stripeOf g v g.self (j.line - v.base)
      let ms := ((List.range g.m).map (holderOf g.n s)).filter (fun m => m != g.self && !slotOut (slotAt g m).state)
      loseLines h.1 h.2 ms 1 w) (schedCheck j.line none w)

/-- The other requesters of a slice's downstream requests: their accesses end POISONED, the loader's as an error. -/
def poisonOthers (p : Nat) (ms : List MdReq) (w : W) : W :=
  ms.foldl (fun w m => match m.who with
    | .job q id => if q = p then w else jobAnswer q id .poison [] w
    | .se e k t => if (getSe w e).loading.any (fun l => l.1 == k && l.2.1 == t) then kernelFault 0x76 false e w else w
    | .loader off => loaderAnswer off .error w
    | _ => w) w

/-- The members a delta that waits for the PDE would go to. -/
def backMembers (g : Group) (d : DeltaWait) : List Nat :=
  match d.dest with
  | some m => [m]
  | none => (List.range g.m).map (fun p => holderOf g.n (d.mcast - g.mcast) p)

/-- The SEs with a load in a slice that has not been presented. -/
def waitingSes (s : Slice) : List Nat :=
  ((s.haz.flatMap (·.q) ++ s.need.map (·.2)).filterMap (fun i => match i.job with | .se e _ _ => some e | _ => none)).foldl insertNat []

/-- Entries for the AU jobs of a slice leave every hazard table. -/
def dropAuOf (p : Nat) (w : W) : W :=
  { w with b.slices := w.b.slices.map (fun s => (s.1, { s.2 with
      haz := (s.2.haz.map (fun h => { h with q := h.q.filter (fun i => match i.job with | .au q _ => q != p | _ => true) })).filter
        (fun h => !h.q.isEmpty) })) }

/-- Does a slice carry lines of a region (R34)? -/
def carries (w : W) (p : Nat) (r : Region) : Bool :=
  (List.range (rgnBytes r / 64)).any (fun i => portOf w.build (r.base + 64 * i) == p)

/-- The reset of an MP slice: what is in flight in it ends, requests that its MP holds back stay (R417); after an entry that could
not be read out, the coded regions it carries are scrubbed at once. -/
def resetSlice (p : Nat) (unread : Bool) (w : W) : W :=
  let s := getSlice w p
  let w := replayAll (sliceCtxs w p) w
  let w := s.jobs.foldl (fun w j => loseDelta p j w) w
  let w := (s.openPkts ++ s.sendQ).foldl (fun w o => loseLines o.g o.unit (pktMembers (getGrp w o.g) o) o.lines.length w) w
  let w := s.backlog.foldl (fun w d => loseLines d.g d.unit (backMembers (getGrp w d.g) d) 1 w) w
  let w := dropAuOf p (modSlice p (fun s => { s with merge := [], haz := [], jobs := [], reqs := [], openPkts := [], sendQ := [], waitq := []
                                                     need := [], backlog := [], md := s.md.map (fun m => { m with who := .late 0 }) }) w)
  let w := closeHostUnits p (fun _ => true) w
  let w := s.reqs.foldl (fun w r => answerAll p r.req r.op (if r.op = 0 || r.op = 3 then .poison else .error) w) w
  let w := s.merge.foldl (fun w m => setMpsErrGirq p 0 m.line m.ctx w) w
  let mine := fun (o : FetchOp) => match o.why with | .job q _ => q == p | .host q _ => q == p | _ => false
  let w := assignEngines 8 { w with b.fetches := w.b.fetches.filter (fun o => !mine o) }
  let w := poisonOthers p (s.md ++ s.waitq.map (·.req)) w
  let w := wakeSlices ((waitingSes s).foldl (fun w e => if (getSe w e).run.isSome then kernelFault 0x76 false e w else w) w)
  if unread then ((definedRgns w).filter (fun r => carries w p r.2)).foldl (fun w r => if scrubbable w r.1 then scrubStart r.1 w else w) w
  else w

/-! ### The other units (R417) -/

/-- The reset of an SE: kernel fault 0x0076 for the chunk it holds, then its self-test, whatever DRAIN (R288, R417). One that was
being re-admitted is so by this self-test. -/
def resetSe (e : Nat) (w : W) : W :=
  let s := getSe w e
  if s.state == .absent then w
  else
    let w := modSe e (fun s => { s with testing := true, drain := s.drain && !s.readmit, readmit := false
                                        state := if s.run.isSome then s.state else .reset }) w
    if s.run.isSome then kernelFault 0x76 false e w else w

/-- Collectives with a member that this member reaches through a link port. -/
def collsThrough (w : W) (l : Nat) : List Coll :=
  w.b.colls.filter (fun c =>
    let g := grpOf w (getRgn w c.region)
    !c.finished && c.members.any (fun m => m != g.self && portTo w (slotAt g m).coord == l))

/-- The reset of a PR: the spans through it are lost, and their collectives complete POISONED. -/
def resetPr (env : Env) (l : Nat) (w : W) : W :=
  let cs := collsThrough w l
  cs.foldl (fun w c => collEnd env c.cmd { status := .poisoned } w) (replayAll (cs.map (·.ctx)) w)

/-- A Restripe loses the engine it holds: its fragment, unless its lines have all gone to the PDE, is read again on the next engine
(R30, R417). -/
def dropEngine (s : Stream) (w : W) : W :=
  let w := markReplay (getRgn w s.region).ctx w
  modStream s.kind s.region (fun s => { s with engine := none }) { w with b.fetches := w.b.fetches.filter (fun o => o.why != .cmd s.cmd) }

/-- The reset of a Relight engine: the operation that holds it restarts once on another engine, and a second failure ends it; so does
the stripe of a Restripe (R30, R58, R330). -/
def resetRelight (env : Env) (j : Nat) (w : W) : W :=
  let w := (w.b.streams.filter (fun s => s.engine == some j)).foldl (fun w s => dropEngine s w) w
  match w.b.fetches.find? (fun o => holdsEngine o j) with
  | none => assignEngines 8 w
  | some o =>
    let w := markReplay (getRgn w o.region).ctx w
    if o.resetOn.isSome then
      if enginePrio o.why = 0 then failReq env o w
      else assignEngines 8 (modOp o.id (fun o => { o with waiting := true, chosen := [], answers := [] }) w)
    else assignEngines 8 (modOp o.id (fun o => { o with resetOn := some j, queued := true, engine := none, chosen := [], answers := [] }) w)

/-- HELM_RESTART's effect; after the third restart within 1 s the Helm stays stopped (R421). -/
def helmRestart (w : W) : W :=
  if w.b.glb.helmStopped || !mainRuns w then w
  else
    let now := nowUs w
    let recent := w.b.glb.helmRestarts.filter (fun t => decide (now ≤ t + 1000000)) ++ [now]
    let w := setRas 5 0 recent.length { w with b.glb.helmRestarts := recent }
    if 3 ≤ recent.length then { w with b.glb.helmStopped := true, b.glb.helmOk := false } else w

/-- What the reset of a unit does to what it has in flight. -/
def unitActs (env : Env) (u : UnitId) (unread : Bool) (w : W) : W :=
  match u with
  | .slice p => resetSlice p unread w
  | .se e => resetSe e w
  | .pr l => resetPr env l w
  | .relight j => resetRelight env j w
  | .frontEnd qs => frontReset qs w
  | _ => w

/-- A unit is reset: its operations, UNIT_RESET with its event and the global interrupt (R417, R418). -/
def resetUnit (env : Env) (u : UnitId) (unread : Bool) (idx : Nat) (w : W) : W :=
  match u with
  | .helm => helmRestart w
  | _ => setRas 3 (unitInst u) idx (unitActs env u unread w)

/-- UNIT_RESET: after an uncorrectable SRAM error (kind 1) or a second parity error (kind 2) of the unit. -/
def execUnitReset (u : UnitId) (kind code word : Nat) (env : Env) (s : State) : Host.Outcome State Fault Refusal :=
  run (fun w =>
    if !mainRuns w || !unitExists w u then w
    else if kind = 1 then resetUnit env u true code (noteDouble code (unitInst u) word w)
    else if kind = 2 then resetUnit env u true code (setRasLast 2 code (unitInst u) word (noteParity (unitInst u) code w))
    else w) s

/-- HELM_RESTART. -/
def execHelmRestart (s : State) : Host.Outcome State Fault Refusal := run helmRestart s

/-! ### SRAM errors (R414, R423) -/

/-- A pool entry is lost: its lines count as lost DELTA lines of its unit, or of the stripes in progress that still need
them (R168, R343). -/
def losePoolEntry (env : Env) (e : PoolEntry) (w : W) : W :=
  let lines := e.pkts.flatMap (fun k => k.lines.map (·.1))
  let w := freeEntry e w
  if e.applied then lines.foldl (fun w a => markUnknown env e.g a w) w
  else match findPrep w e.g e.src e.unit with
    | some p =>
      if p.ready then
        setDpErr 7 e.g (e.unit.toNat % 2 ^ 56) (modPrep e.g e.src e.unit (fun p => { p with gapped := lines.foldl insertNat p.gapped }) w)
      else w
    | none => w

/-- The packet at the head of a link receive buffer is discarded. -/
def dropReceived (l : Nat) (w : W) : W :=
  let p := getLp w l
  if p.stalled.isEmpty then modLp l (fun p => { p with waiting := p.waiting.drop 1 }) w
  else setOffs l (modLp l (fun p => { p with stalled := p.stalled.drop 1 }) w)

/-- A command completes POISONED, with the work that it has under way (R414). -/
def poisonCmd (env : Env) (k : Cmd) (w : W) : W :=
  let o : Outc := { status := .poisoned }
  let i := arg k 0x10 2
  let streamed := fun (f : Stream → Bool) => w.b.streams.any (fun s => s.cmd == k.id && f s)
  match opOf k with
  | 0x40 => if (findRun w k.id).isNone then done env k.id .poisoned 0 [] w
            else finishRun env k.id (modRun k.id (fun r => { r with poisoned := true, stopped := true }) w)
  | 0x33 => if (findColl w k.id).isNone then done env k.id .poisoned 0 [] w else collEnd env k.id o w
  | 0x34 => if (findColl w k.id).isNone then done env k.id .poisoned 0 [] w else collEnd env k.id o w
  | 0x12 => if streamed (fun s => s.kind == .sound) then failSound env i o w else done env k.id .poisoned 0 [] w
  | 0x63 => if streamed (fun s => s.kind == .restripe) then dropRestripe env i o w else done env k.id .poisoned 0 [] w
  | 0x21 => if (getWatch w k.ctx).pollCmd == some k.id then pollFail env k.ctx .poisoned w else done env k.id .poisoned 0 [] w
  | 0x22 => if (getWatch w k.ctx).winCmd == some k.id then failEncode env k.ctx o w else done env k.id .poisoned 0 [] w
  | 0x62 => if ((getGrp w (arg k 0x10 1)).relight.map (·.cmd)) == some k.id then failRelight env (arg k 0x10 1) o w
            else done env k.id .poisoned 0 [] w
  | _ => done env k.id .poisoned 0 [] w

/-- A word of a shared table is uncorrectable in both copies: every command in flight that reads it completes POISONED, and the Helm
rebuilds the word, which leaves the table as it was (R414; which commands read a word is a free value, log entry 108). -/
def tableLost (env : Env) (array word : Nat) (w : W) : W :=
  (w.b.cmds.filter (fun k => k.outc.isNone && Config.readsWord array word k.slot)).foldl (fun w k =>
    match findCmd w k.id with | some k => poisonCmd env k w | none => w) w

/-- An uncorrectable word by its array; a mirrored table when both copies fail. -/
def doubleError (env : Env) (array inst word : Nat) (w : W) : W :=
  let w := noteDouble array inst word w
  let reset := fun (u : UnitId) => if unitExists w u then resetUnit env u true array w else w
  match array with
  | 0x01 => reset (.se inst) | 0x02 => reset (.se inst)
  | 0x04 => (w.b.pool.filter (fun e => match e.span with
      | some s => decide (s.1 ≤ word / 32) && decide (word / 32 < s.1 + s.2) | none => false)).foldl (fun w e => losePoolEntry env e w) w
  | 0x06 => reset (.slice inst) | 0x07 => reset (.slice inst) | 0x08 => reset (.slice inst)
  | 0x09 => reset (if inst < 32 then .slice inst else .pr (inst - 32))
  | 0x0A => dropReceived inst w
  | 0x0B => reset (.relight inst)
  | 0x0E => helmRestart w
  | 0x0F =>
    let hit := fun (o : LogEntry) => o.seq % 4096 == word / 8
    { w with b.tlm.log := w.b.tlm.log.filter (fun o => !hit o), b.tlm.elLost := w.b.tlm.elLost + (w.b.tlm.log.filter hit).length }
  | 0x10 =>
    if 8 * word + 8 ≤ w.b.ldr.buf.length then
      let (x, w) := freshBytes 8 w
      { w with b.ldr.buf := putAt w.b.ldr.buf (8 * word) x }
    else w
  | _ => tableLost env array word w

/-- One error that an access or the scrub found. -/
def sramError (env : Env) (e : SramErr) (w : W) : W :=
  if e.array = 0 || decide (0x11 < e.array) then w
  else if e.double then doubleError env e.array e.inst e.word w
  else noteSingle e.array e.inst e.word w

/-- The scrub wakes every power-gated SE; it gates again after PG_US (R444). -/
def scrubWakes (w : W) : W :=
  let stays := fun (u : UnitId) => match u with
    | .se e => !w.b.crp.gateStat.getLsbD e
    | _ => true
  { w with b.crp.gateStat := 0, b.crp.clockGated := w.b.crp.clockGated.filter stays }

/-- SRAM_SCRUB: a walk over every array, with the errors it finds; RAS_BGCTL bit 2 stops it (R423, R444). -/
def execSramScrub (errs : List SramErr) (env : Env) (s : State) : Host.Outcome State Fault Refusal :=
  run (fun w => if w.b.ras.bgctl.getLsbD 2 || !mainRuns w then w else errs.foldl (fun w e => sramError env e w) (scrubWakes w)) s

/-! ### Watchdogs (R419, R420) -/

/-- The unit of a machine of R419; none for the SE sequencer, whose trip is a kernel fault. -/
def machineUnit (machine inst : Nat) : Option UnitId :=
  match machine with
  | 0 => some (.slice inst) | 1 => some (.slice inst) | 2 => some (.slice inst) | 3 => some (.slice inst)
  | 4 => some (.pr inst) | 5 => some (.relight inst) | 6 => some .lantern | 7 => some (.frontEnd []) | 8 => some .helm
  | 9 => some (.seal inst) | 10 => some .pool
  | _ => none

/-- Does the build have a machine? -/
def machineExists (w : W) (machine inst : Nat) : Bool :=
  match machineUnit machine inst with
  | some u => unitExists w u && unitInst u == inst
  | none => machine = 11 && decide (inst < w.build.nse)

/-- An injected hang of a machine has led to its trip (R430). -/
def hangFires (machine inst : Nat) (w : W) : W :=
  if injHit w 0x0B inst && (tget w.b.ras.inj 0x0B {}).arg / 256 == machine then injFire 0x0B w else w

/-- WATCHDOG_TRIP. -/
def execWatchdogTrip (machine : Nat) (inst : Nat) (env : Env) (s : State) : Host.Outcome State Fault Refusal :=
  run (fun w =>
    if !mainRuns w || !machineExists w machine inst then w
    else
      let w := hangFires machine inst w
      let w := setRas 4 inst machine (setRasLast 3 machine inst 0 { w with b.ras.cntWdog := w.b.ras.cntWdog + 1 })
      match machineUnit machine inst with
      | some u => resetUnit env u false machine w
      | none => if (getSe w inst).run.isSome then kernelFault 0x74 false inst w else w) s

/-! ### Arming (R427) -/

/-- INJECT_ARM is accepted from partition 0 and from the fabric. -/
def armCheck (k : Cmd) : Check := deny (k.id.q != fabricQ && k.part != 0) 0xC0

/-- Is a command an INJECT_ARM that arms, or one that disarms? -/
def isArm (arms : Bool) (k : Cmd) : Bool := isOp 0x86 k && (arg k 0x10 4 != 0) == arms

/-- INJECT_ARM. -/
def execInjectArm (c : CmdId) (env : Env) (s : State) : Host.Outcome State Fault Refusal :=
  run (cmdRow c (isArm true) env (fun k w => checked env k (armCheck k) (fun w =>
    let exp := w.b.crp.tCore + arg k 0x10 4 * 1000000
    let res := toLe 8 exp ++ toLe 8 w.b.ras.remain
    let f := arg k 0x16 1
    done env k.id .ok 0 res { w with
      b.ras.armed := true, b.ras.remain := arg k 0x14 2, b.ras.snuffOk := bit f 0, b.ras.lossOk := bit f 1
      b.ras.injMask := BitVec.ofNat 64 (arg k 0x18 8), b.ras.injExp := exp }) w) (fun _ w => w)) s

/-- INJECT_ARM with ARM_MS 0. -/
def execInjectDisarm (c : CmdId) (env : Env) (s : State) : Host.Outcome State Fault Refusal :=
  run (cmdRow c (isArm false) env (fun k w => checked env k (armCheck k) (fun w =>
    done env k.id .ok 0 (toLe 8 0 ++ toLe 8 w.b.ras.remain) (disarm w)) w) (fun _ w => w)) s

/-- INJECT_ARM_EXPIRY. -/
def execInjectArmExpiry (s : State) : Host.Outcome State Fault Refusal := run (fun w => if w.b.ras.armed then disarm w else w) s

/-! ### Injection registers (R426, R429, R430) -/

/-- Instances of an array of R414. -/
def arrayCount (b : Build) (array : Nat) : Nat :=
  match array with
  | 0x01 => b.nse | 0x02 => b.nse | 0x06 => b.nmp | 0x07 => b.nmp | 0x08 => b.nmp
  | 0x09 => 32 + b.nlp | 0x0A => b.nlp | 0x0B => 8 | _ => 1

/-- Does INST name an instance that the build lacks (R429)? -/
def instLacking (w : W) (d inst arg : Nat) : Bool :=
  match d with
  | 0x00 => decide (arrayCount w.build (arg / 256) ≤ inst)
  | 0x01 => decide (arrayCount w.build (arg / 256) ≤ inst)
  | 0x02 => !machineExists w (arg / 256) inst
  | 0x03 => decide (w.build.nse ≤ inst)
  | 0x04 => decide (w.build.nlp ≤ inst) | 0x05 => decide (w.build.nlp ≤ inst) | 0x06 => decide (w.build.nlp ≤ inst)
  | 0x07 => decide (w.build.nmp ≤ inst) | 0x08 => decide (w.build.nmp ≤ inst) | 0x09 => decide (w.build.nmp ≤ inst)
  | 0x0A => decide (w.build.nmp ≤ inst)
  | 0x0B => !machineExists w (arg / 256) inst
  | _ => decide (0 < inst)

/-- May a detector's injection be made in this block state (R426, R428)? -/
def injPermitted (w : W) (d : Nat) : Bool :=
  let r := w.b.ras
  let armed := r.armed && r.injMask.getLsbD d
  let flagged := d = 0x0C || d = 0x0E || d = 0x10
  let full := (armed && (if d = 0x0C then r.lossOk else if flagged then r.snuffOk else true)) || r.dbg
  match w.b.glb.state with
  | .dark => !flagged || full
  | .loading => !flagged || full
  | .pass => !flagged || full
  | .service => full
  | _ => false

/-- Flip a bit of the line at RAS_INJADDR without a delta and without a Bearing update (R430). -/
def flipBit (i : Nat) (w : W) : W :=
  let a := w.b.ras.injAddr + i % 512 / 8
  putBytes w a [getByte w a ^^^ (1#8 <<< (i % 8))]

/-- The kind and bit of the input that detectors 0x0F and 0x10 drive (R430). -/
def injInput (d arg : Nat) : MonKind × Nat :=
  if d = 0x0F then (if arg % 16 < 8 then (.vwarn, arg % 8) else (.cwarn, arg % 8))
  else
    let n := arg % 32
    if n < 4 then (.tamper, n) else if n < 12 then (.vtrip, n - 4) else (.ctrip, n - 12)

/-- Detectors whose next event the model has at once: words and entries are written all the time, and the others are made
by the write itself. The front end's next entry is that of a COMMAND_FETCH. -/
def injectsNow (w : W) (d : Nat) : Bool :=
  let r := w.b.ras
  ((d == 0x00 || d == 0x01) && decide (1 ≤ (tget r.inj d {}).arg / 256) && decide ((tget r.inj d {}).arg / 256 ≤ 0x11))
    || (d == 0x02 && (tget r.inj d {}).arg / 256 != 7) || d == 0x0F || (d == 0x10 && decide ((tget r.inj d {}).arg % 32 < 20))
    || ((d == 0x09 || d == 0x0A) && portOf w.build r.injAddr == (tget r.inj d {}).inst
        && (d == 0x09 || ((rgnAt w r.injAddr).map (·.2.kind)) == some .parity))

/-- An injection made by the write; the word an SRAM injection meets is a free value (log entry 6). A second injection of a parity
error meets the entry that is taken again, which makes it a second error (R416). -/
def injectAct (env : Env) (d inst arg : Nat) (w : W) : W :=
  let word := (Config.freeWord w.b.free).toNat % 2 ^ 32
  let next := { w with b.free := w.b.free + 1 }
  match d with
  | 0x00 => sramError env { array := arg / 256, inst := inst, word := word, double := false } next
  | 0x01 => if mirrored (arg / 256) then w else sramError env { array := arg / 256, inst := inst, word := word, double := true } next
  | 0x02 =>
    let w := noteParity inst (arg / 256) w
    if !injHit w 2 inst then w
    else
      let u := (machineUnit (arg / 256) inst).getD (.se inst)
      resetUnit env u true (arg / 256) (setRasLast 2 (arg / 256) inst 0 (injFire 2 w))
  | 0x09 => flipBit arg w
  | 0x0A => flipBit arg w
  | 0x0F => alarm1 (injInput d arg).2 (noteInput (injInput d arg).1 (injInput d arg).2 w)
  | 0x10 =>
    let (kind, i) := injInput d arg
    snuffAll env ((tripCause kind).getD 0) none (noteInput kind i w)
  | _ => w

/-- Make the injections of a detector that acts at once, at most n of them. -/
def injectAll (env : Env) (d : Nat) : Nat → W → W
  | 0, w => w
  | n + 1, w =>
    let j := tget w.b.ras.inj d {}
    if injHit w d j.inst && injectsNow w d then injectAll env d n (injectAct env d j.inst j.arg (injFire d w)) else w

/-- A write to RAS_INJd. -/
def writeInject (env : Env) (d : Nat) (v : Word) (w : W) : W :=
  let n := v.toNat
  let go := v.getLsbD 0
  let j : Inj := { inst := bits n 55 48, arg := bits n 47 32, count := bits n 31 16, fired := false, mode := bits n 2 1, go := go }
  if 2 ≤ j.mode || (go && j.count = 0) || instLacking w d j.inst j.arg then writeIgnored (0x40400 + 8 * d) v w
  else if go && !injPermitted w d then setRas 7 j.inst d w
  else injectAll env d j.count { w with b.ras.inj := tset w.b.ras.inj d j }

/-- INJECT_WRITE. -/
def execInjectWrite (d : Nat) (v : Word) (env : Env) (s : State) : Host.Outcome State Fault Refusal :=
  run (fun w => if d ≤ 0x11 && writable w then writeInject env d v w else w) s

end Sys2Proof.Machine
end

