-- ==== Sys2Proof/Machine/Bringup.lean ====
section
/-! DEFINITION. Resets, self-test and power (R356, R359, R360, R383, R428, R437 to R440). -/

namespace Sys2Proof.Machine

/-- The block after an assertion of the main reset: every register at its reset value but for those held in AON, and the
seal-key table gone with the main domain (R383, R437, R469). The model's traces and free counter go on. A downstream write that
was outstanding is forgotten with its request and never reaches memory (DESIGN CHOICE, log entry 114). -/
def mainDomainReset (cause : Nat) (b : Blk) : Blk :=
  { glb := { mainReset := true, power := b.glb.power }
    crp := { rstCnt := b.crp.rstCnt, cause := cause, tAon := b.crp.tAon, slewAon := b.crp.slewAon, tbStat := b.crp.tbStat &&& 2 }
    sec := { b.sec with skeys := [] }
    lnk := { out := b.lnk.out }
    mpRsps := b.mpRsps
    mdOut := b.mdOut
    free := b.free }

/-- MAIN_RESET_ASSERT: a warm reset; one that is asserted already changes nothing (R356, R437, R440). -/
def execMainResetAssert (s : State) : Host.Outcome State Fault Refusal :=
  run (fun w => if w.b.glb.mainReset then w else { w with b := mainDomainReset 2 w.b }) s

/-- COLD_RESET: the AON domain too, with the levels of its inputs as they are (R437). -/
def execColdReset (s : State) : Host.Outcome State Fault Refusal :=
  run (fun w =>
    let b := mainDomainReset 1 w.b
    { w with b := { b with crp := {}, sec := { mon := w.b.sec.mon, ssOut := w.b.sec.ssOut } } }) s

/-- POWER_LOSS (R439). -/
def execPowerLoss (s : State) : Host.Outcome State Fault Refusal :=
  run (fun w =>
    if w.b.glb.mainReset then w
    else logEv 0x0A02 0 0 0 [w.b.crp.rstCnt] { w with b := mainDomainReset 3 { w.b with glb := { w.b.glb with power := false } } }) s

/-- WRAPPER_RESET: the IEEE 1500 wrapper only, which holds nothing the SCE's state shows (R437). -/
def execWrapperReset (s : State) : Host.Outcome State Fault Refusal := run (fun w => w) s

/-- DBG_UNLOCK: accepted only while the main reset is asserted (R428). -/
def execDbgUnlock (s : State) : Host.Outcome State Fault Refusal :=
  run (fun w => if w.b.glb.mainReset then { w with b.ras.dbg := true } else w) s

/-- The boot epoch (R92). -/
def bootEpoch (c : Crp) : Word := BitVec.ofNat 64 (c.rstCnt % 2 ^ 32 * 2 ^ 32 + c.tAon % 2 ^ 32)

/-- MAIN_RESET_RELEASE: DARK, or SNUFFED while the Snuff latch is set; the ROM self-test runs; debug unlock raises an alarm of
level 1 (R356, R428, R440). -/
def execMainResetRelease (s : State) : Host.Outcome State Fault Refusal :=
  run (fun w =>
    if !w.b.glb.mainReset then w
    else
      let w := { w with b.glb.mainReset := false, b.glb.power := true, b.glb.testing := true, b.crp.rstCnt := sat32 w.b.crp.rstCnt }
      let w := { w with b.lnk.epoch := bootEpoch w.b.crp }
      let w := setState (if w.b.sec.snuffLatch then .snuffed else .dark) w
      if w.b.ras.dbg then alarm1 0 w else w) s

/-- SELF_TEST_DONE: the failures show in GLB_STFAIL0 and GLB_STFAIL1; a failed SE is ABSENT; the loader is READY, or FAILED
after a failure that keeps the block in DARK (R359, R360). -/
def execSelfTestDone (fail0 : Word) (fail1 : Word) (s : State) : Host.Outcome State Fault Refusal :=
  run (fun w =>
    if !w.b.glb.testing then w
    else
      let f0 : Word := fail0 &&& BitVec.ofNat 64 (2 ^ w.build.nse - 1)
      let f1 : Word := fail1 &&& 0xFC0FFFFFFFFFFFFF
      let w := { w with b.glb.testing := false, b.glb.stfail0 := f0, b.glb.stfail1 := f1 }
      let w := (List.range 64).foldl (fun w e => if f0.getLsbD e then modSe e (fun s => { s with state := .absent }) w else w) w
      let dead := [58, 60, 61, 62, 63].any (fun i => f1.getLsbD i)
      if w.b.glb.state == .dark then { w with b.ldr.phase := if dead then .failed else .ready } else w) s

/-! ### The Helm's hand-over (R374) -/

/-- The rows of the messages that wait for the Helm: every VC0 message but the beacons (R72). -/
def helmRows : List (Rx → Env → State → Host.Outcome State Fault Refusal) :=
  [execAck, execPrepare, execApply, execPoll, execBarrier, execGroupBearing, execAbandonNotice, execTornNotice, execFabricCmd,
   execJoin, execDesc, execEndNotice, execLoss, execSettle, execDone, execFenced, execAdopt, execAdopted, execRlBegin, execRlAnswer,
   execRlEnd, execRlCancel, execRsBegin, execRsAnswer]

/-- The state of an outcome; a row of a message always has one. -/
def afterRow (s : State) (o : Host.Outcome State Fault Refusal) : State := match o with | .next t => t | _ => s

/-- A message of the Helm receive queue is acted on: its row is the one whose opcode and kind it has. -/
def takeMsg (env : Env) (rx : Rx) (s : State) : State :=
  let s := { s with blk.lnk.helmTake := true }
  let s := helmRows.foldl (fun s r => afterRow s (r rx env s)) s
  { s with blk.lnk.helmTake := false }

/-- The Helm takes the messages that waited, in the order of their arrival (R374). -/
def takeMsgs (env : Env) : List Rx → State → State
  | [], s => s
  | x :: t, s => takeMsgs env t (takeMsg env x { s with blk.lnk.helmQ := t })

/-- The end of a hand-over, and the messages that waited. -/
def handOverRow (f : W → W) (env : Env) (s : State) : Host.Outcome State Fault Refusal :=
  let t := closeW s (f (openW s))
  .next (takeMsgs env t.blk.lnk.helmQ t)

/-- HELM_HANDOVER_READY (R374). -/
def execHelmHandoverReady (env : Env) (s : State) : Host.Outcome State Fault Refusal := handOverRow (handOverReady env) env s

/-- HELM_HANDOVER_TIMEOUT (R374). -/
def execHelmHandoverTimeout (env : Env) (s : State) : Host.Outcome State Fault Refusal := handOverRow (handOverFailed env) env s

end Sys2Proof.Machine
end

