-- ==== Sys2Proof/Machine/Clocks.lean ====
section
/-! DEFINITION. The timebase, gating, power estimates, snapshots and periodic samples (R441 to R450). -/

namespace Sys2Proof.Machine

/-! ### Timebase (R442) -/

/-- A strobe at one counter: it loads a value that is not below it; else it keeps its value and the difference is still to
absorb. Answers the counter and the difference to absorb. -/
def strobe (counter v : Nat) : Nat × Nat := if counter ≤ v then (v, 0) else (counter, counter - v)

/-- The event of a difference above 1 µs: TB_STEP forward, TB_BACK backward. -/
def strobeEvent (counter v : Nat) (w : W) : W :=
  if counter + 1000 < v then setTb 5 [0x10018, counter, v] w
  else if v + 1000 < counter then setTb 4 [0x10018, counter, v] w else w

/-- The time counters of an SE, as d ns pass: BUSY_NS while it holds a chunk, COMMIT_NS in its commit phase, GATED_NS while it
is power-gated (R447, log entry 85). -/
def countSe (d : Nat) (w : W) (e : Nat) : W :=
  let st := (getSe w e).state
  let gated := w.b.crp.gateStat.getLsbD e
  let w := if st == .running || st == .commit then cntSe e 0x08 d w else w
  let w := if st == .commit then cntSe e 0x10 d w else w
  if gated then cntSe e 0x20 d w else w

/-- CW_STALL_NS while the request channel of a slice waits on a coded write (R447). -/
def countMp (d : Nat) (w : W) (p : Nat) : W := if (getSlice w p).cwStall then cntMp p 0x68 d w else w

/-- TX_OFF_NS while any of lp_tx_off[5:1] of a port is high (R447). -/
def countLp (d : Nat) (w : W) (l : Nat) : W := if (getLp w l).txOff.toNat / 2 != 0 then cntLp l 0x120 d w else w

/-- The counters of R447 that count ns of T_CORE, as d ns pass; PRESSURE_NS while an episode lasts (R185, log entry 85). -/
def countTime (d : Nat) (w : W) : W :=
  let w := (List.range w.build.nse).foldl (countSe d) w
  let w := (List.range w.build.nmp).foldl (countMp d) w
  let w := (List.range w.build.nlp).foldl (countLp d) w
  if w.b.pressure.active then cntGlb 0x08 d w else w

/-- TB_STROBE: T_AON counts in every state, T_CORE while the main domain runs; CRP_TBSTAT and the log are of the main
domain. -/
def execTbStrobe (v : Word) (s : State) : Host.Outcome State Fault Refusal :=
  run (fun w =>
    let c := w.b.crp
    let n := v.toNat
    let a := strobe c.tAon n
    let w := { w with b.crp.tAon := a.1, b.crp.slewAon := a.2, b.crp.tbStat := w.b.crp.tbStat ||| 2 }
    if w.b.glb.mainReset then w
    else
      let k := strobe c.tCore n
      let w := { w with b.crp.tCore := k.1, b.crp.slewCore := k.2, b.crp.tbStat := w.b.crp.tbStat ||| 1 }
      countTime (k.1 - c.tCore) (strobeEvent c.tAon n (strobeEvent c.tCore n w))) s

/-- TB_LOST: two periods without a strobe. -/
def execTbLost (s : State) : Host.Outcome State Fault Refusal :=
  run (fun w => if w.b.glb.mainReset then w else setTb 3 [0x10018] w) s

/-! ### Gating (R443, R444) -/

/-- Does a unit hold no work? The Helm, the front end, the Lantern unit and the pool are never gated. -/
def unitIdle (w : W) : UnitId → Bool
  | .se e => (getSe w e).run.isNone && !(getSe w e).testing && (getSe w e).state != .absent
  | .relight j => !engineUsed w j
  | .slice p => (getSlice w p).jobs.isEmpty && (getSlice w p).openPkts.isEmpty && (getSlice w p).sendQ.isEmpty
  | .pr l => (collsThrough w l).isEmpty
  | .seal _ => true
  | _ => false

/-- Power-gate an SE or a Relight engine. -/
def powerGate (u : UnitId) (w : W) : W :=
  match u with
  | .se e => if w.b.crp.sePgDis then w else { w with b.crp.gateStat := w.b.crp.gateStat ||| (1#64 <<< e) }
  | .relight j => if w.b.crp.rlPgDis then w else { w with b.crp.rlPowerGated := insertNat w.b.crp.rlPowerGated j }
  | _ => w

/-- UNIT_GATE: an idle unit is clock-gated, and after that, or with clock gating disabled, power-gated. -/
def execUnitGate (u : UnitId) (s : State) : Host.Outcome State Fault Refusal :=
  run (fun w =>
    if w.b.glb.mainReset || !unitExists w u || !unitIdle w u then w
    else if w.b.crp.cgDis || w.b.crp.clockGated.contains u then powerGate u w
    else { w with b.crp.clockGated := w.b.crp.clockGated ++ [u] }) s

/-- A unit is awake. -/
def wake (u : UnitId) (w : W) : W :=
  let w := { w with b.crp.clockGated := w.b.crp.clockGated.filter (fun x => x != u) }
  match u with
  | .se e => { w with b.crp.gateStat := w.b.crp.gateStat &&& ~~~(1#64 <<< e) }
  | .relight j => { w with b.crp.rlPowerGated := w.b.crp.rlPowerGated.filter (fun x => x != j) }
  | _ => w

/-- The operation that waits for the wake of its Relight engine begins (R443). -/
def beginWoken (j : Nat) (w : W) : W :=
  match w.b.fetches.find? (fun o => o.queued && holdsEngine o j) with
  | some o => beginOp o.id w
  | none => w

/-- UNIT_WAKE: the wake ends and the work that waits starts. -/
def execUnitWake (u : UnitId) (s : State) : Host.Outcome State Fault Refusal :=
  run (fun w =>
    let w := wake u w
    match u with
    | .se e => if (getSe w e).run.isSome then loadStep e w else w
    | .relight j => beginWoken j w
    | _ => w) s

/-! ### Power (R445) -/

/-- POWER_ESTIMATE: the average of the last 1 ms, the largest one, and the energy in µJ. -/
def execPowerEstimate (s : State) : Host.Outcome State Fault Refusal :=
  run (fun w =>
    if w.b.glb.mainReset then w
    else
      let c := w.b.crp
      let mw := sat 0xFFFFFFFF (Config.powerEstimate w.b.cnt c.tCore * c.pwrScale / 256)
      { w with b.crp := { c with avgMw := mw, peakMw := max c.peakMw mw, energy := c.energy + mw } }) s

/-! ### Snapshots and samples (R446 to R450) -/

/-- Counters from an address on, as bytes. -/
def cntBytes (w : W) (addr words : Nat) : Bytes := (List.range words).flatMap (fun i => toLe 8 (tget w.b.cnt (addr + 8 * i) 0))

/-- The two words of a queue pair's statistics (R448). -/
def qpStat (q : Qp) : Bytes := toLe 4 q.statCmds ++ toLe 4 q.statNotOk ++ toLe 4 q.statWait ++ toLe 4 q.wraps.toNat

/-- A record of counters: the header and the selected blocks; from a partition other than 0, foreign SEs read 0 (R449). -/
def snapshot (w : W) (sets part sample : Nat) : Bytes :=
  let b := w.build
  let p := getPart w part
  let has := fun (i : Nat) (x : Bytes) => if bit sets i then x else []
  let head := toLe 8 w.b.crp.tCore ++ toLe 1 sets ++ toLe 1 b.nmp ++ toLe 1 b.nlp ++ toLe 1 b.nse ++ toLe 1 part ++ zeros 3
    ++ toLe 8 sample ++ zeros 40
  let se := fun (e : Nat) =>
    if part != 0 && part != 0xFF && partOfSe? w e != some part then zeros 64 else cntBytes w (0x804000 + 0x40 * e) 8
  head ++ has 0 ((List.range b.nmp).flatMap (fun i => cntBytes w (0x800000 + 0x100 * i) 32))
    ++ has 1 ((List.range b.nlp).flatMap (fun i => cntBytes w (0x802000 + 0x200 * i) 64))
    ++ has 2 ((List.range 64).flatMap se)
    ++ has 3 ((List.range p.qpCount).flatMap (fun i => qpStat (getQp w (p.qpFirst + i))))
    ++ has 4 (cntBytes w 0x806000 8)

/-- The checks of STATS_SNAPSHOT (R449). -/
def snapshotCheck (w : W) (k : Cmd) : Check :=
  let sets := arg k 0x18 1
  firstFail [if sets = 0 then fail .malformed 0x18 else none,
    deny (!inPlain w k.ctx (arg k 0x10 8) (snapshot w sets k.part 0).length) 0xD0,
    deny (k.part != 0 && (bit sets 0 || bit sets 1 || bit sets 4)) 0xD1]

/-- The record is captured and written, once the lines it goes to are free. -/
def snapshotGo (env : Env) (k : Cmd) (w : W) : W :=
  let d := snapshot w (arg k 0x18 1) k.part 0
  let a := arg k 0x10 8
  onLines a d.length (fun w =>
    let (c, w') := writeBytes (seAcc env k.ctx) a d w
    if c != .ok then done env k.id (rspStatus c) 0 [] w'
    else done env k.id .ok 0 (toLe 8 w.b.crp.tCore ++ toLe 8 d.length) (cntGlb 0x28 1 w')) w

/-- STATS_SNAPSHOT. -/
def execStatsSnapshot (c : CmdId) (env : Env) (s : State) : Host.Outcome State Fault Refusal :=
  run (cmdRow c (isOp 0x90) env (fun k w => checked env k (snapshotCheck w k) (snapshotGo env k) w) (snapshotGo env)) s

/-- Does a slot of the sample ring overlap a defined region other than PLAIN (R450)? -/
def slotBad (w : W) (a : Nat) : Bool :=
  (definedRgns w).any (fun r => r.2.kind != .plain && overlap (r.2.base, rgnBytes r.2) (a, 16384))

/-- Count a sample that is not written. -/
def skipSample (w : W) : W := { w with b.tlm.skipped := sat32 w.b.tlm.skipped }

/-- TELEMETRY_SAMPLE: the record into its slots, two on a full build; a slot that overlaps another region is not written, and
the sample before it is abandoned when it has not finished (R450). -/
def execTelemetrySample (env : Env) (s : State) : Host.Outcome State Fault Refusal :=
  run (fun w =>
    let t := w.b.tlm
    if w.b.glb.mainReset || !t.sampBase.getLsbD 0 then w
    else
      let d := snapshot w 0x17 0xFF t.sample
      let n := if d.length ≤ 16384 then 1 else 2
      let ring := bits t.sampCfg.toNat 47 32
      let slot := fun (i : Nat) => bits t.sampBase.toNat 47 14 * 16384 + 16384 * ((t.sample + i) % ring)
      let part := fun (i : Nat) => (d.drop (16384 * i)).take 16384
      let w := if t.todo.isEmpty then w else skipSample w
      let w := { w with b.tlm.sample := t.sample + n }
      let bad := (List.range n).any (fun i => slotBad w (slot i))
      let w := if bad then skipSample { w with b.tlm.sampBad := true } else w
      let todo := ((List.range n).filter (fun i => !slotBad w (slot i))).map (fun i => (slot i, part i))
      sampleGo env { w with b.tlm.todo := todo }) s

end Sys2Proof.Machine
end

