-- ==== Sys2Proof/Machine/CollRows.lean ====
section
/-! DEFINITION. The rows of Datums and collectives: ACCUM_CLEAR, ACCUM_WRITE, DATUM_ADVANCE, REDUCE_SCATTER and ALL_GATHER
with their timers, REDUCE and GATHER packets (R236 to R265). -/

namespace Sys2Proof.Machine

/-- Does a collective of another queue run on a region (R240)? -/
def otherColl (w : W) (k : Cmd) (ri : Nat) : Bool :=
  w.b.colls.any (fun c => collRuns w c && c.cmd.q != k.id.q
    && (c.region == ri || c.resid == some ri || c.fold == some ri || (c.out.map (·.1)) == some ri || (c.outFmt != 0 && c.dst == ri)))

/-! ### ACCUM_CLEAR (R239) -/

/-- The checks of ACCUM_CLEAR (R195, R239, R240). -/
def accumClearCheck (w : W) (k : Cmd) : Check :=
  let i := arg k 0x10 2
  firstFail
    [ownRgn w k i [.accum], inPhase w k [.opened], deny (otherColl w k i) 0x54,
     deny ((tileRange? (getRgn w i) (arg k 0x18 8) (arg k 0x20 8)).isNone) 0x5B]

/-- ACCUM_CLEAR clears its tiles once no AU work is under way on the region and their lines are free. -/
def accumClearGo (env : Env) (k : Cmd) (w : W) : W :=
  let i := arg k 0x10 2
  let (f, n) := (tileRange? (getRgn w i) (arg k 0x18 8) (arg k 0x20 8)).getD (0, 0)
  if auBusy w i || !(List.range n).all (fun t => tileFree w (getRgn w i) 0 (f + t)) then w
  else
    let (c, w) := clearTiles env i f n w
    done env k.id (rspStatus c) 0 [] (if c == .poison then markReplay k.ctx w else w)

/-- ACCUM_CLEAR (R239). -/
def execAccumClear (c : CmdId) (env : Env) (s : State) : Host.Outcome State Fault Refusal :=
  run (cmdRow c (isOp 0x30) env (fun k w => checked env k (accumClearCheck w k) (accumClearGo env k) w) (accumClearGo env)) s

/-! ### ACCUM_WRITE (R238) -/

/-- Bits of a source element by format code (R232, R298). -/
def elemBits (fmt : Nat) : Nat :=
  match fmt with | 0 => 32 | 1 => 16 | 2 => 16 | 0x12 => 6 | 0x13 => 6 | 0x14 => 4 | _ => 8

/-- Is a run of bytes inside one region of the context that is neither PARITY nor STAGING? -/
def sourceRange (w : W) (x a n : Nat) : Bool :=
  match rangeRgn w x a n with | some r => r.kind != .parity && r.kind != .staging | none => false

/-- The checks of ACCUM_WRITE (R195, R238, R240). -/
def accumWriteCheck (w : W) (k : Cmd) : Check :=
  let i := arg k 0x10 2
  let r := getRgn w i
  let fmt := arg k 0x12 1
  let n := arg k 0x30 8
  firstFail
    [deny (r.state == .free || r.ctx != k.ctx || r.kind != .accum) 0x58, inPhase w k [.opened],
     deny (decide (elemsOf r < arg k 0x28 8 + n)) 0x58,
     deny (!sourceRange w k.ctx (arg k 0x18 8) (srcBytes fmt n)
        || (decide (0x10 ≤ fmt) && !sourceRange w k.ctx (arg k 0x20 8) (n / 32))) 0x59,
     deny (otherColl w k i) 0x54]

/-- Read bytes for a command at any address, with degraded reads. -/
def cmdBytes (env : Env) (c : CmdId) (a n : Nat) (w : W) : Got × W :=
  if n = 0 then (.got .ok [], w)
  else
    let l := lineOf a
    if !linesReadable w l (a + n - l) then (.waits, flushLines l (a + n - l) w)
    else match cmdSpan env c ((a + n - 1 - l) / 64 + 1) l w with
      | (.got code d, w) => (.got code ((d.drop (a - l)).take n), w)
      | x => x

/-- ACCUM_WRITE ends with the elements taken in (R238). -/
def accumWriteEnd (env : Env) (k : Cmd) (st : Status) (n : Nat) (w : W) : W := done env k.id st 0 (toLe 8 n) w

/-- ACCUM_WRITE takes in its elements tile by tile; PROG counts them. -/
def accumWriteGo (env : Env) : Nat → Cmd → W → W
  | 0, _, w => w
  | fuel + 1, k, w =>
    let ri := arg k 0x10 2
    let fmt := arg k 0x12 1
    let n := arg k 0x30 8
    let first := arg k 0x28 8
    match findCmd w k.id with
    | none => w
    | some k =>
      if n ≤ k.prog then
        accumWriteEnd env k (if k.degraded then .okDegraded else if k.acc.testBit 0 then .nonfinite
          else if k.acc.testBit 1 || k.acc.testBit 2 then .range else .ok) n w
      else if auBusy w ri || !tileFree w (getRgn w ri) 0 ((first + k.prog) / 4096) then w
      else
        let j := k.prog
        let t := (first + j) / 4096
        let m := min (n - j) (4096 * (t + 1) - (first + j))
        let bitAt := j * elemBits fmt
        let src := arg k 0x18 8 + bitAt / 8
        let len := (bitAt % 8 + m * elemBits fmt + 7) / 8
        match cmdBytes env k.id src len w with
        | (.waits, w) => w
        | (.got c1 d, w) =>
          let (sc, w) : Got × W := if fmt < 0x10 then (.got .ok [], w)
            else cmdBytes env k.id (arg k 0x20 8 + j / 32) ((j + m + 31) / 32 - j / 32) w
          match sc with
          | .waits => w
          | .got c2 sd =>
            let bad := worse c1 c2
            if bad != .ok then
              let inAccum := ((rgnAt w src).map (fun r => r.2.kind == .accum)).getD false
              accumWriteEnd env k (rspStatus bad) j (if bad == .poison && inAccum then markReplay k.ctx w else w)
            else
              let v := leNat d
              let xs := (List.range m).map (fun i =>
                let x := (v >>> (bitAt % 8 + i * elemBits fmt)) % 2 ^ elemBits fmt
                ((first + j + i) % 4096, inputValue fmt x (sd.getD ((j + i) / 32 - j / 32) 0).toNat))
              let (c3, fl, w) := contribTile env ri t (argInt k.slot 0x13 1) (arg k 0x14 2) xs w
              if c3 != .ok then accumWriteEnd env k (rspStatus c3) j (if c3 == .poison then markReplay k.ctx w else w)
              else
                let w := usedLines k.id (lineOf src) (src + len - lineOf src) w
                accumWriteGo env fuel k (modCmd k.id (fun y => { y with prog := j + m, acc := y.acc ||| fl }) w)

/-- ACCUM_WRITE goes on where it stands: at most one round a tile, and one to end. -/
def accumWriteOn (env : Env) (k : Cmd) (w : W) : W := accumWriteGo env (arg k 0x30 8 / 4096 + 3) k w

/-- ACCUM_WRITE (R238). -/
def execAccumWrite (c : CmdId) (env : Env) (s : State) : Host.Outcome State Fault Refusal :=
  run (cmdRow c (isOp 0x31) env (fun k w => checked env k (accumWriteCheck w k) (accumWriteOn env k) w) (accumWriteOn env)) s

/-! ### DATUM_ADVANCE (R246) -/

/-- The checks of DATUM_ADVANCE (R195, R240, R246). -/
def datumCheck (w : W) (k : Cmd) : Check :=
  let i := arg k 0x10 2
  firstFail
    [ownRgn w k i [.accum, .residual], inPhase w k [.idle], deny (otherColl w k i) 0x54,
     deny (arg k 0x12 1 != 2 && (tileRange? (getRgn w i) (arg k 0x18 8) (arg k 0x20 8)).isNone) 0x5B]

/-- The state lines a SET or RECOMPUTE acts on: banks and tiles. -/
def datumLines (w : W) (k : Cmd) (bank0 : Nat) : List (Nat × Nat) :=
  let r := getRgn w (arg k 0x10 2)
  let (f, n) := (tileRange? r (arg k 0x18 8) (arg k 0x20 8)).getD (0, 0)
  let ts := (List.range n).map (· + f)
  let banks := if r.kind == .residual then (if arg k 0x12 1 = 0 then [0, 1] else [bank0]) else [0]
  banks.flatMap (fun b => ts.map (fun t => (b, t)))

/-- What a mode makes of a tile; nothing where it leaves the tile alone. -/
def datumTile (r : Region) (k : Cmd) (t : Tile) : Option Tile :=
  if arg k 0x12 1 = 0 then some (clearedTile (argInt k.slot 0x14 2))
  else match t.emax with | none => none | some _ => some { t with anchor := tileT r t t.anchor }

/-- SET and RECOMPUTE go through their state lines; a line of a sounded RESIDUAL region is a coded write. PROG counts lines,
ACC the anchors that changed. -/
def datumSteps (env : Env) (k : Cmd) : List (Nat × Nat) → W → W
  | [], w =>
    match findCmd w k.id with
    | some y => outcome env k.id { status := if y.degraded then .okDegraded else .ok, result := toLe 8 y.acc } (closeCmdUnits k.id w)
    | none => w
  | (b, t) :: rest, w =>
    let ri := arg k 0x10 2
    let r := getRgn w ri
    let line := stateAt r b t
    if !linesFree w line 64 then flushLines line 64 w
    else
    match cmdLine env k.id line w with
    | (.waits, w) => w
    | (.got .ok d, w) =>
      let old := tileOf d
      let made := datumTile r k old
      let new := made.getD old
      let (p, w) : Put × W := match made with
        | none => (.put .ok, w)
        | some t => cmdPut env k.id line (tileBytes t) w
      match p with
      | .waits => w
      | .put .ok =>
        let w := usedLines k.id line 64 (noteTile ri old new w)
        datumSteps env k rest
          (modCmd k.id (fun y => { y with prog := y.prog + 1, acc := y.acc + b2n (new.anchor != old.anchor) }) w)
      | .put c => outcome env k.id { status := rspStatus c } (closeCmdUnits k.id w)
    | (.got c _, w) => outcome env k.id { status := rspStatus c } (closeCmdUnits k.id w)

/-- SET and RECOMPUTE go on where they stand, once no AU work is under way on the region. -/
def datumGo (env : Env) (k : Cmd) (w : W) : W :=
  let ri := arg k 0x10 2
  if auBusy w ri then w else datumSteps env k ((datumLines w k (getRgn w ri).bank).drop k.prog) w

/-- A DATUM_ADVANCE row of a mode. -/
def datumRow (c : CmdId) (sel : Cmd → Bool) (env : Env) (w : W) : W :=
  cmdRow c (fun k => isOp 0x35 k && sel k) env (fun k w => checked env k (datumCheck w k) (datumGo env k) w) (datumGo env) w

/-- DATUM_ADVANCE MODE 0 SET; a reserved MODE ends here MALFORMED. -/
def execDatumAdvanceSet (c : CmdId) (env : Env) (s : State) : Host.Outcome State Fault Refusal :=
  run (datumRow c (fun k => arg k 0x12 1 != 1 && arg k 0x12 1 != 2) env) s

/-- DATUM_ADVANCE MODE 1 RECOMPUTE. -/
def execDatumAdvanceRecompute (c : CmdId) (env : Env) (s : State) : Host.Outcome State Fault Refusal :=
  run (datumRow c (fun k => arg k 0x12 1 == 1) env) s

/-- DATUM_ADVANCE MODE 2 MARGIN. -/
def execDatumAdvanceMargin (c : CmdId) (env : Env) (s : State) : Host.Outcome State Fault Refusal :=
  run (cmdRow c (fun k => isOp 0x35 k && arg k 0x12 1 == 2) env
    (fun k w => checked env k (datumCheck w k)
      (fun w => done env k.id .ok 0 (toLe 8 0) (modRgn (arg k 0x10 2) (fun r => { r with margin := arg k 0x13 1 }) w)) w)
    (fun _ w => w)) s

/-! ### REDUCE_SCATTER (R257 to R259) -/

/-- Byte of the LO or HI field that shuts the own coordinate out, or that selects too few or too many members (R258). -/
def blockBad (w : W) (r : Region) (lo hi : Coord) : Option Nat :=
  let own := w.b.lnk.coord
  if (List.range 4).any (fun i => decide (axis own i < axis lo i)) then some 0x18
  else if (List.range 4).any (fun i => decide (axis hi i < axis own i)) then some 0x1C
  else
    let p := (collMembers (grpOf w r) lo hi).length
    if r.grp.isSome && (decide (p < 2) || decide (16 < p)) then some 0x18 else none

/-- The regions of a footprint as REDUCE_SCATTER names them. -/
def reduceRgns (k : Cmd) : List Nat :=
  (arg k 0x10 2 % 0x4000 :: optIdx (arg k 0x26 2) ++ optIdx (arg k 0x28 2)) ++ (if bit (arg k 0x17 1) 1 then [arg k 0x2C 2] else [])

/-- Check 5 of R116 for RESID or FOLD: a region named is a RESIDUAL region of the context. -/
def residOwn (w : W) (k : Cmd) (v : Nat) : Check := if v == 0xFFFF then none else ownRgn w k v [.residual]

/-- Is a RESIDUAL region fit for RESID or FOLD beside a region (R258)? -/
def residFit (w : W) (k : Cmd) (r : Region) (v : Nat) : Bool :=
  v == 0xFFFF || (let z := getRgn w v
    z.kind == .residual && z.state == .sounded && z.ctx == k.ctx && z.width == r.width && z.headroom == r.headroom
      && z.size == 2 * r.size)

/-- The checks of REDUCE_SCATTER (R195, R258). -/
def reduceCheck (w : W) (k : Cmd) : Check :=
  let i := arg k 0x10 2
  let r := getRgn w i
  let g := grpOf w r
  let own := w.b.lnk.coord
  let direct := arg k 0x12 1 = 1
  let flags := arg k 0x17 1
  let force := bit flags 0
  let lo := BitVec.ofNat 32 (arg k 0x18 4)
  let hi := BitVec.ofNat 32 (arg k 0x1C 4)
  let ms := collMembers g lo hi
  let resid := arg k 0x26 2
  let fold := arg k 0x28 2
  let roster := arg k 0x24 2
  let offAxis := ms.any (fun m => (List.range 4).any (fun a =>
    a != arg k 0x13 1 % 4 && axis (slotAt g m).coord a != axis own a))
  let topkBad := if r.comp = 1 then !(decide (1 ≤ arg k 0x2A 2)) else arg k 0x2A 2 != 0
  let pos := (ms.findIdx? (fun m => m == g.self)).getD 0
  let out := getRgn w (arg k 0x2C 2)
  let usable := r.kind == .accum && r.ctx == k.ctx && r.state != .free && r.grp.isSome
  firstFail
    [(blockBad w (if usable then r else {}) lo hi).elim none (fun o => fail .malformed o),
     if usable && topkBad then fail .malformed 0x2A else none,
     deny (!usable) 0x50, residOwn w k resid, residOwn w k fold, inPhase w k [.opened],
     deny (!direct && (r.comp != 0 || force || fold != 0xFFFF || arg k 0x20 4 != 0 || offAxis)) 0x51,
     deny ((resid != 0xFFFF) != (r.comp != 0) || (fold != 0xFFFF) != (arg k 0x16 1 == 1)
        || !residFit w k r resid || !residFit w k r fold) 0x52,
     deny (force && (!roster.testBit g.self || (List.range 16).any (fun j => roster.testBit j && !ms.contains j))) 0x53,
     deny ((reduceRgns k).any (otherColl w k)) 0x54,
     deny (bit flags 1 && (out.kind != .accum || out.state == .free || out.ctx != k.ctx || out.width != r.width
        || out.headroom != r.headroom
        || decide (tilesOf out < arg k 0x30 8 % 2 ^ 40 + (shardTiles r ms.length pos).length))) 0x55,
     if direct && decide (2 ≤ (getWatch w k.ctx).rosters.length
        + (w.b.colls.filter (fun c => c.ctx == k.ctx && c.direct && !c.closed && !c.finished)).length) then fail .quota 6 else none]

/-- A collective begins: with a member that is out it ends at once (R265). -/
def collStart (env : Env) (x : Coll) (go : W → W) (w : W) : W :=
  let w := { w with b.colls := w.b.colls.filter (fun c => c.cmd != x.cmd) ++ [x] }
  let g := grpOf w (getRgn w x.region)
  if x.members.any (fun m => slotOut (slotAt g m).state) then collEnd env x.cmd { status := .memberLost } w
  else collWaiting env (go w)

/-- REDUCE_SCATTER starts (R253, R256, R261). -/
def reduceStart (env : Env) (k : Cmd) (w : W) : W :=
  let r := getRgn w (arg k 0x10 2)
  let g := grpOf w r
  let ms := collMembers g (BitVec.ofNat 32 (arg k 0x18 4)) (BitVec.ofNat 32 (arg k 0x1C 4))
  let flags := arg k 0x17 1
  let opt := fun (v : Nat) => if v = 0xFFFF then none else some v
  let force := bit flags 0
  let roster := arg k 0x24 2
  let x : Coll :=
    { cmd := k.id, ctx := k.ctx, isReduce := true, region := arg k 0x10 2, coll := arg k 0x14 2
      direct := arg k 0x12 1 == 1, dir := bit (arg k 0x13 1) 2, members := ms
      pos := (ms.findIdx? (fun m => m == g.self)).getD 0, force := force, resid := opt (arg k 0x26 2)
      fold := opt (arg k 0x28 2), topk := arg k 0x2A 2
      out := if bit flags 1 then some (arg k 0x2C 2, arg k 0x30 8) else none
      first := if force then ms.filter (fun m => roster.testBit m && m != g.self) else [] }
  let w := modWatch k.ctx (fun y =>
    { y with residuals := (optIdx (arg k 0x26 2) ++ optIdx (arg k 0x28 2)).foldl insertNat y.residuals }) w
  collStart env x (fun w => reduceGo env k.id (if force then closeRoster k.id w else w)) w

/-- REDUCE_SCATTER (R252 to R259). -/
def execReduceScatter (c : CmdId) (env : Env) (s : State) : Host.Outcome State Fault Refusal :=
  run (cmdRow c (isOp 0x33) env (fun k w => checked env k (reduceCheck w k) (reduceStart env k) w)
    (fun k w => collWaiting env (reduceGo env k.id w))) s

/-- DIRECT_DEADLINE: the roster closes DEADLINE_US after the start (R253). -/
def execDirectDeadline (c : CmdId) (env : Env) (s : State) : Host.Outcome State Fault Refusal :=
  run (fun w =>
    match findColl w c, findCmd w c with
    | some x, some k =>
      if x.direct && !x.closed && !x.finished && arg k 0x20 4 != 0 then collWaiting env (collGo env c (closeRoster c w)) else w
    | _, _ => w) s

/-- COLLECTIVE_TIMEOUT (R259, R263). -/
def execCollectiveTimeout (c : CmdId) (env : Env) (s : State) : Host.Outcome State Fault Refusal :=
  run (collEnd env c { status := .timeout }) s

/-- COLLECTIVE_REPEAT_TIMER: 100 µs after a gap without a LAST, the segments lacking are asked for (R264). -/
def execCollectiveRepeatTimer (c : CmdId) (s : State) : Host.Outcome State Fault Refusal :=
  run (fun w =>
    match findColl w c with
    | none => w
    | some x =>
      if x.finished || !x.ready then w
      else
        let src := fun (l : Nat × Nat × Nat) => if x.isReduce && x.direct then l.1 else memberAt x (prevPos x x.pos)
        sendRepeats x ((lacking w x).filter (fun l => lostFrom w x (src l))) w) s

/-! ### ALL_GATHER (R263) -/

/-- The checks of ALL_GATHER (R195, R258, R263). -/
def gatherCheck (w : W) (k : Cmd) : Check :=
  let i := arg k 0x10 2
  let r := getRgn w i
  let fmt := arg k 0x13 1
  let dst := getRgn w (arg k 0x16 2)
  let usable := r.kind == .accum && r.ctx == k.ctx && r.state != .free && r.grp.isSome
  firstFail
    [(blockBad w (if usable then r else {}) (BitVec.ofNat 32 (arg k 0x18 4)) (BitVec.ofNat 32 (arg k 0x1C 4))).elim none
        (fun o => fail .malformed o),
     deny (!usable) 0x50,
     if fmt = 0 then none else firstFail [ownRgn w k (arg k 0x16 2) [.window, .plain], deny (dst.grp != r.grp) 5],
     inPhase w k [.opened],
     deny (otherColl w k i || (fmt != 0 && otherColl w k (arg k 0x16 2))) 0x54,
     deny (fmt != 0 && decide (rgnBytes dst < elemsOf r * (if fmt = 1 then 4 else 2))) 0x5A]

/-- ALL_GATHER starts. -/
def gatherStart (env : Env) (k : Cmd) (w : W) : W :=
  let r := getRgn w (arg k 0x10 2)
  let g := grpOf w r
  let ms := collMembers g (BitVec.ofNat 32 (arg k 0x18 4)) (BitVec.ofNat 32 (arg k 0x1C 4))
  let x : Coll :=
    { cmd := k.id, ctx := k.ctx, isReduce := false, region := arg k 0x10 2, coll := arg k 0x14 2, dir := bit (arg k 0x12 1) 2
      members := ms, pos := (ms.findIdx? (fun m => m == g.self)).getD 0, outFmt := arg k 0x13 1, dst := arg k 0x16 2 }
  collStart env x (allGatherGo env k.id) w

/-- ALL_GATHER (R263). -/
def execAllGather (c : CmdId) (env : Env) (s : State) : Host.Outcome State Fault Refusal :=
  run (cmdRow c (isOp 0x34) env (fun k w => checked env k (gatherCheck w k) (gatherStart env k) w)
    (fun k w => collWaiting env (allGatherGo env k.id w))) s

/-! ### Packets (R249, R250, R264) -/

/-- A REDUCE or GATHER packet of an OP. -/
def collRow (rx : Rx) (op : Nat) (kind : Bytes → Bool) (env : Env) (w : W) : W :=
  onKind rx op kind (onColl env rx) w

/-- REDUCE with OP DATA; a reserved OP is taken here and has no effect beyond its checks. -/
def execReduce (rx : Rx) (env : Env) (s : State) : Host.Outcome State Fault Refusal :=
  run (collRow rx 0x20 (fun p => fld p 0xA 1 != 1) env) s

/-- REDUCE with OP REPEAT. -/
def execReduceRepeat (rx : Rx) (env : Env) (s : State) : Host.Outcome State Fault Refusal :=
  run (collRow rx 0x20 (fun p => fld p 0xA 1 == 1) env) s

/-- GATHER with OP DATA. -/
def execGather (rx : Rx) (env : Env) (s : State) : Host.Outcome State Fault Refusal :=
  run (collRow rx 0x30 (fun p => fld p 0xA 1 != 1) env) s

/-- GATHER with OP REPEAT. -/
def execGatherRepeat (rx : Rx) (env : Env) (s : State) : Host.Outcome State Fault Refusal :=
  run (collRow rx 0x30 (fun p => fld p 0xA 1 == 1) env) s

end Sys2Proof.Machine
end

