-- ==== Sys2Proof/Machine/Control.lean ====
section
/-! DEFINITION. REGISTER_WRITE: a write through the control port, by the map of chapter 16 (R462 to R484). -/

namespace Sys2Proof.Machine

/-- The bits of a register that a write of 1 clears, cleared where the word has them. -/
def w1c {n : Nat} (old : BitVec n) (v : Word) (rw1c : BitVec n) : BitVec n := old &&& ~~~(v.setWidth n &&& rw1c)

/-- A write of 1 to a one-bit RW1C field. -/
def w1cBit (old : Bool) (v : Word) (i : Nat) : Bool := old && !v.getLsbD i

/-- PRT_IRQSUM: the bits written 1 of the queue pairs that belong to the partition (R128). -/
def writeIrqSum (p word : Nat) (v : Word) (w : W) : W :=
  (List.range 64).foldl (fun w b =>
    let q := 64 * word + b
    if v.getLsbD b && partOfQp? w q == some p then modQp q (fun k => { k with irqPend := false }) w else w) w

/-- CTX_CTL: RESET, else ENABLE (R102, R126). -/
def writeCtxCtl (env : Env) (x : Nat) (v : Word) (w : W) : W :=
  if v.getLsbD 2 then ctxReset env x w else if v.getLsbD 0 then enableCtx x w else disableCtx env x w

/-- GLB, CRP, LDR and TLM (R470 to R473). -/
def writeLow (env : Env) (addr : Nat) (v : Word) (w : W) : Wrote :=
  if addr = 0x10 then .acts (writeServe env (v.getLsbD 0) w)
  else if addr = 0x10010 then writeIf (vbits v 9 0 == 0 || decide (1000 < vbits v 9 0)) { w with b.crp.tbPeriod := vbits v 9 0 }
  else if addr = 0x10018 then .acts { w with b.crp.tbStat := w1c w.b.crp.tbStat v 0x38 }
  else if addr = 0x10028 then
    writeIf (vbits v 31 16 == 0)
      { w with b.crp.pgUs := vbits v 31 16, b.crp.rlPgDis := v.getLsbD 2, b.crp.sePgDis := v.getLsbD 1, b.crp.cgDis := v.getLsbD 0 }
  else if addr = 0x10040 then writeIf (vbits v 15 0 == 0) { w with b.crp.pwrScale := vbits v 15 0 }
  else if addr = 0x20000 then writeLdrCtl v w
  else if addr = 0x20010 then .acts { w with b.ldr.addr := (vmask v 47 6).toNat }
  else if addr = 0x20018 then writeLdrData v w
  else if addr = 0x30000 then .acts { w with b.tlm.girq := w1cBit w.b.tlm.girq v 0 }
  else if addr = 0x30090 then .acts { w with b.tlm.sampBad := w1cBit w.b.tlm.sampBad v 0 }
  else plainWrite addr v w

/-- RAS and SEC (R474, R475). -/
def writeRas (env : Env) (addr : Nat) (v : Word) (w : W) : Wrote :=
  if addr = 0x40000 then .acts { w with b.ras.stat := w1c w.b.ras.stat v 0x1FF }
  else if addr = 0x40040 then .acts { w with b.ras.bgctl := v.setWidth 4 }
  else if addr = 0x40048 then
    writeIf (decide (vbits v 47 32 < 10) || decide (10000 < vbits v 47 32) || decide (vbits v 31 0 < 60) || decide (86400 < vbits v 31 0))
      { w with b.ras.sramMs := vbits v 47 32, b.ras.parityS := vbits v 31 0 }
  else if addr = 0x40098 then .acts { w with b.ras.injAddr := (vmask v 47 6).toNat }
  else if 0x40400 ≤ addr && addr ≤ 0x40488 then .acts (writeInject env ((addr - 0x40400) / 8) v w)
  else if addr = 0x50020 then .acts { w with b.sec.pend := w1cBit w.b.sec.pend v 2 }
  else .nothing

/-- PRT, LNK, MPS and ENG (R476 to R479). -/
def writeMid (addr : Nat) (v : Word) (w : W) : Wrote :=
  if 0x64000 ≤ addr && addr < 0x68000 then .acts (writeIrqSum ((addr - 0x64000) / 0x400) (addr % 0x400 / 8) v w)
  else if addr = 0x70000 then .acts (writeLnkCtl v w)
  else if addr = 0x70008 then (if w.b.lnk.en then .ignored else .acts { w with b.lnk.coord := v.setWidth 32 })
  else if addr = 0x70010 then (if w.b.lnk.en || (w.build.nlp = 4 && v.toNat / 2 ^ 16 % 2 ^ 16 != 0) then .ignored
      else .acts { w with b.lnk.torus := v.setWidth 32 })
  else if addr = 0x70020 then .acts { w with b.lnk.err := w1c w.b.lnk.err v 0xFF }
  else if 0x70400 ≤ addr && addr % 0x40 = 0 && (addr - 0x70400) / 0x40 < w.build.nlp then
    .acts (modLp ((addr - 0x70400) / 0x40) (fun l => { l with dnSeen := w1cBit l.dnSeen v 1 }) w)
  else if 0x80000 ≤ addr && addr < 0x90000 && addr % 0x800 = 0x10 && (addr - 0x80000) / 0x800 < w.build.nmp then
    .acts (modSlice ((addr - 0x80000) / 0x800) (fun s => { s with err := w1c s.err v 0xFF }) w)
  else if 0x90000 ≤ addr && addr < 0x91000 && (addr - 0x90000) / 0x40 < w.build.nse then
    let e := (addr - 0x90000) / 0x40
    if addr % 0x40 = 0 then .acts (writeSeCtl e v w)
    else if addr % 0x40 = 0x18 then .acts (modSe e (fun s => { s with err := w1c s.err v 0xF }) w)
    else .nothing
  else plainWrite addr v w

/-- The entry of a queue pair (R127, R481). -/
def writeQpEntry (q off : Nat) (v : Word) (w : W) : Wrote :=
  let base := (vmask v 47 12).toNat
  if off = 0 then .acts (writeQpCtl q v w)
  else if off = 8 then (if (getQp w q).enable then .ignored else .acts (modQp q (fun k => { k with sqBase := base }) w))
  else if off = 0x10 then (if (getQp w q).enable then .ignored else .acts (modQp q (fun k => { k with cqBase := base }) w))
  else if off = 0x20 then .acts (modQp q (fun k => { k with irqPend := w1cBit k.irqPend v 0 }) w)
  else .nothing

/-- GRP, DBL, CTX, RGN and CNT (R480 to R484). -/
def writeHigh (env : Env) (addr : Nat) (v : Word) (w : W) : Wrote :=
  if addr = 0xB0000 then .acts { w with b.pmapBase := (vmask v 47 4).toNat }
  else if addr = 0xB0008 then writeIf (decide (65536 < vbits v 16 0)) { w with b.pmapCnt := vbits v 16 0 }
  else if addr = 0xB0018 then .acts { w with b.tombFull := w1cBit w.b.tombFull v 16 }
  else if addr = 0xC0020 then .acts { w with b.dpErr := w1c w.b.dpErr v 0x1BF }
  else if 0xD8000 ≤ addr && addr < 0xD9000 then .acts (seedWrite ((addr - 0xD8000) / 16) (addr % 16 == 8) v w)
  else if 0x100000 ≤ addr && addr < 0x110000 then .acts (doorbell ((addr - 0x100000) / 8) v w)
  else if 0x110000 ≤ addr && addr < 0x190000 then writeQpEntry ((addr - 0x110000) / 64) (addr % 64) v w
  else if 0x200000 ≤ addr && addr < 0x240000 && addr % 64 = 0 then .acts (writeCtxCtl env ((addr - 0x200000) / 64) v w)
  else if 0x600000 ≤ addr && addr < 0x680000 && addr % 32 = 16 then
    .acts (modRgn ((addr - 0x600000) / 32) (fun r => { r with bad := w1cBit r.bad v 7 }) w)
  else if 0x808000 ≤ addr && addr < 0x828000 && addr % 16 = 8 then
    .acts (modQp ((addr - 0x808000) / 16) (fun k => { k with wraps := k.wraps &&& ~~~((v >>> 32).setWidth 3) }) w)
  else plainWrite addr v w

/-- A write through the control port (R462, R468): aligned words; DARK and LOADING write the first six windows only, and ignore
others without an event (log entry 117). -/
def writeReg (env : Env) (addr : Nat) (v : Word) (w : W) : Wrote :=
  if addr % 8 != 0 || w.b.glb.state == .reset then .nothing
  else if addr < 0x40000 then writeLow env addr v w
  else if addr < 0x60000 then writeRas env addr v w
  else if !portsOpen w then .nothing
  else if addr < 0xA0000 then writeMid addr v w
  else writeHigh env addr v w

/-- REGISTER_WRITE. -/
def execRegisterWrite (addr : Nat) (v : Word) (env : Env) (s : State) : Host.Outcome State Fault Refusal :=
  run (fun w => settleWrite addr v w (writeReg env addr v w)) s

end Sys2Proof.Machine
end

