-- ==== Sys2Proof/Machine/Dispatch.lean ====
section
/-! DEFINITION. One arm for each command of the table: its meaning. -/

namespace Sys2Proof.Machine

def exec (i : Instr) (s : State) : Host.Outcome State Fault Refusal :=
  match i with
  | .mpRead p r => Sys2Proof.Machine.execMpRead p r s
  | .mpWrite p r => Sys2Proof.Machine.execMpWrite p r s
  | .mpWriteMasked p r => Sys2Proof.Machine.execMpWriteMasked p r s
  | .mpAtomic p r => Sys2Proof.Machine.execMpAtomic p r s
  | .mdResponse p tag codes => Sys2Proof.Machine.execMdResponse p tag codes s
  | .mergeFlushTimeout p line => Sys2Proof.Machine.execMergeFlushTimeout p line s
  | .degradedReadDone op env => Sys2Proof.Machine.execDegradedReadDone op env s
  | .fetchDeadlineExpiry op member env => Sys2Proof.Machine.execFetchDeadlineExpiry op member env s
  | .fetchRetryTimer op => Sys2Proof.Machine.execFetchRetryTimer op s
  | .commandFetch q env => Sys2Proof.Machine.execCommandFetch q env s
  | .doorbell q v => Sys2Proof.Machine.execDoorbell q v s
  | .irqHoldoffExpiry q => Sys2Proof.Machine.execIrqHoldoffExpiry q s
  | .nop c env => Sys2Proof.Machine.execNop c env s
  | .fence c env => Sys2Proof.Machine.execFence c env s
  | .regionDefine c env => Sys2Proof.Machine.execRegionDefine c env s
  | .regionRetire c env => Sys2Proof.Machine.execRegionRetire c env s
  | .regionSound c env => Sys2Proof.Machine.execRegionSound c env s
  | .soundingStream r env => Sys2Proof.Machine.execSoundingStream r env s
  | .soundingComplete r env => Sys2Proof.Machine.execSoundingComplete r env s
  | .soundingTimeout r env => Sys2Proof.Machine.execSoundingTimeout r env s
  | .watchOpen c env => Sys2Proof.Machine.execWatchOpen c env s
  | .watchPoll c env => Sys2Proof.Machine.execWatchPoll c env s
  | .pollTimeout x env => Sys2Proof.Machine.execPollTimeout x env s
  | .windowOpen c env => Sys2Proof.Machine.execWindowOpen c env s
  | .encodingComplete x env => Sys2Proof.Machine.execEncodingComplete x env s
  | .encodingTimeout x env => Sys2Proof.Machine.execEncodingTimeout x env s
  | .watchClose c env => Sys2Proof.Machine.execWatchClose c env s
  | .closeBarrier x env => Sys2Proof.Machine.execCloseBarrier x env s
  | .closeTimeout x env => Sys2Proof.Machine.execCloseTimeout x env s
  | .watchAbandon c env => Sys2Proof.Machine.execWatchAbandon c env s
  | .accumClear c env => Sys2Proof.Machine.execAccumClear c env s
  | .accumWrite c env => Sys2Proof.Machine.execAccumWrite c env s
  | .reduceScatter c env => Sys2Proof.Machine.execReduceScatter c env s
  | .directDeadline c env => Sys2Proof.Machine.execDirectDeadline c env s
  | .collectiveTimeout c env => Sys2Proof.Machine.execCollectiveTimeout c env s
  | .collectiveRepeatTimer c => Sys2Proof.Machine.execCollectiveRepeatTimer c s
  | .allGather c env => Sys2Proof.Machine.execAllGather c env s
  | .datumAdvanceSet c env => Sys2Proof.Machine.execDatumAdvanceSet c env s
  | .datumAdvanceRecompute c env => Sys2Proof.Machine.execDatumAdvanceRecompute c env s
  | .datumAdvanceMargin c env => Sys2Proof.Machine.execDatumAdvanceMargin c env s
  | .kernelRun c env => Sys2Proof.Machine.execKernelRun c env s
  | .kernelLoad c env => Sys2Proof.Machine.execKernelLoad c env s
  | .bearingReadRunning c env => Sys2Proof.Machine.execBearingReadRunning c env s
  | .bearingReadMember c env => Sys2Proof.Machine.execBearingReadMember c env s
  | .bearingSweepStart c env => Sys2Proof.Machine.execBearingSweepStart c env s
  | .bearingSweepAdopt c env => Sys2Proof.Machine.execBearingSweepAdopt c env s
  | .memberFence c env => Sys2Proof.Machine.execMemberFence c env s
  | .memberAdoptSurvivor c env => Sys2Proof.Machine.execMemberAdoptSurvivor c env s
  | .memberAdoptSpare c env => Sys2Proof.Machine.execMemberAdoptSpare c env s
  | .adoptResend g => Sys2Proof.Machine.execAdoptResend g s
  | .adoptTimeout g env => Sys2Proof.Machine.execAdoptTimeout g env s
  | .relightStart c env => Sys2Proof.Machine.execRelightStart c env s
  | .relightStateTransfer g env => Sys2Proof.Machine.execRelightStateTransfer g env s
  | .relightStripeDone op env => Sys2Proof.Machine.execRelightStripeDone op env s
  | .relightTimeout g env => Sys2Proof.Machine.execRelightTimeout g env s
  | .restripe c env => Sys2Proof.Machine.execRestripe c env s
  | .restripeStream r env => Sys2Proof.Machine.execRestripeStream r env s
  | .restripeTimeout r env => Sys2Proof.Machine.execRestripeTimeout r env s
  | .degradedRead c env => Sys2Proof.Machine.execDegradedRead c env s
  | .copy c env => Sys2Proof.Machine.execCopy c env s
  | .fill c env => Sys2Proof.Machine.execFill c env s
  | .keyInstallInstall c env => Sys2Proof.Machine.execKeyInstallInstall c env s
  | .keyInstallActivate c env => Sys2Proof.Machine.execKeyInstallActivate c env s
  | .keyInstallErase c env => Sys2Proof.Machine.execKeyInstallErase c env s
  | .counterResync c env => Sys2Proof.Machine.execCounterResync c env s
  | .snuff c env => Sys2Proof.Machine.execSnuff c env s
  | .imagePatch c env => Sys2Proof.Machine.execImagePatch c env s
  | .helmHandoverReady env => Sys2Proof.Machine.execHelmHandoverReady env s
  | .helmHandoverTimeout env => Sys2Proof.Machine.execHelmHandoverTimeout env s
  | .patchLibrarySwap env => Sys2Proof.Machine.execPatchLibrarySwap env s
  | .patchSlotTimeout env => Sys2Proof.Machine.execPatchSlotTimeout env s
  | .partitionSet c env => Sys2Proof.Machine.execPartitionSet c env s
  | .groupDefine c env => Sys2Proof.Machine.execGroupDefine c env s
  | .groupRelease c env => Sys2Proof.Machine.execGroupRelease c env s
  | .formationJoinResend g => Sys2Proof.Machine.execFormationJoinResend g s
  | .formationTimeout g env => Sys2Proof.Machine.execFormationTimeout g env s
  | .injectArm c env => Sys2Proof.Machine.execInjectArm c env s
  | .injectDisarm c env => Sys2Proof.Machine.execInjectDisarm c env s
  | .injectArmExpiry => Sys2Proof.Machine.execInjectArmExpiry s
  | .statsSnapshot c env => Sys2Proof.Machine.execStatsSnapshot c env s
  | .sli e => Sys2Proof.Machine.execSli e s
  | .slih e => Sys2Proof.Machine.execSlih e s
  | .sadd e => Sys2Proof.Machine.execSadd e s
  | .saddi e => Sys2Proof.Machine.execSaddi e s
  | .ssub e => Sys2Proof.Machine.execSsub e s
  | .smul e => Sys2Proof.Machine.execSmul e s
  | .sand e => Sys2Proof.Machine.execSand e s
  | .sor e => Sys2Proof.Machine.execSor e s
  | .sxor e => Sys2Proof.Machine.execSxor e s
  | .sshl e => Sys2Proof.Machine.execSshl e s
  | .sshr e => Sys2Proof.Machine.execSshr e s
  | .ssra e => Sys2Proof.Machine.execSsra e s
  | .scmp e => Sys2Proof.Machine.execScmp e s
  | .br e => Sys2Proof.Machine.execBr e s
  | .bz e => Sys2Proof.Machine.execBz e s
  | .bnz e => Sys2Proof.Machine.execBnz e s
  | .loop e => Sys2Proof.Machine.execLoop e s
  | .vadd e => Sys2Proof.Machine.execVadd e s
  | .vsub e => Sys2Proof.Machine.execVsub e s
  | .vmul e => Sys2Proof.Machine.execVmul e s
  | .vfma e => Sys2Proof.Machine.execVfma e s
  | .vmin e => Sys2Proof.Machine.execVmin e s
  | .vmax e => Sys2Proof.Machine.execVmax e s
  | .vrcp e => Sys2Proof.Machine.execVrcp e s
  | .vrsq e => Sys2Proof.Machine.execVrsq e s
  | .vsqrt e => Sys2Proof.Machine.execVsqrt e s
  | .vexp2 e => Sys2Proof.Machine.execVexp2 e s
  | .vlog2 e => Sys2Proof.Machine.execVlog2 e s
  | .vcmp e => Sys2Proof.Machine.execVcmp e s
  | .vsel e => Sys2Proof.Machine.execVsel e s
  | .vand e => Sys2Proof.Machine.execVand e s
  | .vor e => Sys2Proof.Machine.execVor e s
  | .vxor e => Sys2Proof.Machine.execVxor e s
  | .vshl e => Sys2Proof.Machine.execVshl e s
  | .vshr e => Sys2Proof.Machine.execVshr e s
  | .viadd e => Sys2Proof.Machine.execViadd e s
  | .vcvt e => Sys2Proof.Machine.execVcvt e s
  | .vbcast e => Sys2Proof.Machine.execVbcast e s
  | .vext e => Sys2Proof.Machine.execVext e s
  | .vidx e => Sys2Proof.Machine.execVidx e s
  | .ldv e => Sys2Proof.Machine.execLdv e s
  | .ldl e => Sys2Proof.Machine.execLdl e s
  | .stl e => Sys2Proof.Machine.execStl e s
  | .waitl e => Sys2Proof.Machine.execWaitl e s
  | .ldds e env => Sys2Proof.Machine.execLdds e env s
  | .cbegin e => Sys2Proof.Machine.execCbegin e s
  | .cst e env => Sys2Proof.Machine.execCst e env s
  | .st e env => Sys2Proof.Machine.execSt e env s
  | .dadd e env => Sys2Proof.Machine.execDadd e env s
  | .cend e env => Sys2Proof.Machine.execCend e env s
  | .qacc e => Sys2Proof.Machine.execQacc e s
  | .rand e => Sys2Proof.Machine.execRand e s
  | .bolganNop e => Sys2Proof.Machine.execBolganNop e s
  | .chunkDispatch part env => Sys2Proof.Machine.execChunkDispatch part env s
  | .sliceExpiry e => Sys2Proof.Machine.execSliceExpiry e s
  | .kernelTimeout e env => Sys2Proof.Machine.execKernelTimeout e env s
  | .commitPhaseTimeout e env => Sys2Proof.Machine.execCommitPhaseTimeout e env s
  | .unitPrepare g u env => Sys2Proof.Machine.execUnitPrepare g u env s
  | .hostUnitTimeout p g u => Sys2Proof.Machine.execHostUnitTimeout p g u s
  | .deltaPacketTimeout p k => Sys2Proof.Machine.execDeltaPacketTimeout p k s
  | .unitReady g src u => Sys2Proof.Machine.execUnitReady g src u s
  | .doneNoticeTimer g => Sys2Proof.Machine.execDoneNoticeTimer g s
  | .parityRebuild op env => Sys2Proof.Machine.execParityRebuild op env s
  | .poolAudit => Sys2Proof.Machine.execPoolAudit s
  | .stageFullResume port env => Sys2Proof.Machine.execStageFullResume port env s
  | .pressureEpisode10ms => Sys2Proof.Machine.execPressureEpisode10ms s
  | .pressureRepeatLog => Sys2Proof.Machine.execPressureRepeatLog s
  | .pressureEpisodeEnd => Sys2Proof.Machine.execPressureEpisodeEnd s
  | .bearingSweepPeriod r env => Sys2Proof.Machine.execBearingSweepPeriod r env s
  | .sweepComplete r env => Sys2Proof.Machine.execSweepComplete r env s
  | .parityScrubStart r => Sys2Proof.Machine.execParityScrubStart r s
  | .parityScrubStripe op env => Sys2Proof.Machine.execParityScrubStripe op env s
  | .lanternPeriod => Sys2Proof.Machine.execLanternPeriod s
  | .affinityMove coord => Sys2Proof.Machine.execAffinityMove coord s
  | .lanternSuspect coord => Sys2Proof.Machine.execLanternSuspect coord s
  | .lanternLost coord env => Sys2Proof.Machine.execLanternLost coord env s
  | .downIndication port coord env => Sys2Proof.Machine.execDownIndication port coord env s
  | .lpTxOff port off => Sys2Proof.Machine.execLpTxOff port off s
  | .lpLinkUp port up => Sys2Proof.Machine.execLpLinkUp port up s
  | .seqLossTimeout src vc mcast upTo env => Sys2Proof.Machine.execSeqLossTimeout src vc mcast upTo env s
  | .vc0RepeatTimer msgid => Sys2Proof.Machine.execVc0RepeatTimer msgid s
  | .lantern rx env => Sys2Proof.Machine.execLantern rx env s
  | .ack rx env => Sys2Proof.Machine.execAck rx env s
  | .prepare rx env => Sys2Proof.Machine.execPrepare rx env s
  | .apply rx env => Sys2Proof.Machine.execApply rx env s
  | .delta rx env => Sys2Proof.Machine.execDelta rx env s
  | .poll rx env => Sys2Proof.Machine.execPoll rx env s
  | .barrier rx env => Sys2Proof.Machine.execBarrier rx env s
  | .groupBearing rx env => Sys2Proof.Machine.execGroupBearing rx env s
  | .abandonNotice rx env => Sys2Proof.Machine.execAbandonNotice rx env s
  | .tornNotice rx env => Sys2Proof.Machine.execTornNotice rx env s
  | .reduce rx env => Sys2Proof.Machine.execReduce rx env s
  | .reduceRepeat rx env => Sys2Proof.Machine.execReduceRepeat rx env s
  | .gather rx env => Sys2Proof.Machine.execGather rx env s
  | .gatherRepeat rx env => Sys2Proof.Machine.execGatherRepeat rx env s
  | .fetchLine rx env => Sys2Proof.Machine.execFetchLine rx env s
  | .fetchFrag rx env => Sys2Proof.Machine.execFetchFrag rx env s
  | .fetchRebuild rx env => Sys2Proof.Machine.execFetchRebuild rx env s
  | .fetchMap rx env => Sys2Proof.Machine.execFetchMap rx env s
  | .fetchState rx env => Sys2Proof.Machine.execFetchState rx env s
  | .fetchTiles rx env => Sys2Proof.Machine.execFetchTiles rx env s
  | .fetchWatch rx env => Sys2Proof.Machine.execFetchWatch rx env s
  | .fetchRsp rx env => Sys2Proof.Machine.execFetchRsp rx env s
  | .fabricCmd rx env => Sys2Proof.Machine.execFabricCmd rx env s
  | .join rx env => Sys2Proof.Machine.execJoin rx env s
  | .desc rx env => Sys2Proof.Machine.execDesc rx env s
  | .endNotice rx env => Sys2Proof.Machine.execEndNotice rx env s
  | .loss rx env => Sys2Proof.Machine.execLoss rx env s
  | .settle rx env => Sys2Proof.Machine.execSettle rx env s
  | .done rx env => Sys2Proof.Machine.execDone rx env s
  | .fenced rx env => Sys2Proof.Machine.execFenced rx env s
  | .adopt rx env => Sys2Proof.Machine.execAdopt rx env s
  | .adopted rx env => Sys2Proof.Machine.execAdopted rx env s
  | .rlBegin rx env => Sys2Proof.Machine.execRlBegin rx env s
  | .rlAnswer rx env => Sys2Proof.Machine.execRlAnswer rx env s
  | .rlEnd rx env => Sys2Proof.Machine.execRlEnd rx env s
  | .rlCancel rx env => Sys2Proof.Machine.execRlCancel rx env s
  | .rsBegin rx env => Sys2Proof.Machine.execRsBegin rx env s
  | .rsAnswer rx env => Sys2Proof.Machine.execRsAnswer rx env s
  | .ctxEnable x => Sys2Proof.Machine.execCtxEnable x s
  | .ctxDisable x env => Sys2Proof.Machine.execCtxDisable x env s
  | .ctxReset x env => Sys2Proof.Machine.execCtxReset x env s
  | .teardownDone x ns env => Sys2Proof.Machine.execTeardownDone x ns env s
  | .qpEnable q v => Sys2Proof.Machine.execQpEnable q v s
  | .qpReset q => Sys2Proof.Machine.execQpReset q s
  | .serveOn => Sys2Proof.Machine.execServeOn s
  | .serveOff env => Sys2Proof.Machine.execServeOff env s
  | .seDrain e => Sys2Proof.Machine.execSeDrain e s
  | .seReadmit e => Sys2Proof.Machine.execSeReadmit e s
  | .quiesce p => Sys2Proof.Machine.execQuiesce p s
  | .quiesceExpired p clock => Sys2Proof.Machine.execQuiesceExpired p clock s
  | .linkEnable en => Sys2Proof.Machine.execLinkEnable en s
  | .mcastEnable en => Sys2Proof.Machine.execMcastEnable en s
  | .bseedWrite g hi v => Sys2Proof.Machine.execBseedWrite g hi v s
  | .ldrDownloadGo v => Sys2Proof.Machine.execLdrDownloadGo v s
  | .ldrAbort => Sys2Proof.Machine.execLdrAbort s
  | .ldrData v => Sys2Proof.Machine.execLdrData v s
  | .imageVerified => Sys2Proof.Machine.execImageVerified s
  | .imageApplied => Sys2Proof.Machine.execImageApplied s
  | .helmReportTimeout => Sys2Proof.Machine.execHelmReportTimeout s
  | .injectWrite d v env => Sys2Proof.Machine.execInjectWrite d v env s
  | .registerWrite addr v env => Sys2Proof.Machine.execRegisterWrite addr v env s
  | .mainResetAssert => Sys2Proof.Machine.execMainResetAssert s
  | .mainResetRelease => Sys2Proof.Machine.execMainResetRelease s
  | .selfTestDone fail0 fail1 => Sys2Proof.Machine.execSelfTestDone fail0 fail1 s
  | .coldReset => Sys2Proof.Machine.execColdReset s
  | .wrapperReset => Sys2Proof.Machine.execWrapperReset s
  | .powerLoss => Sys2Proof.Machine.execPowerLoss s
  | .dbgUnlock => Sys2Proof.Machine.execDbgUnlock s
  | .kpWord idx data err => Sys2Proof.Machine.execKpWord idx data err s
  | .keyDerivationDone => Sys2Proof.Machine.execKeyDerivationDone s
  | .kidCheck env => Sys2Proof.Machine.execKidCheck env s
  | .tamperTrip kind bit env => Sys2Proof.Machine.execTamperTrip kind bit env s
  | .monitorWarn kind bit env => Sys2Proof.Machine.execMonitorWarn kind bit env s
  | .ssReadFrame header edges => Sys2Proof.Machine.execSsReadFrame header edges s
  | .ssSnuffFrame words edges env => Sys2Proof.Machine.execSsSnuffFrame words edges env s
  | .tbStrobe v => Sys2Proof.Machine.execTbStrobe v s
  | .tbLost => Sys2Proof.Machine.execTbLost s
  | .sramScrub errs env => Sys2Proof.Machine.execSramScrub errs env s
  | .unitReset u kind code word env => Sys2Proof.Machine.execUnitReset u kind code word env s
  | .watchdogTrip machine inst env => Sys2Proof.Machine.execWatchdogTrip machine inst env s
  | .helmRestart => Sys2Proof.Machine.execHelmRestart s
  | .unitGate u => Sys2Proof.Machine.execUnitGate u s
  | .unitWake u => Sys2Proof.Machine.execUnitWake u s
  | .powerEstimate => Sys2Proof.Machine.execPowerEstimate s
  | .telemetrySample env => Sys2Proof.Machine.execTelemetrySample env s
  | .quiesceCleared p clock => Sys2Proof.Machine.execQuiesceCleared p clock s
  | .memClockResumed p => Sys2Proof.Machine.execMemClockResumed p s
  | .seSelfTestRerunDone e ok => Sys2Proof.Machine.execSeSelfTestRerunDone e ok s

end Sys2Proof.Machine
end

