-- ==== Sys2Proof/Machine/ReadBack.lean ====
section
/-! DEFINITION. What a read through the control port returns: every register of the map as a function of the state, by the
layouts of the rules that define it (R469 to R484), and what a read does: it takes or returns a latch, clears a field that its read
clears, and meets an error (R7, R9, R460, R466). No row of the table reads a register, so a read is an operation of its own, made
between commands (log entry 16). -/

namespace Sys2Proof.Machine

/-- A register word from its fields: lowest bit and value. -/
def pack (l : List (Nat × Nat)) : Nat := l.foldl (fun n f => n ||| f.2 <<< f.1) 0

/-- An optional index with its valid bit. -/
def optPack (lo v : Nat) : Option Nat → List (Nat × Nat)
  | some i => [(lo, i), (v, 1)]
  | none => []

/-- Codes of enumerations, in register order. -/
def rgnStateCode : RgnState → Nat
  | .free => 0 | .active => 1 | .unsounded => 2 | .sounding => 3 | .sounded => 4
def ctxStateCode : CtxState → Nat
  | .disabled => 0 | .active => 1 | .teardown => 2 | .frozen => 3 | .retiring => 4
def qpStateCode : QpState → Nat
  | .disabled => 0 | .active => 1 | .stopped => 2 | .fault => 3
def seStateCode : SeState → Nat
  | .absent => 0 | .idle => 1 | .running => 2 | .commit => 3 | .drained => 4 | .reset => 5
def ldrPhaseCode : LdrPhase → Nat
  | .selftest => 0 | .ready => 1 | .receiving => 2 | .verifying => 3 | .applying => 4 | .done => 5 | .failed => 6

/-- GLB (R377, R34). -/
def readGlb (w : W) (a : Nat) : Nat :=
  let g := w.b.glb
  if a = 0x00 then glbId w.build
  else if a = 0x08 then g.imgId.toNat
  else if a = 0x10 then b2n g.serve
  else if a = 0x18 then
    pack [(32, g.svn), (16, g.hstate), (6, b2n w.b.sec.snuffLatch), (5, b2n g.imgOk), (4, b2n w.b.sec.keyOk), (3, b2n g.helmOk),
      (0, stateCode g.state)]
  else if a = 0x20 then g.stfail0.toNat
  else if a = 0x28 then g.stfail1.toNat
  else if a = 0x30 then g.helmVer.toNat
  else if 0x200 ≤ a && a < 0x228 then (w.build.masks.getD ((a - 0x200) / 8) 0).toNat
  else 0

/-- CRP (R456). -/
def readCrp (w : W) (a : Nat) : Nat :=
  let c := w.b.crp
  match a with
  | 0x00 => pack [(32, c.rstCnt), (0, c.cause)]
  | 0x08 => pack [(32, c.linkClk.toNat), (0, c.memClk.toNat)]
  | 0x10 => c.tbPeriod
  | 0x18 => c.tbStat.toNat
  | 0x20 => c.tCore
  | 0x28 => pack [(16, c.pgUs), (2, b2n c.rlPgDis), (1, b2n c.sePgDis), (0, b2n c.cgDis)]
  | 0x30 => pack [(32, c.peakMw), (0, c.avgMw)]
  | 0x38 => c.energy
  | 0x40 => c.pwrScale
  | 0x48 => c.gateStat.toNat
  | _ => 0

/-- LDR (R378). -/
def readLdr (w : W) (a : Nat) : Nat :=
  let l := w.b.ldr
  if a = 0 then pack [(32, l.len), (0, l.mode)]
  else if a = 8 then pack [(32, l.bytes), (8, l.err), (0, ldrPhaseCode l.phase)]
  else if a = 0x10 then l.addr
  else if 0x100 ≤ a && a < 0x140 then (l.mbox.getD ((a - 0x100) / 8) 0).toNat
  else 0

/-- The bytes of an event-log entry (R451). -/
def entryOf (e : LogEntry) : Bytes :=
  toLe 8 e.seq ++ toLe 8 e.time ++ toLe 2 e.code ++ toLe 1 e.sev ++ toLe 1 e.inst ++ toLe 2 e.ctx ++ zeros 2
    ++ (List.range 5).flatMap (fun i => toLe 8 (e.args.getD i 0).toNat)

/-- TLM (R452, R457). -/
def readTlm (w : W) (a : Nat) : Nat :=
  let t := w.b.tlm
  if 0x40 ≤ a && a < 0x80 then
    (match t.log.find? (fun e => e.seq == t.elSel.toNat) with
     | some e => fld (entryOf e) (a - 0x40) 8
     | none => if a = 0x40 then 0xFFFFFFFFFFFFFFFF else 0)
  else match a with
  | 0x00 => b2n t.girq
  | 0x08 => t.girqSeq
  | 0x10 => t.elNext
  | 0x18 => t.elAck.toNat
  | 0x20 => t.elLost
  | 0x28 => t.elSel.toNat
  | 0x80 => t.sampBase.toNat
  | 0x88 => t.sampCfg.toNat
  | 0x90 => pack [(32, t.skipped), (0, b2n t.sampBad)]
  | _ => 0

/-- RAS (R429, R431). -/
def readRasReg (w : W) (a : Nat) : Nat :=
  let r := w.b.ras
  if 0x400 ≤ a && a ≤ 0x488 then
    let j := tget r.inj ((a - 0x400) / 8) {}
    pack [(48, j.inst), (32, j.arg), (16, j.count), (3, b2n j.fired), (1, j.mode), (0, b2n j.go)]
  else match a with
  | 0x00 => r.stat.toNat
  | 0x08 => r.cntSbe
  | 0x10 => r.cntDbe
  | 0x18 => r.cntPar
  | 0x20 => r.cntWdog
  | 0x28 => r.cntScrub
  | 0x30 => r.last.toNat
  | 0x38 => r.lastNs
  | 0x40 => pack [(4, b2n (r.bgctl == 0)), (0, r.bgctl.toNat)]
  | 0x48 => pack [(32, r.sramMs), (0, r.parityS)]
  | 0x50 => pack [(32, r.passMs), (0, r.skipped)]
  | 0x80 => pack [(32, r.remain), (4, b2n r.lossOk), (3, b2n r.snuffOk), (2, b2n r.dbg), (1, b2n r.armed)]
  | 0x88 => r.injExp
  | 0x90 => r.injMask.toNat
  | 0x98 => r.injAddr
  | _ => 0

/-- SEC (R409 to R411). -/
def readSec (w : W) (a : Nat) : Nat :=
  let s := w.b.sec
  if 0x100 ≤ a && a < 0x500 then
    let p := (a - 0x100) / 0x40
    let c := a % 0x40 / 8
    if c < 3 then lastOf s p c else if c < 6 then rsnOf s p (c - 3) else 0
  else if 0x1000 ≤ a && a < 0x1800 then
    match tfind s.skeys ((a - 0x1000) / 8) with
    | some k => pack [(48, k.dgn), (44, k.owner), (7, b2n k.near1), (6, b2n k.near0), (3, k.active), (2, 1), (1, b2n k.key1.isSome),
        (0, b2n k.key0.isSome)]
    | none => 0
  else match a with
  | 0x00 => kstat s
  | 0x08 => s.kepoch
  | 0x10 => fld s.kid 0 8
  | 0x18 => fld s.kid 8 8
  | 0x20 => secAlarm s
  | 0x28 => s.alarmNs
  | 0x30 => s.mon.toNat <<< 28
  | 0x38 => ssErr s
  | _ => 0

/-- PRT (R128). -/
def readPrt (w : W) (a : Nat) : Nat :=
  if a < 0x400 then
    let i := a / 0x40
    let p := getPart w i
    match a % 0x40 with
    | 0x00 => p.seMask.toNat
    | 0x08 => pack [(48, p.qpCount), (32, p.qpFirst), (16, p.ctxCount), (0, p.ctxFirst)]
    | 0x10 => pack [(48, p.sliceUs), (32, p.cmdShare), (16, p.groupMax), (0, p.regionMax)]
    | 0x18 => pack [(48, cmdsOfPart w i), (32, p.poolKib), (16, groupsOf w i), (0, regionsOf w i)]
    | _ => 0
  else if 0x4000 ≤ a && a < 0x8000 then
    pack ((List.range 64).map (fun b =>
      let q := 64 * (a % 0x400 / 8) + b
      (b, b2n ((getQp w q).irqPend && partOfQp? w q == some ((a - 0x4000) / 0x400)))))
  else 0

/-- LNK (R65, R74, R78, R84, R92, R93, R96). -/
def readLnk (w : W) (a : Nat) : Nat :=
  let l := w.b.lnk
  if 0x100 ≤ a && a < 0x180 then (tget l.vcwt ((a - 0x100) / 8) 0x50A0F1432).toNat
  else if 0x400 ≤ a && a < 0x600 && a % 0x40 = 0 && (a - 0x400) / 0x40 < w.build.nlp then
    let p := getLp w ((a - 0x400) / 0x40)
    pack [(16, p.rxOff.toNat), (8, p.txOff.toNat), (1, b2n p.dnSeen), (0, b2n p.linkUp)]
  else if 0x2000 ≤ a && a < 0x4000 then
    match tfind l.peers ((a - 0x2000) / 8) with
    | some p => pack [(32, p.coord.toNat), (20, p.aff), (16, p.cand), (11, p.cnt), (9, peerCode p.state)]
    | none => 0
  else match a with
  | 0x00 => pack [(2, b2n w.build.mcastCap), (1, b2n l.mcastEn), (0, b2n l.en)]
  | 0x08 => l.coord.toNat
  | 0x10 => l.torus.toNat
  | 0x18 => l.periodUs
  | 0x20 => l.err.toNat
  | 0x30 => l.epoch.toNat
  | 0x180 => l.pwt0.toNat
  | 0x188 => l.pwt1.toNat
  | _ => 0

/-- MPS, a slice the build has (R64, R192). -/
def readMps (w : W) (p off : Nat) : Nat :=
  let s := getSlice w p
  if w.build.nmp ≤ p then 0
  else match off with
  | 0x00 => pack [(1, b2n s.mergeDis), (0, b2n s.quiesce)]
  | 0x08 => pack [(32, hazUsed w p), (16, s.merge.length), (8, cwqUsed s), (2, b2n (isQuiesced s)), (1, b2n s.cwStall),
      (0, b2n (portsOpen w))]
  | 0x10 => s.err.toNat
  | 0x18 => s.errAddr.toNat
  | 0x20 => s.cntDegr
  | 0x28 => s.cntFence
  | 0x30 => s.cntMerge
  | 0x40 => pack [(32, sqBytes s), (4, s.hostUnits.length), (0, b2n (sqFull s))]
  | _ => 0

/-- The largest free span of the kernel store (R296). -/
def kFreeMax (w : W) : Nat :=
  let used := kSpans w 256
  (0 :: used.map (fun s => s.1 + s.2)).foldl (fun m a =>
    max m ((used.foldl (fun n s => if a ≤ s.1 then min n s.1 else n) 65536) - a)) 0

/-- ENG (R295, R296). -/
def readEng (w : W) (a : Nat) : Nat :=
  if a < 0x1000 then
    let e := a / 0x40
    let s := getSe w e
    if w.build.nse ≤ e then 0
    else match a % 0x40 with
    | 0x00 => b2n s.drain
    | 0x08 => pack [(52, if s.run.isSome then s.ctx else 0), (48, (partOfSe? w e).getD 0), (47, b2n (partOfSe? w e).isSome), (32, s.pc),
        (24, s.slot), (0, seStateCode s.state)]
    | 0x10 => pack [(50, s.region), (0, s.chunk)]
    | 0x18 => pack [(32, s.resCnt), (0, s.err.toNat)]
    | _ => 0
  else if 0x2000 ≤ a && a < 0x2800 then
    let j := (a - 0x2000) / 8
    match tfind w.b.eng.kslots j with
    | some k => pack [(60, k.owner), (59, b2n (decide (192 ≤ j))), (58, 1), (32, k.ninstr), (16, k.base), (4, slotRuns w j), (0, k.nstream)]
    | none => pack [(59, b2n (decide (192 ≤ j) && portsOpen w)), (4, slotRuns w j)]
  else if a = 0x3000 then
    pack [(32, w.b.eng.kslots.foldl (fun n k => n + k.2.ninstr) 0), (0, kFreeMax w)]
  else 0

/-- The entry of a group (R148, R226, R354). -/
def readGroup (w : W) (gi off : Nat) : Nat :=
  let g := getGrp w gi
  if 0x40 ≤ off && off < 0xC0 then
    let s := slotAt g ((off - 0x40) / 8)
    pack [(32, s.coord.toNat), (0, slotCode s.state)]
  else match off with
  | 0x00 => pack [(48, g.dgn), (32, g.mcast), (16, g.wdom), (15, b2n g.sealReq), (12, g.m), (8, g.self), (4, g.k % 16)]
  | 0x08 => pack [(32, ((definedRgns w).filter (fun r => r.2.grp == some gi)).length),
      (16, (outMembers g).foldl (fun m i => m ||| 1 <<< i) 0), (8, g.n), (0, grpCode g.state)]
  | 0x10 => g.formMs
  | 0xC0 => g.blast.toNat
  | 0xC8 => g.bmem.toNat
  | 0xD0 => pack [(48, g.bwatch.2), (0, g.bwatch.1)]
  | 0xE0 => pack [(56, g.lastCause), (52, g.lastSlot), (32, g.rlSlot), (3, b2n (g.state != .free && allSettled g)), (0, g.rlPhase)]
  | 0xE8 => pack [(50, g.rlFront.1), (0, g.rlFront.2)]
  | 0xF0 => g.rlDone
  | 0xF8 => g.lossNs
  | _ => 0

/-- Pool entries of a class, saturating (R189). -/
def classCount (w : W) (blocks : Nat) : Nat := sat 0xFFFF (w.b.pool.filter (fun e => (e.span.map (·.2)) == some blocks)).length

/-- GRP (R148, R149, R189 to R191, R226, R354, R355). -/
def readGrp (w : W) (a : Nat) : Nat :=
  if a < 0x10000 then readGroup w (a / 0x100) (a % 0x100)
  else if 0x21000 ≤ a && a < 0x31000 then
    let o := tget (getGrp w ((a - 0x21000) / 256)).owners ((a - 0x21000) / 16 % 16) (0, 0, 0)
    if a % 16 = 0 then pack [(32, o.2.1), (0, o.1)] else o.2.2
  else if 0x38000 ≤ a && a < 0x39000 then
    let g := getGrp w ((a - 0x38000) / 16)
    (if a % 16 = 0 then g.seedLo else g.seedHi).toNat
  else if 0x40000 ≤ a && a < 0x41000 then
    let i := (a - 0x40000) / 16
    let g := getGrp w i
    if a % 16 = 0 then pack [(32, g.stagUsed.length), (0, if g.state == .free then 0 else stagSlots w i)] else g.unknown.length
  else match a with
  | 0x10000 => w.b.pmapBase
  | 0x10008 => w.b.pmapCnt
  | 0x10010 => pack [(32, w.b.subsetCnt), (0, w.b.fetchUs)]
  | 0x10018 => pack [(16, b2n w.b.tombFull), (0, w.b.tombs.length)]
  | 0x20000 => pack [(32, w.b.hostCyc), (16, w.b.srcqKib), (0, w.b.auditMs)]
  | 0x20008 => w.b.maxAgeUs
  | 0x20010 => pack [(32, 98304 - (usedSpans w).foldl (fun n s => n + s.2) 0), (16, w.b.maps.length)]
  | 0x20018 => pack [(48, classCount w 64), (32, classCount w 16), (16, classCount w 4), (0, classCount w 1)]
  | 0x20020 => dpErrVal w
  | _ => 0

/-- The state a queue pair shows: STOPPED while its context is in TEARDOWN or FROZEN (R127). -/
def qpShown (w : W) (k : Qp) : QpState :=
  let c := (getCtx w k.ctx).state
  if k.state == .active && (c == .teardown || c == .frozen) then .stopped else k.state

/-- The entry of a queue pair (R127). -/
def readQp (w : W) (q off : Nat) : Nat :=
  let k := getQp w q
  match off with
  | 0x00 => pack [(56, k.holdoffUs), (40, k.cqLog2), (32, k.sqLog2), (16, k.ctx), (1, b2n k.irqAll), (0, b2n k.enable)]
  | 0x08 => k.sqBase
  | 0x10 => k.cqBase
  | 0x18 => pack [(48, k.cqHead), (32, k.cqTail), (16, k.sqTail), (0, k.sqHead)]
  | 0x20 => pack [(56, k.faultCause), (3, b2n k.phase), (1, qpStateCode (qpShown w k)), (0, b2n k.irqPend)]
  | 0x28 => k.fetched
  | 0x30 => k.done
  | _ => 0

/-- The entry and the Watch state of a context (R126, R225). -/
def readCtx (w : W) (a : Nat) : Nat :=
  let x := a % 0x100000 / 64 % 4096
  let c := getCtx w x
  let k := c.watch
  if a < 0x40000 then
    match a % 64 with
    | 0x00 => pack [(16, partOfCtx w x), (15, b2n (partOfCtx? w x).isSome), (0, b2n c.enable)]
    | 0x08 => pack [(56, c.faultCause), (40, c.faultQp), (4, b2n c.tdLate), (3, b2n c.fault), (0, ctxStateCode c.state)]
    | 0x10 => pack [(32, (rgnsOfCtx w x).length), (16, (ctxCmds w x).length),
        (0, (w.b.qps.filter (fun q => q.2.enable && q.2.ctx == x)).length)]
    | 0x18 => c.tdNs
    | _ => 0
  else if 0x100000 ≤ a && a < 0x140000 then
    match a % 64 with
    | 0x00 => pack [(60, phaseCode k.phase), (48, k.a), (0, k.w)]
    | 0x08 => k.lastClosed
    | 0x10 => k.locWord.toNat
    | 0x18 => k.verdict.toNat
    | 0x20 => k.recSeq
    | 0x28 => pack [(40, k.rounds), (32, k.flags), (16, k.wdom), (0, k.record)]
    | _ => 0
  else 0

/-- The region table with Bearing and Datum state (R146, R227, R266). A FREE entry's RGN_DTMCFG reads its reset value. -/
def readRgn (w : W) (a : Nat) : Nat :=
  let i := a % 0x80000 / 32
  let r := getRgn w i
  if a < 0x80000 then
    match a % 32 with
    | 0x00 => pack [(40, r.size - 1), (0, r.base / 65536)]
    | 0x08 => pack ([(60, kindCode r.kind), (48, r.ctx), (34, r.frag), (31, r.chunk), (29, r.elem), (28, b2n r.isSealed),
        (27, b2n r.sweepEn), (26, b2n r.window), (24, r.comp)] ++ optPack 40 39 r.grp ++ optPack 0 14 r.partner)
    | 0x10 => pack [(16, r.infmt), (8, r.headroom), (0, r.width)]
    | _ => if a % 32 = 0x18 then pack [(32, r.frontier), (8, r.sepoch), (0, rgnStateCode r.state)] else 0
  else if 0x200000 ≤ a && a < 0x280000 then
    match a % 32 with
    | 0x00 => r.brun.toNat
    | 0x08 => r.bswp.toNat
    | 0x10 => bstat r
    | _ => if a % 32 = 0x18 then r.btime else 0
  else if 0x280000 ≤ a && a < 0x2C0000 then
    let r := getRgn w ((a - 0x280000) / 16)
    let datum := r.state != .free && (r.kind == .accum || r.kind == .residual)
    if a % 16 = 0 then (if datum then pack [(8, tilesOf r), (4, r.bank), (0, r.margin)] else if r.state == .free then 1 else 0)
    else if datum then pack [(32, r.rangeTiles), (0, r.nonfiniteTiles)] else 0
  else if a = 0x300000 then w.b.sweepPeriodS
  else 0

/-- CNT (R446 to R448). -/
def readCnt (w : W) (a : Nat) : Nat :=
  if 0x808000 ≤ a && a < 0x828000 then
    let k := getQp w ((a - 0x808000) / 16)
    if a % 16 = 0 then pack [(32, k.statNotOk), (0, k.statCmds)] else pack [(32, k.wraps.toNat), (0, k.statWait)]
  else tget w.b.cnt a 0

/-- What the windows behind the first six show in DARK and LOADING: reset values, the boot epoch among them (R468, R477). -/
def darkView (w : W) : W := { w with b := { glb := w.b.glb, lnk := { epoch := w.b.lnk.epoch } } }

/-- A word of the windows GLB, CRP, LDR, TLM, RAS and SEC. -/
def readEarly (w : W) (a : Nat) : Nat :=
  if a < 0x10000 then readGlb w a
  else if a < 0x20000 then readCrp w (a - 0x10000)
  else if a < 0x30000 then readLdr w (a - 0x20000)
  else if a < 0x40000 then readTlm w (a - 0x30000)
  else if a < 0x50000 then readRasReg w (a - 0x40000)
  else readSec w (a - 0x50000)

/-- A word of the windows behind them. -/
def readLater (w : W) (a : Nat) : Nat :=
  if a < 0x70000 then readPrt w (a - 0x60000)
  else if a < 0x80000 then readLnk w (a - 0x70000)
  else if a < 0x90000 then readMps w ((a - 0x80000) / 0x800) (a % 0x800)
  else if a < 0xA0000 then readEng w (a - 0x90000)
  else if a < 0x100000 then readGrp w (a - 0xA0000)
  else if a < 0x110000 then 0
  else if a < 0x190000 then readQp w ((a - 0x110000) / 64) (a % 64)
  else if a < 0x200000 then 0
  else if a < 0x400000 then readCtx w (a - 0x200000)
  else if a < 0x800000 then readRgn w (a - 0x400000)
  else if a < 0x1000000 then readCnt w a
  else 0

/-- The word at an address of the control space; nothing is served in RESET, and in DARK and LOADING the later windows read their
reset values (R462, R468, R469). -/
def readReg (s : State) (a : Nat) : Word :=
  let w := openW s
  BitVec.ofNat 64
    (if a % 8 != 0 || w.b.glb.state == .reset then 0
     else if a < 0x60000 then readEarly w a
     else readLater (if portsOpen w then w else darkView w) a)

/-! ### Reading (R7, R9, R460, R466) -/

/-- The register group an address belongs to: its kind, the address of the low word, and the offsets of the high words (R466). -/
def latchOf (a : Nat) : Option (Nat × Nat × List Nat) :=
  if 0x50010 ≤ a && a < 0x50020 then some (0, 0x50010, [8])
  else if 0x30040 ≤ a && a < 0x30080 then some (1, 0x30040, [8, 16, 24, 32, 40, 48, 56])
  else if 0x40030 ≤ a && a < 0x40040 then some (2, 0x40030, [8])
  else if 0x110000 ≤ a && a < 0x190000 && 0x18 ≤ a % 64 && a % 64 < 0x38 then some (3, a - a % 64 + 0x18, [8, 16, 24])
  else if 0x300000 ≤ a && a < 0x340000 && a % 64 < 0x30 then some (4, a - a % 64, [8, 16, 24, 32, 40])
  else if 0xA0000 ≤ a && a < 0xB0000 && 0xC0 ≤ a % 256 && a % 256 < 0xD8 then some (5, a - a % 256 + 0xC0, [8, 16])
  else if 0xA0000 ≤ a && a < 0xB0000 && 0xE0 ≤ a % 256 then some (6, a - a % 256 + 0xE0, [8, 16, 24])
  else if 0xC1000 ≤ a && a < 0xD1000 then some (7, a - a % 16, [8])
  else if 0x600000 ≤ a && a < 0x680000 then some (8, a - a % 32, [8, 16, 24])
  else none

/-- A read of a low word latches the high words of its instance. -/
def takeLatch (s : State) (kind low : Nat) (offs : List Nat) : State :=
  let l : Latch := { low := low, high := offs.map (fun o => (low + o, readReg s (low + o))) }
  { s with blk := { s.blk with latches := tset s.blk.latches kind l } }

/-- What a read returns: a high word from the latch when the last low word read of its kind was of the same instance, else the
current value (R9, R466). -/
def readValue (s : State) (a : Nat) : Word :=
  match latchOf a with
  | none => readReg s a
  | some (kind, low, _) =>
    match tfind s.blk.latches kind with
    | some l => if l.low = low && a != low then (tfind l.high a).getD (readReg s a) else readReg s a
    | none => readReg s a

/-- What a read leaves: the latch of a low word, and CRP_PWR.PEAK_MW at its reset value after the read that returned it
(R7, R456). -/
def afterRead (s : State) (a : Nat) : State :=
  if a = 0x10030 then { s with blk := { s.blk with crp := { s.blk.crp with peakMw := 0 } } }
  else match latchOf a with
    | some (kind, low, offs) => if a = low then takeLatch s kind low offs else s
    | none => s

/-- A read whose data is uncorrectable: rdata 0, cp_rsp_err, and an event (R460). -/
def readFails (s : State) (a : Nat) : ReadRsp × State :=
  ({ data := 0, err := true }, closeW s (logOther 0x0B 2 0 0 [a, 0, 0] (openW s)))

/-- A failure of byte parity that the read meets is counted (R416, R431). -/
def readParity (s : State) (a : Nat) : State := closeW s (noteParity 0 a (openW s))

/-- A read through the control port. In RESET the port is clamped and no read is served (R461, R468). -/
def readAccess (flt : ReadFault) (a : Nat) (s : State) : ReadRsp × State :=
  if s.blk.glb.state == .reset then ({ data := 0, err := false }, s)
  else match flt with
    | .none => ({ data := readValue s a, err := false }, afterRead s a)
    | .parity => let s := readParity s a; ({ data := readValue s a, err := false }, afterRead s a)
    | .parityTwice => readFails (readParity s a) a
    | .bothCopies => readFails s a

/-- The interrupt lines (R485): line p of a partition, 16 global, 17 security; lines 0 to 16 are of the main domain. -/
def irqLine (s : State) (i : Nat) : Bool :=
  let w := openW s
  if i = 17 then w.b.sec.pend
  else if w.b.glb.mainReset then false
  else if i = 16 then w.b.tlm.girq
  else w.b.qps.any (fun q => q.2.irqPend && partOfQp? w q.1 == some i)

end Sys2Proof.Machine
end

