-- ==== Sys2Proof/Safety.lean ====
section
/-! DEFINITION. What counts as a sound state and a safe step, and the terms the statements are written in. -/

namespace Sys2Proof.Safety

open Sys2Proof.Machine

/-- Host memory is in its canonical form. -/
def memCanonical (s : State) : Prop := memWf s.mem = true

/-- A step is safe when it answers a next state whose memory keeps the canonical form. -/
def safeStep (r : Host.Outcome State Fault Refusal) : Prop := ∃ t, r = .next t ∧ memCanonical t

/-- A command completes: it answers a next state of which a property holds. -/
def Leads (i : Instr) (s : State) (P : State → Prop) : Prop := ∃ t, exec i s = .next t ∧ P t

/-- A command answers the state with its block replaced: build, host memory and the queue are as they were. -/
def Blocks (i : Instr) (s : State) (b : Blk) : Prop := exec i s = .next { s with blk := b }

/-- A byte of host memory. -/
def byteAt (s : State) (a : Nat) : Byte := memGet s.mem a

/-- Every byte of host memory outside a run of bytes reads as before. -/
def SameOutside (s t : State) (lo len : Nat) : Prop := ∀ a, a < lo ∨ lo + len ≤ a → byteAt t a = byteAt s a

/-- What the tables of a state hold. -/
def sliceOf (s : State) (p : Nat) : Slice := tget s.blk.slices p {}
def ctxOf (s : State) (x : Nat) : Ctx := tget s.blk.ctxs x {}
def qpOf (s : State) (q : Nat) : Qp := tget s.blk.qps q {}
def rgnOf (s : State) (i : Nat) : Region := tget s.blk.rgns i {}
def groupOf (s : State) (g : Nat) : Group := tget s.blk.grps g {}
def seOf (s : State) (e : Nat) : Se := tget s.blk.eng.ses e {}
def lpOf (s : State) (l : Nat) : Lp := tget s.blk.lnk.ports l {}

/-- The block with one entry of a table replaced. -/
def withQp (b : Blk) (q : Nat) (x : Qp) : Blk := { b with qps := tset b.qps q x }
def withCtx (b : Blk) (x : Nat) (c : Ctx) : Blk := { b with ctxs := tset b.ctxs x c }
def withSe (b : Blk) (e : Nat) (x : Se) : Blk := { b with eng := { b.eng with ses := tset b.eng.ses e x } }
def withLp (b : Blk) (l : Nat) (x : Lp) : Blk := { b with lnk := { b.lnk with ports := tset b.lnk.ports l x } }
def withRgn (b : Blk) (i : Nat) (r : Region) : Blk := { b with rgns := tset b.rgns i r }
def withGroup (b : Blk) (g : Nat) (x : Group) : Blk := { b with grps := tset b.grps g x }
def withSlice (b : Blk) (p : Nat) (x : Slice) : Blk := { b with slices := tset b.slices p x }

/-! ### Commands -/

/-- The queue pair after a completion is counted (R118, R448). -/
def countedQp (k : Qp) (n : Nat) (good : Bool) : Qp :=
  { k with done := k.done + 1, notOk := if good then k.notOk else k.notOk ++ [n]
           statCmds := (k.statCmds + 1) % 2 ^ 32, statNotOk := (k.statNotOk + b2n (!good)) % 2 ^ 32
           wraps := k.wraps ||| (if k.statCmds = 0xFFFFFFFF then 1#3 else 0)
                            ||| (if !good && k.statNotOk = 0xFFFFFFFF then 2#3 else 0) }

/-- The queue pair once its entry is written: the tail and the phase (R118). -/
def entryQp (k : Qp) : Qp :=
  let t := (k.cqTail + 1) % 2 ^ k.cqLog2
  { k with cqTail := t, phase := if t = 0 then !k.phase else k.phase }

/-- The queue pair once it is interrupt-pending, or holds its interrupt off (R125). -/
def irqQp (k : Qp) : Qp :=
  if k.holding then { k with heldIrq := true } else { k with irqPend := true, holding := decide (0 < k.holdoffUs) }

/-- The queue pair a completion with an entry leaves (R118, R125, R448). -/
def doneQp (k : Qp) (n : Nat) (good irq : Bool) : Qp :=
  let x := entryQp (countedQp k n good)
  if irq || k.irqAll then irqQp x else x

/-- Address of the next completion entry of a queue pair. -/
def entryAt (k : Qp) : Nat := k.cqBase + 32 * k.cqTail

/-- A command in flight that starts now: of a queue pair whose context runs, not started before, free to start under R120,
and passed by checks 1 to 4 of R116. -/
def Starts (s : State) (c : CmdId) (k : Cmd) : Prop :=
  findCmd (openW s) c = some k ∧ c.q ≠ fabricQ ∧ ctxRuns (ctxOf s k.ctx) = true ∧ k.outc = none ∧ k.phase = .fetched
    ∧ mayStart (openW s) k = true ∧ (checksHead k (openW s)).1 = none

/-- The block once a command has started: the effects of checks 1 to 4, its phase, and its wait counted (R448). -/
def begun (s : State) (c : CmdId) (k : Cmd) : W :=
  modCmd c (fun k => { k with phase := .running }) (countStart k (checksHead k (openW s)).2)

/-- A command of a queue pair that runs already and has no outcome that waits. -/
def Runs (s : State) (c : CmdId) (k : Cmd) : Prop :=
  findCmd (openW s) c = some k ∧ c.q ≠ fabricQ ∧ ctxRuns (ctxOf s k.ctx) = true ∧ k.outc = none ∧ k.phase = .running

/-- Nothing disturbs the block's own accesses: memory answers OK, no injection is armed, memory is canonical. -/
def Calm (s : State) (env : Env) : Prop := env.rd = [] ∧ env.wr = [] ∧ s.blk.ras.inj = [] ∧ memCanonical s

/-- The command writes a completion entry whatever its status (SILENT is 0), into an aligned ring; no other request concerns the
entry's line, its port may grant the write, and no degraded read is under way (R23, R53, R54). -/
def Reports (s : State) (c : CmdId) (k : Cmd) : Prop :=
  bit (arg k 1 1) 1 = false ∧ (qpOf s c.q).cqBase % 32 = 0
    ∧ linesFree (openW s) (entryAt (qpOf s c.q)) 32 = true ∧ s.blk.fetches = []

/-- A command of an opcode that starts undisturbed and reports its completion. -/
def Issued (s : State) (c : CmdId) (env : Env) (k : Cmd) (op : Nat) : Prop :=
  Starts s c k ∧ Calm s env ∧ Reports s c k ∧ opOf k = op

/-- The member list of a group command and the placement map may be read now (R22, R53, R149). -/
def ListsReadable (s : State) (k : Cmd) : Prop :=
  linesReadable (openW s) (arg k 0x20 8) 64 = true ∧ linesReadable (openW s) s.blk.pmapBase (16 * s.blk.pmapCnt) = true

/-- A command has finished with an outcome over a block: the block is that one but for the command, gone from flight, its
queue pair, which counted it, the CNT counters and the list of the requests presented on the md_ ports; its completion entry is in
memory, and no other byte has changed (R118, R125, R448). -/
def Finished (s t : State) (c : CmdId) (k : Cmd) (o : Outc) (w : W) : Prop :=
  t.build = s.build ∧ t.pending = s.pending
    ∧ t.blk = { w.b with cmds := w.b.cmds.filter (fun x => x.id != c)
                         qps := tset w.b.qps c.q (doneQp (getQp w c.q) c.n (isOk o.status) (bit (arg k 1 1) 0))
                         cnt := t.blk.cnt, mdOut := t.blk.mdOut }
    ∧ (∀ i, i < 32 → byteAt t (entryAt (qpOf s c.q) + i)
        = (completionBytes k o (qpOf s c.q).sqHead (qpOf s c.q).phase).getD i 0)
    ∧ SameOutside s t (entryAt (qpOf s c.q)) 32

/-! ### State engines -/

/-- An SE that is awake stands at an instruction of an opcode of its kernel, and not at the last one. -/
def At (s : State) (e op : Nat) (r : Run) (x : Se) (i : Ins) : Prop :=
  x = seOf s e ∧ runOf (openW s) x = some r ∧ x.ending = none ∧ (x.state = .running ∨ x.state = .commit)
    ∧ seGated (openW s) e = false ∧ i = insOf (kWord (openW s) x.slot x.pc).toNat ∧ i.op = op
    ∧ x.pc + 1 < (tget s.blk.eng.kslots x.slot {}).ninstr

/-- The same, wherever in its kernel the instruction stands. -/
def Stands (s : State) (e op : Nat) (r : Run) (x : Se) (i : Ins) : Prop :=
  x = seOf s e ∧ runOf (openW s) x = some r ∧ x.ending = none ∧ (x.state = .running ∨ x.state = .commit)
    ∧ seGated (openW s) e = false ∧ i = insOf (kWord (openW s) x.slot x.pc).toNat ∧ i.op = op

/-- The block once an SE has retired an instruction: the SE as given, at another instruction, and its counter (R447). -/
def retired (s : State) (e : Nat) (y : Se) (pc : Nat) : Blk :=
  { withSe s.blk e { y with pc := pc } with
    cnt := tset s.blk.cnt (0x804000 + 0x40 * e + 0x18) ((tget s.blk.cnt (0x804000 + 0x40 * e + 0x18) 0 + 1) % 2 ^ 64) }

/-- An instruction of an SE is retired: the SE as given stands at the next one, and nothing else has changed. -/
def Retires (c : Instr) (s : State) (e : Nat) (y : Se) : Prop := Blocks c s (retired s e y (y.pc + 1))

/-- No armed injection makes the residue check of an SE mismatch. -/
def Sound (s : State) (e : Nat) : Prop := injHit (openW s) 3 e = false

/-! ### Packets -/

/-- A packet of an opcode and kind that passes the receive checks: with its plaintext, and the transaction behind them. -/
def accepted (w : W) (rx : Rx) (op : Nat) (kind : Bytes → Bool) : Option (Packet × W) :=
  if rx.pk.hdr.opcode.toNat == op && ((plainOf w rx.pk).map kind).getD true then
    match receive rx w with
    | (some pk, w) => some (pk, w)
    | (none, _) => none
  else none

/-- The first copy of a FORM message of a kind, accepted and acknowledged (R85, R326). -/
def formAccepted (w : W) (rx : Rx) (kind : Nat) : Option (Packet × W) :=
  match accepted w rx 2 (fun p => fld p 8 1 == kind || (kind == 0 && decide (14 < fld p 8 1))) with
  | none => none
  | some (pk, w) =>
    if (firstCopy pk.hdr.src (fld pk.payload 0 8) w).1 then
      some (pk, sendAck pk.hdr (fld pk.payload 0 8) (firstCopy pk.hdr.src (fld pk.payload 0 8) w).2)
    else none

/-- Nothing waits to leave the block: no packet at a port, no delta or coded write at a PDE, no FETCH to be asked or answered. -/
def Unsent (s : State) : Prop :=
  (∀ l ∈ s.blk.lnk.ports, l.2.queue = []) ∧ (∀ e ∈ s.blk.slices, e.2.sendQ = [] ∧ e.2.backlog = [] ∧ e.2.jobs = [])
    ∧ s.blk.fetchWaits = [] ∧ ∀ o ∈ s.blk.fetches, o.asked = true

/-- A command answers the state its transaction closes to. -/
def Leaves (i : Instr) (s : State) (w : W) : Prop := exec i s = .next (closeW s w)

end Sys2Proof.Safety
end

