-- ==== Sys2Proof/Certificates/Slice0/Obligations.lean ====
section
/-! DEFINITION. The statements for the provers: each is about the block's next states, not about one program of commands. -/

open Sys2Proof Sys2Proof.Machine Sys2Proof.Safety

/-- O1. A step runs the command in front. For every command c, state s and rest of the queue, a step of the state with c
in front is exec of c on the state with the rest; on an empty queue the block idles (log entry 11). -/
def Obligations.StepRunsFront : Prop :=
  (∀ (c : Instr) (s : State) (rest : List Instr),
      step { s with pending := c :: rest } = exec c { s with pending := rest })
  ∧ ∀ s : State, s.pending = [] → step s = .next s

/-- O2. Every command answers a next state. Every command, in every state, answers a next state: none faults and none is
refused; the build and the commands that wait are as they were. That a command whose cause is absent changes nothing is
log entry 13. -/
def Obligations.EveryCommandAnswers : Prop :=
  ∀ (c : Instr) (s : State), ∃ t, exec c s = .next t ∧ t.build = s.build ∧ t.pending = s.pending

/-- O3. Every step keeps host memory canonical. From every state whose memory is in canonical form (addresses strictly
rising, no zero byte listed), every step answers a state whose memory is in canonical form, whatever command is in
front. -/
def Obligations.MemoryStaysCanonical : Prop :=
  ∀ s t : State, memCanonical s → step s = .next t → memCanonical t

/-- O4. The state at reset. After reset the memory is canonical, no command waits, no command is in flight, no upper half of a
64-bit value is latched, and the registers of the block read their reset values (values the manual gives; the build's
counts are log entry 3). -/
def Obligations.ResetState : Prop :=
  memCanonical State.reset ∧ State.reset.pending = [] ∧ State.reset.blk.cmds = [] ∧ State.reset.blk.glb.state = .reset
    ∧ State.reset.blk.latches = []
    ∧ State.reset.blk.lnk.periodUs = 10 ∧ State.reset.blk.hostCyc = 2000 ∧ State.reset.blk.srcqKib = 2048
    ∧ State.reset.blk.auditMs = 1 ∧ State.reset.blk.maxAgeUs = 1000000 ∧ State.reset.blk.fetchUs = 20
    ∧ State.reset.blk.sweepPeriodS = 600 ∧ State.reset.blk.crp.pgUs = 200 ∧ State.reset.blk.ras.sramMs = 100
    ∧ State.reset.blk.ras.parityS = 1800 ∧ State.reset.blk.lnk.pwt0 = 0x0101010101010101
    ∧ State.reset.blk.tlm.sampCfg = 0x4000000064 ∧ State.reset.blk.sec.kid = List.replicate 16 0
    ∧ ∀ a : Nat, readReg State.reset a = 0

/-- O5. Doorbells, interrupt hold-off, and the enabling and reset of queue pairs. A doorbell of an enabled queue pair
whose context runs sets SQ_TAIL, CQ_HEAD or both, as its valid bits say, when the values are legal, and changes
nothing else; a tail that is not below the ring's length faults the queue pair with cause 3, a head that does not
advance over written entries with cause 6. A doorbell of a queue pair that is not enabled, or whose context does not
run, is ignored with an event; one with neither valid bit changes nothing. The hold-off's end raises a held interrupt
and starts the hold-off again, or ends it. QP_RESET of a disabled queue pair clears its pointers, numbers and fault and
keeps its layout (that FAULT_CAUSE is cleared is log entry 98), FENCEs that wait on it completing; of an enabled one it
is ignored with an event. QP_ENABLE of a disabled queue pair takes its fields, is ignored with an event where a LOG2 is
reserved, and makes a queue pair whose rings and context are in order ACTIVE, and one whose are not FAULT with the
cause; with RESET it resets the queue pair first; of an enabled one it takes IRQ_ALL and HOLDOFF_US only (log entry
99). -/
def Obligations.DoorbellsAndQueuePairs : Prop :=
  (∀ (s : State) (q : Nat) (v : Word), q < 8192 → portsOpen (openW s) = true →
    (v.getLsbD 16 = false → v.getLsbD 48 = false → exec (.doorbell q v) s = .next s)
    ∧ (v.getLsbD 16 = true ∨ v.getLsbD 48 = true → (qpOf s q).enable = false ∨ ctxRuns (ctxOf s (qpOf s q).ctx) = false →
        Leaves (.doorbell q v) s (writeIgnored (0x100000 + 8 * q) v (openW s)))
    ∧ ((qpOf s q).enable = true → ctxRuns (ctxOf s (qpOf s q).ctx) = true → ∀ k : Qp,
        k = { qpOf s q with sqTail := if v.getLsbD 16 then bits v.toNat 15 0 else (qpOf s q).sqTail } →
        (v.getLsbD 16 = true → 2 ^ (qpOf s q).sqLog2 ≤ bits v.toNat 15 0 → Leaves (.doorbell q v) s (qpFault q 3 (openW s)))
        ∧ ((v.getLsbD 16 = true → bits v.toNat 15 0 < 2 ^ (qpOf s q).sqLog2) →
          (v.getLsbD 48 = true → (2 ^ k.cqLog2 ≤ bits v.toNat 47 32
              ∨ subMod k.cqTail k.cqHead (2 ^ k.cqLog2) < subMod (bits v.toNat 47 32) k.cqHead (2 ^ k.cqLog2)) →
            Leaves (.doorbell q v) s (qpFault q 6 (if v.getLsbD 16 then setQp q k (openW s) else openW s)))
          ∧ ((v.getLsbD 48 = true → bits v.toNat 47 32 < 2 ^ k.cqLog2
              ∧ subMod (bits v.toNat 47 32) k.cqHead (2 ^ k.cqLog2) ≤ subMod k.cqTail k.cqHead (2 ^ k.cqLog2)) →
            v.getLsbD 16 = true ∨ v.getLsbD 48 = true →
            Blocks (.doorbell q v) s (withQp s.blk q
              { k with cqHead := if v.getLsbD 48 then bits v.toNat 47 32 else k.cqHead })))))
  ∧ (∀ (s : State) (q : Nat),
      ((qpOf s q).holding = true → Blocks (.irqHoldoffExpiry q) s (withQp s.blk q
        (if (qpOf s q).heldIrq then { qpOf s q with irqPend := true, heldIrq := false, holding := decide (0 < (qpOf s q).holdoffUs) }
         else { qpOf s q with holding := false })))
      ∧ ((qpOf s q).holding = false → exec (.irqHoldoffExpiry q) s = .next s))
  ∧ (∀ (s : State) (q : Nat) (x : Qp), q < 8192 → portsOpen (openW s) = true →
      x = { qpOf s q with enable := false, state := .disabled, faultCause := 0, sqHead := 0, sqTail := 0, cqHead := 0, cqTail := 0
                          numBase := (qpOf s q).numBase + (qpOf s q).fetched, fetched := 0, done := 0, phase := true
                          half := [], notOk := [] } →
      ((qpOf s q).enable = true → Leaves (.qpReset q) s (writeIgnored (0x110000 + 64 * q) 4 (openW s)))
      ∧ ((qpOf s q).enable = false → Leaves (.qpReset q) s (settleCmds {} (setQp q x (failFences q (openW s))))
        ∧ ((∀ k ∈ s.blk.cmds, opOf k ≠ 2 ∧ k.outc = none) → Blocks (.qpReset q) s (withQp s.blk q x))))
  ∧ ∀ (s : State) (q : Nat) (v : Word) (x : Qp), q < 8192 → portsOpen (openW s) = true →
      ((qpOf s q).enable = true → Blocks (.qpEnable q v) s (withQp s.blk q
        { qpOf s q with irqAll := v.getLsbD 1, holdoffUs := bits v.toNat 63 56 }))
      ∧ ((qpOf s q).enable = false →
        ((bits v.toNat 36 32 < 4 ∨ 16 < bits v.toNat 36 32 ∨ bits v.toNat 44 40 < 4 ∨ 16 < bits v.toNat 44 40) →
          Leaves (.qpEnable q v) s (writeIgnored (0x110000 + 64 * q) (v ||| 1) (openW s)))
        ∧ (4 ≤ bits v.toNat 36 32 → bits v.toNat 36 32 ≤ 16 → 4 ≤ bits v.toNat 44 40 → bits v.toNat 44 40 ≤ 16 →
          x = { qpOf s q with irqAll := v.getLsbD 1, holdoffUs := bits v.toNat 63 56, ctx := bits v.toNat 27 16
                              sqLog2 := bits v.toNat 36 32, cqLog2 := bits v.toNat 44 40 } →
          (v.getLsbD 2 = true → Leaves (.qpEnable q v) s (enableQp q (settleCmds {} (resetQp q (setQp q x (openW s))))))
          ∧ (v.getLsbD 2 = false →
            (enableFails (setQp q x (openW s)) q = none →
              Blocks (.qpEnable q v) s (withQp s.blk q { x with enable := true, state := .active, faultCause := 0 }))
            ∧ ∀ cause, enableFails (setQp q x (openW s)) q = some cause →
              Leads (.qpEnable q v) s (fun t =>
                t.blk = { withQp s.blk q { x with state := .fault, faultCause := cause } with tlm := t.blk.tlm }))))

/-- O6. A fetch takes the next slot of a ring. Where it is the queue pair's turn, one slot is waiting, there is credit, and
memory answers OK, COMMAND_FETCH moves SQ_HEAD on by one, and notes the turn. A slot whose opcode is not critical
becomes a command in flight with the queue pair's next number, its context, its partition and its 64 bytes as memory
holds them; the first slot of a critical command is kept until the second one is fetched. A KERNEL_RUN without RESUME is
counted in its context. Memory is unchanged. A queue pair whose turn it is not is left as it is. That the row names the
queue pair is log entry 58, where the turn stands at reset log entry 96, what a KERNEL_RUN counts log entry 43. -/
def Obligations.CommandFetchTakesASlot : Prop :=
  (∀ (s : State) (q p : Nat) (env : Env) (crit : Bool) (cls : CmdClass), Calm s env → env.par = 0 → frontRuns (openW s) = true →
    nextFetch (openW s) = some q → p = (partOfQp? (openW s) q).getD 0 → (qpOf s q).half = [] → hasCredit (openW s) q = true →
    (qpOf s q).sqHead < 2 ^ (qpOf s q).sqLog2 → subMod (qpOf s q).sqTail (qpOf s q).sqHead (2 ^ (qpOf s q).sqLog2) = 1 →
    linesFree (openW s) ((qpOf s q).sqBase + 64 * (qpOf s q).sqHead) 64 = true →
    opInfo (byteAt s ((qpOf s q).sqBase + 64 * (qpOf s q).sqHead)).toNat = some (crit, cls) →
    Leads (.commandFetch q env) s (fun t => t.mem = s.mem
      ∧ t.blk = { s.blk with qps := t.blk.qps, cmds := t.blk.cmds, cnt := t.blk.cnt, ctxs := t.blk.ctxs, mdOut := t.blk.mdOut
                             fetchPart := p, fetchQps := tset s.blk.fetchQps p q, eng := t.blk.eng }
      ∧ (crit = false →
          t.blk.qps = tset s.blk.qps q { qpOf s q with sqHead := ((qpOf s q).sqHead + 1) % 2 ^ (qpOf s q).sqLog2
                                                       fetched := (qpOf s q).fetched + 1 }
          ∧ t.blk.cmds = s.blk.cmds ++
              [{ id := { q := q, n := (qpOf s q).numBase + (qpOf s q).fetched }, ctx := (qpOf s q).ctx, part := p
                 slot := getBytes (openW s) ((qpOf s q).sqBase + 64 * (qpOf s q).sqHead) 64, fetchedUs := nowUs (openW s)
                 awaits := (s.blk.cmds.filter (fun e => e.id.q == q)).map (·.id.n)
                 runNo := (ctxOf s (qpOf s q).ctx).runsFetched, order := s.blk.eng.nextOrder }]
          ∧ t.blk.eng = { s.blk.eng with nextOrder := s.blk.eng.nextOrder + 1 }
          ∧ t.blk.ctxs = if byteAt s ((qpOf s q).sqBase + 64 * (qpOf s q).sqHead) = 0x40
                && !(byteAt s ((qpOf s q).sqBase + 64 * (qpOf s q).sqHead + 0x12)).getLsbD 0 then
              tset s.blk.ctxs (qpOf s q).ctx { ctxOf s (qpOf s q).ctx with
                runsFetched := ((ctxOf s (qpOf s q).ctx).runsFetched + 1) % 65536 }
            else s.blk.ctxs)
      ∧ (crit = true →
          t.blk.qps = tset s.blk.qps q { qpOf s q with sqHead := ((qpOf s q).sqHead + 1) % 2 ^ (qpOf s q).sqLog2
                                                       half := getBytes (openW s) ((qpOf s q).sqBase + 64 * (qpOf s q).sqHead) 64 }
          ∧ t.blk.cmds = s.blk.cmds ∧ t.blk.ctxs = s.blk.ctxs ∧ t.blk.eng = s.blk.eng)))
  ∧ ∀ (s : State) (q : Nat) (env : Env), nextFetch (openW s) ≠ some q → Blocks (.commandFetch q env) s s.blk

/-- O7. Enabling, disabling and resetting a context. ENABLE written 1 makes a DISABLED context of a partition ACTIVE and a
FROZEN one RETIRING, and is ignored with an event in every other state, without a partition, and for context 0; RESET
written 1 to a FROZEN context clears its fault and the pointers of its queue pairs, to a running one it starts a
teardown that ends in a reset, else it is ignored with an event; ENABLE written 0 to a running context starts its
teardown, else it is ignored with an event; TEARDOWN_DONE of a context with nothing left to do leaves it DISABLED when
it has no region and FROZEN otherwise, with the time recorded, and memory as it is. -/
def Obligations.ContextEnableDisable : Prop :=
  (∀ (s : State) (x : Nat), x < 4096 → portsOpen (openW s) = true →
      (0 < x → (ctxOf s x).state = .disabled → (partOfCtx? (openW s) x).isSome = true →
        Blocks (.ctxEnable x) s (withCtx s.blk x { ctxOf s x with state := .active, enable := true }))
      ∧ (0 < x → (ctxOf s x).state = .frozen →
        Blocks (.ctxEnable x) s (withCtx s.blk x { ctxOf s x with state := .retiring, enable := true }))
      ∧ (x = 0 ∨ (ctxOf s x).state ∈ [CtxState.active, .retiring, .teardown]
          ∨ ((ctxOf s x).state = .disabled ∧ partOfCtx? (openW s) x = none) →
        Leaves (.ctxEnable x) s (writeIgnored (0x200000 + 64 * x) 1 (openW s))))
  ∧ (∀ (s : State) (x : Nat) (env : Env), x < 4096 → portsOpen (openW s) = true →
      (0 < x → (ctxOf s x).state = .frozen →
        Leaves (.ctxReset x env) s (resetCtx env x (openW s))
        ∧ ((∀ e ∈ s.blk.qps, e.2.ctx ≠ x) → (∀ k ∈ s.blk.cmds, k.outc = none) →
          Blocks (.ctxReset x env) s (withCtx s.blk x
            { ctxOf s x with fault := false, faultCause := 0, faultQp := 0, tdLate := false, resetAfter := false })))
      ∧ (0 < x → ctxRuns (ctxOf s x) = true →
        Leaves (.ctxReset x env) s (teardownActs env x (disablePoint x true (openW s)))
        ∧ Leaves (.ctxDisable x env) s (teardownActs env x (disablePoint x false (openW s))))
      ∧ (x = 0 ∨ (ctxOf s x).state ∈ [CtxState.disabled, .teardown] →
        Leaves (.ctxReset x env) s (writeIgnored (0x200000 + 64 * x) 4 (openW s)))
      ∧ (x = 0 ∨ ctxRuns (ctxOf s x) = false →
        Leaves (.ctxDisable x env) s (writeIgnored (0x200000 + 64 * x) 0 (openW s))))
  ∧ ∀ (s : State) (x ns : Nat) (env : Env), (ctxOf s x).state = .teardown → teardownActs env x (openW s) = openW s →
      committing (openW s) x = false → ctxCmds (openW s) x = [] → (ctxOf s x).resetAfter = false →
      Leads (.teardownDone x ns env) s (fun t => t.mem = s.mem
        ∧ (ctxOf t x).state = (if (rgnsOfCtx (openW s) x).isEmpty then .disabled else .frozen)
        ∧ (ctxOf t x).tdNs = sat 0xFFFFFFFF ns
        ∧ t.blk = { s.blk with ctxs := t.blk.ctxs, tlm := t.blk.tlm })

/-- O8. NOP completes, FENCE completes when what it waits for has. A NOP that starts completes OK with no other effect, and
a command whose opcode is not assigned completes UNSUPPORTED. A FENCE whose target is in order completes OK, its RESULT
counting the awaited commands that ended otherwise, as soon as nothing is open that it waits for; until then it stays in
flight; when its target queue pair does not serve it completes ABORTED. Which commands of its own queue a FENCE awaits
is log entry 97. -/
def Obligations.NopAndFenceComplete : Prop :=
  (∀ (s : State) (c : CmdId) (env : Env) (k : Cmd), Issued s c env k 0x01 →
      Leads (.nop c env) s (fun t => Finished s t c k {} (begun s c k)))
  ∧ (∀ (s : State) (c : CmdId) (env : Env) (k : Cmd), findCmd (openW s) c = some k → c.q ≠ fabricQ →
      ctxRuns (ctxOf s k.ctx) = true → k.outc = none → k.phase = .fetched → mayStart (openW s) k = true → Calm s env →
      Reports s c k → opInfo (opOf k) = none →
      Leads (.nop c env) s (fun t => Finished s t c k { status := .unsupported }
        (modCmd c (fun k => { k with phase := .running }) (countStart k (openW s)))))
  ∧ (∀ (s : State) (c : CmdId) (env : Env) (k : Cmd), Issued s c env k 0x02 →
      (arg k 0x12 1 = 1 → partOfQp? (openW s) (arg k 0x10 2 % 0x2000) = some k.part) →
      (fenceOpen (begun s c k) k = false →
        Leads (.fence c env) s (fun t => Finished s t c k { result := toLe 8 (fenceBad (begun s c k) k) } (begun s c k)))
      ∧ (fenceOpen (begun s c k) k = true → (arg k 0x12 1 = 1 → qpServes (begun s c k) (arg k 0x10 2 % 0x2000) = true) →
        Leaves (.fence c env) s (begun s c k))
      ∧ (fenceOpen (begun s c k) k = true → arg k 0x12 1 = 1 → qpServes (begun s c k) (arg k 0x10 2 % 0x2000) = false →
        Leads (.fence c env) s (fun t => Finished s t c k { status := .aborted } (begun s c k))))
  ∧ ∀ (s : State) (c : CmdId) (env : Env) (k : Cmd), Runs s c k → Calm s env → Reports s c k → opOf k = 0x02 →
      (fenceOpen (openW s) k = false →
        Leads (.fence c env) s (fun t => Finished s t c k { result := toLe 8 (fenceBad (openW s) k) } (openW s)))
      ∧ (fenceOpen (openW s) k = true → (arg k 0x12 1 = 1 → qpServes (openW s) (arg k 0x10 2 % 0x2000) = true) →
        Leaves (.fence c env) s (openW s))
      ∧ (fenceOpen (openW s) k = true → arg k 0x12 1 = 1 → qpServes (openW s) (arg k 0x10 2 % 0x2000) = false →
        Leads (.fence c env) s (fun t => Finished s t c k { status := .aborted } (openW s)))

/-- O9. COPY and FILL of a plain line. A COPY or FILL of one line whose ranges are in order, where the lines are free and
DST's is neither coded nor held, writes the 64 bytes of its source line, or its pattern eight times, to DST, and
completes OK with RESULT 64; outside DST's line and the completion entry no byte changes. That the accesses are made
within the command is log entry 10, which lines they wait for log entry 37. -/
def Obligations.CopyAndFillMoveBytes : Prop :=
  ∀ (s : State) (c : CmdId) (env : Env) (k : Cmd) (copy : Bool), Issued s c env k (if copy then 0x70 else 0x71) →
    copyCheck (begun s c k) k copy = none → k.prog = 0 → k.units = [] → k.degraded = false → k.patch = [] →
    arg k 0x20 8 = 64 → arg k 0x18 8 % 64 = 0 → (copy = true → arg k 0x10 8 % 64 = 0) →
    (copy = true → linesReadable (begun s c k) (arg k 0x10 8) 64 = true) →
    linesFree (begun s c k) (arg k 0x18 8) 64 = true → lineMode (begun s c k) (arg k 0x18 8) = .plain →
    chunkHeld (begun s c k) (arg k 0x18 8) = false →
    (arg k 0x18 8 + 64 ≤ entryAt (qpOf s c.q) ∨ entryAt (qpOf s c.q) + 32 ≤ arg k 0x18 8) →
    (∀ u ∈ s.blk.units, u.cmd ≠ some c) →
    Leads (if copy then .copy c env else .fill c env) s (fun t =>
      (∀ i, i < 64 → byteAt t (arg k 0x18 8 + i)
        = if copy then byteAt s (arg k 0x10 8 + i) else (bytesAt k.slot 0x28 8).getD (i % 8) 0)
      ∧ (∀ a, (a < arg k 0x18 8 ∨ arg k 0x18 8 + 64 ≤ a) → (a < entryAt (qpOf s c.q) ∨ entryAt (qpOf s c.q) + 32 ≤ a) →
          byteAt t a = byteAt s a)
      ∧ (∀ i, i < 32 → byteAt t (entryAt (qpOf s c.q) + i)
          = (completionBytes k { result := toLe 8 64 } (qpOf s c.q).sqHead (qpOf s c.q).phase).getD i 0)
      ∧ (∀ x ∈ t.blk.cmds, x.id ≠ c) ∧ (qpOf t c.q).done = (qpOf s c.q).done + 1)

/-- O10. ACCUM_CLEAR, ACCUM_WRITE and DATUM_ADVANCE. ACCUM_CLEAR whose checks pass, with no host write under way on the
region and the lines of its tiles free, clears its tiles and completes, DENIED or POISONED where an access was answered
otherwise than OK; ACCUM_WRITE whose checks pass takes in its elements from the first on; DATUM_ADVANCE SET and
RECOMPUTE whose checks pass work through the tile-state lines they name; MARGIN stores the margin of the region and
completes OK with RESULT 0, every other effect left out. What its accesses wait for is log entry 37. -/
def Obligations.DatumCommandsAct : Prop :=
  (∀ (s : State) (c : CmdId) (env : Env) (k : Cmd), Issued s c env k 0x30 → accumClearCheck (begun s c k) k = none →
      auBusy (begun s c k) (arg k 0x10 2) = false →
      ∀ f n code w, tileRange? (getRgn (begun s c k) (arg k 0x10 2)) (arg k 0x18 8) (arg k 0x20 8) = some (f, n) →
        (∀ t, t < n → tileFree (begun s c k) (getRgn (begun s c k) (arg k 0x10 2)) 0 (f + t) = true) →
        clearTiles env (arg k 0x10 2) f n (begun s c k) = (code, w) →
        Leaves (.accumClear c env) s
          (complete env false c { status := rspStatus code } (if code == .poison then markReplay k.ctx w else w)))
  ∧ (∀ (s : State) (c : CmdId) (env : Env) (k : Cmd), Issued s c env k 0x31 → accumWriteCheck (begun s c k) k = none →
      Leaves (.accumWrite c env) s (accumWriteGo env (arg k 0x30 8 / 4096 + 3) k (begun s c k)))
  ∧ (∀ (s : State) (c : CmdId) (env : Env) (k : Cmd), Issued s c env k 0x35 → datumCheck (begun s c k) k = none →
      auBusy (begun s c k) (arg k 0x10 2) = false → k.prog = 0 →
      (arg k 0x12 1 = 0 → Leaves (.datumAdvanceSet c env) s
        (datumSteps env k (datumLines (begun s c k) k (getRgn (begun s c k) (arg k 0x10 2)).bank) (begun s c k)))
      ∧ (arg k 0x12 1 = 1 → Leaves (.datumAdvanceRecompute c env) s
        (datumSteps env k (datumLines (begun s c k) k (getRgn (begun s c k) (arg k 0x10 2)).bank) (begun s c k)))
      ∧ (arg k 0x12 1 = 2 → Leads (.datumAdvanceMargin c env) s (fun t =>
          Finished s t c k { result := toLe 8 0 }
            (setRgn (arg k 0x10 2) { rgnOf s (arg k 0x10 2) with margin := arg k 0x13 1 } (begun s c k)))))

/-- O11. ACCUM_CLEAR zeroes integers and tile state and keeps anchors. Where memory answers OK, clearing n tiles from a
first one on leaves every byte of their integers zero and each of their tile-state lines the cleared line of the
anchor the tile had; it writes no byte outside the bank of the region. -/
def Obligations.ClearedTilesAreZero : Prop :=
  ∀ (env : Env) (ri first n : Nat) (w w' : W) (code : Rsp), env.rd = [] → env.wr = [] → w.b.ras.inj = [] →
    (getRgn w ri).kind = .accum → (getRgn w ri).base % 65536 = 0 → first + n ≤ tilesOf (getRgn w ri) →
    clearTiles env ri first n w = (code, w') →
      code = .ok
      ∧ (∀ a, elemAt (getRgn w ri) 0 (4096 * first) ≤ a → a < elemAt (getRgn w ri) 0 (4096 * (first + n)) → getByte w' a = 0)
      ∧ (∀ t, first ≤ t → t < first + n → getBytes w' (stateAt (getRgn w ri) 0 t) 64
          = tileBytes (clearedTile (tileOf (getBytes w (stateAt (getRgn w ri) 0 t) 64)).anchor))
      ∧ ∀ a, (a < (getRgn w ri).base ∨ (getRgn w ri).base + bankBytes (getRgn w ri) ≤ a) → getByte w' a = getByte w a

/-- O12. REDUCE_SCATTER and ALL_GATHER: their start, timers and packets. A REDUCE_SCATTER or ALL_GATHER whose checks pass
begins its collective over the members its block selects; with a member LOST or FENCED it ends MEMBER_LOST at once; one
that runs goes on. A DIRECT deadline closes the open roster and goes on; the timeout ends a collective under way
TIMEOUT; the repeat timer asks for the segments that are lacking from members whose packets were found lost; neither
does anything without a collective. An accepted REDUCE or GATHER packet, data or a repeat request, is given to its
collective. How far one occurrence of a row goes is log entry 81. -/
def Obligations.CollectivesBegin : Prop :=
  (∀ (s : State) (c : CmdId) (env : Env) (k : Cmd), Issued s c env k 0x33 → reduceCheck (begun s c k) k = none →
      Leaves (.reduceScatter c env) s (reduceStart env k (begun s c k)))
  ∧ (∀ (s : State) (c : CmdId) (env : Env) (k : Cmd), Issued s c env k 0x34 → gatherCheck (begun s c k) k = none →
      Leaves (.allGather c env) s (gatherStart env k (begun s c k)))
  ∧ (∀ (s : State) (c : CmdId) (env : Env) (k : Cmd), Runs s c k →
      (opOf k = 0x33 → Leaves (.reduceScatter c env) s (collWaiting env (reduceGo env c (openW s))))
      ∧ (opOf k = 0x34 → Leaves (.allGather c env) s (collWaiting env (allGatherGo env c (openW s)))))
  ∧ (∀ (s : State) (c : CmdId) (env : Env) (x : Coll) (k : Cmd), findColl (openW s) c = some x → findCmd (openW s) c = some k →
      x.direct = true → x.closed = false → x.finished = false → arg k 0x20 4 ≠ 0 →
      Leaves (.directDeadline c env) s (collWaiting env (collGo env c (closeRoster c (openW s)))))
  ∧ (∀ (s : State) (c : CmdId) (env : Env), Leaves (.collectiveTimeout c env) s (collEnd env c { status := .timeout } (openW s)))
  ∧ (∀ (s : State) (c : CmdId) (env : Env), findColl (openW s) c = none →
      exec (.directDeadline c env) s = .next s ∧ exec (.collectiveRepeatTimer c) s = .next s)
  ∧ (∀ (s : State) (c : CmdId) (x : Coll), findColl (openW s) c = some x → x.finished = false → x.ready = true →
      Leaves (.collectiveRepeatTimer c) s
        (sendRepeats x ((lacking (openW s) x).filter (fun l =>
          lostFrom (openW s) x (if x.isReduce && x.direct then l.1 else memberAt x (prevPos x x.pos)))) (openW s)))
  ∧ ∀ (s : State) (rx : Rx) (env : Env) (pk : Packet) (w : W),
      (accepted (openW s) rx 0x20 (fun p => fld p 0xA 1 != 1) = some (pk, w) → Leaves (.reduce rx env) s (onColl env rx pk w))
      ∧ (accepted (openW s) rx 0x20 (fun p => fld p 0xA 1 == 1) = some (pk, w) → Leaves (.reduceRepeat rx env) s (onColl env rx pk w))
      ∧ (accepted (openW s) rx 0x30 (fun p => fld p 0xA 1 != 1) = some (pk, w) → Leaves (.gather rx env) s (onColl env rx pk w))
      ∧ (accepted (openW s) rx 0x30 (fun p => fld p 0xA 1 == 1) = some (pk, w) → Leaves (.gatherRepeat rx env) s (onColl env rx pk w))

/-- O13. REGION_DEFINE. A REGION_DEFINE whose checks pass and whose kind keeps no parity fills the entry it asks for, or
the lowest free one, with its operands and completes OK with RESULT the index. One of a coded kind is paired with its
PARITY region as well. No other entry and no other unit changes. -/
def Obligations.RegionDefineFillsAnEntry : Prop :=
  ∀ (s : State) (c : CmdId) (env : Env) (k : Cmd) (i : Nat) (kind : Kind) (r : Region), Issued s c env k 0x10 →
    regionCheck (begun s c k) k = none →
    i = (if bit (arg k 0x28 2) 15 then arg k 0x28 2 % 0x4000
         else ((List.range 16384).find? (fun i => (rgnOf s i).state == .free)).getD 0) →
    kind = (kindOfCode (arg k 0x1C 1)).getD .plain →
    r = { state := if kind == .coded || kind == .residual then .unsounded else .active, base := arg k 0x10 8, size := arg k 0x18 4
          kind := kind, ctx := k.ctx, grp := if bit (arg k 0x23 1) 2 then some (arg k 0x1D 1) else none, frag := arg k 0x20 1
          chunk := arg k 0x21 1, elem := arg k 0x22 1, isSealed := bit (arg k 0x23 1) 0, sweepEn := bit (arg k 0x23 1) 1
          comp := arg k 0x26 1, partner := if codedKind kind then some (arg k 0x1E 2) else none, infmt := arg k 0x27 1
          headroom := arg k 0x25 1, width := arg k 0x24 1 } →
    (codedKind kind = false →
      Leads (.regionDefine c env) s (fun t => Finished s t c k { result := toLe 2 i } (setRgn i r (begun s c k))))
    ∧ (codedKind kind = true → i ≠ arg k 0x1E 2 →
      Leads (.regionDefine c env) s (fun t => Finished s t c k { result := toLe 2 i }
        (setRgn (arg k 0x1E 2) { rgnOf s (arg k 0x1E 2) with partner := some i } (setRgn i r (begun s c k)))))

/-- O14. REGION_RETIRE. A REGION_RETIRE of an idle region that keeps no parity, of a context that is not RETIRING, frees
the entry, with nothing held back by it, and completes OK; a coded one also leaves its PARITY region without partner.
Any other whose checks pass drops the sweep, discards what is held for a PARITY region, frees the entry, and may make
its context ACTIVE. -/
def Obligations.RegionRetireFreesTheEntry : Prop :=
  (∀ (s : State) (c : CmdId) (env : Env) (k : Cmd) (r : Region), Issued s c env k 0x11 → retireCheck (begun s c k) k = none →
    r = rgnOf s (arg k 0x10 2) → r.kind ≠ .parity → r.partner = none → r.sweeping = false →
    (ctxOf s k.ctx).state = .active → (∀ e ∈ s.blk.slices, e.2.haz = [] ∧ e.2.need = [] ∧ e.2.chan = []) →
    Leads (.regionRetire c env) s (fun t => Finished s t c k {} (setRgn (arg k 0x10 2) {} (begun s c k))))
  ∧ (∀ (s : State) (c : CmdId) (env : Env) (k : Cmd) (r : Region) (p : Nat), Issued s c env k 0x11 → retireCheck (begun s c k) k = none →
    r = rgnOf s (arg k 0x10 2) → r.kind ≠ .parity → r.partner = some p → p ≠ arg k 0x10 2 → r.sweeping = false →
    (ctxOf s k.ctx).state = .active → (∀ e ∈ s.blk.slices, e.2.haz = [] ∧ e.2.need = [] ∧ e.2.chan = []) →
    Leads (.regionRetire c env) s (fun t => Finished s t c k {}
      (setRgn (arg k 0x10 2) {} (setRgn p { rgnOf s p with partner := none } (begun s c k)))))
  ∧ ∀ (s : State) (c : CmdId) (env : Env) (k : Cmd), Issued s c env k 0x11 → retireCheck (begun s c k) k = none →
    Leaves (.regionRetire c env) s (regionRetire env k (begun s c k))

/-- O15. Sounding from its start to its end. A REGION_SOUND whose checks pass begins a Sounding under its epoch; each
occurrence of its stream sends the next fragment or, behind the last, the end notice, or ends the Sounding when a
fragment fails; with every end notice in, the region is SOUNDED, and until then it goes on; the timeout ends a Sounding
that still waits for descriptors or end notices. How far one occurrence of a row goes is log entry 81. -/
def Obligations.SoundingRuns : Prop :=
  (∀ (s : State) (c : CmdId) (env : Env) (k : Cmd), Issued s c env k 0x12 → soundCheck (begun s c k) k = none →
      Leaves (.regionSound c env) s (soundStart env k (begun s c k)))
  ∧ (∀ (s : State) (r : Nat) (env : Env) (w : W),
      (∀ code f, streamStep env .sound r (openW s) = (.failed code f, w) →
        Leaves (.soundingStream r env) s (failSound env r (soundFailure code f) w))
      ∧ (streamStep env .sound r (openW s) = (.went, w) → Leaves (.soundingStream r env) s (endStream .sound r w)))
  ∧ (∀ (s : State) (r : Nat) (env : Env) (st : Stream) (w : W), w = countEnds (endStream .sound r (openW s)) →
      findStream w .sound r = some st →
      (st.endSent = false ∨ allEnds w st = false → Leaves (.soundingComplete r env) s w)
      ∧ (st.endSent = true → allEnds w st = true →
      Leaves (.soundingComplete r env) s
        (outcome env st.cmd { result := toLe 8 st.next }
          (kickAll (setBearing r 1 (dropStream .sound r (setRgn r { getRgn w r with state := .sounded } w)))))))
  ∧ ∀ (s : State) (r : Nat) (env : Env) (st : Stream), findStream (openW s) .sound r = some st →
      allDescs (openW s) st = false ∨ (st.endSent = true ∧ allEnds (openW s) st = false) →
      Leaves (.soundingTimeout r env) s (failSound env r { status := .timeout } (openW s))

/-- O16. DESC and END. An accepted descriptor of a live member is held in the place of that member's earlier one for the
region, with its cutoffs, and the streams that wait for it go on; an accepted end notice is held, counted when its
packet has arrived, and the streams that wait for it go on. The member's earlier deltas toward the region's PARITY
partner are discarded. -/
def Obligations.DescriptorsAndEndNotices : Prop :=
  (∀ (s : State) (rx : Rx) (env : Env) (pk : Packet) (w : W) (gi : Nat) (g : Group) (m : Nat),
      formAccepted (openW s) rx 1 = some (pk, w) → formFrom w pk = some (gi, g, m) → senderLive g m = true →
      Leaves (.desc rx env) s
        (streamsGo env gi (addCutoffs gi g m (bytesAt pk.payload 32 56)
          (let v := match (codedByBase w gi (fld (bytesAt pk.payload 32 56) 0 8)).bind (fun x => x.2.partner) with
              | some pi => discardPartner pi (fun i => i == m) w
              | none => w
           { v with b := { v.b with descs := v.b.descs.filter (fun x => !(x.g == gi && x.src == m
                                && x.base == fld (bytesAt pk.payload 32 56) 0 8)) ++
              [{ g := gi, src := m, base := fld (bytesAt pk.payload 32 56) 0 8, sepoch := fld pk.payload 0xB 1
                 body := bytesAt pk.payload 32 56, seqs := seqFields (bytesAt pk.payload 32 56) 36 }] } }))))
  ∧ ∀ (s : State) (rx : Rx) (env : Env) (pk : Packet) (w : W) (gi : Nat) (g : Group) (m : Nat),
      formAccepted (openW s) rx 2 = some (pk, w) → formFrom w pk = some (gi, g, m) → senderLive g m = true →
      Leaves (.endNotice rx env) s
        (streamsGo env gi (countEnds { w with b := { w.b with ends := w.b.ends ++
          [{ g := gi, src := m, sepoch := fld pk.payload 0xB 1
             seq := if (fld pk.payload 32 4).testBit 31 then some (fld pk.payload 32 4 % 2 ^ 24) else none }] } }))

/-- O17. WATCH_OPEN. A WATCH_OPEN whose checks pass opens the instance: phase OPEN, its Watch number and abandon count,
ROUNDS, FLAGS, domain and record region from the operands, the time, empty holds and no roster, the last closed and
abandoned instances kept. It completes OK with RESULT the abandon count, and changes nothing else but the domain's
owner. The order of its checks is log entry 103. -/
def Obligations.WatchOpens : Prop :=
  ∀ (s : State) (c : CmdId) (env : Env) (k : Cmd) (a : Nat), Issued s c env k 0x20 → watchOpenCheck (begun s c k) k = none →
    a = (match (ctxOf s k.ctx).watch.lastAbandoned with | some (v, n) => if v = arg k 0x10 6 then n + 1 else 0 | none => 0) →
    Leads (.watchOpen c env) s (fun t => ∃ y : Watch,
      y.phase = .opened ∧ y.w = arg k 0x10 6 ∧ y.a = a ∧ y.rounds = arg k 0x1A 1 ∧ y.flags = arg k 0x1B 1
      ∧ y.wdom = arg k 0x16 2 ∧ y.record = arg k 0x18 2 ∧ y.tOpen = s.blk.crp.tCore ∧ y.held = [] ∧ y.rosters = []
      ∧ y.lastClosed = (ctxOf s k.ctx).watch.lastClosed ∧ y.lastAbandoned = (ctxOf s k.ctx).watch.lastAbandoned
      ∧ y.recSeq = (ctxOf s k.ctx).watch.recSeq ∧ y.runBase = k.runNo ∧ y.pollRun = none ∧ y.barRun = none ∧ y.replay = false
      ∧ Finished s t c k { result := toLe 1 a }
          (setCtx k.ctx { ctxOf s k.ctx with watch := y }
            { begun s c k with b := { (begun s c k).b with wdoms := tset s.blk.wdoms (arg k 0x16 2) k.ctx } }))

/-- O18. WATCH_POLL, WATCH_CLOSE, WATCH_ABANDON and their timers. In the phases R195 allows, WATCH_POLL starts the poll,
WATCH_CLOSE leaves the window and starts or resumes the close barrier, and WATCH_ABANDON sends its notice and abandons
the instance, which completes it; in other phases each completes WATCH_STATE 0x41; one that runs goes on. POLL_TIMEOUT
completes the poll TIMEOUT and returns the Watch to OPEN, CLOSE_TIMEOUT completes the close TIMEOUT and leaves the Watch
in CLOSING, and CLOSE_BARRIER starts or continues the barrier of a close; in other phases they do nothing. After a
command or CLOSE_BARRIER the collective packets that waited are looked at again. What a notice does while AU work is
under way is log entry 46. -/
def Obligations.WatchPollAndClose : Prop :=
  (∀ (s : State) (c : CmdId) (env : Env) (k : Cmd), Issued s c env k 0x24 →
      ((ctxOf s k.ctx).watch.phase = .opened → Leaves (.watchPoll c env) s (collWaiting env (pollStart env k (begun s c k))))
      ∧ ((ctxOf s k.ctx).watch.phase ≠ .opened → Leaves (.watchPoll c env) s
          (collWaiting env (complete env false c { status := .watchState, info := 0x41 } (begun s c k)))))
  ∧ (∀ (s : State) (c : CmdId) (env : Env) (k : Cmd), Issued s c env k 0x21 →
      ((ctxOf s k.ctx).watch.phase ∈ [Phase.polled, .window, .skip, .closing] →
        Leaves (.watchClose c env) s (collWaiting env (closeStart env k (begun s c k))))
      ∧ ((ctxOf s k.ctx).watch.phase ∉ [Phase.polled, .window, .skip, .closing] → Leaves (.watchClose c env) s
          (collWaiting env (complete env false c { status := .watchState, info := 0x41 } (begun s c k)))))
  ∧ (∀ (s : State) (c : CmdId) (env : Env) (k : Cmd), Issued s c env k 0x23 →
      ((ctxOf s k.ctx).watch.phase ∈ [Phase.opened, .polling, .polled, .encoding, .skip] → (ctxOf s k.ctx).watch.ending = none →
        Leaves (.watchAbandon c env) s
          (collWaiting env (endGo env k.ctx (abandonBegin env k.ctx 5 (some c) (sendNotice k.ctx 2 (begun s c k))))))
      ∧ ((ctxOf s k.ctx).watch.phase ∉ [Phase.opened, .polling, .polled, .encoding, .skip] → Leaves (.watchAbandon c env) s
          (collWaiting env (complete env false c { status := .watchState, info := 0x41 } (begun s c k)))))
  ∧ (∀ (s : State) (c : CmdId) (env : Env) (k : Cmd), Runs s c k →
      (opOf k = 0x24 → Leaves (.watchPoll c env) s (collWaiting env (pollGo env k.ctx (openW s))))
      ∧ (opOf k = 0x21 → Leaves (.watchClose c env) s (collWaiting env (closeGo env k.ctx (openW s))))
      ∧ (opOf k = 0x23 → Leaves (.watchAbandon c env) s (collWaiting env (abandonGo env k (openW s)))))
  ∧ (∀ (s : State) (x : Nat) (env : Env) (c : CmdId),
      ((ctxOf s x).watch.phase = .polling → (ctxOf s x).watch.pollCmd = some c →
        Leaves (.pollTimeout x env) s (done env c .timeout 0 []
          (setCtx x { ctxOf s x with watch := { (ctxOf s x).watch with phase := .opened, pollCmd := none } } (openW s))))
      ∧ ((ctxOf s x).watch.phase ≠ .polling → Blocks (.pollTimeout x env) s s.blk)
      ∧ ((ctxOf s x).watch.phase = .closing → (ctxOf s x).watch.closeCmd = some c →
        Leaves (.closeTimeout x env) s (done env c .timeout 0 []
          (setCtx x { ctxOf s x with watch := { (ctxOf s x).watch with closeCmd := none } } (openW s))))
      ∧ ((ctxOf s x).watch.phase ≠ .closing → Blocks (.closeTimeout x env) s s.blk))
  ∧ ∀ (s : State) (x : Nat) (env : Env) (c : CmdId), (ctxOf s x).watch.closeCmd = some c → (ctxOf s x).watch.ending = none →
      ((ctxOf s x).watch.phase = .closing → (ctxOf s x).watch.barRun.isSome = true →
        Leaves (.closeBarrier x env) s (collWaiting env (closeGo env x (openW s))))
      ∧ ((ctxOf s x).watch.phase = .closing → (ctxOf s x).watch.barRun = none → closeReady (openW s) x c = true →
        Leaves (.closeBarrier x env) s (collWaiting env (startBarrier env x (openW s))))
      ∧ ((ctxOf s x).watch.phase ≠ .closing → Leaves (.closeBarrier x env) s (collWaiting env (openW s)))

/-- O19. WINDOW_OPEN and encoding. A WINDOW_OPEN in POLLED without encoding, or without a WINDOW region of a group, enters
WINDOW at once, notes that nothing can be rolled forward, records the time and completes OK with no other effect; in
SKIP it completes NONFINITE and in other phases WATCH_STATE 0x41, and changes nothing. With encoding it starts ENCODING
over the WINDOW regions, and streams on while it encodes; ENCODING_COMPLETE carries the encodings on to their end, and
ENCODING_TIMEOUT ends one that still waits for descriptors or end notices. -/
def Obligations.WindowOpens : Prop :=
  (∀ (s : State) (c : CmdId) (env : Env) (k : Cmd), Issued s c env k 0x22 → (ctxOf s k.ctx).watch.phase = .polled →
      (bit (ctxOf s k.ctx).watch.flags 0 = false ∨ windowRgns (openW s) k.ctx = [] →
        Leads (.windowOpen c env) s (fun t => Finished s t c k {}
          (setCtx k.ctx { ctxOf s k.ctx with watch := { (ctxOf s k.ctx).watch with phase := .window, winCmd := none, noRoll := true
                                                                                   tWindow := s.blk.crp.tCore } } (begun s c k))))
      ∧ (bit (ctxOf s k.ctx).watch.flags 0 = true → windowRgns (openW s) k.ctx ≠ [] →
        Leaves (.windowOpen c env) s (beginEncode env k.ctx ((windowRgns (openW s) k.ctx).foldl
          (fun w r => startEncode env k.ctx c r.1 w)
          (setCtx k.ctx { ctxOf s k.ctx with watch := { (ctxOf s k.ctx).watch with phase := .encoding, winCmd := some c } }
            (begun s c k))))))
  ∧ (∀ (s : State) (c : CmdId) (env : Env) (k : Cmd), Issued s c env k 0x22 →
      ((ctxOf s k.ctx).watch.phase = .skip →
        Leads (.windowOpen c env) s (fun t => Finished s t c k { status := .nonfinite } (begun s c k)))
      ∧ ((ctxOf s k.ctx).watch.phase ∉ [Phase.polled, .skip] →
        Leads (.windowOpen c env) s (fun t => Finished s t c k { status := .watchState, info := 0x41 } (begun s c k))))
  ∧ (∀ (s : State) (c : CmdId) (env : Env) (k : Cmd), Runs s c k → opOf k = 0x22 → (ctxOf s k.ctx).watch.phase = .encoding →
      Leaves (.windowOpen c env) s (encodeEnd env k.ctx (encodeStep env k.ctx (openW s))))
  ∧ (∀ (s : State) (x : Nat) (env : Env),
      ((ctxOf s x).watch.phase = .encoding → Leaves (.encodingComplete x env) s (encodeEnd env x (endEncodes x (openW s))))
      ∧ ((ctxOf s x).watch.phase ≠ .encoding →
        Blocks (.encodingComplete x env) s s.blk ∧ Blocks (.encodingTimeout x env) s s.blk))
  ∧ ∀ (s : State) (x : Nat) (env : Env), (ctxOf s x).watch.phase = .encoding →
      (∃ st ∈ encodesOf (openW s) x, allDescs (openW s) st = false ∨ (st.endSent = true ∧ allEnds (openW s) st = false)) →
      Leaves (.encodingTimeout x env) s (failEncode env x { status := .timeout } (openW s))

/-- O20. POLL and BARRIER packets. An accepted POLL or BARRIER packet of an open instance is acknowledged; a round's flag
word is held for its sender and round and the exchange goes on; a group Bearing is the member's first contribution and
the close goes on; ABANDON and TORN notices act on the instance they name. Collective packets that waited are looked at
again. When the actions of a notice take place is log entry 46. -/
def Obligations.WatchPackets : Prop :=
  (∀ (s : State) (rx : Rx) (env : Env) (pk : Packet) (w : W), accepted (openW s) rx 4 (fun _ => true) = some (pk, w) →
      Leaves (.poll rx env) s (collWaiting env (onInstance pk (fun x w => pollGo env x (holdRound x false pk w)) w)))
  ∧ (∀ (s : State) (rx : Rx) (env : Env) (pk : Packet) (w : W),
      accepted (openW s) rx 5 (fun p => fld p 0xF 1 == 0 || decide (3 < fld p 0xF 1)) = some (pk, w) →
      Leaves (.barrier rx env) s (collWaiting env (onInstance pk (fun x w => closeGo env x (holdRound x true pk w)) w)))
  ∧ (∀ (s : State) (rx : Rx) (env : Env) (pk : Packet) (w : W), accepted (openW s) rx 5 (fun p => fld p 0xF 1 == 1) = some (pk, w) →
      Leaves (.groupBearing rx env) s (collWaiting env (onInstance pk (fun x w => closeGo env x (modWatch x (fun k =>
        if k.contribs.any (fun c => c.dgn == pk.hdr.group.toNat && c.member == pk.hdr.member.toNat % 16) then k
        else { k with contribs := k.contribs ++ [{ dgn := pk.hdr.group.toNat, member := pk.hdr.member.toNat % 16
                                                   value := BitVec.ofNat 64 (fld pk.payload 0x20 8) }] }) w)) w)))
  ∧ (∀ (s : State) (rx : Rx) (env : Env) (pk : Packet) (w : W), accepted (openW s) rx 5 (fun p => fld p 0xF 1 == 2) = some (pk, w) →
      Leaves (.abandonNotice rx env) s (collWaiting env (onNotice env 2 pk w)))
  ∧ ∀ (s : State) (rx : Rx) (env : Env) (pk : Packet) (w : W), accepted (openW s) rx 5 (fun p => fld p 0xF 1 == 3) = some (pk, w) →
      Leaves (.tornNotice rx env) s (collWaiting env (onNotice env 3 pk w))

/-- O21. Bearing seeds, reads and sweeps. A word of an open seed is written and a shut one is left with an event.
BEARING_READ answers the running Bearing with the status word of the region, or the member's contribution, and changes
nothing. BEARING_SWEEP starts a sweep of the region from its base for the command; the period starts one of its own on
a region that is swept and idle, and reads the next line of one that sweeps into its sum. A sweep whose sum matches the
running Bearing is counted, recorded with its time and marked MATCH; one whose sum differs is marked BAD and raises
the global interrupt; its region's running Bearing stays. -/
def Obligations.BearingsReadAndSwept : Prop :=
  (∀ (s : State) (g : Nat) (hi : Bool) (v : Word), portsOpen (openW s) = true →
      (g < 256 → seedOpen (openW s) g = true →
        Blocks (.bseedWrite g hi v) s (withGroup s.blk g (if hi then { groupOf s g with seedHi := v } else { groupOf s g with seedLo := v })))
      ∧ ((256 ≤ g ∨ seedOpen (openW s) g = false) →
        Leaves (.bseedWrite g hi v) s (writeIgnored (0xD8000 + 16 * g + 8 * b2n hi) v (openW s))))
  ∧ (∀ (s : State) (c : CmdId) (env : Env) (k : Cmd) (r : Region), Issued s c env k 0x50 → r = rgnOf s (arg k 0x10 2) →
      r.state ≠ .free → r.ctx = k.ctx → codedKind r.kind = true →
      (arg k 0x12 1 = 0 → Leads (.bearingReadRunning c env) s (fun t =>
        Finished s t c k { result := toLe 8 r.brun.toNat ++ toLe 8 (bstat r) } (begun s c k)))
      ∧ (arg k 0x12 1 = 1 → r.grp.isSome = true → Leads (.bearingReadMember c env) s (fun t =>
        Finished s t c k { result := toLe 8 (contribution (begun s c k) r.ctx (r.grp.getD 0)).1.toNat ++ zeros 8 } (begun s c k))))
  ∧ (∀ (s : State) (c : CmdId) (env : Env) (k : Cmd), Issued s c env k 0x51 → sweepCheck (begun s c k) k = none →
      (rgnOf s (arg k 0x10 2)).sweepCmd = none → sweepable (begun s c k) (arg k 0x10 2) = true →
      (arg k 0x12 1 = 0 → Leaves (.bearingSweepStart c env) s
        (setRgn (arg k 0x10 2) { rgnOf s (arg k 0x10 2) with sweeping := true, adopting := false, sweepS := 0, front := 0, sweepCmd := some c }
          { begun s c k with b := { (begun s c k).b with fetches := s.blk.fetches.filter (fun o => o.why != .sweep (arg k 0x10 2)) } }))
      ∧ (arg k 0x12 1 = 1 → Leaves (.bearingSweepAdopt c env) s
        (setRgn (arg k 0x10 2) { rgnOf s (arg k 0x10 2) with sweeping := true, adopting := true, sweepS := 0, front := 0, sweepCmd := some c }
          { begun s c k with b := { (begun s c k).b with fetches := s.blk.fetches.filter (fun o => o.why != .sweep (arg k 0x10 2)) } })))
  ∧ (∀ (s : State) (r : Nat) (env : Env), (rgnOf s r).sweeping = false → (rgnOf s r).sweepEn = true → sweepable (openW s) r = true →
      Blocks (.bearingSweepPeriod r env) s
        (withRgn s.blk r { rgnOf s r with sweeping := true, adopting := false, sweepS := 0, front := 0, sweepCmd := none }))
  ∧ (∀ (s : State) (r : Nat) (env : Env) (line : Nat), (rgnOf s r).sweeping = true → sweepable (openW s) r = true → Calm s env →
      (rgnOf s r).front < rgnBytes (rgnOf s r) → s.blk.fetches = [] → line = (rgnOf s r).base + (rgnOf s r).front →
      linesReadable (openW s) line 64 = true →
      Leads (.bearingSweepPeriod r env) s (fun t => t.mem = s.mem
        ∧ t.blk = { s.blk with
            cnt := t.blk.cnt, mdOut := t.blk.mdOut
            rgns := tset s.blk.rgns r
              { rgnOf s r with sweepS := (rgnOf s r).sweepS
                                 ^^^ bearingOf (grpOf (openW s) (rgnOf s r)) 8 line (getBytes (openW s) line 64)
                               front := (rgnOf s r).front + 64 } }))
  ∧ ∀ (s : State) (r : Nat) (env : Env), (rgnOf s r).sweeping = true → rgnBytes (rgnOf s r) ≤ (rgnOf s r).front →
      sweepable (openW s) r = true → (rgnOf s r).sweepCmd = none → (rgnOf s r).adopting = false →
      ((rgnOf s r).sweepS ≠ (rgnOf s r).brun → Leads (.sweepComplete r env) s (fun t =>
        t.mem = s.mem ∧ t.blk = { s.blk with rgns := t.blk.rgns, ctxs := t.blk.ctxs, tlm := t.blk.tlm } ∧ t.blk.tlm.girq = true
        ∧ t.blk.rgns = tset s.blk.rgns r { rgnOf s r with sweeping := false, adopting := false, sweepCmd := none, matched := false
                                                          bswp := (rgnOf s r).sweepS, btime := s.blk.crp.tCore, bad := true }))
      ∧ ((rgnOf s r).sweepS = (rgnOf s r).brun → Leads (.sweepComplete r env) s (fun t =>
        t.mem = s.mem ∧ t.blk = { s.blk with rgns := t.blk.rgns, ctxs := t.blk.ctxs }
        ∧ t.blk.rgns = tset s.blk.rgns r { rgnOf s r with sweeping := false, adopting := false, sweepCmd := none, matched := true
                                                          bswp := (rgnOf s r).sweepS, btime := s.blk.crp.tCore
                                                          sweeps := sat 0xFFFF ((rgnOf s r).sweeps + 1) }))

/-- O22. A host request goes to memory, or is denied. A read, write, masked write or atomic of host memory that
classification forwards, at an idle slice whose port is open, is taken: the tag is outstanding, each of its lines is in
the hazard table with this request under way, and the same request is presented downstream under the slice's next tag. A
write of a whole coded line is taken as a coded write: it becomes a job of its line, which reads the old line first.
Nothing else of the block changes but counters, the grants and the list of requests presented; memory is unchanged. One
that classification denies is answered DENIED on every line, counted, with FENCE_RD or FENCE_WR set; memory is unchanged
and nothing goes downstream. The arbiter at reset is log entry 89, the ctx of a coded write's accesses log entry 90, the
entries of a request log entry 91. -/
def Obligations.HostRequestsAreForwarded : Prop :=
  (∀ (s : State) (p op : Nat) (i : Instr) (r : MpReq),
    (i, op) ∈ [(Instr.mpRead p r, 0), (.mpWrite p r, 1), (.mpWriteMasked p r, 2), (.mpAtomic p r, 3)] →
    portsOpen (openW s) = true → p < s.build.nmp → (sliceOf s p).quiesce = false → (sliceOf s p).noClock = false →
    (sliceOf s p).chan = [] → (sliceOf s p).reqs = [] → (sliceOf s p).md = [] → (sliceOf s p).haz = [] → (sliceOf s p).merge = [] →
    (sliceOf s p).waitq = [] → s.blk.fetches = [] →
    r.addr.toNat % 64 = 0 → r.addr.toNat % 256 + 64 * (r.len.toNat + 1) ≤ 256 → (op = 3 → r.len = 0) →
    treat (openW s) op r.addr.toNat = .forward →
    (op ≠ 0 → ∀ j, j ≤ r.len.toNat →
      chunkHeld (openW s) (r.addr.toNat + 64 * j) = false ∧ lineRebuilt (openW s) (r.addr.toNat + 64 * j) = false
      ∧ ∀ g, rgnAt (openW s) (r.addr.toNat + 64 * j) = some g → pastDisable (openW s) g.2 = false) →
    Leads i s (fun t => t.mem = s.mem ∧ t.blk = { withSlice s.blk p
      { sliceOf s p with
        cwStall := false
        reqs := [{ tag := r.tag.toNat, op := op, req := r, lines := r.len.toNat + 1
                   codes := List.replicate (r.len.toNat + 1) none, data := List.replicate (r.len.toNat + 1) [] }]
        haz := (List.range (r.len.toNat + 1)).map (fun j =>
          { line := r.addr.toNat + 64 * j, q := [{ job := .fwd r.tag.toNat, write := op != 0, started := true }] })
        md := [{ tag := (sliceOf s p).nextTag, addr := r.addr.toNat, lines := r.len.toNat + 1, op := op, aop := r.aop
                 ctx := r.ctx.toNat, qos := r.qos.toNat, data := r.data, mask := r.mask, who := .host r.tag.toNat }]
        nextTag := ((sliceOf s p).nextTag + 1) % 4096, lastCls := .host
        grants := ((sliceOf s p).grants + r.len.toNat + 1) % 400 } with cnt := t.blk.cnt, mdOut := t.blk.mdOut }))
  ∧ (∀ (s : State) (p : Nat) (r : MpReq),
    portsOpen (openW s) = true → p < s.build.nmp → (sliceOf s p).quiesce = false → (sliceOf s p).noClock = false →
    (sliceOf s p).chan = [] → (sliceOf s p).reqs = [] → (sliceOf s p).md = [] → (sliceOf s p).haz = [] → (sliceOf s p).merge = [] →
    (sliceOf s p).waitq = [] → (sliceOf s p).jobs = [] → s.blk.fetches = [] → r.addr.toNat % 64 = 0 → r.len = 0 →
    treat (openW s) 1 r.addr.toNat = .coded → lineMode (openW s) r.addr.toNat = .coded →
    chunkHeld (openW s) r.addr.toNat = false → lineRebuilt (openW s) r.addr.toNat = false →
    Leads (.mpWrite p r) s (fun t => t.mem = s.mem ∧ t.blk = { withSlice s.blk p
      { sliceOf s p with
        cwStall := false
        reqs := [{ tag := r.tag.toNat, op := 1, req := r, lines := 1, codes := [none], data := [[]] }]
        haz := [{ line := r.addr.toNat, q := [{ job := .job (sliceOf s p).nextJob, write := true, started := true }] }]
        jobs := [{ id := (sliceOf s p).nextJob, line := r.addr.toNat, who := .host r.tag.toNat 0, ctx := r.ctx.toNat, step := .reading
                   bytes := bytesAt r.data 0 64, mask := BitVec.allOnes 64, qos := r.qos.toNat }]
        nextJob := (sliceOf s p).nextJob + 1
        md := [{ tag := (sliceOf s p).nextTag, addr := r.addr.toNat, lines := 1, op := 0, ctx := r.ctx.toNat, qos := r.qos.toNat
                 who := .job p (sliceOf s p).nextJob }]
        nextTag := ((sliceOf s p).nextTag + 1) % 4096, lastCls := .host
        grants := ((sliceOf s p).grants + 1) % 400 } with cnt := t.blk.cnt, mdOut := t.blk.mdOut }))
  ∧ ∀ (s : State) (p op : Nat) (i : Instr) (r : MpReq),
    (i, op) ∈ [(Instr.mpRead p r, 0), (.mpWrite p r, 1), (.mpWriteMasked p r, 2), (.mpAtomic p r, 3)] →
    portsOpen (openW s) = true → p < s.build.nmp → (sliceOf s p).quiesce = false → (sliceOf s p).noClock = false →
    (sliceOf s p).chan = [] → (∀ x ∈ (sliceOf s p).reqs, x.tag ≠ r.tag.toNat) → r.addr.toNat % 64 = 0 →
    r.addr.toNat % 256 + 64 * (r.len.toNat + 1) ≤ 256 → (op = 3 → r.len = 0) → treat (openW s) op r.addr.toNat = .denied →
    Leads i s (fun t => t.mem = s.mem ∧ (sliceOf t p).md = (sliceOf s p).md
      ∧ (sliceOf t p).err = (sliceOf s p).err ||| (if op = 0 then 16 else 32)
      ∧ (sliceOf t p).cntFence = (sliceOf s p).cntFence + 1
      ∧ ∃ d, t.blk.mpRsps = { port := p, tag := r.tag.toNat, codes := List.replicate (r.len.toNat + 1) .denied, data := d }
                              :: s.blk.mpRsps)

/-- O23. An answer to a forwarded request. When memory answers a one-line read, write or masked write of a host, the
request, its downstream tag and its line are free again and the response goes upstream with the code: OK returns a
read's 64 bytes, and stores a write's bytes under its mask into that line and no other; ERROR stores nothing and sets
MD_ERROR. Any other answer of one code a line to a request outstanding goes to the one who asked, and what waits for the
port goes on; one to no request, or with another count of codes, is discarded. -/
def Obligations.MemoryAnswersTheHost : Prop :=
  (∀ (s : State) (p : Nat) (m : MdReq) (r : HostReq), memCanonical s → s.blk.ras.inj = [] →
    nothingWaits (openW s) = true → (sliceOf s p).waitq = [] → (sliceOf s p).need = [] → (sliceOf s p).chan = [] →
    (sliceOf s p).reqs = [r] → (sliceOf s p).md = [m] →
    (sliceOf s p).haz = [{ line := lineOf r.req.addr.toNat, q := [{ job := .fwd r.tag, write := r.op != 0, started := true }] }] →
    m.who = .host r.tag → m.lines = 1 → r.codes = [none] → r.data = [[]] → r.op ≤ 2 →
    Leads (.mdResponse p m.tag [.ok]) s (fun t =>
      t.blk = { withSlice s.blk p { sliceOf s p with reqs := [], md := [], haz := [] } with
                mpRsps := { port := p, tag := r.tag, codes := [.ok]
                            data := if r.op = 0 then getBytes (openW s) (lineOf r.req.addr.toNat) 64 else [] } :: s.blk.mpRsps }
      ∧ (r.op = 0 → t.mem = s.mem)
      ∧ SameOutside s t (lineOf r.req.addr.toNat) 64
      ∧ (r.op = 1 → ∀ i, i < 64 → byteAt t (lineOf r.req.addr.toNat + i) = r.req.data.getD i 0)
      ∧ (r.op = 2 → ∀ i, i < 64 → byteAt t (lineOf r.req.addr.toNat + i)
          = if r.req.mask.getLsbD i then r.req.data.getD i 0 else byteAt s (lineOf r.req.addr.toNat + i)))
    ∧ Leads (.mdResponse p m.tag [.error]) s (fun t => t.mem = s.mem
        ∧ (sliceOf t p).reqs = [] ∧ (sliceOf t p).md = [] ∧ (sliceOf t p).haz = []
        ∧ (sliceOf t p).err = (sliceOf s p).err ||| 1
        ∧ ∃ d, t.blk.mpRsps = { port := p, tag := r.tag, codes := [.error], data := d } :: s.blk.mpRsps))
  ∧ ∀ (s : State) (p tag : Nat) (codes : List Rsp),
    ((∀ m ∈ (sliceOf s p).md, m.tag ≠ tag) → Blocks (.mdResponse p tag codes) s s.blk)
    ∧ ∀ m, (sliceOf s p).md.find? (fun m => m.tag == tag) = some m →
      (codes.length ≠ m.lines → Blocks (.mdResponse p tag codes) s s.blk)
      ∧ (codes.length = m.lines → Leaves (.mdResponse p tag codes) s (resumeWork (serve p (mdAnswer p m codes
          (setSlice p { sliceOf s p with md := (sliceOf s p).md.filter (fun x => x.tag != tag) } (openW s))))))

/-- O24. A request that breaks the rules of a request answers ERROR. Where a slice takes requests and none waits before it: a read, write, masked
write or atomic that does not lie within one 256 B block, an ATOMIC of more than one line, and one whose address is no
multiple of 64 are each answered ERROR on every line; nothing of it goes downstream, no byte of memory changes, and
ALIGN is set in MPS_ERR of the slice. -/
def Obligations.BrokenRequestsAnswerError : Prop :=
  ∀ (s : State) (p op : Nat) (i : Instr) (r : MpReq),
    (i, op) ∈ [(Instr.mpRead p r, 0), (.mpWrite p r, 1), (.mpWriteMasked p r, 2), (.mpAtomic p r, 3)] →
    portsOpen (openW s) = true → p < s.build.nmp → (sliceOf s p).quiesce = false → (sliceOf s p).noClock = false →
    (sliceOf s p).chan = [] → 256 < r.addr.toNat % 256 + 64 * (r.len.toNat + 1) ∨ (op = 3 ∧ r.len ≠ 0) ∨ r.addr.toNat % 64 ≠ 0 →
    Leads i s (fun t => t.mem = s.mem ∧ (sliceOf t p).md = (sliceOf s p).md ∧ (sliceOf t p).err.getLsbD 6 = true
      ∧ ∃ d, t.blk.mpRsps = { port := p, tag := r.tag.toNat, codes := List.replicate (r.len.toNat + 1) .error, data := d }
                              :: s.blk.mpRsps)

/-- O25. A merge entry that has reached its age is flushed. An entry of the merge buffer that stands alone on an idle slice
leaves the buffer at its timeout, is counted, and becomes a job of its line that reads the line first where writes of it
are coded, and writes its enabled bytes under their mask where they are plain; memory is unchanged until the answer.
Without an entry for the line nothing happens. The ctx and qos of a flush are log entry 90. -/
def Obligations.MergeEntriesFlush : Prop :=
  (∀ (s : State) (p : Nat) (m : Merge), (sliceOf s p).merge = [m] → (sliceOf s p).haz = [] → (sliceOf s p).jobs = [] →
    (sliceOf s p).md = [] → (sliceOf s p).waitq = [] → s.blk.fetches = [] → (sliceOf s p).quiesce = false → (sliceOf s p).noClock = false →
    lineMode (openW s) m.line ≠ .held → chunkHeld (openW s) m.line = false → lineRebuilt (openW s) m.line = false →
    Leads (.mergeFlushTimeout p m.line) s (fun t => t.mem = s.mem ∧ t.blk = { withSlice s.blk p
      { sliceOf s p with
        merge := [], cntMerge := (sliceOf s p).cntMerge + 1
        haz := [{ line := m.line, q := [{ job := .job (sliceOf s p).nextJob, write := true, started := true }] }]
        jobs := [{ id := (sliceOf s p).nextJob, line := m.line, who := .merge m.ctx, ctx := m.ctx, bytes := m.data, mask := m.mask
                   step := if lineMode (openW s) m.line = .coded then .reading else .writing }]
        nextJob := (sliceOf s p).nextJob + 1
        md := [if lineMode (openW s) m.line = .coded then
                 { tag := (sliceOf s p).nextTag, addr := m.line, lines := 1, op := 0, ctx := m.ctx, who := .job p (sliceOf s p).nextJob }
               else
                 { tag := (sliceOf s p).nextTag, addr := m.line, lines := 1, op := 2, ctx := m.ctx, data := m.data
                   mask := m.mask.setWidth 256, who := .job p (sliceOf s p).nextJob }]
        nextTag := ((sliceOf s p).nextTag + 1) % 4096, lastCls := .host
        grants := ((sliceOf s p).grants + 1) % 400 } with cnt := t.blk.cnt, mdOut := t.blk.mdOut }))
  ∧ ∀ (s : State) (p line : Nat), (∀ m ∈ (sliceOf s p).merge, m.line ≠ line) → Blocks (.mergeFlushTimeout p line) s s.blk

/-- O26. Quiescing a slice. QUIESCE of a slice that is not quiescing sets the bit, flushes the merge buffer and closes the
open HOST units; with neither it sets the bit and nothing else, and set already it does nothing. Written 0, or after its
time, the bit is clear again: with the clock stopped a quiesced slice stays without clock, and goes on when the clock
has resumed; without it the end of the time and the clock do nothing. How the accesses that wait on a quiesced slice are
answered is log entry 107. -/
def Obligations.SlicesQuiesce : Prop :=
  (∀ (s : State) (p : Nat), portsOpen (openW s) = true → p < s.build.nmp →
      ((sliceOf s p).quiesce = true → Blocks (.quiesce p) s s.blk)
      ∧ ((sliceOf s p).quiesce = false →
        Leaves (.quiesce p) s (quiesceOn p (openW s))
        ∧ ((sliceOf s p).merge = [] → (sliceOf s (pathOf (openW s) p)).hostUnits = [] →
          Blocks (.quiesce p) s (withSlice s.blk p { sliceOf s p with quiesce := true }))))
  ∧ (∀ (s : State) (p : Nat) (clock : Bool),
      ((sliceOf s p).quiesce = false → Blocks (.quiesceExpired p clock) s s.blk)
      ∧ ((sliceOf s p).quiesce = true →
        Leaves (.quiesceExpired p clock) s (quiesceOff p clock (logEv 0x0101 0 p 0 [0, p] (openW s)))
        ∧ (portsOpen (openW s) = true → p < s.build.nmp →
          Leaves (.quiesceCleared p clock) s (quiesceOff p clock (openW s))
          ∧ (isQuiesced (sliceOf s p) = true → Leads (.quiesceCleared p false) s (fun t => t.mem = s.mem
              ∧ (sliceOf t p).quiesce = false ∧ (sliceOf t p).noClock = true
              ∧ t.blk = { s.blk with slices := t.blk.slices, crp := t.blk.crp, tlm := t.blk.tlm })))))
  ∧ ∀ (s : State) (p : Nat),
      ((sliceOf s p).noClock = false → Blocks (.memClockResumed p) s s.blk)
      ∧ ((sliceOf s p).noClock = true →
        Leaves (.memClockResumed p) s (wakeSlices (setSlice p { sliceOf s p with noClock := false } (noteClock p true (openW s)))))

/-- O27. SERVE. SERVE written 1 in PASS with a HELM image and keys, a memory port and a link port that work, enters
SERVICE; written 0 with every group FREE and no open instance, it leaves SERVICE for PASS, closing HOST units,
flushing merge buffers and ending kernel runs ABORTED. Each is logged. Where its conditions do not hold, the write is
ignored with an event. -/
def Obligations.ServingStartsAndStops : Prop :=
  (∀ s : State, s.blk.glb.state = .pass → s.blk.glb.helmOk = true → s.blk.sec.keyOk = true →
      (∃ p, p < s.build.nmp ∧ s.blk.glb.stfail1.getLsbD p = false) → (∃ l, l < s.build.nlp ∧ lpWorks (openW s) l = true) →
      Leads .serveOn s (fun t => t.mem = s.mem ∧ t.blk.glb = { s.blk.glb with state := .service, serve := true }
        ∧ t.blk = { s.blk with glb := t.blk.glb, sec := t.blk.sec, tlm := t.blk.tlm }
        ∧ t.blk.sec = { s.blk.sec with lastState := .service }))
  ∧ (∀ (s : State) (env : Env), s.blk.glb.state ≠ .reset →
      (mayServe (openW s) = false → Leaves .serveOn s (writeIgnored 0x10 1 (openW s)))
      ∧ (mayStopServing (openW s) = false → Leaves (.serveOff env) s (writeIgnored 0x10 0 (openW s))))
  ∧ ∀ (s : State) (env : Env) (w : W), s.blk.glb.state = .service → (∀ g ∈ s.blk.grps, g.2.state = .free) →
      (∀ c ∈ s.blk.ctxs, c.2.watch.phase = .idle) →
      w = leaveService env .pass { openW s with b := { s.blk with glb := { s.blk.glb with serve := false } } } →
      Leaves (.serveOff env) s (logOther 0x0C 0 0 0 [0x10, 0, stateCode w.b.glb.state] w)
      ∧ (s.blk.eng.runs = [] → s.blk.eng.ses = [] →
        (∀ e ∈ s.blk.slices, e.2.merge = [] ∧ e.2.hostUnits = [] ∧ e.2.haz = [] ∧ e.2.need = [] ∧ e.2.chan = []) →
        Leads (.serveOff env) s (fun t => t.mem = s.mem ∧ t.blk.glb = { s.blk.glb with state := .pass, serve := false }
          ∧ t.blk = { s.blk with glb := t.blk.glb, sec := t.blk.sec, tlm := t.blk.tlm }))

/-- O28. Draining and re-admitting a state engine. DRAIN written 1 drains an idle SE at once and lets a running one end
its chunk, also while a self-test of re-admission runs; DRAIN written 0 of a drained SE that did not drain itself
starts that self-test, and is ignored else. An SE that passes is IDLE again, or DRAINED where a drain was asked for
meanwhile; one that fails stays drained; one under no self-test, or that still has a chunk, is left as it is. Only that
SE changes, and the event log where it fails. -/
def Obligations.StateEnginesDrain : Prop :=
  ∀ (s : State) (e : Nat), portsOpen (openW s) = true → e < s.build.nse →
    Blocks (.seDrain e) s (withSe s.blk e
      { seOf s e with drain := true, readmit := false, state := if (seOf s e).state = .idle then .drained else (seOf s e).state })
    ∧ ((seOf s e).drain = true → (seOf s e).err.getLsbD 3 = false → (seOf s e).state ≠ .absent →
      Blocks (.seReadmit e) s (withSe s.blk e { seOf s e with testing := true, readmit := true }))
    ∧ ((seOf s e).drain = false ∨ (seOf s e).err.getLsbD 3 = true ∨ (seOf s e).state = .absent → Blocks (.seReadmit e) s s.blk)
    ∧ ((seOf s e).testing = true → (seOf s e).run = none →
      ((seOf s e).drain = true → (seOf s e).readmit = false →
        Blocks (.seSelfTestRerunDone e true) s (withSe s.blk e { seOf s e with testing := false, readmit := false, state := .drained }))
      ∧ ((seOf s e).drain = false ∨ (seOf s e).readmit = true →
        Blocks (.seSelfTestRerunDone e true) s
          (withSe s.blk e { seOf s e with testing := false, readmit := false, drain := false, state := .idle }))
      ∧ Leads (.seSelfTestRerunDone e false) s (fun t => t.mem = s.mem
          ∧ t.blk = { withSe s.blk e { seOf s e with testing := false, readmit := false, drain := true, state := .drained } with
                      tlm := t.blk.tlm }))
    ∧ ((seOf s e).testing = false ∨ (seOf s e).run.isSome = true → ∀ ok, Blocks (.seSelfTestRerunDone e ok) s s.blk)

/-- O29. Beacons, suspicion and loss of peers. A period sends every peer a beacon, counts the beacons and updates the
entries of the peer table; where no beacon may be sent it updates the entries alone. An accepted beacon of a peer with
the epoch recorded, or none, records epoch, liveness and port, and a SUSPECT peer is ALIVE again; one of another epoch
loses the peer, and of a LOST peer the port alone is noted. Three periods without a beacon make an ALIVE peer SUSPECT,
in the groups that hold it as well; eight lose a peer that is ALIVE or SUSPECT, as a down indication does, with DN_SEEN
of its port. AFFINITY_MOVE ends the period of a peer whose affinity moves at the end of it, and changes no other. -/
def Obligations.LanternKeepsPeers : Prop :=
  (∀ s : State,
      (canSend (openW s) 0 1 = true → s.blk.glb.helmStopped = false →
        Leads .lanternPeriod s (fun t => t.mem = s.mem
          ∧ t.blk.lnk.peers = s.blk.lnk.peers.map (fun p => (p.1, updateAff p.2))
          ∧ t.blk.lnk.beacons = s.blk.lnk.beacons + s.blk.lnk.peers.length
          ∧ t.blk = { s.blk with lnk := t.blk.lnk, cnt := t.blk.cnt, ras := t.blk.ras, tlm := t.blk.tlm }))
      ∧ (canSend (openW s) 0 1 = false ∨ s.blk.glb.helmStopped = true → Blocks .lanternPeriod s
          { s.blk with lnk := { s.blk.lnk with peers := s.blk.lnk.peers.map (fun p => (p.1, updateAff p.2)) } }))
  ∧ (∀ (s : State) (c : Coord), Blocks (.affinityMove c) s
      { s.blk with lnk := { s.blk.lnk with
          peers := s.blk.lnk.peers.map (fun p =>
            if p.2.coord == c then (p.1, if affMoves p.2 then updateAff p.2 else p.2) else p) } })
  ∧ (∀ (s : State) (rx : Rx) (env : Env) (pk : Packet) (w v : W) (i : Nat) (p : Peer) (e : Word),
      rx.pk.hdr.opcode = 1 → receive rx (openW s) = (some pk, w) → pk.hdr.opcode = 1 → peerOf w pk.hdr.src = some (i, p) →
      e = BitVec.ofNat 64 (fld pk.payload 8 8) →
      v = modPeer pk.hdr.src (fun x => { x with
            observed := some (match p.observed with | some o => min o rx.port | none => rx.port) }) w →
      (beaconIgnored w i = true → Leaves (.lantern rx env) s w)
      ∧ (beaconIgnored w i = false → p.state = .lost → Leaves (.lantern rx env) s v)
      ∧ (beaconIgnored w i = false → p.state ≠ .lost → p.epoch = none ∨ p.epoch = some e → Leaves (.lantern rx env) s
          (if p.state = .suspect then
            setPeer pk.hdr.src .alive .suspect .alive (modPeer pk.hdr.src (fun x => { x with epoch := some e, counting := true }) v)
           else modPeer pk.hdr.src (fun x => { x with epoch := some e, counting := true }) v))
      ∧ (∀ old, beaconIgnored w i = false → p.state ≠ .lost → p.epoch = some old → old ≠ e →
          Leaves (.lantern rx env) s (loseCoord env pk.hdr.src 3 v)))
  ∧ (∀ (s : State) (c : Coord) (i : Nat) (p : Peer), peerOf (openW s) c = some (i, p) → p.counting = true → p.state = .alive →
      Leads (.lanternSuspect c) s (fun t => t.mem = s.mem
        ∧ t.blk = { s.blk with lnk := { s.blk.lnk with peers := s.blk.lnk.peers.map (fun x =>
                                          if x.2.coord == c then (x.1, { x.2 with state := .suspect }) else x) }
                               grps := s.blk.grps.map (fun g => (g.1, { g.2 with members := g.2.members.map (fun m =>
                                          if m.coord == c && m.state == .alive then { m with state := .suspect } else m) }))
                               tlm := t.blk.tlm }))
  ∧ (∀ (s : State) (c : Coord) (env : Env), (∀ i p, peerOf (openW s) c = some (i, p) → p.counting = false ∨ p.state = .lost) →
      Blocks (.lanternSuspect c) s s.blk ∧ Blocks (.lanternLost c env) s s.blk)
  ∧ ∀ (s : State) (c : Coord) (env : Env) (port i : Nat) (p : Peer), peerOf (openW s) c = some (i, p) →
      p.state = .alive ∨ p.state = .suspect →
      (p.counting = true → beaconIgnored (openW s) i = false →
        Leaves (.lanternLost c env) s (loseCoord env c 1 (openW s)))
      ∧ (port < s.build.nlp → Leaves (.downIndication port c env) s
          (loseCoord env c 2 { openW s with b := withLp s.blk port { lpOf s port with dnSeen := true } })
        ∧ (s.build.nlp ≤ port → Blocks (.downIndication port c env) s s.blk))

/-- O30. The off and up signals and LNK_CTL. lp_link_up of a port is taken as it is. lp_tx_off of a port, LINK_EN and
MCAST_EN are written, and then what waited goes on; nothing else changes while no packet waits. MCAST_EN written 1 on a
build without multicast is ignored with an event, and LINK_EN stays where the Helm failed its self-test. A write comes
only while the window takes writes, and a signal of a port the build has not does nothing. -/
def Obligations.LinkSignalsAndEnables : Prop :=
  (∀ (s : State) (port : Nat) (up : Bool), port < s.build.nlp →
      Blocks (.lpLinkUp port up) s (withLp s.blk port { lpOf s port with linkUp := up }))
  ∧ (∀ (s : State) (port : Nat) (up : Bool) (off : BitVec 8), s.build.nlp ≤ port →
      Blocks (.lpLinkUp port up) s s.blk ∧ Blocks (.lpTxOff port off) s s.blk)
  ∧ (∀ (s : State) (port : Nat) (off : BitVec 8) (b : Blk), port < s.build.nlp →
      b = withLp s.blk port { lpOf s port with txOff := off.setWidth 6 } →
      Leaves (.lpTxOff port off) s (drainLinks { openW s with b := b }) ∧ (Unsent s → Blocks (.lpTxOff port off) s b))
  ∧ (∀ (s : State) (en : Bool), portsOpen (openW s) = false → Blocks (.linkEnable en) s s.blk ∧ Blocks (.mcastEnable en) s s.blk)
  ∧ (∀ (s : State) (en : Bool) (b : Blk), portsOpen (openW s) = true → (s.blk.lnk.mcastEn = true → s.build.mcastCap = true) →
      b = { s.blk with lnk := { s.blk.lnk with en := if s.blk.glb.stfail1.getLsbD 59 then s.blk.lnk.en else en } } →
      Leaves (.linkEnable en) s (drainLinks { openW s with b := b }) ∧ (Unsent s → Blocks (.linkEnable en) s b))
  ∧ (∀ (s : State) (en : Bool) (b : Blk), portsOpen (openW s) = true → (en = true → s.build.mcastCap = true) →
      b = { s.blk with lnk := { s.blk.lnk with mcastEn := en } } →
      Leaves (.mcastEnable en) s (drainLinks { openW s with b := b }) ∧ (Unsent s → Blocks (.mcastEnable en) s b))
  ∧ ∀ s : State, portsOpen (openW s) = true → s.build.mcastCap = false →
      Leaves (.mcastEnable true) s (writeIgnored 0x70000 (BitVec.ofNat 64 (b2n s.blk.lnk.en + 2)) (openW s))

/-- O31. Packets lost by time, repeats, and ACK. When a message has waited its time for packets of a stream, every packet up
to the one it names that has not arrived is lost: the stream's expected value is behind it, the loss is counted, SEQ_GAP
is set, and what waited goes on; where nothing waits for them the time does nothing. A VC0 message that is not
acknowledged is sent again under a new sequence number, which counts for the END notice of its unit's attempt; an ACK of
it takes it from the list and gives its unit's stage the member's acknowledgement, and another ACK does nothing more.
Where the stream has no expected value the named packet alone is lost (log entry 113). -/
def Obligations.LostPacketsAndRepeats : Prop :=
  (∀ (s : State) (src : Coord) (vc : Nat) (mcast : Option Nat) (n : Nat) (env : Env), isPeer (openW s) src = true →
      awaited (openW s) src vc mcast n = true →
      Leaves (.seqLossTimeout src vc mcast n env) s (afterDelta env (loseUpTo src vc mcast n (openW s)))
      ∧ ∀ (st : RxStream) (e : Nat), s.blk.lnk.rxStreams = [st] → st.src = src → st.mcast = mcast → st.vc = vc → st.exp = some e →
          seqAhead e ((n + 1) % 2 ^ 24) < 2 ^ 23 → 0 < seqAhead e ((n + 1) % 2 ^ 24) →
          (loseUpTo src vc mcast n (openW s)).b.lnk.rxStreams
            = [{ st with exp := some ((n + 1) % 2 ^ 24), lost := st.lost ++ seqRange e (seqAhead e ((n + 1) % 2 ^ 24)) }]
          ∧ (loseUpTo src vc mcast n (openW s)).b.lnk.err = s.blk.lnk.err ||| 64)
  ∧ (∀ (s : State) (src : Coord) (vc : Nat) (mcast : Option Nat) (n : Nat) (env : Env),
      isPeer (openW s) src = false ∨ awaited (openW s) src vc mcast n = false → Blocks (.seqLossTimeout src vc mcast n env) s s.blk)
  ∧ (∀ (s : State) (m : Vc0Msg) (id : Nat) (r : Option Nat × W), s.blk.lnk.vc0.find? (fun x => x.msgid == id) = some m →
      r = sendTo m.dest
            { vc := 0, op := m.pk.hdr.opcode.toNat, dgn := m.pk.hdr.group.toNat, srcM := m.pk.hdr.member.toNat % 16
              dstM := m.pk.hdr.member.toNat / 16, sealed_ := m.pk.hdr.flags.getLsbD 0
              raddr := m.pk.hdr.raddr.toNat, part := m.part, payload := m.pk.payload } (openW s) →
      Leads (.vc0RepeatTimer id) s (fun t => t.mem = s.mem ∧ t.blk.lnk.vc0 = s.blk.lnk.vc0 ∧ t.blk = { r.2.b with streams := t.blk.streams }
        ∧ (m.why = .other → t.blk.streams = s.blk.streams)
        ∧ ∀ g u i x n, (m.why = .prepare g u i ∨ m.why = .apply g u i) → findUnit (openW s) g u = some x → r.1 = some n →
            t.blk.streams = s.blk.streams.map (fun y =>
              if y.region == x.region && y.g == x.g && decide (2 ≤ x.kind) then { y with commits := tset y.commits i n } else y)))
  ∧ (∀ (s : State) (id : Nat), s.blk.lnk.vc0.find? (fun x => x.msgid == id) = none → Blocks (.vc0RepeatTimer id) s s.blk)
  ∧ (∀ (s : State) (rx : Rx) (env : Env) (pk : Packet) (w : W), accepted (openW s) rx 6 (fun _ => true) = some (pk, w) →
      w.b.lnk.vc0.find? (fun x => x.msgid == fld pk.payload 0 8 && x.dest == pk.hdr.src) = none → Leaves (.ack rx env) s w)
  ∧ ∀ (s : State) (rx : Rx) (env : Env) (pk : Packet) (w v : W) (m : Vc0Msg),
      accepted (openW s) rx 6 (fun _ => true) = some (pk, w) →
      w.b.lnk.vc0.find? (fun x => x.msgid == fld pk.payload 0 8 && x.dest == pk.hdr.src) = some m →
      v = { w with b := { w.b with lnk := { w.b.lnk with
            vc0 := w.b.lnk.vc0.filter (fun x => !(x.msgid == fld pk.payload 0 8 && x.dest == pk.hdr.src)) } } } →
      (m.why = .other → Leaves (.ack rx env) s v)
      ∧ (∀ g u i, m.why = .prepare g u i → Leaves (.ack rx env) s
          (afterUnits env g (advanceUnits g (modUnit g u (fun x => { x with ackP := insertNat x.ackP i }) v))))
      ∧ (∀ g u i, m.why = .apply g u i → Leaves (.ack rx env) s
          (afterUnits env g (advanceUnits g (modUnit g u (fun x => { x with ackA := insertNat x.ackA i }) v))))

/-- O32. Closing and preparing a unit at its source. A closed unit whose deltas have all left its PDE fixes its wait set,
the other live members of its group, and sends each a PREPARE; with nobody to wait for, APPLY and completion follow.
Nothing is sent before that, or twice. The timeouts close an open HOST unit and an open DELTA packet; a packet that may
not go to its port stands in the send queue. -/
def Obligations.UnitsCloseAndPrepare : Prop :=
  (∀ (s : State) (g : Nat) (u : BitVec 64) (env : Env) (x : CUnit), findUnit (openW s) g u = some x → x.closed = true →
      x.prepared = false → unitInPde (openW s) g u = false →
      Leaves (.unitPrepare g u env) s (afterUnits env g (tryComplete g u (tryApply g u
        ((liveOthers (groupOf s g)).foldl (fun w m => sendCommit x 0 m w)
          (modUnit g u (fun y => { y with prepared := true, waitSet := liveOthers (groupOf s g) }) (openW s)))))))
  ∧ (∀ (s : State) (g : Nat) (u : BitVec 64) (env : Env), unitInPde (openW s) g u = true ∨ findUnit (openW s) g u = none
        ∨ (∃ x, findUnit (openW s) g u = some x ∧ (x.closed = false ∨ x.prepared = true)) →
      Leaves (.unitPrepare g u env) s (afterUnits env g (openW s)))
  ∧ (∀ (s : State) (p g : Nat) (u : BitVec 64), (g, u) ∈ (sliceOf s p).hostUnits →
      Leads (.hostUnitTimeout p g u) s (fun t => t.mem = s.mem
        ∧ closeW s (closeUnit g u (openW s)) = t
        ∧ (∀ e ∈ t.blk.slices, (g, u) ∉ e.2.hostUnits)))
  ∧ (∀ (s : State) (p g : Nat) (u : BitVec 64), (g, u) ∉ (sliceOf s p).hostUnits → Blocks (.hostUnitTimeout p g u) s s.blk)
  ∧ (∀ (s : State) (p k : Nat) (o : OpenPkt), (sliceOf s p).openPkts.find? (fun x => x.id == k) = some o →
      Leaves (.deltaPacketTimeout p k) s (closePkt p o (openW s)))
  ∧ (∀ (s : State) (p k : Nat), (sliceOf s p).openPkts.find? (fun x => x.id == k) = none → Blocks (.deltaPacketTimeout p k) s s.blk)
  ∧ ∀ (s : State) (p : Nat) (o : OpenPkt), (sliceOf s p).openPkts = [o] → (sliceOf s p).sendQ = [] →
      mayHandOn (openW s) o = false →
      Blocks (.deltaPacketTimeout p o.id) s (withSlice s.blk p { sliceOf s p with openPkts := [], sendQ := [o] })

/-- O33. A DELTA packet at its holder. An accepted DELTA packet that its region's rules discard, or that finds a place, is
taken and what it lets go on goes on; one that finds no place stays at the head of its port's VC1 buffer, with
STAGE_FULL set, one whose STAGING lines wait for their ports stays there too, and behind such a packet every DELTA of
the port waits, or is lost to OVERRUN where the buffer has no room. A packet that is placed in the pool in an
entry of its own takes the smallest class that holds it and leaves the other entries as they are. -/
def Obligations.DeltasAreHeld : Prop :=
  (∀ (s : State) (rx : Rx) (env : Env) (pk : Packet) (w v : W), rx.pk.hdr.opcode = 0x10 → (lpOf s rx.port).stalled = [] →
      receive rx (openW s) = (some pk, w) →
      (takeDelta env pk w = (.placed, v) → Leaves (.delta rx env) s (afterDelta env v))
      ∧ (takeDelta env pk w = (.full, v) → Leaves (.delta rx env) s (stall rx true (openW s)))
      ∧ (takeDelta env pk w = (.waits, v) → Leaves (.delta rx env) s (stall rx false (openW s))))
  ∧ (∀ (s : State) (rx : Rx) (env : Env), rx.pk.hdr.opcode = 0x10 → (lpOf s rx.port).stalled ≠ [] → inService (openW s) = true →
      s.blk.lnk.en = true →
      (noRoom (openW s) rx = false → Leaves (.delta rx env) s (setOffs rx.port
        { openW s with b := withLp s.blk rx.port { lpOf s rx.port with stalled := (lpOf s rx.port).stalled ++ [rx] } }))
      ∧ (noRoom (openW s) rx = true → Leaves (.delta rx env) s (setLnkErr 7 rx.port 1 (cntLp rx.port 0xF0 1 (openW s)))))
  ∧ ∀ (env : Env) (a : Arrival) (w : W) (n : Nat) (sp : Nat × Nat), w.b.pool.all (fun e => !(e.unit == a.unit)) = true →
      classBlocks a.pkt.size = some n → allocSpan (usedSpans w) n = some sp → withinQuota w a.partner a.coord n = true →
      placePacket env a w = (.placed, newEntry a (some sp) none w)
      ∧ (newEntry a (some sp) none w).b.pool = w.b.pool ++
          [{ id := w.b.nextEntry, g := a.g, src := a.src, coord := a.coord, unit := a.unit, frag := a.frag, partner := a.partner
             pkts := [a.pkt], span := some sp, slot := none, refs := if a.hold then 2 else 1, onFrontier := a.hold
             bornUs := nowUs w }]

/-- O34. A span allocated in the pool is free and in range. The span that allocation answers has the length asked for,
starts at a multiple of it, lies within the 98,304 blocks of the pool, and overlaps no span in use; a class is the
smallest of 1, 4, 16 and 64 blocks that holds the size. -/
def Obligations.PoolSpansFit : Prop :=
  (∀ (used : List (Nat × Nat)) (n : Nat) (sp : Nat × Nat), 0 < n → allocSpan used n = some sp →
      sp.2 = n ∧ sp.1 % n = 0 ∧ sp.1 + n ≤ 98304 ∧ ∀ u ∈ used, sp.1 + n ≤ u.1 ∨ u.1 + u.2 ≤ sp.1)
  ∧ ∀ (size n : Nat), classBlocks size = some n →
      size ≤ 256 * n ∧ n ∈ [1, 4, 16, 64] ∧ ∀ m ∈ [1, 4, 16, 64], size ≤ 256 * m → n ≤ m

/-- O35. PREPARE and APPLY at a holder. The first accepted PREPARE of a unit is held and the unit is ready once every packet
it names has arrived; each further copy joins it, and one of a ready unit is acknowledged. An accepted APPLY of a ready
unit records the tombstone of its set, applies the deltas and the commit map and is acknowledged; where a scrub or the
memory ports hold the lines back it waits, and with the tombstone table full, or the unit not ready, it is not acted on.
One of a unit never prepared is acknowledged with no other effect, as is a PREPARE or APPLY of a unit applied before or
that the receiver's own state discards. UNIT_READY makes a unit ready whose packets have all arrived, and does nothing
to another. The tombstone of a set and its end are log entries 51 and 94. -/
def Obligations.CommitsAtTheHolder : Prop :=
  (∀ (s : State) (rx : Rx) (env : Env) (pk : Packet) (w : W) (gi : Nat) (g : Group) (m : Nat) (p : Prep),
      accepted (openW s) rx 3 (fun b => fld b 0x10 1 == 0 || (decide (1 < fld b 0x10 1))) = some (pk, w) →
      senderOf w pk.hdr = some (gi, g, m) → p = prepOf gi m pk → commitDiscarded w g p = false →
      (gi, m, p.unit) ∉ w.b.applied →
      (findPrep w gi m p.unit = none → Leaves (.prepare rx env) s (streamsGo env gi (countEnds
          (tryReady gi m p.unit { w with b := { w.b with preps := w.b.preps ++ [p] } }))))
      ∧ (∀ q, findPrep w gi m p.unit = some q → q.ready = true →
          Leaves (.prepare rx env) s (streamsGo env gi (countEnds (sendAck pk.hdr (fld pk.payload 0 8) w))))
      ∧ (∀ q, findPrep w gi m p.unit = some q → q.ready = false → Leaves (.prepare rx env) s (streamsGo env gi (countEnds
          (modPrep gi m p.unit (fun q => { q with copies := q.copies ++ p.copies }) w)))))
  ∧ (∀ (s : State) (rx : Rx) (env : Env) (pk : Packet) (w v : W) (gi : Nat) (g : Group) (m : Nat) (a p : Prep),
      accepted (openW s) rx 3 (fun b => fld b 0x10 1 == 1) = some (pk, w) → senderOf w pk.hdr = some (gi, g, m) →
      a = prepOf gi m pk → commitDiscarded w g a = false → (gi, m, a.unit) ∉ w.b.applied →
      (findPrep w gi m a.unit = none → Leaves (.apply rx env) s (sendAck pk.hdr (fld pk.payload 0 8) w))
      ∧ (findPrep w gi m a.unit = some p → p.ready = true → recordTomb p w = (true, v) → applyWaits v p = false →
          Leaves (.apply rx env) s
            (streamsGo env p.g (countEnds (sendAck pk.hdr (fld pk.payload 0 8) (applyPrep env p v)))))
      ∧ (findPrep w gi m a.unit = some p → p.ready = true → recordTomb p w = (true, v) → applyWaits v p = true →
          Leaves (.apply rx env) s (modPrep p.g p.src p.unit (fun q => { q with applyCopies := q.applyCopies ++ a.copies }) v))
      ∧ (findPrep w gi m a.unit = some p → p.ready = true → recordTomb p w = (false, v) → Leaves (.apply rx env) s v)
      ∧ (findPrep w gi m a.unit = some p → p.ready = false → Leaves (.apply rx env) s w))
  ∧ (∀ (s : State) (rx : Rx) (env : Env) (pk : Packet) (w : W) (gi : Nat) (g : Group) (m : Nat) (a : Prep),
      senderOf w pk.hdr = some (gi, g, m) → a = prepOf gi m pk →
      commitDiscarded w g a = true ∨ (gi, m, a.unit) ∈ w.b.applied →
      (accepted (openW s) rx 3 (fun b => fld b 0x10 1 == 0 || (decide (1 < fld b 0x10 1))) = some (pk, w) →
        Leaves (.prepare rx env) s (sendAck pk.hdr (fld pk.payload 0 8) w))
      ∧ (accepted (openW s) rx 3 (fun b => fld b 0x10 1 == 1) = some (pk, w) →
        Leaves (.apply rx env) s (sendAck pk.hdr (fld pk.payload 0 8) w)))
  ∧ (∀ (s : State) (g src : Nat) (u : BitVec 64) (p : Prep), findPrep (openW s) g src u = some p → p.ready = false →
      (∀ x ∈ p.seqs, x = none) → heldLines (openW s) g src u + aheadLines (openW s) g src u = p.nlines → p.copies = [] →
      Blocks (.unitReady g src u) s { s.blk with preps := s.blk.preps.map (fun q =>
        if prepIs g src u q then { q with ready := true, gapped := [], copies := [] } else q) })
  ∧ ∀ (s : State) (g src : Nat) (u : BitVec 64), (∀ p, findPrep (openW s) g src u = some p → p.ready = true ∨
        ∃ x ∈ prepStreams (groupOf s g) p, reached (openW s) p.hdr.src x.1 1 x.2 = false) → Blocks (.unitReady g src u) s s.blk

/-- O36. The audit, stalls and pressure. The audit changes nothing while RAS_BGCTL stops it, and else reclaims what leaked,
frees what the rules call leaked and records what each owner holds. STAGE_FULL_RESUME receives the stalled packets of a
port in order. An episode of pressure is logged once it has lasted, again at each repeat, and at its end, which clears
it; a log entry is all the first two change beside the note that it is logged. With no episode, or at another point of
it, they do nothing. What leaked is log entries 54 and 106. -/
def Obligations.PoolAuditAndPressure : Prop :=
  (∀ s : State, s.blk.ras.bgctl.getLsbD 3 = true → Leaves .poolAudit s (openW s))
  ∧ (∀ s : State, s.blk.ras.bgctl.getLsbD 3 = false → s.blk.leaks = [] → s.blk.ras.inj = [] → (∀ g ∈ s.blk.grps, g.2.state = .free) →
      (∀ e ∈ s.blk.pool, entryLeaked (openW s) e = false) → Leaves .poolAudit s (openW s))
  ∧ (∀ (s : State) (l : Nat × Nat), s.blk.ras.bgctl.getLsbD 3 = false → s.blk.leaks = [l] → s.blk.grps = [] → s.blk.pool = [] →
      Leads .poolAudit s (fun t => t.mem = s.mem ∧ t.blk.leaks = [] ∧ t.blk.dpErr = s.blk.dpErr ||| 4
        ∧ t.blk = { s.blk with leaks := [], dpErr := t.blk.dpErr, tlm := t.blk.tlm }))
  ∧ (∀ s : State, s.blk.ras.bgctl.getLsbD 3 = false → s.blk.leaks = [] →
      (∀ e ∈ s.blk.pool, entryLeaked (openW s) e = false) → Leaves .poolAudit s (s.blk.grps.foldl (fun w g =>
        if g.2.state = .free then w else (List.range 16).foldl (fun w i => auditOwner g.1 i w) w) (openW s)))
  ∧ (∀ (s : State) (e : PoolEntry), s.blk.ras.bgctl.getLsbD 3 = false → s.blk.leaks = [] → s.blk.pool = [e] → s.blk.grps = [] →
      s.blk.ras.inj = [] → entryLeaked (openW s) e = true →
      Leads .poolAudit s (fun t => t.mem = s.mem ∧ t.blk.pool = [] ∧ t.blk.dpErr = s.blk.dpErr ||| 4))
  ∧ (∀ (s : State) (port : Nat) (env : Env), (lpOf s port).stalled ≠ [] →
      Leaves (.stageFullResume port env) s (afterDelta env (resume env port (lpOf s port).stalled (openW s))))
  ∧ (∀ (s : State) (port : Nat) (env : Env), (lpOf s port).stalled = [] → Blocks (.stageFullResume port env) s s.blk)
  ∧ (∀ s : State, s.blk.pressure.active = false → Blocks .pressureEpisode10ms s s.blk ∧ Blocks .pressureRepeatLog s s.blk
      ∧ Blocks .pressureEpisodeEnd s s.blk)
  ∧ (∀ s : State, (s.blk.pressure.logged = true → Blocks .pressureEpisode10ms s s.blk)
      ∧ (s.blk.pressure.logged = false → Blocks .pressureRepeatLog s s.blk)
      ∧ (underPressure (openW s) = true → Blocks .pressureEpisodeEnd s s.blk))
  ∧ ∀ s : State, s.blk.pressure.active = true →
      (s.blk.pressure.logged = false → Leads .pressureEpisode10ms s (fun t => t.mem = s.mem
        ∧ t.blk = { s.blk with pressure := { s.blk.pressure with logged := true }, tlm := t.blk.tlm }
        ∧ t.blk.tlm.elNext = s.blk.tlm.elNext + 1))
      ∧ (s.blk.pressure.logged = true → Leads .pressureRepeatLog s (fun t => t.mem = s.mem
        ∧ t.blk = { s.blk with tlm := t.blk.tlm } ∧ t.blk.tlm.elNext = s.blk.tlm.elNext + 1))
      ∧ (underPressure (openW s) = false → Leads .pressureEpisodeEnd s (fun t => t.mem = s.mem
        ∧ t.blk = { s.blk with pressure := {}, tlm := t.blk.tlm } ∧ t.blk.tlm.elNext = s.blk.tlm.elNext + 1))

/-- O37. GROUP_DEFINE and formation. A GROUP_DEFINE of a FREE entry whose list passes fills the entry from its operands:
FORMING, every other member ALIVE at its coordinate, and the command waits in it; JOINs go to the others. While its
lists cannot be read it does not begin. One with N zero of an entry that is not in use frees it and completes OK. While
a group forms, JOINs go again to those whose JOIN is lacking; a matching JOIN from a live member is held, answered when
it asks for it, and may end the formation; a JOIN of another body, or of a sender that another slot of the own list
names, is noted as a mismatch; and a JOIN to a group of another state, or of a member that is out, has no further
effect. The timeout frees the entry and completes the command TIMEOUT with the members lacking and mismatched. Neither
timer touches a group that does not form. -/
def Obligations.GroupsFormAndGo : Prop :=
  (∀ (s : State) (c : CmdId) (env : Env) (k : Cmd) (l : List Coord) (w : W), Issued s c env k 0x85 → arg k 0x11 1 ≠ 0 →
      ListsReadable s k → groupBad k.slot true = [] →
      s.blk.lnk.en = true → (groupOf s (arg k 0x10 1)).state = .free →
      listChecks env k none (begun s c k) = (.ok l, w) →
      Leads (.groupDefine c env) s (fun t => t.mem = s.mem
        ∧ groupOf t (arg k 0x10 1) =
          { state := .forming, n := arg k 0x11 1, k := arg k 0x12 1, m := arg k 0x13 1, self := arg k 0x14 1, dgn := arg k 0x16 2
            mcast := arg k 0x18 2, wdom := arg k 0x1A 2, sealReq := bit (arg k 0x15 1) 0
            formMs := if arg k 0x28 4 = 0 then 2000 else arg k 0x28 4
            members := (List.range 16).map (fun i => if i < arg k 0x11 1 then { coord := l.getD i 0, state := .alive } else {})
            ctx := k.ctx, part := k.part, cmds := [k.id] }
        ∧ (∀ g, g ≠ arg k 0x10 1 → groupOf t g = groupOf s g)))
  ∧ (∀ (s : State) (c : CmdId) (env : Env) (k : Cmd), Issued s c env k 0x85 → arg k 0x11 1 ≠ 0 →
      linesReadable (openW s) (arg k 0x20 8) 64 = false →
      Leaves (.groupDefine c env) s (flushLines (arg k 0x20 8) 64 (openW s)))
  ∧ (∀ (s : State) (c : CmdId) (env : Env) (k : Cmd), Issued s c env k 0x85 → arg k 0x11 1 = 0 → s.blk.lnk.en = true →
      (groupOf s (arg k 0x10 1)).state ∈ [GrpState.whole, .degraded, .broken] → (groupOf s (arg k 0x10 1)).part = k.part →
      rgnsOfGrp (openW s) (arg k 0x10 1) = [] → groupBad k.slot false = [] →
      Leads (.groupRelease c env) s (fun t => Finished s t c k {} (freeGroup (arg k 0x10 1) (begun s c k))
        ∧ groupOf t (arg k 0x10 1) = {}))
  ∧ (∀ (s : State) (g : Nat) (env : Env),
      ((groupOf s g).state = .forming → Leaves (.formationJoinResend g) s
        (((liveOthers (groupOf s g)).filter (fun m => !(groupOf s g).joins.contains m)).foldl (fun w m => sendJoin g m 0 w) (openW s)))
      ∧ ((groupOf s g).state ≠ .forming → Blocks (.formationJoinResend g) s s.blk ∧ Blocks (.formationTimeout g env) s s.blk))
  ∧ (∀ (s : State) (g : Nat) (env : Env) (c : CmdId), (groupOf s g).state = .forming → (groupOf s g).cmds = [c] →
      Leaves (.formationTimeout g env) s
        (complete env false c
          { status := .timeout
            result := toLe 2 (maskOf ((others (groupOf s g)).filter (fun m => !(groupOf s g).joins.contains m)))
                        ++ toLe 2 (maskOf (groupOf s g).mismatched) } (freeGroup g (openW s))))
  ∧ ∀ (s : State) (rx : Rx) (env : Env) (pk : Packet) (w : W) (gi : Nat) (g : Group) (x m : Nat),
      formAccepted (openW s) rx 0 = some (pk, w) → senderOf w pk.hdr = some (gi, g, x) → m = (memberOf g pk.hdr.src).getD x →
      (g.state ∉ [GrpState.forming, .whole, .degraded] ∨ slotOut (slotAt g m).state = true ∨ m = g.self → Leaves (.join rx env) s w)
      ∧ (g.state ∈ [GrpState.forming, .whole, .degraded] → slotOut (slotAt g m).state = false → m ≠ g.self →
        (m ≠ x ∨ formFrom w pk = none ∨ bytesAt pk.payload 32 80 ≠ groupBody g → Leaves (.join rx env) s
            (logOther 14 0 gi g.ctx [2, 0, m] (modGrp gi (fun g => { g with mismatched := insertNat g.mismatched m }) w)))
        ∧ (m = x → formFrom w pk = some (gi, g, x) → bytesAt pk.payload 32 80 = groupBody g →
          (fld pk.payload 0xA 1 % 2 = 1 → Leaves (.join rx env) s
            (formGo env gi (modGrp gi (fun x => { x with joins := insertNat x.joins m }) w)))
          ∧ (fld pk.payload 0xA 1 % 2 = 0 → Leaves (.join rx env) s
            (formGo env gi (sendJoin gi m 1 (modGrp gi (fun x => { x with joins := insertNat x.joins m }) w))))))

/-- O38. Loss notices, settling and fencing. A LOSS notice from a live member about a coordinate of the group loses that
slot, or breaks the group where it names this one; a SETTLE notice joins the slot's record and may settle it; DONE
deletes the tombstones of the sets whose units it completes; FENCED from a live member about this one breaks the group
here. A notice that does not fit the group's slots has no further effect. The DONE timer tells each member its complete
units and drops them. MEMBER_FENCE of a slot that may be fenced loses it as FENCED and tells it so where the command
asks for it, its completion waiting for the settling. -/
def Obligations.LossIsToldAndSettled : Prop :=
  (∀ (s : State) (rx : Rx) (env : Env) (pk : Packet) (w : W) (gi : Nat) (g : Group) (m : Nat) (st : SlotState),
      formAccepted (openW s) rx 3 = some (pk, w) → formFrom w pk = some (gi, g, m) → senderLive g m = true →
      (slotAt g (msgSlot pk)).coord = msgCoord pk → msgSlot pk < g.n →
      st = (if fld pk.payload 0xA 1 = 4 then .fenced else .lost) →
      (msgSlot pk = g.self → Leaves (.loss rx env) s (excludeSelf env gi st 4 w))
      ∧ (msgSlot pk ≠ g.self → Leaves (.loss rx env) s (loseSlot env gi (msgSlot pk) st 4 none w)))
  ∧ (∀ (s : State) (rx : Rx) (env : Env) (pk : Packet) (w : W) (gi : Nat) (g : Group) (m : Nat),
      formAccepted (openW s) rx 4 = some (pk, w) → formFrom w pk = some (gi, g, m) → senderLive g m = true →
      (slotAt g (msgSlot pk)).coord = msgCoord pk → msgSlot pk < g.n → g.state ≠ .forming →
      Leaves (.settle rx env) s (afterChange env (settleTry env gi (msgSlot pk)
        (modSettling gi (msgSlot pk) (fun x =>
          { x with listed := x.listed ++ (List.range (fld pk.payload 0x18 4)).map (fun i => BitVec.ofNat 64 (fld pk.payload (32 + 8 * i) 8))
                   ends := x.ends ||| fld pk.payload 0x1C 2
                   got := if bit (fld pk.payload 0xA 1) 0 then insertNat x.got m else x.got }) w))))
  ∧ (∀ (s : State) (rx : Rx) (env : Env) (pk : Packet) (w : W) (gi : Nat) (g : Group) (m : Nat),
      formAccepted (openW s) rx 5 = some (pk, w) → formFrom w pk = some (gi, g, m) →
      Leaves (.done rx env) s { w with b := { w.b with tombs := w.b.tombs.filterMap (tombDone gi m
        ((List.range (fld pk.payload 0x18 4)).map (fun i => BitVec.ofNat 64 (fld pk.payload (32 + 8 * i) 8)))) } }
      ∧ ∀ (t : Tomb) (us : List (BitVec 64)), us = (List.range (fld pk.payload 0x18 4)).map (fun i => BitVec.ofNat 64 (fld pk.payload (32 + 8 * i) 8)) →
          (t.g ≠ gi ∨ t.src ≠ m → tombDone gi m us t = some t)
          ∧ (t.g = gi → t.src = m → (∀ u ∈ t.unit :: t.units, u ∈ us ∨ u ∈ t.done) → tombDone gi m us t = none))
  ∧ (∀ (s : State) (g : Nat), Leads (.doneNoticeTimer g) s (fun t => t.mem = s.mem
      ∧ t.blk.units = s.blk.units.filter (fun u => !(u.g == g && u.complete))
      ∧ ((∀ u ∈ s.blk.units, u.complete = false) → t.blk = s.blk)))
  ∧ (∀ (s : State) (rx : Rx) (env : Env) (pk : Packet) (w : W) (gi : Nat) (g : Group) (m : Nat),
      formAccepted (openW s) rx 6 = some (pk, w) → formFrom w pk = some (gi, g, m) → msgSlot pk = g.self →
      msgCoord pk = w.b.lnk.coord →
      ((slotAt g m).state ∈ [SlotState.alive, .suspect] → Leaves (.fenced rx env) s (excludeSelf env gi .fenced 6 w))
      ∧ ((slotAt g m).state ∉ [SlotState.alive, .suspect] → Leaves (.fenced rx env) s w))
  ∧ (∀ (s : State) (rx : Rx) (env : Env) (pk : Packet) (w : W) (kind : Nat) (i : Instr),
      (kind, i) ∈ [(3, Instr.loss rx env), (4, .settle rx env), (5, .done rx env), (6, .fenced rx env)] →
      formAccepted (openW s) rx kind = some (pk, w) →
      formFrom w pk = none ∨ (kind = 6 ∧ ∀ gi g m, formFrom w pk = some (gi, g, m) → msgSlot pk ≠ g.self ∨ msgCoord pk ≠ w.b.lnk.coord)
        ∨ (kind ∈ [3, 4] ∧ ∀ gi g m, formFrom w pk = some (gi, g, m) →
            senderLive g m = false ∨ (slotAt g (msgSlot pk)).coord ≠ msgCoord pk ∨ g.n ≤ msgSlot pk) →
      Leaves i s w)
  ∧ ∀ (s : State) (c : CmdId) (env : Env) (k : Cmd) (g : Group) (j gi : Nat), Issued s c env k 0x60 →
      gi = arg k 0x10 1 → j = arg k 0x11 1 → g = groupOf s gi → g.part = k.part →
      g.state ∈ [GrpState.whole, .degraded, .relighting, .restriping] → j ≠ g.self → j < g.n →
      (slotAt g j).state ∉ [SlotState.fenced, .adopted] →
      ∀ w, w = loseSlot env gi j .fenced 5 (some 4)
            (setGrp gi { g with waitSettle := g.waitSettle ++ [(k.id, j, none)] } (begun s c k)) →
      ∀ v, v = (if bit (arg k 0x12 1) 0 then
          (sendTo (slotAt g j).coord (grpForm (getGrp w gi) 0 2 j false
            (toLe 8 w.b.lnk.nextMsg ++ formPayload w { kind := 6, slot := j, coord := (slotAt g j).coord }))
            { w with b := { w.b with lnk := { w.b.lnk with nextMsg := w.b.lnk.nextMsg + 1 } } }).2 else w) →
      Leaves (.memberFence c env) s (if isSettled (getGrp v gi) j then afterChange env (settleWaits env gi j v) else v)

/-- O39. MEMBER_ADOPT at survivor and spare. A survivor's MEMBER_ADOPT whose checks pass adopts the new coordinate at once
where the slot is settled, else waits in the entry; adoption makes the slot ADOPTED at its new coordinate. A spare's
fills its FREE entry as DEGRADED with its own slot ADOPTED and tells every other member, again at each repeat; the
timeout frees the entry and completes TIMEOUT. An ADOPT notice from an adopted sender about itself is answered with
the slot states; the answers are collected and may complete the adoption. A notice that does not fit, or an answer a
second time, has no further effect, and neither timer touches a group without adoption. -/
def Obligations.AdoptionRewritesASlot : Prop :=
  (∀ (s : State) (c : CmdId) (env : Env) (k : Cmd) (g : Group) (gi j : Nat) (l : List Coord) (w v : W), Issued s c env k 0x61 →
      arg k 0x2D 1 ≠ 1 → gi = arg k 0x10 1 → j = arg k 0x2C 1 → g = groupOf s gi → g.part = k.part →
      g.state ∈ [GrpState.whole, .degraded, .relighting, .restriping] → j ≠ g.self → j < g.n → slotOut (slotAt g j).state = true →
      adoptDiffers k g = false → adoptFields k = none → ListsReadable s k → readMlist env k (begun s c k) = (some l, v) →
      (∀ i, i < 16 → i ≠ j → l.getD i 0 = (slotAt g i).coord) → listChecks env k (some (gi, j)) v = (.ok l, w) →
      (isSettled g j = true → Leaves (.memberAdoptSurvivor c env) s (adoptSurvivor env k.id gi j (l.getD j 0) w))
      ∧ (isSettled g j = false → Leaves (.memberAdoptSurvivor c env) s
          (modGrp gi (fun g => { g with waitSettle := g.waitSettle ++ [(k.id, j, some (l.getD j 0))] }) w)))
  ∧ (∀ (s : State) (c : CmdId) (env : Env) (k : Cmd) (l : List Coord) (w : W), Issued s c env k 0x61 → arg k 0x2D 1 = 1 →
      (groupOf s (arg k 0x10 1)).state = .free → adoptFields k = none → ListsReadable s k →
      listChecks env k none (begun s c k) = (.ok l, w) →
      Leads (.memberAdoptSpare c env) s (fun t => t.mem = s.mem
        ∧ groupOf t (arg k 0x10 1) =
          { state := .degraded, n := arg k 0x11 1, k := arg k 0x12 1, m := arg k 0x13 1, self := arg k 0x14 1, dgn := arg k 0x16 2
            mcast := arg k 0x18 2, wdom := arg k 0x1A 2, sealReq := bit (arg k 0x15 1) 0
            formMs := if arg k 0x28 4 = 0 then 2000 else arg k 0x28 4
            members := (List.range 16).map (fun i => if i < arg k 0x11 1 then
              { coord := l.getD i 0, state := if i = arg k 0x14 1 then .adopted else .alive } else {})
            ctx := k.ctx, part := k.part, adopting := some k.id }))
  ∧ (∀ (s : State) (g : Nat), (groupOf s g).adopting.isSome = true → Leaves (.adoptResend g) s
      (((liveOthers (groupOf s g)).filter (fun m => !(groupOf s g).adoptAns.any (fun a => a.1 == m))).foldl
        (fun w m => sendAdopt g m w) (openW s)))
  ∧ (∀ (s : State) (g : Nat) (env : Env), (groupOf s g).adopting = none →
      Blocks (.adoptResend g) s s.blk ∧ Blocks (.adoptTimeout g env) s s.blk)
  ∧ (∀ (s : State) (g : Nat) (env : Env) (c : CmdId), (groupOf s g).adopting = some c →
      Leaves (.adoptTimeout g env) s (complete env false c { status := .timeout } (freeGroup g (openW s))))
  ∧ (∀ (s : State) (rx : Rx) (env : Env) (pk : Packet) (w : W) (gi : Nat) (g : Group) (m : Nat),
      formAccepted (openW s) rx 7 = some (pk, w) → formFrom w pk = some (gi, g, m) →
      (msgSlot pk = m → msgCoord pk = pk.hdr.src → (slotAt g m).state = .adopted →
        Leaves (.adopt rx env) s (formTo gi m { kind := 8, slot := m, coord := pk.hdr.src
                                                body := g.members.flatMap (fun x => toLe 1 (slotCode x.state)) } w))
      ∧ (msgSlot pk ≠ m ∨ msgCoord pk ≠ pk.hdr.src ∨ (slotAt g m).state ≠ .adopted → Leaves (.adopt rx env) s w))
  ∧ ∀ (s : State) (rx : Rx) (env : Env) (pk : Packet) (w : W) (gi : Nat) (g : Group) (m : Nat),
      formAccepted (openW s) rx 8 = some (pk, w) → formFrom w pk = some (gi, g, m) →
      (g.adopting.isSome = true → msgSlot pk = g.self → msgCoord pk = w.b.lnk.coord → (∀ a ∈ g.adoptAns, a.1 ≠ m) →
        Leaves (.adopted rx env) s (afterChange env (spareGo env gi (modGrp gi (fun x =>
          { x with adoptAns := x.adoptAns ++ [(m, (List.range 16).map (fun i => slotOfCode (fld pk.payload (32 + i) 1)))] }) w))))
      ∧ (g.adopting = none ∨ msgSlot pk ≠ g.self ∨ msgCoord pk ≠ w.b.lnk.coord ∨ (∃ a ∈ g.adoptAns, a.1 = m) →
        Leaves (.adopted rx env) s w)

/-- O40. Relight from its start to its end, and at the survivors. A RELIGHT_START whose checks pass makes the group
RELIGHTING with the slot and the members asked, and sends each RL_BEGIN. With every answer in, the state transfer is
asked for, and what is lacking of it is asked for again. A stripe whose answers are in is written and passed, and the
next begins, once its lines are free; a write that fails ends the Relight, as the timeout does. At a survivor RL_BEGIN
of an adopted sender is answered, and accepted makes the group RELIGHTING; an acceptance is noted, one that nobody
waits for cancelled, and a refusal ends the Relight; RL_END makes the slot ALIVE and RL_CANCEL leaves RELIGHTING. A
message that does not fit, and a timer without its Relight, has no further effect. -/
def Obligations.RelightRuns : Prop :=
  (∀ (s : State) (c : CmdId) (env : Env) (k : Cmd) (g : Group) (gi : Nat) (ask : List Nat), Issued s c env k 0x62 →
      relightCheck (begun s c k) k = none → gi = arg k 0x10 1 → g = groupOf s gi →
      ask = (others g).filter (fun m => (slotAt g m).state == .alive || (slotAt g m).state == .suspect) →
      Leads (.relightStart c env) s (fun t => t.mem = s.mem
        ∧ groupOf t gi = { g with state := .relighting, rlSlot := g.self, rlPhase := 1, rlDone := 0, rlFront := (0, 0)
                                  relight := some { cmd := k.id, fetchUs := if arg k 0x12 2 = 0 then 200 else arg k 0x12 2
                                                    waiting := ask }
                                  relightBegun := true }
        ∧ t.blk.lnk.nextMsg = s.blk.lnk.nextMsg + ask.length))
  ∧ (∀ (s : State) (g : Nat) (env : Env) (rl : Relight) (w : W), (groupOf s g).relight = some rl → rl.waiting = [] →
      (∀ x ∈ s.blk.grps, ∀ r, x.2.relight = some r → ∀ f ∈ r.fetches, stateFull f = false) →
      w = setGrp g { groupOf s g with rlPhase := 2, relight := some { rl with fetches := [] } } (openW s) →
      (∀ k, (groupOf s g).rlPhase = 1 → findCmd (openW s) rl.cmd = some k →
        Leaves (.relightStateTransfer g env) s ((stateFetches (openW s) k.ctx g).foldl (fun w f => askState g f w) w))
      ∧ ((groupOf s g).rlPhase = 2 →
        Leaves (.relightStateTransfer g env) s (rl.fetches.foldl (fun w f => askState g f w) w)))
  ∧ (∀ (s : State) (g : Nat) (env : Env), (∀ rl, (groupOf s g).relight = some rl → rl.waiting ≠ [] ∨ 2 < (groupOf s g).rlPhase) →
      Blocks (.relightStateTransfer g env) s s.blk)
  ∧ (∀ (s : State) (op : Nat) (env : Env) (o : FetchOp) (ri st a : Nat) (role : Bool × Nat) (c : Rsp) (w : W), findOp (openW s) op = some o →
      o.why = .relight ri st → role = roleOf (groupOf s o.g).n (groupOf s o.g).m (groupOf s o.g).self st →
      a = roleAddr (groupOf s o.g) (rgnOf s ri) (partnerOf (openW s) (rgnOf s ri)) role st 0 →
      (opReady (openW s) o = true → role.1 = true ∨ heldUpTo (openW s) o (groupOf s o.g) role.2 = true →
        (linesFree (openW s) a (64 * o.lines) = false → Leaves (.relightStripeDone op env) s (flushLines a (64 * o.lines) (openW s)))
        ∧ (linesFree (openW s) a (64 * o.lines) = true → writeStripe env o ri o.lines (openW s) = (c, w) →
          (c = .ok → Leaves (.relightStripeDone op env) s
            (relightNext env o.g (passStripe env o.g ri st (cntGlb 0x10 1 (assignEngines 8 (dropOp op w))))))
          ∧ (c ≠ .ok → Leaves (.relightStripeDone op env) s (failRelight env o.g { status := rspStatus c } w))))
      ∧ (opReady (openW s) o = false ∨ (role.1 = false ∧ heldUpTo (openW s) o (groupOf s o.g) role.2 = false) →
        Blocks (.relightStripeDone op env) s s.blk))
  ∧ (∀ (s : State) (g : Nat) (env : Env), (groupOf s g).relight = none → Blocks (.relightTimeout g env) s s.blk)
  ∧ (∀ (s : State) (g : Nat) (env : Env) (rl : Relight), (groupOf s g).relight = some rl →
      Leaves (.relightTimeout g env) s (complete env false rl.cmd { status := .timeout }
        (leaveRelighting g (relightOff g (rl.accepted.foldl (fun w m => rlMsg g 12 m [] w) (openW s))))))
  ∧ (∀ (s : State) (rx : Rx) (env : Env) (pk : Packet) (w : W) (gi : Nat) (g : Group) (m : Nat),
      formAccepted (openW s) rx 9 = some (pk, w) → formFrom w pk = some (gi, g, m) →
      (msgSlot pk ≠ m ∨ (slotAt g m).state ≠ .adopted → Leaves (.rlBegin rx env) s w)
      ∧ (msgSlot pk = m → (slotAt g m).state = .adopted →
      (g.state = .broken → Leaves (.rlBegin rx env) s (formTo gi m { kind := 10, slot := m, code := 3, coord := pk.hdr.src } w))
      ∧ (g.state = .relighting ∨ g.state = .restriping →
          Leaves (.rlBegin rx env) s (formTo gi m { kind := 10, slot := m, code := 1, coord := pk.hdr.src } w))
      ∧ (g.state = .degraded → allSettled g = false → (∀ x ∈ w.b.streams, x.kind ≠ .restripe) →
          Leaves (.rlBegin rx env) s (formTo gi m { kind := 10, slot := m, code := 2, coord := pk.hdr.src } w))
      ∧ (g.state = .degraded → allSettled g = true → (∀ x ∈ w.b.streams, x.kind ≠ .restripe) →
          Leaves (.rlBegin rx env) s (noteState gi (modGrp gi (fun g => { g with state := .relighting, rlSlot := m, rlPhase := 4 })
            (formTo gi m { kind := 10, slot := m, code := 0, coord := pk.hdr.src } w))))))
  ∧ (∀ (s : State) (rx : Rx) (env : Env) (pk : Packet) (w : W) (gi : Nat) (g : Group) (m : Nat),
      formAccepted (openW s) rx 10 = some (pk, w) → formFrom w pk = some (gi, g, m) →
      (msgSlot pk = g.self → msgCoord pk = w.b.lnk.coord → g.relight = none → fld pk.payload 0xA 1 = 0 →
        Leaves (.rlAnswer rx env) s (rlMsg gi 12 m [] w))
      ∧ (msgSlot pk ≠ g.self ∨ msgCoord pk ≠ w.b.lnk.coord ∨ (g.relight = none ∧ fld pk.payload 0xA 1 ≠ 0)
          ∨ (∃ rl, g.relight = some rl ∧ m ∉ rl.waiting) → Leaves (.rlAnswer rx env) s w))
  ∧ (∀ (s : State) (rx : Rx) (env : Env) (pk : Packet) (w : W) (gi : Nat) (g : Group) (m : Nat) (rl : Relight),
      formAccepted (openW s) rx 10 = some (pk, w) → formFrom w pk = some (gi, g, m) → msgSlot pk = g.self →
      msgCoord pk = w.b.lnk.coord → g.relight = some rl → m ∈ rl.waiting →
      (fld pk.payload 0xA 1 = 0 → Leaves (.rlAnswer rx env) s
        (modRelight gi (fun r => { r with waiting := r.waiting.filter (fun x => x != m), accepted := r.accepted ++ [m] }) w))
      ∧ (fld pk.payload 0xA 1 ≠ 0 → Leaves (.rlAnswer rx env) s
        (failRelight env gi { status := .denied, info := 0x97, result := toLe 1 (fld pk.payload 0xA 1) } w)))
  ∧ ∀ (s : State) (rx : Rx) (env : Env) (pk : Packet) (w : W) (gi : Nat) (g : Group) (m : Nat), formFrom w pk = some (gi, g, m) →
      (formAccepted (openW s) rx 11 = some (pk, w) → msgSlot pk = m → (slotAt g m).state = .adopted → ∀ v,
        v = leaveRelighting gi (nowAlive gi m w) →
        Leaves (.rlEnd rx env) s (afterChange env (rebuildLines env gi (getGrp v gi).unknown v))
        ∧ slotAt (getGrp (nowAlive gi m (setGrp gi g w)) gi) m
            = if m < g.members.length then { slotAt g m with state := .alive } else slotAt g m)
      ∧ (formAccepted (openW s) rx 11 = some (pk, w) → msgSlot pk ≠ m ∨ (slotAt g m).state ≠ .adopted → Leaves (.rlEnd rx env) s w)
      ∧ (formAccepted (openW s) rx 12 = some (pk, w) → msgSlot pk = m → g.relight = none → g.rlSlot = m →
        Leaves (.rlCancel rx env) s (leaveRelighting gi w))
      ∧ (formAccepted (openW s) rx 12 = some (pk, w) → msgSlot pk ≠ m ∨ g.relight.isSome = true ∨ g.rlSlot ≠ m →
        Leaves (.rlCancel rx env) s w)

/-- O41. Restripe. A RESTRIPE whose checks pass records the new pairing, makes both groups RESTRIPING, tells every member it
can name and goes on as far as the answers allow. Each occurrence of its stream hands on the next fragment, or drops the
Restripe when it fails; the timeout drops it. RS_BEGIN is answered, by a refusal where the group is BROKEN, forms or
relights, or has a slot out, and accepted is noted; an RS_ANSWER is taken from the members waited for, and a refusal
drops the Restripe. Without a Restripe the timeout and an RS_ANSWER do nothing. The engine a Restripe holds is log entry
26. -/
def Obligations.RestripeRuns : Prop :=
  (∀ (s : State) (c : CmdId) (env : Env) (k : Cmd), Issued s c env k 0x63 → restripeCheck (begun s c k) k = none →
      Leaves (.restripe c env) s (restripeGo env k (begun s c k)))
  ∧ (∀ (s : State) (c : CmdId) (env : Env) (k : Cmd), Runs s c k → opOf k = 0x63 →
      Leaves (.restripe c env) s (advanceRestripe env (arg k 0x10 2) (openW s)))
  ∧ (∀ (s : State) (r : Nat) (env : Env) (w : W),
      (∀ code f, streamStep env .restripe r (openW s) = (.failed code f, w) →
        Leaves (.restripeStream r env) s (dropRestripe env r { status := rspStatus code, result := toLe 8 f } w))
      ∧ (streamStep env .restripe r (openW s) = (.went, w) ∨ streamStep env .restripe r (openW s) = (.waits, w) →
        Leaves (.restripeStream r env) s (advanceRestripe env r w)))
  ∧ (∀ (s : State) (r : Nat) (env : Env), findStream (openW s) .restripe r = none → Blocks (.restripeTimeout r env) s s.blk)
  ∧ (∀ (s : State) (r : Nat) (env : Env) (st : Stream), findStream (openW s) .restripe r = some st →
      Leaves (.restripeTimeout r env) s (dropRestripe env r { status := .timeout, result := toLe 8 st.next } (openW s)))
  ∧ (∀ (s : State) (rx : Rx) (env : Env) (pk : Packet) (w : W) (gi : Nat) (g : Group) (m : Nat),
      formAccepted (openW s) rx 13 = some (pk, w) → formFrom w pk = some (gi, g, m) →
      (g.state = .whole → outMembers g = [] → (∀ x ∈ w.b.streams, x.kind ≠ .restripe) →
        Leaves (.rsBegin rx env) s (streamsGo env gi (modGrp gi (fun x => { x with rsSeen := x.rsSeen.filter (fun y => y.1 != m) ++
            [(m, fld pk.payload 38 1, fld pk.payload 36 2 != 0xFFFF)] })
          (formTo gi m { kind := 14, slot := g.self, code := 0, coord := w.b.lnk.coord } w))))
      ∧ (g.state = .broken → Leaves (.rsBegin rx env) s
          (formTo gi m { kind := 14, slot := g.self, code := 3, coord := w.b.lnk.coord } w))
      ∧ (g.state = .relighting ∨ g.state = .forming → Leaves (.rsBegin rx env) s
          (formTo gi m { kind := 14, slot := g.self, code := 1, coord := w.b.lnk.coord } w))
      ∧ (g.state ∈ [GrpState.whole, .degraded, .restriping] → outMembers g ≠ [] → (∀ x ∈ w.b.streams, x.kind ≠ .restripe) →
        Leaves (.rsBegin rx env) s (formTo gi m { kind := 14, slot := g.self, code := 2, coord := w.b.lnk.coord } w)))
  ∧ (∀ (s : State) (rx : Rx) (env : Env) (pk : Packet) (w : W) (gi : Nat) (g : Group) (m : Nat),
      formAccepted (openW s) rx 14 = some (pk, w) → formFrom w pk = some (gi, g, m) →
      w.b.streams.find? (fun x => x.kind == .restripe && x.waiting.contains (gi, m)) = none → Leaves (.rsAnswer rx env) s w)
  ∧ ∀ (s : State) (rx : Rx) (env : Env) (pk : Packet) (w : W) (gi : Nat) (g : Group) (m : Nat) (st : Stream),
      formAccepted (openW s) rx 14 = some (pk, w) → formFrom w pk = some (gi, g, m) →
      w.b.streams.find? (fun x => x.kind == .restripe && x.waiting.contains (gi, m)) = some st →
      (fld pk.payload 0xA 1 ≠ 0 → Leaves (.rsAnswer rx env) s (dropRestripe env st.region { status := .denied, info := 0x9D } w))
      ∧ (fld pk.payload 0xA 1 = 0 → Leaves (.rsAnswer rx env) s (advanceRestripe env st.region
          (modStream .restripe st.region (fun x => { x with waiting := x.waiting.filter (fun y => y != (gi, m)) }) w)))

/-- O42. FETCH and its answers. An accepted FETCH of lines of any of the three kinds is answered as data member where the
region is served, and as holder once the packets it names are in; one that asks for settled lines waits for the units
that touched them, and one that cannot be answered yet waits. One of lines that are not a fragment's, of a region not
served, or of a reserved kind, is refused. FETCH of map, state, tiles and Watch is answered from what the member holds.
A FETCH_RSP gives its lines to the operation that asked, and the holders are asked next; one that refuses drops the
member; another goes to the state transfer. The class of a scrub's reads is log entry 95. -/
def Obligations.FetchesAreServed : Prop :=
  (∀ (s : State) (rx : Rx) (env : Env) (pk : Packet) (w : W) (gi : Nat) (g : Group) (m : Nat) (i : Instr) (kind ri : Nat) (v : Region) (f : FetchWait),
      (i, kind) ∈ [(Instr.fetchLine rx env, 0), (.fetchFrag rx env, 1), (.fetchRebuild rx env, 2)] →
      accepted (openW s) rx 0x40 (fun p => fld p 8 1 == kind || (kind == 0 && decide (6 < fld p 8 1))) = some (pk, w) →
      fld pk.payload 8 1 = kind → senderOf w pk.hdr = some (gi, g, m) →
      fetchTarget w gi (fld pk.payload 9 1) (fld pk.payload 0x10 6) (fld pk.payload 0xC 4) = some (ri, v) →
      f = { pk := pk, units := if fld pk.payload 9 1 = 0 && bit (fld pk.payload 0xB 1) 0 then
              unitsTouching w gi ri (fld pk.payload 0x10 6 - v.base) (64 * fld pk.payload 0xC 4) else [] } →
      (fetchServed w ri v (fld pk.payload 0xA 1) = false →
        Leaves i s (refuseFetch g m (fld pk.payload 0 8) 2 v.isSealed w))
      ∧ (fetchServed w ri v (fld pk.payload 0xA 1) = true →
          (unitsDone w f.units = false → Leaves i s { w with b := { w.b with fetchWaits := w.b.fetchWaits ++ [f] } })
          ∧ ∀ done x, unitsDone w f.units = true →
            (done, x) = (if fld pk.payload 9 1 = 0 then answerData env gi g m v pk.payload w else answerHolder env g m v pk.payload w) →
            Leaves i s (if done then x else { x with b := { x.b with fetchWaits := x.b.fetchWaits ++ [f] } })))
  ∧ (∀ (s : State) (rx : Rx) (env : Env) (pk : Packet) (w : W) (gi : Nat) (g : Group) (m : Nat) (i : Instr) (kind : Nat),
      (i, kind) ∈ [(Instr.fetchLine rx env, 0), (.fetchFrag rx env, 1), (.fetchRebuild rx env, 2)] →
      accepted (openW s) rx 0x40 (fun p => fld p 8 1 == kind || (kind == 0 && decide (6 < fld p 8 1))) = some (pk, w) →
      senderOf w pk.hdr = some (gi, g, m) →
      (fld pk.payload 8 1 = kind → fetchTarget w gi (fld pk.payload 9 1) (fld pk.payload 0x10 6) (fld pk.payload 0xC 4) = none →
        Leaves i s (refuseFetch g m (fld pk.payload 0 8) 2 false w))
      ∧ (kind = 0 → 6 < fld pk.payload 8 1 → Leaves i s (refuseFetch (getGrp w gi) m (fld pk.payload 0 8) 2 false w)))
  ∧ (∀ (s : State) (rx : Rx) (env : Env) (pk : Packet) (w : W) (gi : Nat) (g : Group) (m : Nat), senderOf w pk.hdr = some (gi, g, m) →
      (accepted (openW s) rx 0x40 (fun p => fld p 8 1 == 3) = some (pk, w) →
        Leaves (.fetchMap rx env) s (answerMap gi m pk.payload w))
      ∧ (accepted (openW s) rx 0x40 (fun p => fld p 8 1 == 4) = some (pk, w) →
        Leaves (.fetchState rx env) s (answerState gi m pk.payload w))
      ∧ (accepted (openW s) rx 0x40 (fun p => fld p 8 1 == 5) = some (pk, w) →
        Leaves (.fetchTiles rx env) s (answerTiles env { pk := pk, units := [] } gi m w))
      ∧ (accepted (openW s) rx 0x40 (fun p => fld p 8 1 == 6) = some (pk, w) →
        Leaves (.fetchWatch rx env) s (answerWatch gi m pk.payload w)))
  ∧ ∀ (s : State) (rx : Rx) (env : Env) (pk : Packet) (w : W) (gi : Nat) (g : Group) (m : Nat) (o : FetchOp),
      accepted (openW s) rx 0x50 (fun _ => true) = some (pk, w) → senderOf w pk.hdr = some (gi, g, m) →
      (w.b.fetches.find? (fun o => o.g == gi && o.chosen.contains (m, fld pk.payload 0 8)) = some o →
        (fld pk.payload 8 1 = 0 → Leaves (.fetchRsp rx env) s (askHolders o.id (modOp o.id (addAnswer m pk.payload g) w)))
        ∧ (fld pk.payload 8 1 ≠ 0 → Leaves (.fetchRsp rx env) s (opDrops env m o.id w)))
      ∧ (w.b.fetches.find? (fun o => o.g == gi && o.chosen.contains (m, fld pk.payload 0 8)) = none →
        Leaves (.fetchRsp rx env) s (stateRsp env gi m pk.payload w))

/-- O43. Degraded reads and the timers of their operations. A DEGRADED_READ whose checks pass asks for its first line, or
ends MEMBER_LOST where too few members are left; one that runs goes on. When an operation has its answers, the decoded own line of a sweep in hand is written back to its address, counted and
logged with DEGRADED_OK, enters the sum of the sweep and moves its front on, and the engine is free again; the decoded
line of a coded write is its old line, and that of a host read goes to the host. A member that misses the deadline is
dropped from an operation it has not answered; the retry timer queues an operation that waits. An operation that
lacks an answer, and a timer that does not apply, change nothing. -/
def Obligations.DegradedReadsComplete : Prop :=
  (∀ (s : State) (c : CmdId) (env : Env) (k : Cmd), Issued s c env k 0x64 → degradedCheck (begun s c k) k = none →
      k.prog = 0 → k.patch = [] → 64 ≤ arg k 0x20 8 →
      ∀ st q l x w, stripeOf (grpOf (openW s) (rgnOf s (arg k 0x10 2))) (rgnOf s (arg k 0x10 2)) (arg k 0x12 1) (arg k 0x18 8) = (st, q, l) →
        startFetch (.cmd k.id) ((rgnOf s (arg k 0x10 2)).grp.getD 0) (arg k 0x10 2) st l 1 (arg k 0x12 1) (begun s c k) = (x, w) →
        (x.isSome = true → Leaves (.degradedRead c env) s w)
        ∧ (x = none → Leaves (.degradedRead c env) s (complete env false c { status := .memberLost, result := toLe 8 0 } w)))
  ∧ (∀ (s : State) (c : CmdId) (env : Env) (k : Cmd), Runs s c k → opOf k = 0x64 →
      Leaves (.degradedRead c env) s (degradedGo env k (openW s)))
  ∧ (∀ (s : State) (op : Nat) (env : Env) (o : FetchOp) (r p line : Nat) (d : Bytes), Calm s env → findOp (openW s) op = some o →
      o.why = .sweep r → opReady (openW s) o = true → (∀ x ∈ o.chosen, x.1 ≠ (groupOf s o.g).self) →
      o.target = (groupOf s o.g).self → line = opAddr (openW s) o → p = portOf s.build line →
      decodedLine (openW s) o 0 = some d → d.length = 64 → s.blk.fetches = [o] → (rgnOf s r).sweeping = true →
      (rgnOf s r).base + (rgnOf s r).front = line → portsReady (openW s) line 64 = true →
      (∀ e ∈ s.blk.slices, e.2.haz = [] ∧ e.2.need = [] ∧ e.2.chan = []) →
      Leads (.degradedReadDone op env) s (fun t =>
        t.blk = { s.blk with fetches := [], cnt := t.blk.cnt, slices := t.blk.slices, ctxs := t.blk.ctxs, tlm := t.blk.tlm
                             mdOut := t.blk.mdOut
                             rgns := tset s.blk.rgns r
                               { rgnOf s r with sweepS := (rgnOf s r).sweepS ^^^ bearingOf (grpOf (openW s) (rgnOf s r)) 8 line d
                                                front := (rgnOf s r).front + 64 } }
        ∧ (sliceOf t p).cntDegr = (sliceOf s p).cntDegr + 1 ∧ (sliceOf t p).err = (sliceOf s p).err ||| 4
        ∧ t.blk.tlm.elNext = s.blk.tlm.elNext + 1
        ∧ (∀ x, { ctxOf t x with watch := {} } = { ctxOf s x with watch := {} })
        ∧ (∀ i, i < 64 → byteAt t (line + i) = d.getD i 0) ∧ SameOutside s t line 64))
  ∧ (∀ (s : State) (op p line : Nat) (env : Env) (o x : FetchOp) (c : Rsp) (d : Bytes) (w v : W), findOp (openW s) op = some o →
      enginePrio o.why = 0 → opReady (openW s) o = true → portsReady (openW s) (opAddr (openW s) o) 64 = true →
      ownAnswer env o (openW s) = some (c, x, w) → line = opAddr w x → p = portOf s.build line → decodedLine w x 0 = some d →
      v = assignEngines 8 (dropOp op w) →
      (c ≠ .ok → Leaves (.degradedReadDone op env) s (opDrops env (getGrp w x.g).self op w))
      ∧ (∀ q id, c = .ok → x.why = .job q id → x.target = (getGrp v x.g).self →
          Leaves (.degradedReadDone op env) s (writeNew q id d (noteDegraded p line (opRegion v x).ctx v)))
      ∧ (∀ q tag, c = .ok → x.why = .host q tag → Leaves (.degradedReadDone op env) s (hostDecoded q tag line d v)))
  ∧ (∀ (s : State) (op : Nat) (env : Env), (∀ o, findOp (openW s) op = some o →
        enginePrio o.why ≠ 0 ∨ opReady (openW s) o = false ∨ portsReady (openW s) (opAddr (openW s) o) 64 = false
          ∨ ownAnswer env o (openW s) = none) →
      Blocks (.degradedReadDone op env) s s.blk)
  ∧ (∀ (s : State) (op m : Nat) (env : Env),
      (∀ o, findOp (openW s) op = some o → (o.chosen.any (fun c => c.1 == m)) = true → answered o m = false →
        Leaves (.fetchDeadlineExpiry op m env) s (opDrops env m op (openW s)))
      ∧ ((∀ o, findOp (openW s) op = some o → (o.chosen.any (fun c => c.1 == m)) = false ∨ answered o m = true) →
        Blocks (.fetchDeadlineExpiry op m env) s s.blk))
  ∧ ∀ (s : State) (op : Nat),
      (∀ o, findOp (openW s) op = some o → o.waiting = true → Leaves (.fetchRetryTimer op) s
        (assignEngines 8 (modOp op (fun o => { o with waiting := false, queued := true, engine := none }) (openW s))))
      ∧ ((∀ o, findOp (openW s) op = some o → o.waiting = false) → Blocks (.fetchRetryTimer op) s s.blk)
      ∧ ∀ o, s.blk.fetches = [o] → o.id = op → o.waiting = true → engineCount (openW s) = 0 → s.blk.streams = [] →
          Blocks (.fetchRetryTimer op) s { s.blk with fetches := [{ o with waiting := false, queued := true, engine := none }] }

/-- O44. Parity rebuild and parity scrub. A rebuild with its answers and packets in, and its line free, writes the parity
line, with the deltas it holds, and takes it from the unknown ones; a write that fails starts it again. A scrub pass of a region that may be scrubbed begins with
its first fragment, with the skip count at 0. A scrubbed fragment that agrees with its parity is counted as passed,
and the pass goes on; one that differs is repaired, counted and raises the interrupt, and a repair that fails is
logged. What lacks an answer, or whose lines are not free, changes nothing. -/
def Obligations.ParityIsRebuiltAndScrubbed : Prop :=
  (∀ (s : State) (op : Nat) (env : Env) (o : FetchOp) (a : Nat) (d : Bytes), Calm s env → findOp (openW s) op = some o →
      o.why = .rebuild → opReady (openW s) o = true →
      heldUpTo (openW s) o (groupOf s o.g) (roleOf (groupOf s o.g).n (groupOf s o.g).m (groupOf s o.g).self o.stripe).2 = true →
      rebuiltLine (openW s) o 0 = (a, d) → linesFree (openW s) a 64 = true →
      ∀ v, v = snapEntries (s.blk.pool.filter (fun e => e.g == o.g && !e.applied && e.pkts.any (fun k => k.lines.any (fun l => l.1 == a)))) (openW s) →
      Leaves (.parityRebuild op env) s (retryFetches env (modGrp o.g (fun g => { g with unknown := g.unknown.filter (fun l => l != a) })
        (assignEngines 8 (dropOp op (putBytes (present1 (holderAcc env (opRegion v o).ctx) 1 a v) a d))))))
  ∧ (∀ (s : State) (op : Nat) (env : Env) (o : FetchOp) (a : Nat) (d : Bytes) (c : Rsp) (v w : W), findOp (openW s) op = some o →
      o.why = .rebuild → opReady (openW s) o = true →
      heldUpTo (openW s) o (groupOf s o.g) (roleOf (groupOf s o.g).n (groupOf s o.g).m (groupOf s o.g).self o.stripe).2 = true →
      rebuiltLine (openW s) o 0 = (a, d) → linesFree (openW s) a 64 = true →
      v = snapEntries (s.blk.pool.filter (fun e => e.g == o.g && !e.applied && e.pkts.any (fun k => k.lines.any (fun l => l.1 == a)))) (openW s) →
      writeLine (holderAcc env (opRegion v o).ctx) a d v = (c, w) → c ≠ .ok →
      Leaves (.parityRebuild op env) s (assignEngines 8 (modOp op (fun o => { o with waiting := true, chosen := [], answers := [] })
        (logOther 4 0 (portOf s.build a) 0 [0, 0, a] w))))
  ∧ (∀ (s : State) (op : Nat) (env : Env), (∀ o, findOp (openW s) op = some o → opReady (openW s) o = false
        ∨ heldUpTo (openW s) o (groupOf s o.g) (roleOf (groupOf s o.g).n (groupOf s o.g).m (groupOf s o.g).self o.stripe).2 = false
        ∨ linesFree (openW s) (opAddr (openW s) o) (64 * o.lines) = false) →
      ((∀ o, findOp (openW s) op = some o → o.lines = 1) → Blocks (.parityRebuild op env) s s.blk)
      ∧ Blocks (.parityScrubStripe op env) s s.blk)
  ∧ (∀ (s : State) (r : Nat),
      ((rgnOf s r).scrub.isSome = true → Leaves (.parityScrubStart r) s (scrubGo r (openW s)))
      ∧ (scrubbable (openW s) r = false → (rgnOf s r).scrub = none → Blocks (.parityScrubStart r) s s.blk))
  ∧ (∀ (s : State) (r : Nat), scrubbable (openW s) r = true → (rgnOf s r).scrub = none →
      Leaves (.parityScrubStart r) s (scrubGo r (setRgn r { rgnOf s r with scrub := some 0, scrubMs := nowUs (openW s) / 1000, scrubSkip := false }
        { openW s with b := { s.blk with ras := { s.blk.ras with skipped := 0 } } })))
  ∧ ∀ (s : State) (op : Nat) (env : Env) (o : FetchOp) (ri bad : Nat) (c : Rsp) (x w : W), findOp (openW s) op = some o → o.why = .scrub ri →
      opReady (openW s) o = true →
      heldUpTo (openW s) o (groupOf s o.g) (roleOf (groupOf s o.g).n (groupOf s o.g).m (groupOf s o.g).self o.stripe).2 = true →
      linesFree (openW s) (opAddr (openW s) o) (64 * o.lines) = true → scrubLines env o o.lines (openW s) = (bad, c, x) →
      w = (if c = .ok then x else logOther 4 0 o.g 0 [0, 0, opAddr x o] x) →
      (bad = 0 → Leaves (.parityScrubStripe op env) s
        (scrubGo ri (heldApplies env (assignEngines 8 (dropOp op (modRgn ri (fun r => { r with scrub := r.scrub.map (· + 1) }) w))))))
      ∧ (0 < bad → Leaves (.parityScrubStripe op env) s
        (scrubGo ri (heldApplies env (assignEngines 8 (dropOp op (modRgn ri (fun r => { r with scrub := r.scrub.map (· + 1) })
          (setRas 6 o.g o.stripe { w with b := { w.b with ras := { w.b.ras with cntScrub := w.b.ras.cntScrub + bad } } })))))))

/-- O45. KERNEL_LOAD, KERNEL_RUN, dispatch and the time limits. A KERNEL_LOAD of length 0 empties its slot; one whose
image reads OK and keeps the rules takes the lowest free span and fills the slot; one that breaks a rule is DENIED with
the offset of the byte that does, and one that finds no span ends QUOTA. A KERNEL_RUN without RESUME whose checks pass
adds its run, with its parameter block as memory holds it and its place in fetch order as its ordinal; one with RESUME
starts in the same way, one of a library slot about to be replaced waits, and one that runs goes on. Dispatch gives the
one idle SE of a partition the chunk that is ready, and does nothing where no SE is idle. The end of a slice is noted in
its SE; a time limit faults the chunk, in its commit phase with the other code, and changes no SE without a chunk. -/
def Obligations.KernelsLoadAndRun : Prop :=
  (∀ (s : State) (c : CmdId) (env : Env) (k : Cmd), Issued s c env k 0x41 → kernelLoadCheck (begun s c k) k = none →
      (arg k 0x20 4 = 0 → Leads (.kernelLoad c env) s (fun t => Finished s t c k {}
        { begun s c k with b := { (begun s c k).b with eng := { s.blk.eng with kslots := terase s.blk.eng.kslots (arg k 0x10 1) } } }))
      ∧ ∀ img w b, arg k 0x20 4 ≠ 0 → inPlain (begun s c k) k.ctx (arg k 0x18 8) (arg k 0x20 4) = true →
          linesReadable (begun s c k) (arg k 0x18 8) (arg k 0x20 4) = true →
          readBytes (seAcc env k.ctx) (arg k 0x18 8) (arg k 0x20 4) (begun s c k) = (.ok, img, w) →
          (imageBad img = none → kAlloc (kSpans w (arg k 0x10 1)) (fld img 6 2) = some b →
            Leads (.kernelLoad c env) s (fun t => Finished s t c k {} (placeKernel (arg k 0x10 1) k.part img b w)))
          ∧ (imageBad img = none → kAlloc (kSpans w (arg k 0x10 1)) (fld img 6 2) = none →
            Leads (.kernelLoad c env) s (fun t => Finished s t c k { status := .quota, info := 7 } w))
          ∧ (∀ o, imageBad img = some o →
            Leads (.kernelLoad c env) s (fun t => Finished s t c k { status := .denied, info := 0x68, result := toLe 4 o } w)))
  ∧ (∀ (s : State) (c : CmdId) (env : Env) (k : Cmd), Issued s c env k 0x41 → kernelLoadCheck (begun s c k) k = none →
      Leaves (.kernelLoad c env) s (kernelLoadGo env k (begun s c k)))
  ∧ (∀ (s : State) (c : CmdId) (env : Env) (k : Cmd), Runs s c k →
      (opOf k = 0x41 → Leaves (.kernelLoad c env) s (kernelLoadGo env k (openW s)))
      ∧ (opOf k = 0x40 → Leaves (.kernelRun c env) s (kernelRunGo env k (openW s))))
  ∧ (∀ (s : State) (c : CmdId) (env : Env), patchHolds (openW s) c = true → Blocks (.kernelRun c env) s s.blk)
  ∧ (∀ (s : State) (c : CmdId) (env : Env) (k : Cmd), Issued s c env k 0x40 → kernelRunCheck (begun s c k) k = none →
      patchHolds (openW s) c = false → Leaves (.kernelRun c env) s (kernelRunStart env k (begun s c k)))
  ∧ (∀ (s : State) (c : CmdId) (env : Env) (k : Cmd), Issued s c env k 0x40 → kernelRunCheck (begun s c k) k = none →
      patchHolds (openW s) c = false → linesReadable (begun s c k) (arg k 0x28 8) 64 = true → bit (arg k 0x12 1) 0 = false →
      arg k 0x20 8 ≠ 0 → findRun (openW s) c = none → (∀ g ∈ s.blk.grps, g.2.state ≠ .broken) →
      Leads (.kernelRun c env) s (fun t => t.mem = s.mem ∧ ∃ r : Run, t.blk.eng.runs = s.blk.eng.runs ++ [r]
        ∧ r.cmd = c ∧ r.ctx = k.ctx ∧ r.part = k.part ∧ r.slot = arg k 0x10 1 ∧ r.first = arg k 0x18 8 ∧ r.count = arg k 0x20 8
        ∧ r.next = arg k 0x18 8 ∧ r.params = getBytes (openW s) (arg k 0x28 8) 64 ∧ r.ordinal = subMod k.runNo (ctxOf s k.ctx).watch.runBase 65536
        ∧ r.watch = openWatch (openW s) k.ctx ∧ r.ended = 0 ∧ r.stopped = false
        ∧ r.order = k.order))
  ∧ (∀ (s : State) (p e n : Nat) (env : Env) (r : Run),
      (List.range s.build.nse).filter (fun e => partOfSe? (openW s) e == some p) = [e] →
      (seOf s e).state = .idle → (seOf s e).drain = false → (seOf s e).sliceOut = false → inService (openW s) = true →
      (seOf s e).ctx ∈ readyCtxs (openW s) p → readyRun (openW s) p (seOf s e).ctx = some (r, n) →
      (∀ l ∈ startLines (openW s) r, linesReadable (openW s) l 64 = true) →
      Leaves (.chunkDispatch p env) s (startChunk env e r n (openW s)))
  ∧ (∀ (s : State) (p : Nat) (env : Env),
      (∀ e, partOfSe? (openW s) e = some p → (seOf s e).state ≠ .idle ∨ (seOf s e).drain = true) ∨ inService (openW s) = false →
      Blocks (.chunkDispatch p env) s s.blk)
  ∧ (∀ (s : State) (e : Nat), Blocks (.sliceExpiry e) s (withSe s.blk e { seOf s e with sliceOut := true }))
  ∧ (∀ (s : State) (e : Nat) (env : Env), (seOf s e).run.isSome = true → (seOf s e).ending = none →
      ((seOf s e).state = .running ∨ (seOf s e).state = .commit →
        Leaves (.kernelTimeout e env) s (kernelFault 0x74 false e (openW s)))
      ∧ ((seOf s e).state = .commit → Leaves (.commitPhaseTimeout e env) s (kernelFault 0x73 false e (openW s)))
      ∧ ((seOf s e).state = .running → Blocks (.commitPhaseTimeout e env) s s.blk))
  ∧ ∀ (s : State) (e : Nat) (env : Env),
      ((seOf s e).run = none → (seOf s e).ending = none →
        Blocks (.kernelTimeout e env) s s.blk ∧ Blocks (.commitPhaseTimeout e env) s s.blk)
      ∧ ((seOf s e).ending.isSome = true → Leaves (.kernelTimeout e env) s (finishCommit e (openW s))
        ∧ Leaves (.commitPhaseTimeout e env) s (finishCommit e (openW s)))

/-- O46. The scalar and control instructions of an SE. An SE at a scalar instruction writes its destination with the
result the instruction set gives, goes to the next instruction, and changes nothing else: 64-bit arithmetic that
wraps, shifts by the low six bits of the immediate, immediates sign-extended, SLIH replacing the upper half, and SCMP
writing 1 or 0. A branch goes to the instruction its immediate names when it is taken, and to the next one otherwise;
LOOP writes its register less one and is taken while that is not 0; NOP goes to the next. No register but LOOP's and
nothing else changes. One that goes past the last instruction faults its chunk 0x0074. -/
def Obligations.ScalarAndControlInstructions : Prop :=
  (∀ (s : State) (e : Nat) (r : Run) (x : Se) (i : Ins),
    (Stands s e 0x7E r x i → (tget s.blk.eng.kslots x.slot {}).ninstr ≤ x.pc + 1 →
      Leaves (.bolganNop e) s (kernelFault 0x74 false e (cntSe e 0x18 1 (openW s))))
    ∧ (Stands s e 0x10 r x i → (tget s.blk.eng.kslots x.slot {}).ninstr ≤ i.imm % 4096 →
      Leaves (.br e) s (kernelFault 0x74 false e (cntSe e 0x18 1 (openW s)))))
  ∧ (∀ (s : State) (e : Nat) (r : Run) (x : Se) (i : Ins) (k : Word), k = (BitVec.ofNat 32 i.imm).signExtend 64 →
    (At s e 0x01 r x i → Retires (.sli e) s e (setS i.d k x))
    ∧ (At s e 0x02 r x i → Retires (.slih e) s e (setS i.d (BitVec.ofNat 32 i.imm ++ (sreg x i.d).setWidth 32) x))
    ∧ (At s e 0x03 r x i → Retires (.sadd e) s e (setS i.d (sreg x i.a + sreg x i.b) x))
    ∧ (At s e 0x04 r x i → Retires (.saddi e) s e (setS i.d (sreg x i.a + k) x))
    ∧ (At s e 0x05 r x i → Retires (.ssub e) s e (setS i.d (sreg x i.a - sreg x i.b) x))
    ∧ (At s e 0x06 r x i → Retires (.smul e) s e (setS i.d (sreg x i.a * sreg x i.b) x))
    ∧ (At s e 0x07 r x i → Retires (.sand e) s e (setS i.d (sreg x i.a &&& sreg x i.b) x))
    ∧ (At s e 0x08 r x i → Retires (.sor e) s e (setS i.d (sreg x i.a ||| sreg x i.b) x))
    ∧ (At s e 0x09 r x i → Retires (.sxor e) s e (setS i.d (sreg x i.a ^^^ sreg x i.b) x))
    ∧ (At s e 0x0A r x i → Retires (.sshl e) s e (setS i.d (sreg x i.a <<< (i.imm % 64)) x))
    ∧ (At s e 0x0B r x i → Retires (.sshr e) s e (setS i.d (sreg x i.a >>> (i.imm % 64)) x))
    ∧ (At s e 0x0C r x i → Retires (.ssra e) s e (setS i.d ((sreg x i.a).sshiftRight (i.imm % 64)) x))
    ∧ (At s e 0x0D r x i → ∀ b : Bool,
        b = (if i.md = 0 then decide (sreg x i.a = sreg x i.b) else if i.md = 1 then decide (sreg x i.a ≠ sreg x i.b)
             else if i.md = 2 then decide ((sreg x i.a).toInt < (sreg x i.b).toInt)
             else if i.md = 3 then decide ((sreg x i.a).toNat < (sreg x i.b).toNat)
             else if i.md = 4 then decide ((sreg x i.b).toInt ≤ (sreg x i.a).toInt)
             else decide ((sreg x i.b).toNat ≤ (sreg x i.a).toNat)) →
        Retires (.scmp e) s e (setS i.d (if b then 1 else 0) x)))
  ∧ ∀ (s : State) (e : Nat) (r : Run) (x : Se) (i : Ins) (to_ : Nat), to_ = i.imm % 4096 →
    to_ < (tget s.blk.eng.kslots x.slot {}).ninstr →
    (At s e 0x10 r x i → Blocks (.br e) s (retired s e x to_))
    ∧ (At s e 0x11 r x i → Blocks (.bz e) s (retired s e x (if sreg x i.a = 0 then to_ else x.pc + 1)))
    ∧ (At s e 0x12 r x i → Blocks (.bnz e) s (retired s e x (if sreg x i.a = 0 then x.pc + 1 else to_)))
    ∧ (At s e 0x13 r x i → Blocks (.loop e) s
        (retired s e (setS i.a (sreg x i.a - 1) x) (if sreg x i.a = 1 then x.pc + 1 else to_)))
    ∧ (At s e 0x7E r x i → Retires (.bolganNop e) s e x)

/-- O47. The vector instructions of an SE. An SE at a vector instruction writes each lane of its destination with the
result of the lanes it names and goes to the next instruction; VEXT writes a scalar. Nothing else changes, unless an
armed injection makes its residue mismatch. -/
def Obligations.VectorInstructions : Prop :=
  ∀ (s : State) (e : Nat) (r : Run) (x : Se) (i : Ins) (a b c : List (BitVec 32)), Sound s e →
    a = vreg x i.a → b = vreg x i.b → c = vreg x i.c →
    (At s e 0x20 r x i → Retires (.vadd e) s e (setV i.d (lanes2 fAdd a b) x))
    ∧ (At s e 0x21 r x i → Retires (.vsub e) s e (setV i.d (lanes2 fSub a b) x))
    ∧ (At s e 0x22 r x i → Retires (.vmul e) s e (setV i.d (lanes2 fMul a b) x))
    ∧ (At s e 0x23 r x i → Retires (.vfma e) s e (setV i.d (((a.zip b).zip c).map (fun p =>
        enc32 (addV (if i.md.testBit 0 then negV (mulV (val32 p.1.1) (val32 p.1.2)) else mulV (val32 p.1.1) (val32 p.1.2))
                    (if i.md.testBit 1 then negV (val32 p.2) else val32 p.2)))) x))
    ∧ (At s e 0x24 r x i → Retires (.vmin e) s e (setV i.d (lanes2 fMin a b) x))
    ∧ (At s e 0x25 r x i → Retires (.vmax e) s e (setV i.d (lanes2 fMax a b) x))
    ∧ (At s e 0x28 r x i → Retires (.vrcp e) s e (setV i.d (a.map fRcp) x))
    ∧ (At s e 0x29 r x i → Retires (.vrsq e) s e (setV i.d (a.map fRsq) x))
    ∧ (At s e 0x2A r x i → Retires (.vsqrt e) s e (setV i.d (a.map fSqrt) x))
    ∧ (At s e 0x2B r x i → Retires (.vexp2 e) s e (setV i.d (a.map fExp2) x))
    ∧ (At s e 0x2C r x i → Retires (.vlog2 e) s e (setV i.d (a.map fLog2) x))
    ∧ (At s e 0x30 r x i → Retires (.vcmp e) s e (setV i.d (lanes2 (fun u v => if fCmp i.md u v then 0xFFFFFFFF else 0) a b) x))
    ∧ (At s e 0x31 r x i → Retires (.vsel e) s e (setV i.d (((a.zip b).zip c).map (fun p => if p.2 = 0 then p.1.2 else p.1.1)) x))
    ∧ (At s e 0x32 r x i → Retires (.vand e) s e (setV i.d (lanes2 (fun u v => u &&& v) a b) x))
    ∧ (At s e 0x33 r x i → Retires (.vor e) s e (setV i.d (lanes2 (fun u v => u ||| v) a b) x))
    ∧ (At s e 0x34 r x i → Retires (.vxor e) s e (setV i.d (lanes2 (fun u v => u ^^^ v) a b) x))
    ∧ (At s e 0x35 r x i → Retires (.vshl e) s e (setV i.d (a.map (fun (u : BitVec 32) => u <<< (i.imm % 32))) x))
    ∧ (At s e 0x36 r x i → Retires (.vshr e) s e (setV i.d (a.map (fun (u : BitVec 32) => u >>> (i.imm % 32))) x))
    ∧ (At s e 0x37 r x i → Retires (.viadd e) s e (setV i.d (lanes2 (fun u v => u + v) a b) x))
    ∧ (At s e 0x38 r x i → Retires (.vcvt e) s e (setV i.d (a.map (if i.md = 0 then fOfInt else fToInt)) x))
    ∧ (At s e 0x39 r x i → Retires (.vbcast e) s e (setV i.d (List.replicate 128 ((sreg x i.a).setWidth 32)) x))
    ∧ (At s e 0x3A r x i → Retires (.vext e) s e (setS i.d ((a.getD (i.imm % 128) 0).setWidth 64) x))
    ∧ (At s e 0x3B r x i → Retires (.vidx e) s e
        (setV i.d ((List.range 128).map (fun l => (sreg x i.a).setWidth 32 + BitVec.ofNat 32 l)) x))
    ∧ (At s e 0x51 r x i → Retires (.rand e) s e (setV i.d ((List.range 128).map (fun l =>
        (crg128 { x0 := BitVec.ofNat 32 (fld r.params 0x30 4), x1 := BitVec.ofNat 32 (fld r.params 0x34 4)
                  x2 := BitVec.ofNat 32 (fld r.params 0x38 4), x3 := BitVec.ofNat 32 (fld r.params 0x3C 4) }
          (crgCounter ((sreg x i.a).toNat + l) (r.regions.getD (i.imm % 8) 0) (sreg x i.b).toNat (i.imm >>> 16))).at i.md)) x))

/-- O48. Loads from and stores to the local store. LDV of a loaded strip reads 128 elements of its stream from the local
store, widened where they are 16 bits wide; LDL of an allowed and loaded address reads 512 bytes, and STL of an allowed
address writes 512 bytes and leaves every other byte of the local store; WAITL of a loaded strip only goes on. Where
what they read is not loaded they go on loading instead, at the same instruction. An element operand that is no multiple
of 128, or not below the count, faults LDV and WAITL; an address not allowed faults LDL and STL. A byte of the local
store that nothing has loaded or stored since the chunk started is a free value (log entry 101). -/
def Obligations.LocalStoreInstructions : Prop :=
  ∀ (s : State) (e : Nat) (r : Run) (x : Se) (i : Ins),
    (At s e 0x40 r x i → elemOk x (sreg x i.b) = true → stripLoaded (openW s) r x ((sreg x i.b).toNat / 128) = true →
      ∀ st, streamNo (openW s) r (i.imm % 8) = some st →
      Retires (.ldv e) s e (setV i.d
        (if st.2.1 = 4 ∨ st.2.2.1 = 0 then bytesVec (lsGet x (256 * st.2.2.2.1 + (sreg x i.b).toNat * 4) 512)
         else (List.range 128).map (fun l => widen (streamFmt st.2.2.1)
           (fld (lsGet x (256 * st.2.2.2.1 + (sreg x i.b).toNat * 2) 256) (2 * l) 2))) x))
    ∧ (At s e 0x40 r x i → elemOk x (sreg x i.b) = false → Leaves (.ldv e) s (kernelFault 0x72 false e (openW s)))
    ∧ (∀ a, a = (sreg x i.b + BitVec.ofNat 64 i.imm).toNat →
        (At s e 0x41 r x i → lsOk (openW s) r a false = true → lsLoaded (openW s) r x a = true →
          Retires (.ldl e) s e (setV i.d (bytesVec (lsGet x a 512)) x))
        ∧ (At s e 0x41 r x i → lsOk (openW s) r a false = false → Leaves (.ldl e) s (kernelFault 0x71 false e (openW s)))
        ∧ (At s e 0x42 r x i → lsOk (openW s) r a true = true → (vreg x i.a).length = 128 →
          Leads (.stl e) s (fun t => ∃ y : Se, y = { x with store := y.store } ∧ t.mem = s.mem ∧ t.blk = retired s e y (x.pc + 1)
            ∧ (∀ j, j < 512 → lsByte y (a + j) = (vecBytes (vreg x i.a)).getD j 0)
            ∧ ∀ j, j < a ∨ a + 512 ≤ j → lsByte y j = lsByte x j))
        ∧ (At s e 0x41 r x i → lsOk (openW s) r a false = true → lsLoaded (openW s) r x a = false →
            Leaves (.ldl e) s (loadStep e (openW s)))
        ∧ (At s e 0x42 r x i → lsOk (openW s) r a true = false → Leaves (.stl e) s (kernelFault 0x71 false e (openW s))))
    ∧ (At s e 0x43 r x i → elemOk x (sreg x i.a) = true → stripLoaded (openW s) r x ((sreg x i.a).toNat / 128) = true →
        Retires (.waitl e) s e x)
    ∧ (At s e 0x43 r x i → elemOk x (sreg x i.a) = false → Leaves (.waitl e) s (kernelFault 0x72 false e (openW s)))
    ∧ (At s e 0x43 r x i → elemOk x (sreg x i.a) = true → stripLoaded (openW s) r x ((sreg x i.a).toNat / 128) = false →
        Leaves (.waitl e) s (loadStep e (openW s)))
    ∧ (At s e 0x40 r x i → elemOk x (sreg x i.b) = true → stripLoaded (openW s) r x ((sreg x i.b).toNat / 128) = false →
        Leaves (.ldv e) s (loadStep e (openW s)))

/-- O49. The commit phase and the Datum instructions of an SE. CBEGIN outside the commit phase enters it and opens a unit
for each COD stream; CEND ends it, and outside it enters one first; a residue mismatch faults the chunk there and drains
the SE. CST and ST in the phase store their strip, CST through the local store with its deltas, ST narrowed; DADD in it
adds to its element and its tile, or where an access fails adds nothing and the run is poisoned; each of them outside
it faults 0x0070, as CBEGIN does inside, and an element out of range faults 0x0072. LDDS outside the phase writes the
value of its element, and inside faults 0x0070; each of these waits, its lines flushed, while they are not free. QACC
adds the sum of the converted lanes to its register. -/
def Obligations.CommitInstructions : Prop :=
  ∀ (s : State) (e : Nat) (r : Run) (x : Se) (i : Ins) (env : Env),
    (At s e 0x48 r x i → (x.state = .running → Leaves (.cbegin e) s
        (goNext e (openChunkUnits e r (setSe e { x with state := .commit } (openW s)))))
      ∧ (x.state = .running → codStreams (openW s) r = [] → Retires (.cbegin e) s e { x with state := .commit })
      ∧ (x.state = .commit → Leaves (.cbegin e) s (kernelFault 0x70 false e (openW s))))
    ∧ (At s e 0x49 r x i → (x.state = .running → Leaves (.cst e env) s (kernelFault 0x70 false e (openW s)))
      ∧ (x.state = .commit → elemOk x (sreg x i.b) = false → Leaves (.cst e env) s (kernelFault 0x72 false e (openW s)))
      ∧ (x.state = .commit → elemOk x (sreg x i.b) = true → stripLoaded (openW s) r x ((sreg x i.b).toNat / 128) = false →
        Leaves (.cst e env) s (loadStep e (openW s)))
      ∧ ∀ st es ls new a, x.state = .commit → elemOk x (sreg x i.b) = true →
        stripLoaded (openW s) r x ((sreg x i.b).toNat / 128) = true → streamNo (openW s) r (i.imm % 8) = some st →
        es = (if st.2.2.1 = 0 then 4 else 2) → ls = 256 * st.2.2.2.1 + es * (sreg x i.b).toNat →
        new = (vreg x i.a).flatMap (fun v => toLe es (if es = 4 then v.toNat else narrow (streamFmt st.2.2.1) v)) →
        a = stripAt (openW s) r x (rgnOf s st.2.2.2.2) ((sreg x i.b).toNat / 128) →
        (storeReady (openW s) a (128 * es) true = true →
          Leaves (.cst e env) s (goNext e (storeLines env e (tfind x.units (i.imm % 8)) (2 * es) a new
            (xorBytes (lsGet x ls (128 * es)) new) (setSe e (lsPut ls new x) (openW s)))))
        ∧ (storeReady (openW s) a (128 * es) true = false → Leaves (.cst e env) s (flushLines a (128 * es) (openW s))))
    ∧ (At s e 0x4A r x i → (x.state = .running → Leaves (.st e env) s (kernelFault 0x70 false e (openW s)))
      ∧ (x.state = .commit → elemOk x (sreg x i.b) = false → Leaves (.st e env) s (kernelFault 0x72 false e (openW s)))
      ∧ ∀ st es new a, x.state = .commit → elemOk x (sreg x i.b) = true → streamNo (openW s) r (i.imm % 8) = some st →
        es = (if st.2.2.1 = 0 then 4 else 2) →
        new = ((vreg x i.a).zip (vreg x i.c)).flatMap (fun p => toLe es
          (if es = 4 then p.1.toNat else if i.md = 1 then narrowSr (streamFmt st.2.2.1) p.1 p.2 else narrow (streamFmt st.2.2.1) p.1)) →
        a = stripAt (openW s) r x (rgnOf s st.2.2.2.2) ((sreg x i.b).toNat / 128) →
        (storeReady (openW s) a (128 * es) false = true →
          Leaves (.st e env) s (goNext e (storeLines env e none (2 * es) a new [] (openW s))))
        ∧ (storeReady (openW s) a (128 * es) false = false → Leaves (.st e env) s (flushLines a (128 * es) (openW s))))
    ∧ (At s e 0x4B r x i → (x.state = .running → Leaves (.dadd e env) s (kernelFault 0x70 false e (openW s)))
      ∧ ∀ st g el, x.state = .commit → streamNo (openW s) r (i.imm % 8) = some st → g = rgnOf s st.2.2.2.2 → el = (sreg x i.a).toNat →
        (4096 ≤ el ∨ elemsOf g ≤ el → Leaves (.dadd e env) s (kernelFault 0x72 false e (openW s)))
        ∧ (el < 4096 → el < elemsOf g →
          (auBusy (openW s) st.2.2.2.2 = true → Blocks (.dadd e env) s s.blk)
          ∧ (auBusy (openW s) st.2.2.2.2 = false → linesFree (openW s) (stateAt g 0 0) 64 = false →
            Leaves (.dadd e env) s (flushLines (stateAt g 0 0) 64 (openW s)))
          ∧ (auBusy (openW s) st.2.2.2.2 = false → linesFree (openW s) (stateAt g 0 0) 64 = true →
            linesFree (openW s) (lineOf (elemAt g 0 el)) 64 = false →
            Leaves (.dadd e env) s (flushLines (lineOf (elemAt g 0 el)) 64 (openW s)))
          ∧ ∀ (clear : W → W) c0 c1 c2 c3 old b new v w w1 w2 w3,
            clear = modSe e (fun y => { y with emax := none, qRange := false, qNonfinite := false }) →
            auBusy (openW s) st.2.2.2.2 = false → linesFree (openW s) (stateAt g 0 0) 64 = true →
            linesFree (openW s) (lineOf (elemAt g 0 el)) 64 = true → readTile env g 0 0 (openW s) = (c0, old, w) →
            readBytes (auAcc env g.ctx) (elemAt g 0 el) (esOf g) w = (c1, b, w1) →
            daddTile g x x.chunk (signed (datumBits g) (sreg x i.b).toNat) old = (new, v) →
            writePart (auAcc env g.ctx) (elemAt g 0 el)
              (storeInt g ((((loadInt g b : Nat) : Int) + v) % (2 ^ datumBits g : Nat)).toNat) w1 = (c2, w2) →
            writeTile env st.2.2.2.2 0 0 old new w2 = (c3, w3) →
            (worse (worse c0 c1) (worse c2 c3) = .ok → Leaves (.dadd e env) s (goNext e (clear
              (countEvent st.2.2.2.2 0 new (cntMp (portOf w3.build (elemAt g 0 el)) 0x60 1 w3)))))
            ∧ (worse c0 c1 ≠ .ok → Leaves (.dadd e env) s (goNext e (clear (storeFailed e (lineOf (elemAt g 0 el)) none w1))))
            ∧ (worse c0 c1 = .ok → c2 ≠ .ok → Leaves (.dadd e env) s (goNext e (clear (storeFailed e (lineOf (elemAt g 0 el)) none w2))))
            ∧ (worse c0 c1 = .ok → c2 = .ok → c3 ≠ .ok →
              Leaves (.dadd e env) s (goNext e (clear (storeFailed e (lineOf (elemAt g 0 el)) none w3))))))
    ∧ (Stands s e 0x4C r x i → ∀ v w, v = cntSe e 0x18 1 (openW s) →
        w = (if x.state = .commit then v else openChunkUnits e r (setSe e { x with state := .commit } v)) →
        (x.residue = false → Leaves (.cend e env) s (endCommit e true w))
        ∧ (x.residue = true → Leaves (.cend e env) s (endCommit e true (logEv 0x0683 2 e x.ctx [0, e]
            (modSe e (fun y => { y with resCnt := sat32 y.resCnt, drain := true, err := y.err ||| 9, residue := false })
              (runFault e 0x75 false w))))))
    ∧ (At s e 0x44 r x i → (x.state = .commit → Leaves (.ldds e env) s (kernelFault 0x70 false e (openW s)))
      ∧ ∀ st g el, x.state = .running → streamNo (openW s) r (i.imm % 8) = some st → g = rgnOf s st.2.2.2.2 → el = (sreg x i.a).toNat →
        (elemsOf g ≤ el → Leaves (.ldds e env) s (kernelFault 0x72 false e (openW s)))
        ∧ (el < elemsOf g → auBusy (openW s) st.2.2.2.2 = true → Blocks (.ldds e env) s s.blk)
        ∧ (el < elemsOf g → auBusy (openW s) st.2.2.2.2 = false → linesReadable (openW s) (stateAt g 0 (el / 4096)) 64 = false →
          Leaves (.ldds e env) s (flushLines (stateAt g 0 (el / 4096)) 64 (openW s)))
        ∧ (el < elemsOf g → auBusy (openW s) st.2.2.2.2 = false → linesReadable (openW s) (stateAt g 0 (el / 4096)) 64 = true →
          linesReadable (openW s) (lineOf (elemAt g 0 el)) 64 = false →
          Leaves (.ldds e env) s (flushLines (lineOf (elemAt g 0 el)) 64 (openW s)))
        ∧ ∀ c0 c1 t b w w1, el < elemsOf g → auBusy (openW s) st.2.2.2.2 = false →
          linesReadable (openW s) (stateAt g 0 (el / 4096)) 64 = true → linesReadable (openW s) (lineOf (elemAt g 0 el)) 64 = true →
          readTileAs (seAcc env x.ctx) g 0 (el / 4096) (openW s) = (c0, t, w) →
          readBytes (seAcc env x.ctx) (elemAt g 0 el) (esOf g) w = (c1, b, w1) →
          (worse c0 c1 = .ok → Leaves (.ldds e env) s (goNext e (modSe e (setS i.d (BitVec.ofNat 64
            (readOut f32 (signed (datumBits g) (loadInt g b)) t.anchor).1)) w1)))
          ∧ (worse c0 c1 ≠ .ok → Leaves (.ldds e env) s (kernelFault 0x76 (worse c0 c1 == .denied) e w1)))
    ∧ (At s e 0x50 r x i → Sound s e → ∀ st g cs y, streamNo (openW s) r (i.imm % 8) = some st → g = rgnOf s st.2.2.2.2 →
        cs = (vreg x i.a).map (fun v => convert (val32 v) 0 (tget x.anchors (i.imm % 8) 0) (datumBits g) g.headroom) →
        y = { x with emax := cs.foldl (fun m c => maxE m c.exp) x.emax, qRange := x.qRange || cs.any (·.rangeQ)
                     qNonfinite := x.qNonfinite || cs.any (·.nonfinite) } →
        Retires (.qacc e) s e (setS i.d
          (sreg x i.d + BitVec.ofInt 64 (cs.foldl (fun t c => t + signed (datumBits g) c.add) 0)) y))

/-- O50. A critical command that fails check 2. A critical command that may start and fails check 2 completes AUTH_FAIL:
INFO is 1 where its tag differs from TAG and 2 where only its counter fails (for COUNTER_RESYNC one that is not RSN,
for the others one not above LAST), RESULT holds LAST and RSN of its partition and class, and the failure is one for
the alarm levels. It holds for commands of queue pairs and of the fabric, of a group command once its member list can
be read and of a PARTITION_SET while no patch runs; an undisturbed one of a queue pair reports it in its entry. -/
def Obligations.FailedTagsAnswerAuthFail : Prop :=
  ∀ (s : State) (c : CmdId) (env : Env) (k : Cmd) (i : Instr) (info : Nat) (o : Outc) (w : W),
    (i, opOf k, true) ∈ [(Instr.regionDefine c env, 0x10, true), (.regionRetire c env, 0x11, true), (.kernelLoad c env, 0x41, true),
      (.memberFence c env, 0x60, true), (.memberAdoptSurvivor c env, 0x61, arg k 0x2D 1 != 1),
      (.memberAdoptSpare c env, 0x61, arg k 0x2D 1 == 1), (.relightStart c env, 0x62, true), (.restripe c env, 0x63, true),
      (.keyInstallInstall c env, 0x80, keyOp 0 k), (.keyInstallActivate c env, 0x80, keyOp 1 k),
      (.keyInstallErase c env, 0x80, keyOp 2 k), (.counterResync c env, 0x81, true), (.snuff c env, 0x82, true),
      (.imagePatch c env, 0x83, true), (.partitionSet c env, 0x84, true), (.groupDefine c env, 0x85, arg k 0x11 1 != 0),
      (.groupRelease c env, 0x85, arg k 0x11 1 == 0), (.injectArm c env, 0x86, arg k 0x10 4 != 0),
      (.injectDisarm c env, 0x86, arg k 0x10 4 == 0)] →
    findCmd (openW s) c = some k → (c.q ≠ fabricQ → ctxRuns (ctxOf s k.ctx) = true) → k.outc = none → k.phase = .fetched →
    mayStart (openW s) k = true → s.blk.glb.state ≠ .snuffed → s.blk.ras.inj = [] →
    (i ∈ [Instr.groupDefine c env, .memberAdoptSurvivor c env, .memberAdoptSpare c env] → ListsReadable s k) →
    (i = .partitionSet c env → s.blk.patch = none) →
    (padTo 16 (cmdTag s.blk.sec k.slot k.ctx k.part k.cls) ≠ bytesAt k.slot 0x50 16 ∧ info = 1
      ∨ padTo 16 (cmdTag s.blk.sec k.slot k.ctx k.part k.cls) = bytesAt k.slot 0x50 16 ∧ info = 2
        ∧ (if opOf k = 0x81 then arg k 0x40 8 ≠ rsnOf s.blk.sec k.part k.cls else arg k 0x40 8 ≤ lastOf s.blk.sec k.part k.cls)) →
    o = { status := .authFail, info := info
          result := toLe 8 (lastOf s.blk.sec k.part k.cls) ++ toLe 8 (rsnOf s.blk.sec k.part k.cls) } →
    w = modCmd c (fun x => { x with phase := .running }) (countStart k (authFailure (opOf k) (openW s))) →
    Leaves i s (complete env false c o w)
    ∧ (c.q ≠ fabricQ → Calm s env → Reports s c k → Leads i s (fun t => Finished s t c k o w))

/-- O51. KEY_INSTALL and COUNTER_RESYNC. Each KEY_INSTALL is DENIED 0xB3 on an entry of another partition. INSTALL
unwraps its key, ends DENIED 0xB4 as an authentication failure where that fails and 0xB5 on the active slot, and
writes the slot, the first slot of a new entry active. ACTIVATE makes a filled slot active and is DENIED 0xB5 on an
empty one or without an entry. ERASE empties a slot that is not the active one of a group, frees an entry left empty, and
without an entry has nothing to do. COUNTER_RESYNC returns the counters it has set. Nothing waits to leave the block here;
where something does, the links go on with it. -/
def Obligations.KeysAreInstalled : Prop :=
  ∀ (s : State) (c : CmdId) (env : Env) (k : Cmd) (b : W), b = begun s c k →
    Unsent s →
    (Issued s c env k 0x80 → ∀ o, foreignKey b k = some o →
      o = { status := .denied, info := 0xB3 }
      ∧ (keyOp 0 k = true → Leads (.keyInstallInstall c env) s (fun t => Finished s t c k o b))
      ∧ (keyOp 1 k = true → Leads (.keyInstallActivate c env) s (fun t => Finished s t c k o b))
      ∧ (keyOp 2 k = true → Leads (.keyInstallErase c env) s (fun t => Finished s t c k o b)))
    ∧ (Issued s c env k 0x80 → foreignKey b k = none →
      (sealEntry b (keyDgn k) = none →
        (keyOp 1 k = true → Leads (.keyInstallActivate c env) s (fun t => Finished s t c k { status := .denied, info := 0xB5 } b))
        ∧ (keyOp 2 k = true → Leads (.keyInstallErase c env) s (fun t => Finished s t c k {} b)))
      ∧
      (keyOp 0 k = true →
        (Config.aesUnwrap (kWrap b.b.sec k.part) (bytesAt k.slot 0x18 40) = none →
          Leads (.keyInstallInstall c env) s (fun t => Finished s t c k { status := .denied, info := 0xB4 } (authFailure 0x80 b)))
        ∧ ∀ key, Config.aesUnwrap (kWrap b.b.sec k.part) (bytesAt k.slot 0x18 40) = some key →
          (∀ n e, sealEntry b (keyDgn k) = some (n, e) →
            (e.active = keySlotOf k →
              Leads (.keyInstallInstall c env) s (fun t => Finished s t c k { status := .denied, info := 0xB5 } b))
            ∧ (e.active ≠ keySlotOf k → Leads (.keyInstallInstall c env) s (fun t => Finished s t c k {}
                { b with b := { b.b with sec := { b.b.sec with
                    skeys := tset s.blk.sec.skeys n (setKeySlot (keySlotOf k) (some (padTo 32 key)) e) } } })))
          ∧ (sealEntry b (keyDgn k) = none →
            (freeIndex s.blk.sec.skeys 256 = none →
              Leads (.keyInstallInstall c env) s (fun t => Finished s t c k { status := .quota, info := 8 } b))
            ∧ ∀ n, freeIndex s.blk.sec.skeys 256 = some n → Leads (.keyInstallInstall c env) s (fun t => Finished s t c k {}
                { b with b := { b.b with sec := { b.b.sec with
                    skeys := tset s.blk.sec.skeys n (setKeySlot (keySlotOf k) (some (padTo 32 key))
                      { dgn := keyDgn k, owner := k.part, active := keySlotOf k }) } } })))
      ∧ (keyOp 1 k = true → ∀ n e, sealEntry b (keyDgn k) = some (n, e) →
        (keySlot e (keySlotOf k) = none →
          Leads (.keyInstallActivate c env) s (fun t => Finished s t c k { status := .denied, info := 0xB5 } b))
        ∧ ((keySlot e (keySlotOf k)).isSome = true → Leads (.keyInstallActivate c env) s (fun t => Finished s t c k {}
            { b with b := { b.b with sec := { b.b.sec with
                skeys := tset s.blk.sec.skeys n { e with active := keySlotOf k } } } })))
      ∧ (keyOp 2 k = true → ∀ n e, sealEntry b (keyDgn k) = some (n, e) →
        (e.active = keySlotOf k → (∃ g ∈ s.blk.grps, g.2.state ≠ .free ∧ g.2.dgn = keyDgn k) →
          Leads (.keyInstallErase c env) s (fun t => Finished s t c k { status := .denied, info := 0xB5 } b))
        ∧ (e.active ≠ keySlotOf k ∨ (∀ g ∈ s.blk.grps, g.2.state = .free ∨ g.2.dgn ≠ keyDgn k) →
          Leads (.keyInstallErase c env) s (fun t => Finished s t c k {}
            { b with b := { b.b with sec := { b.b.sec with
                skeys := if keySlot e (1 - keySlotOf k) = none then terase s.blk.sec.skeys n
                         else tset s.blk.sec.skeys n (setKeySlot (keySlotOf k) none e) } } }))))
    ∧ (Issued s c env k 0x81 → Leads (.counterResync c env) s (fun t => Finished s t c k
        { result := toLe 8 (lastOf b.b.sec k.part k.cls) ++ toLe 8 (rsnOf b.b.sec k.part k.cls) } b
        ∧ lastOf b.b.sec k.part k.cls = max (lastOf s.blk.sec k.part k.cls) (arg k 0x10 8)
        ∧ rsnOf b.b.sec k.part k.cls = (rsnOf s.blk.sec k.part k.cls + 1) % 2 ^ 64))

/-- O52. Snuff by command and by tamper. SNUFF of a partition other than 0 is DENIED 0xB2. A SNUFF that starts, of a queue
pair of partition 0 or of the fabric, or a tamper or trip input, notes what it logs or sees and sets the latch with its cause, the time and level 3, and zeroises: no fuse word, derived key,
counter or seal key is left, KEY_OK is 0 and ZEROISED 1. On a block that is otherwise at rest it is then SNUFFED with
no command in flight; with the main domain in reset only the latch, the keys and the event log change; a second trigger does nothing more. An input that the build
lacks does nothing. -/
def Obligations.SnuffZeroises : Prop :=
  (∀ (s : State) (c : CmdId) (env : Env) (k : Cmd), Issued s c env k 0x82 →
      (k.part ≠ 0 → Leads (.snuff c env) s (fun t => Finished s t c k { status := .denied, info := 0xB2 } (begun s c k)))
      ∧ (k.part = 0 → Leaves (.snuff c env) s
          (snuffAll env 4 (some c) (logOther 9 0 0 k.ctx [0x82, arg k 0x10 1, 0] (begun s c k)))))
  ∧ (∀ (s : State) (c : CmdId) (env : Env) (k : Cmd), findCmd (openW s) c = some k → c.q = fabricQ → k.outc = none →
      k.phase = .fetched → mayStart (openW s) k = true → (checksHead k (openW s)).1 = none → opOf k = 0x82 →
      Leaves (.snuff c env) s (snuffAll env 5 none (logOther 9 0 0 k.ctx [0x82, arg k 0x10 1, 0] (begun s c k))))
  ∧ (∀ (s : State) (env : Env) (kind : MonKind) (b cause : Nat), tripCause kind = some cause →
      (b < (monBase kind).2 →
        Leaves (.tamperTrip kind b env) s (snuffAll env cause none (noteInput kind b (noteFalls env (openW s)))))
      ∧ ((monBase kind).2 ≤ b → Blocks (.tamperTrip kind b env) s s.blk) ∧ Blocks (.monitorWarn kind b env) s s.blk)
  ∧ (∀ (s : State) (env : Env) (kind : MonKind) (b : Nat), tripCause kind = none →
      (b < (monBase kind).2 → Leaves (.monitorWarn kind b env) s (alarm1 b (noteInput kind b (noteFalls env (openW s)))))
      ∧ ((monBase kind).2 ≤ b → Blocks (.monitorWarn kind b env) s s.blk) ∧ Blocks (.tamperTrip kind b env) s s.blk)
  ∧ ∀ (env : Env) (cause : Nat) (w v : W), v = snuffAll env cause none w →
      (w.b.sec.snuffLatch = true → v = w)
      ∧ (w.b.sec.snuffLatch = false → (w.b.glb.mainReset = true ∨ w.b.glb.power = false) →
          v.b = { w.b with sec := v.b.sec, tlm := v.b.tlm } ∧ v.jr = w.jr ∧ v.base = w.base
          ∧ v.b.sec = { w.b.sec with snuffLatch := true, l3Cause := cause, alarmNs := w.b.crp.tAon, pend := true, level := 3
                                     fuses := [], derived := false, last := [], rsn := [], skeys := [], keyOk := false
                                     zeroised := true, deriving_ := false })
      ∧ (w.b.sec.snuffLatch = false → w.b.glb.mainReset = false → w.b.glb.power = true → w.b.cmds = [] → w.b.grps = [] →
          w.b.slices = [] → w.b.eng.runs = [] → w.b.eng.ses = [] → w.b.lnk.ports = [] →
          v.b.glb = { w.b.glb with state := .snuffed, savedFmt := none } ∧ v.b.cmds = [] ∧ v.b.patch = none
          ∧ v.b.lnk.vc0 = [] ∧ v.b.lnk.helmQ = []
          ∧ v.jr = w.jr ∧ v.base = w.base
          ∧ v.b.sec = { w.b.sec with snuffLatch := true, l3Cause := cause, alarmNs := w.b.crp.tAon, pend := true, level := 3
                                     fuses := [], derived := false, last := [], rsn := [], skeys := [], keyOk := false
                                     zeroised := true, deriving_ := false, lastState := .snuffed })

/-- O53. The key port, the KID check and the service port. A key-port word that comes in order without an error is taken;
the last of seventeen starts the derivation with the key epoch sampled, unless the root key is zero; one that comes out
of order or with an error fails the delivery; after Snuff, a failure or the last word nothing is taken. The derivation
sets KEY_OK and KID; without one under way there is nothing to end. A KID check notes the inputs that have fallen; with
KEY_OK, a KID that differs raises level 2, which in PASS and SERVICE records its cause and enters QUARANTINE and in
other states is logged only. A status read frame delivers its words, one with too few edges is counted. A SNUFF frame of
the right form whose tag verifies and whose counter is above LAST snuffs the block. How a fall of an input shows is log
entry 112. -/
def Obligations.KeyPortAndServicePort : Prop :=
  (∀ (s : State) (idx : BitVec 5) (data : Word) (err : Bool),
      (s.blk.sec.snuffLatch = true ∨ s.blk.sec.kpFailed = true ∨ 17 ≤ s.blk.sec.kpWords →
        Blocks (.kpWord idx data err) s s.blk)
      ∧ (s.blk.sec.snuffLatch = false → s.blk.sec.kpFailed = false → s.blk.sec.kpWords < 17 →
        (err = true ∨ idx.toNat ≠ s.blk.sec.kpWords → Leads (.kpWord idx data err) s (fun t => t.mem = s.mem
          ∧ t.blk = { s.blk with sec := t.blk.sec, tlm := t.blk.tlm }
          ∧ t.blk.sec = { s.blk.sec with kpErr := err, kpOrder := idx.toNat != s.blk.sec.kpWords, kpFailed := true }))
        ∧ (err = false → idx.toNat = s.blk.sec.kpWords →
          (s.blk.sec.kpWords < 16 → Blocks (.kpWord idx data err) s
            { s.blk with sec := { s.blk.sec with fuses := s.blk.sec.fuses ++ [data], kpWords := s.blk.sec.kpWords + 1 } })
          ∧ (s.blk.sec.kpWords = 16 → (∃ x ∈ (s.blk.sec.fuses ++ [data]).take 4, x ≠ 0) → Blocks (.kpWord idx data err) s
            { s.blk with sec := { s.blk.sec with fuses := s.blk.sec.fuses ++ [data], kpWords := 17, deriving_ := true
                                                 kepoch := s.blk.crp.tAon } })
          ∧ (s.blk.sec.kpWords = 16 → (∀ x ∈ (s.blk.sec.fuses ++ [data]).take 4, x = 0) →
            Leads (.kpWord idx data err) s (fun t => t.blk = { s.blk with sec := t.blk.sec, tlm := t.blk.tlm }
              ∧ t.blk.sec = { s.blk.sec with fuses := s.blk.sec.fuses ++ [data], kpWords := 17, rkZero := true
                                             kpFailed := true })))))
  ∧ (∀ s : State, s.blk.sec.deriving_ = true → Blocks .keyDerivationDone s { s.blk with sec :=
      { s.blk.sec with deriving_ := false, derived := true, keyOk := true
                       kid := padTo 16 (Config.kmac256 (rootKey s.blk.sec) [] 128 (ascii "OLIPHOR ID")) } })
  ∧ (∀ s : State, s.blk.sec.deriving_ = false → Blocks .keyDerivationDone s s.blk)
  ∧ (∀ (s : State) (env : Env) (b : Blk), b = { s.blk with sec := { s.blk.sec with mon := s.blk.sec.mon &&& ~~~env.fell } } →
      (s.blk.sec.keyOk = false → Blocks (.kidCheck env) s b)
      ∧ (s.blk.sec.keyOk = true → s.blk.ras.inj = [] → padTo 16 (kidOf s.blk.sec) = s.blk.sec.kid → Blocks (.kidCheck env) s b)
      ∧ (s.blk.sec.keyOk = true → s.blk.ras.inj = [] → padTo 16 (kidOf s.blk.sec) ≠ s.blk.sec.kid →
        Leaves (.kidCheck env) s (alarm2 3 { openW s with b := b })
        ∧ (s.blk.glb.state = .pass ∨ s.blk.glb.state = .service → Leads (.kidCheck env) s (fun t => t.mem = s.mem
            ∧ t.blk = { b with glb := { s.blk.glb with state := .quarantine }, sec := t.blk.sec, tlm := t.blk.tlm }
            ∧ t.blk.sec = { b.sec with l2Cause := 3, alarmNs := s.blk.crp.tAon, pend := true, level := max s.blk.sec.level 2
                                       lastState := .quarantine }))
        ∧ (s.blk.glb.state ≠ .pass → s.blk.glb.state ≠ .service →
            Leads (.kidCheck env) s (fun t => t.mem = s.mem ∧ t.blk = { b with tlm := t.blk.tlm }))))
  ∧ (∀ (s : State) (h : BitVec 32) (edges len : Nat), bits h.toNat 31 24 = 1 → len = bits h.toNat 23 16 → 1 ≤ len → len ≤ 32 →
      (32 * (len + 1) = edges → Blocks (.ssReadFrame h edges) s { s.blk with sec := { s.blk.sec with
          ssOut := (List.range len).map (fun i => statusWord (openW s) (bits h.toNat 15 0 + i))
          overlong := false, lastRes := 0, frames := sat16 s.blk.sec.frames } })
      ∧ (edges < 32 * (len + 1) → edges % 32 ≠ 0 → Blocks (.ssReadFrame h edges) s { s.blk with sec := { s.blk.sec with
          ssOut := (List.range (min len (edges / 32 - 1))).map (fun i => statusWord (openW s) (bits h.toNat 15 0 + i))
          midword := sat16 s.blk.sec.midword } }))
  ∧ ∀ (s : State) (ws : List (BitVec 32)) (env : Env) (tag : Bytes) (count : Nat), ws.length = 8 → ws.getD 0 0 = 0x02070000 →
      tag = (ws.drop 4).flatMap frameBytes → count = (ws.getD 1 0).toNat * 2 ^ 32 + (ws.getD 2 0).toNat →
      s.blk.sec.derived = true →
      padTo 16 (Config.kmac256 (kCmd s.blk.sec 0 2) ((ws.take 4).flatMap frameBytes) 128 (ascii "OLIPHOR TAG")) = tag →
      (lastOf s.blk.sec 0 2 < count → Leaves (.ssSnuffFrame ws 256 env) s
        (snuffAll env 6 none (logOther 9 0 0 0 [0x82, (ws.getD 3 0).toNat % 256, 0] { openW s with b := { s.blk with sec :=
          { s.blk.sec with frames := sat16 s.blk.sec.frames, overlong := false, lastRes := 0
                           last := tset s.blk.sec.last 2 count } } })))
      ∧ (count ≤ lastOf s.blk.sec 0 2 → Leaves (.ssSnuffFrame ws 256 env) s
        (authFailure 2 { openW s with b := { s.blk with sec :=
          { s.blk.sec with frames := sat16 s.blk.sec.frames, overlong := false, lastRes := 1 } } }))

/-- O54. Downloading, verifying and applying a Naled image. GO with a LEN of the rule, in DARK with the loader READY, starts a
download, in MODE fetch with its first reads; with a reserved MODE the write is ignored. In DARK each data word of a stream
is taken and the last one starts the verification; one outside a stream's download is ignored. ABORT of a stream ends it
with ERR 0x0B, and of anything else ends nothing. In MODE fetch each line that memory answers OK is taken, the last one
starts the verification, and another answer ends the download with ERR 0x0A. A verification that finds an error goes back to DARK with ERR and nothing applied, an
authentication failure for errors 5 to 8; one that finds none goes on to the sections, or with a Helm that failed its
self-test to PASS with the tables cleared. Applying them ends in PASS, or in DARK with ERR of the section that failed,
as a Helm that does not report does. In any other state these events change nothing. -/
def Obligations.ImagesLoad : Prop :=
  (∀ (s : State) (v : Word) (len : Nat), s.blk.glb.state = .dark → s.blk.ldr.phase = .ready → bits v.toNat 1 0 = 1 →
      len = bits v.toNat 63 32 → len % 64 = 0 → 64 ≤ len → len ≤ 2097152 →
      Blocks (.ldrDownloadGo v) s { s.blk with ldr := { s.blk.ldr with
          mode := 1, len := len, phase := .receiving, bytes := 0, buf := [], lines := [], next := 0, total := len, base := none } })
  ∧ (∀ (s : State) (v : Word) (len : Nat), s.blk.glb.state = .dark → s.blk.ldr.phase = .ready → bits v.toNat 1 0 = 2 →
      len = bits v.toNat 63 32 → len % 64 = 0 → 64 ≤ len → len ≤ 2097152 →
      Leaves (.ldrDownloadGo v) s (fetchMore s.blk.ldr.addr 512 { openW s with b := { s.blk with ldr := { s.blk.ldr with
          mode := 2, len := len, phase := .receiving, bytes := 0, buf := [], lines := [], next := 0, total := len
          base := some s.blk.ldr.addr } } }))
  ∧ (∀ (s : State) (v : Word), s.blk.glb.state ≠ .reset →
      (bits v.toNat 1 0 = 0 ∨ bits v.toNat 1 0 = 3 ∨ (s.blk.glb.state ≠ .dark ∨ s.blk.ldr.phase ≠ .ready
          ∨ bits v.toNat 63 32 % 64 ≠ 0 ∨ bits v.toNat 63 32 < 64 ∨ 2097152 < bits v.toNat 63 32)
          ∧ (v.getLsbD 3 = false ∨ downloading (openW s) = false ∨ s.blk.ldr.base ≠ none)) →
      Leaves (.ldrDownloadGo v) s (writeIgnored 0x20000 (v ||| 4) (openW s)))
  ∧ (∀ s : State, s.blk.glb.state ≠ .reset → 1 ≤ s.blk.ldr.mode → s.blk.ldr.mode ≤ 2 → s.blk.ldr.len < 2 ^ 32 →
      (downloading (openW s) = true → s.blk.ldr.base = none →
        Blocks .ldrAbort s { s.blk with ldr := { s.blk.ldr with phase := .ready, err := 0x0B, buf := [] } })
      ∧ (downloading (openW s) = false ∨ s.blk.ldr.base ≠ none → Blocks .ldrAbort s s.blk))
  ∧ (∀ (s : State) (off : Nat) (c : Rsp) (base : Nat) (w : W), w = openW s → s.blk.ldr.base = some base →
      (downloading w = false → loaderAnswer off c w = w)
      ∧ (downloading w = true → c ≠ .ok → (loaderAnswer off c w).jr = w.jr
        ∧ (loaderAnswer off c w).b.ldr = { s.blk.ldr with phase := .ready, err := 0x0A, lines := [] }
        ∧ (loaderAnswer off c w).b.glb = s.blk.glb)
      ∧ (downloading w = true → c = .ok → s.blk.ldr.bytes + 64 ≠ s.blk.ldr.total →
        loaderAnswer off c w = fetchMore base 512 { w with b := { s.blk with ldr := { s.blk.ldr with
          lines := tset s.blk.ldr.lines off (getBytes w (base + off) 64), bytes := s.blk.ldr.bytes + 64 } } })
      ∧ (downloading w = true → c = .ok → s.blk.ldr.bytes + 64 = s.blk.ldr.total →
        (loaderAnswer off c w).b = { s.blk with
          ldr := { s.blk.ldr with lines := [], bytes := s.blk.ldr.bytes + 64, phase := .verifying
                                  buf := (tset s.blk.ldr.lines off (getBytes w (base + off) 64)).flatMap (·.2) }
          glb := { s.blk.glb with state := .loading }, sec := { s.blk.sec with lastState := .loading } }))
  ∧ (∀ (s : State) (v : Word) (buf : Bytes), s.blk.glb.state ≠ .reset → buf = s.blk.ldr.buf ++ toLe 8 v.toNat →
      (downloading (openW s) = false ∨ s.blk.ldr.base ≠ none → Leaves (.ldrData v) s (writeIgnored 0x20018 v (openW s)))
      ∧ (downloading (openW s) = true → s.blk.ldr.base = none →
        (s.blk.ldr.bytes + 8 ≠ s.blk.ldr.total →
          Blocks (.ldrData v) s { s.blk with ldr := { s.blk.ldr with buf := buf, bytes := s.blk.ldr.bytes + 8 } })
        ∧ (s.blk.ldr.bytes + 8 = s.blk.ldr.total → Blocks (.ldrData v) s { s.blk with
            ldr := { s.blk.ldr with buf := buf, bytes := s.blk.ldr.bytes + 8, phase := .verifying, lines := [] }
            glb := { s.blk.glb with state := .loading }, sec := { s.blk.sec with lastState := .loading } })))
  ∧ (∀ s : State, s.blk.glb.state = .loading → s.blk.ldr.phase = .verifying →
      (∀ e, verifyErr (openW s) false (minSvn s.blk.sec) s.blk.ldr.buf s.blk.ldr.total = some e →
        Leads .imageVerified s (fun t => t.mem = s.mem ∧ t.blk.glb = { s.blk.glb with state := .dark }
          ∧ t.blk.ldr = { s.blk.ldr with phase := .ready, err := e }
          ∧ t.blk.sec.authTotal = (if 5 ≤ e ∧ e ≤ 8 then sat32 s.blk.sec.authTotal else s.blk.sec.authTotal)
          ∧ t.blk = { s.blk with glb := t.blk.glb, ldr := t.blk.ldr, sec := t.blk.sec, tlm := t.blk.tlm }))
      ∧ (verifyErr (openW s) false (minSvn s.blk.sec) s.blk.ldr.buf s.blk.ldr.total = none →
        s.blk.glb.stfail1.getLsbD 59 = false →
        Blocks .imageVerified s { s.blk with ldr := { s.blk.ldr with phase := .applying, verNs := s.blk.crp.tCore } })
      ∧ (verifyErr (openW s) false (minSvn s.blk.sec) s.blk.ldr.buf s.blk.ldr.total = none →
        s.blk.glb.stfail1.getLsbD 59 = true → Blocks .imageVerified s (setState .pass { (clearTables (openW s)) with
          b := { (clearTables (openW s)).b with ldr := { s.blk.ldr with phase := .done } } }).b))
  ∧ (∀ s : State, (s.blk.glb.state ≠ .loading ∨ s.blk.ldr.phase ≠ .verifying → Blocks .imageVerified s s.blk)
      ∧ (s.blk.glb.state ≠ .loading ∨ s.blk.ldr.phase ≠ .applying →
        Blocks .imageApplied s s.blk ∧ Blocks .helmReportTimeout s s.blk))
  ∧ ∀ s : State, s.blk.glb.state = .loading → s.blk.ldr.phase = .applying →
      (∀ w, applyImage s.blk.ldr.buf (openW s) = .ok w → Leaves .imageApplied s (setState .pass
        { w with b := { w.b with ldr := { w.b.ldr with phase := .done } } }))
      ∧ (∀ e, applyImage s.blk.ldr.buf (openW s) = .error e → Leaves .imageApplied s (failLoad e (openW s)))
      ∧ Leads .helmReportTimeout s (fun t => t.mem = s.mem ∧ t.blk.glb = { s.blk.glb with state := .dark }
          ∧ t.blk.ldr = { s.blk.ldr with phase := .ready, err := 0x0E }
          ∧ t.blk = { s.blk with glb := t.blk.glb, ldr := t.blk.ldr, sec := t.blk.sec, tlm := t.blk.tlm })

/-- O55. IMAGE_PATCH and its stages. An IMAGE_PATCH of partition 0 waits until the lines of its image may be read. One whose
image memory does not answer OK is DENIED 0xA1; an image that is not accepted is DENIED 0xA2 with its ERR as RESULT, and
raises level 2 in PASS and SERVICE where it fails authentication; a Helm state format not served is DENIED 0xA3, a
second patch 0xA5, and a library that has no place ends QUOTA 7. An image that is accepted starts its patch: with a HELM
section its code goes into the inactive bank and the state of the running Helm is kept, else the library follows. When
the new firmware is ready it runs from that bank and the library follows; the timeout keeps the old bank and the old
state and ends the patch DENIED 0xA4. The messages that waited during the pause are then taken. The library is swapped
once no run names its slots, and a slot still busy at its timeout ends the patch TIMEOUT. Without a patch in such a
stage these events change no patch. The ERR of a HELM section is log entry 109, the messages that wait log entry 110. -/
def Obligations.PatchesApply : Prop :=
  (∀ (s : State) (c : CmdId) (env : Env) (k : Cmd) (v : W), opOf k = 0x83 →
      (Starts s c k ∧ v = begun s c k ∧ patchCheck v k = none
        ∨ Runs s c k ∧ v = openW s ∧ (s.blk.patch.map (·.cmd)) ≠ some c) →
      (linesReadable v (arg k 0x10 8) (arg k 0x18 4) = false →
        Leaves (.imagePatch c env) s (flushLines (arg k 0x10 8) (arg k 0x18 4) v))
      ∧ (linesReadable v (arg k 0x10 8) (arg k 0x18 4) = true → ∀ (code : Rsp) (img : Bytes) (w : W),
        readBytes (seAcc env k.ctx) (arg k 0x10 8) (arg k 0x18 4) v = (code, img, w) →
        (code ≠ .ok → Leaves (.imagePatch c env) s (done env c .denied 0xA1 [] w))
        ∧ (code = .ok → ∀ e, patchErr w img (arg k 0x18 4) = some e →
          Leaves (.imagePatch c env) s (done env c .denied 0xA2 (toLe 1 e)
            (if 5 ≤ e ∧ e ≤ 8 ∧ (w.b.glb.state = .service ∨ w.b.glb.state = .pass) then alarm2 2 w else w)))
        ∧ (code = .ok → patchErr w img (arg k 0x18 4) = none →
          (formatRefused w img = true → Leaves (.imagePatch c env) s (done env c .denied 0xA3 [] w))
          ∧ (formatRefused w img = false → w.b.patch.isSome = true →
            Leaves (.imagePatch c env) s (done env c .denied 0xA5 [] w))
          ∧ (formatRefused w img = false → w.b.patch = none → swapLib ((libOf img).getD []) w = none →
            Leaves (.imagePatch c env) s (done env c .quota 7 [] w))
          ∧ (formatRefused w img = false → w.b.patch = none → (swapLib ((libOf img).getD []) w).isSome = true → ∀ p : Patch,
            p = { cmd := c, image := img, stage := if (sectBytes img 1).isSome then 0 else 1, slots := ((libOf img).getD []).map (·.1) } →
            (sectBytes img 1 = none → Leaves (.imagePatch c env) s (patchLib env p
              { w with b := { w.b with patch := some p, ldr := { w.b.ldr with buf := img } } }))
            ∧ ∀ h, sectBytes img 1 = some h → Leaves (.imagePatch c env) s { w with b := { w.b with
                patch := some p, ldr := { w.b.ldr with buf := img }
                glb := { w.b.glb with savedFmt := some w.b.glb.hstate
                                      banks := tset w.b.glb.banks (1 - w.b.glb.bank) (helmCode h)
                                      entries := tset w.b.glb.entries (1 - w.b.glb.bank) (fld h 4 4) } } }))))
  ∧ (∀ (s : State) (c : CmdId) (env : Env) (k : Cmd) (img : Bytes) (w : W), Issued s c env k 0x83 → patchCheck (begun s c k) k = none →
      linesReadable (begun s c k) (arg k 0x10 8) (arg k 0x18 4) = true →
      readBytes (seAcc env k.ctx) (arg k 0x10 8) (arg k 0x18 4) (begun s c k) = (.ok, img, w) →
      (∀ e, patchErr w img (arg k 0x18 4) = some e → e < 5 ∨ 8 < e →
        Leads (.imagePatch c env) s (fun t => Finished s t c k { status := .denied, info := 0xA2, result := toLe 1 e } w))
      ∧ (patchErr w img (arg k 0x18 4) = none →
        (formatRefused w img = true →
          Leads (.imagePatch c env) s (fun t => Finished s t c k { status := .denied, info := 0xA3 } w))
        ∧ (formatRefused w img = false → s.blk.patch.isSome = true →
          Leads (.imagePatch c env) s (fun t => Finished s t c k { status := .denied, info := 0xA5 } w))))
  ∧ (∀ (s : State) (c : CmdId) (env : Env) (k : Cmd) (p : Patch), Runs s c k → opOf k = 0x83 → s.blk.patch = some p → p.cmd = c →
      Leaves (.imagePatch c env) s (patchGo env (openW s)))
  ∧ ∀ (s : State) (env : Env) (kept : Glb), kept = { s.blk.glb with savedFmt := none, hstate := s.blk.glb.savedFmt.getD s.blk.glb.hstate } →
      (∀ (p : Patch) (v : W), s.blk.patch = some p → p.stage = 0 → ∀ h, sectBytes p.image 1 = some h →
        v = patchLib env { p with stage := 1 } { openW s with b := { s.blk with
          patch := some { p with stage := 1 }
          glb := { s.blk.glb with savedFmt := none, bank := 1 - s.blk.glb.bank, helmVer := BitVec.ofNat 64 (fld h 0x10 8)
                                  hstate := fld h 8 2 } } } →
        exec (.helmHandoverReady env) s = .next (takeMsgs env (closeW s v).blk.lnk.helmQ (closeW s v)))
      ∧ (∀ (p : Patch) (v : W), s.blk.patch = some p → p.stage = 0 →
        v = endPatch env p.cmd .denied 0xA4 { openW s with b := { s.blk with glb := kept } } →
        exec (.helmHandoverTimeout env) s = .next (takeMsgs env (closeW s v).blk.lnk.helmQ (closeW s v)))
      ∧ ((∀ p, s.blk.patch = some p → p.stage ≠ 0) → ∀ t u : State,
        t = { s with blk := { s.blk with glb := { s.blk.glb with savedFmt := none } } } → u = { s with blk := { s.blk with glb := kept } } →
        exec (.helmHandoverReady env) s = .next (takeMsgs env s.blk.lnk.helmQ t)
        ∧ exec (.helmHandoverTimeout env) s = .next (takeMsgs env s.blk.lnk.helmQ u))
      ∧ (∀ p : Patch, s.blk.patch = some p → p.stage = 1 → Leaves (.patchLibrarySwap env) s (patchLib env p (openW s))
        ∧ Leaves (.patchSlotTimeout env) s (endPatch env p.cmd .timeout 0 (openW s))
        ∧ (slotsBusy (openW s) p.slots = true → Blocks (.patchLibrarySwap env) s s.blk))
      ∧ ((∀ p, s.blk.patch = some p → p.stage ≠ 1) → Blocks (.patchLibrarySwap env) s s.blk ∧ Blocks (.patchSlotTimeout env) s s.blk)

/-- O56. Arming, injection, unit resets, watchdogs and the SRAM scrub. INJECT_ARM is DENIED 0xC0 to a partition other than 0; of
partition 0 it opens its window and returns its end and the injections left; with ARM_MS 0, and at the window's end, GO of every injection that has not
fired is cleared and the window is closed. A write to an injection register with a reserved encoding is ignored with
an event; one that is not permitted raises its bit; one of a detector that waits for its event is stored. A unit reset
and a watchdog trip are counted and reset the unit, a trip of an SE sequencer faults the kernel of an SE that holds a chunk,
and one of a unit that the build lacks does nothing; a Helm restart is counted, and a third within a second stops it.
A stopped Helm does not restart. The scrub wakes the power-gated SEs and notes each single error it finds, unless RAS_BGCTL
stops it. -/
def Obligations.FaultsAndInjection : Prop :=
  (∀ (s : State) (c : CmdId) (env : Env) (k : Cmd) (o : Outc), Issued s c env k 0x86 → k.part ≠ 0 →
      o = { status := .denied, info := 0xC0 } →
      (arg k 0x10 4 ≠ 0 → Leads (.injectArm c env) s (fun t => Finished s t c k o (begun s c k)))
      ∧ (arg k 0x10 4 = 0 → Leads (.injectDisarm c env) s (fun t => Finished s t c k o (begun s c k))))
  ∧ (∀ (s : State) (c : CmdId) (env : Env) (k : Cmd), Issued s c env k 0x86 → k.part = 0 →
      (arg k 0x10 4 ≠ 0 → Leads (.injectArm c env) s (fun t => Finished s t c k
        { result := toLe 8 (s.blk.crp.tCore + arg k 0x10 4 * 1000000) ++ toLe 8 s.blk.ras.remain }
        { begun s c k with b := { (begun s c k).b with ras := { s.blk.ras with
            armed := true, remain := arg k 0x14 2, snuffOk := bit (arg k 0x16 1) 0, lossOk := bit (arg k 0x16 1) 1
            injMask := BitVec.ofNat 64 (arg k 0x18 8), injExp := s.blk.crp.tCore + arg k 0x10 4 * 1000000 } } }))
      ∧ (arg k 0x10 4 = 0 → Leads (.injectDisarm c env) s (fun t => Finished s t c k
        { result := toLe 8 0 ++ toLe 8 s.blk.ras.remain } (disarm (begun s c k)))))
  ∧ (∀ s : State, s.blk.ras.armed = true → Blocks .injectArmExpiry s { s.blk with ras := { s.blk.ras with
      armed := false, lossOk := false, snuffOk := false, injMask := 0, remain := 0, injExp := 0
      inj := s.blk.ras.inj.map (fun e => (e.1, if e.2.fired then e.2 else { e.2 with go := false })) } })
  ∧ (∀ s : State, s.blk.ras.armed = false → Blocks .injectArmExpiry s s.blk)
  ∧ (∀ (s : State) (d : Nat) (v : Word) (env : Env), 0x11 < d ∨ s.blk.glb.state = .reset → Blocks (.injectWrite d v env) s s.blk)
  ∧ (∀ (s : State) (d : Nat) (v : Word) (env : Env) (j : Inj), d ≤ 0x11 → s.blk.glb.state ≠ .reset →
      j = { inst := bits v.toNat 55 48, arg := bits v.toNat 47 32, count := bits v.toNat 31 16, fired := false
            mode := bits v.toNat 2 1, go := v.getLsbD 0 } →
      (2 ≤ j.mode ∨ (j.go = true ∧ j.count = 0) ∨ instLacking (openW s) d j.inst j.arg = true →
        Leaves (.injectWrite d v env) s (writeIgnored (0x40400 + 8 * d) v (openW s)))
      ∧ (j.mode < 2 → instLacking (openW s) d j.inst j.arg = false →
        (j.go = true → j.count ≠ 0 → injPermitted (openW s) d = false →
          Leaves (.injectWrite d v env) s (setRas 7 j.inst d (openW s)))
        ∧ (j.go = false ∨ (j.count ≠ 0 ∧ injPermitted (openW s) d = true ∧ d ∈ [3, 4, 5, 6, 7, 8, 0x0B, 0x0C, 0x0D, 0x0E, 0x11]) →
          Blocks (.injectWrite d v env) s { s.blk with ras := { s.blk.ras with inj := tset s.blk.ras.inj d j } })))
  ∧ (∀ (s : State) (u : UnitId) (code word : Nat) (env : Env), s.blk.glb.mainReset = false → unitExists (openW s) u = true →
      Leaves (.unitReset u 1 code word env) s (resetUnit env u true code (noteDouble code (unitInst u) word (openW s)))
      ∧ Leaves (.unitReset u 2 code word env) s
          (resetUnit env u true code (setRasLast 2 code (unitInst u) word (noteParity (unitInst u) code (openW s)))))
  ∧ (∀ (s : State) (u : UnitId) (kind code word : Nat) (env : Env), s.blk.glb.mainReset = true ∨ unitExists (openW s) u = false
      ∨ (kind ≠ 1 ∧ kind ≠ 2) → Blocks (.unitReset u kind code word env) s s.blk)
  ∧ (∀ (s : State) (machine inst : Nat) (env : Env) (u : UnitId), s.blk.glb.mainReset = false → s.blk.ras.inj = [] →
      machineUnit machine inst = some u → unitExists (openW s) u = true → unitInst u = inst →
      Leaves (.watchdogTrip machine inst env) s (resetUnit env u false machine (setRas 4 inst machine (setRasLast 3 machine inst 0
        { openW s with b := { s.blk with ras := { s.blk.ras with cntWdog := s.blk.ras.cntWdog + 1 } } }))))
  ∧ (∀ (s : State) (machine inst : Nat) (env : Env) (w : W), s.blk.glb.mainReset = false → s.blk.ras.inj = [] →
      w = setRas 4 inst machine (setRasLast 3 machine inst 0
        { openW s with b := { s.blk with ras := { s.blk.ras with cntWdog := s.blk.ras.cntWdog + 1 } } }) →
      (machine = 11 → inst < s.build.nse → Leaves (.watchdogTrip machine inst env) s
        (if (seOf s inst).run.isSome then kernelFault 0x74 false inst w else w)))
  ∧ (∀ (s : State) (machine inst : Nat) (env : Env), s.blk.glb.mainReset = true ∨ machineExists (openW s) machine inst = false →
      Blocks (.watchdogTrip machine inst env) s s.blk)
  ∧ (∀ s : State, s.blk.glb.mainReset = true ∨ s.blk.glb.helmStopped = true → Blocks .helmRestart s s.blk)
  ∧ (∀ (s : State) (errs : List SramErr) (env : Env), s.blk.ras.bgctl.getLsbD 2 = true ∨ s.blk.glb.mainReset = true →
      Blocks (.sramScrub errs env) s s.blk)
  ∧ (∀ s : State, s.blk.glb.mainReset = false → s.blk.glb.helmStopped = false →
      Leads .helmRestart s (fun t => t.mem = s.mem ∧ t.blk = { s.blk with glb := t.blk.glb, ras := t.blk.ras, tlm := t.blk.tlm }
        ∧ t.blk.ras.stat = s.blk.ras.stat ||| 32
        ∧ (∀ l, l = s.blk.glb.helmRestarts.filter (fun u => decide (nowUs (openW s) ≤ u + 1000000)) →
            t.blk.glb = { s.blk.glb with helmRestarts := l ++ [nowUs (openW s)], helmStopped := decide (2 ≤ l.length)
                                         helmOk := s.blk.glb.helmOk && decide (l.length < 2) })))
  ∧ ∀ (s : State) (e : SramErr) (env : Env), s.blk.ras.bgctl.getLsbD 2 = false → s.blk.glb.mainReset = false →
      1 < e.array → e.array ≤ 0x11 → e.double = false →
      Leads (.sramScrub [e] env) s (fun t => t.mem = s.mem
        ∧ t.blk = { s.blk with ras := t.blk.ras, tlm := t.blk.tlm, crp := { s.blk.crp with gateStat := 0, clockGated := t.blk.crp.clockGated } }
        ∧ (∀ u, u ∈ t.blk.crp.clockGated ↔ u ∈ s.blk.crp.clockGated ∧ ∀ i, u = .se i → s.blk.crp.gateStat.getLsbD i = false)
        ∧ t.blk.ras = { s.blk.ras with cntSbe := s.blk.ras.cntSbe + 1, stat := s.blk.ras.stat ||| 1 })

/-- O57. Resets, power loss, self-test and debug unlock. The main reset, once asserted, leaves the registers of the main
domain at their reset values and those of the AON domain as they were, with its cause; a power loss does the same with
its own cause and an event; a cold reset resets the AON domain too, but for the levels of its inputs; the wrapper reset
does nothing here. Released, the block is in DARK, or SNUFFED with the latch set, its self-test under way and the reset
counted; debug unlock, which counts only in reset, raises level 1 there. The self-test's end records what failed, leaves
the SEs that failed ABSENT, and in DARK makes the loader READY, or FAILED after a failure that keeps the block there.
That memory does not take an outstanding write is log entry 114, the place of the inputs at release log entry 68. -/
def Obligations.ResetsAndSelfTest : Prop :=
  (∀ s : State, s.blk.glb.mainReset = false →
      Leads .mainResetAssert s (fun t => t.mem = s.mem
        ∧ t.blk.glb = { mainReset := true, power := s.blk.glb.power }
        ∧ t.blk.crp = { rstCnt := s.blk.crp.rstCnt, cause := 2, tAon := s.blk.crp.tAon, slewAon := s.blk.crp.slewAon
                        tbStat := s.blk.crp.tbStat &&& 2 }
        ∧ t.blk.sec = { s.blk.sec with skeys := [] }
        ∧ t.blk = { glb := t.blk.glb, crp := t.blk.crp, sec := t.blk.sec, lnk := { out := s.blk.lnk.out }
                    mpRsps := s.blk.mpRsps, mdOut := s.blk.mdOut, free := s.blk.free })
      ∧ Leads .powerLoss s (fun t => t.mem = s.mem ∧ t.blk.glb = { mainReset := true, power := false } ∧ t.blk.crp.cause = 3
        ∧ t.blk.sec = { s.blk.sec with skeys := [] } ∧ t.blk.tlm.elNext = 1
        ∧ t.blk = { glb := t.blk.glb, crp := t.blk.crp, sec := t.blk.sec, lnk := { out := s.blk.lnk.out }
                    mpRsps := s.blk.mpRsps, mdOut := s.blk.mdOut, free := s.blk.free, tlm := t.blk.tlm })
      ∧ Blocks .dbgUnlock s s.blk)
  ∧ (∀ s : State, Leads .coldReset s (fun t => t.mem = s.mem ∧ t.blk.crp = {} ∧ t.blk.glb.mainReset = true
        ∧ t.blk.sec = { mon := s.blk.sec.mon, ssOut := s.blk.sec.ssOut }
        ∧ t.blk = { glb := t.blk.glb, sec := t.blk.sec, lnk := { out := s.blk.lnk.out }, mpRsps := s.blk.mpRsps
                    mdOut := s.blk.mdOut, free := s.blk.free })
      ∧ Blocks .wrapperReset s s.blk)
  ∧ (∀ (s : State) (st : BlockState), s.blk.glb.mainReset = true → st = (if s.blk.sec.snuffLatch then .snuffed else .dark) →
      Blocks .mainResetAssert s s.blk ∧ Blocks .powerLoss s s.blk
      ∧ Blocks .dbgUnlock s { s.blk with ras := { s.blk.ras with dbg := true } }
      ∧ (∀ b : Blk, b = { s.blk with
          glb := { s.blk.glb with mainReset := false, power := true, testing := true, state := st }
          crp := { s.blk.crp with rstCnt := sat32 s.blk.crp.rstCnt }
          sec := { s.blk.sec with lastState := st }
          lnk := { s.blk.lnk with epoch := bootEpoch { s.blk.crp with rstCnt := sat32 s.blk.crp.rstCnt } } } →
        (s.blk.ras.dbg = false → Blocks .mainResetRelease s b)
        ∧ (s.blk.ras.dbg = true → Leaves .mainResetRelease s (alarm1 0 { openW s with b := b }))))
  ∧ (∀ s : State, s.blk.glb.mainReset = false → Blocks .mainResetRelease s s.blk)
  ∧ (∀ (s : State) (f0 f1 : Word), s.blk.glb.testing = false → Blocks (.selfTestDone f0 f1) s s.blk)
  ∧ ∀ (s : State) (f0 f1 r0 r1 : Word), s.blk.glb.testing = true → r0 = f0 &&& BitVec.ofNat 64 (2 ^ s.build.nse - 1) →
      r1 = f1 &&& 0xFC0FFFFFFFFFFFFF →
      Leads (.selfTestDone f0 f1) s (fun t => t.mem = s.mem
        ∧ t.blk = { s.blk with
            glb := { s.blk.glb with testing := false, stfail0 := r0, stfail1 := r1 }, eng := { s.blk.eng with ses := t.blk.eng.ses }
            ldr := if s.blk.glb.state = .dark then { s.blk.ldr with phase := if (r1 &&& 0xF400000000000000) = 0 then .ready else .failed }
                   else s.blk.ldr }
        ∧ ∀ e, seOf t e = if r0.getLsbD e then { seOf s e with state := .absent } else seOf s e)

/-- O58. Timebase, gating, power estimates and samples. A strobe moves a counter forward to its value and never back, with
its event where the difference exceeds a microsecond, and the counters of time count what T_CORE moves (log entry 85); a
lost timebase sets its bit. An idle unit is clock-gated, and after that, or with clock gating disabled, an SE is power-
gated; a wake ends both, and the operation that waits for its Relight engine begins. A power estimate sets the average, the peak and the energy. A snapshot whose checks pass waits
until its lines are free, then writes its record and answers its time and length, or the status of a failed write. A
periodic sample whose slot lies in a PLAIN ring waits for its lines and is written there; one that has not finished when
the next is due is abandoned and counted; without EN there is none. How a sample waits is log entry 67, when time moves
log entry 65. -/
def Obligations.ClocksAndTelemetry : Prop :=
  (∀ (s : State) (v : Word), s.blk.glb.mainReset = false →
      Leads (.tbStrobe v) s (fun t => t.mem = s.mem
        ∧ t.blk.crp.tAon = max s.blk.crp.tAon v.toNat ∧ t.blk.crp.tCore = max s.blk.crp.tCore v.toNat
        ∧ t.blk.crp.slewCore = s.blk.crp.tCore - v.toNat ∧ t.blk.crp.slewAon = s.blk.crp.tAon - v.toNat
        ∧ (s.blk.crp.tCore = s.blk.crp.tAon → t.blk.crp.tbStat = s.blk.crp.tbStat ||| 3
            ||| (if s.blk.crp.tCore + 1000 < v.toNat then 32 else if v.toNat + 1000 < s.blk.crp.tCore then 16 else 0))
        ∧ t.blk.cnt = (countTime (v.toNat - s.blk.crp.tCore) (openW s)).b.cnt
        ∧ t.blk = { s.blk with crp := t.blk.crp, tlm := t.blk.tlm, cnt := t.blk.cnt })
      ∧ Leaves .tbLost s (setTb 3 [0x10018] (openW s)))
  ∧ (∀ (s : State) (u : UnitId) (e : Nat), s.blk.glb.mainReset = false → unitExists (openW s) u = true → unitIdle (openW s) u = true →
      (u ∉ s.blk.crp.clockGated → s.blk.crp.cgDis = false →
        Blocks (.unitGate u) s { s.blk with crp := { s.blk.crp with clockGated := s.blk.crp.clockGated ++ [u] } })
      ∧ (u ∈ s.blk.crp.clockGated ∨ s.blk.crp.cgDis = true → u = .se e →
        (s.blk.crp.sePgDis = false →
          Blocks (.unitGate u) s { s.blk with crp := { s.blk.crp with gateStat := s.blk.crp.gateStat ||| (1#64 <<< e) } })
        ∧ (s.blk.crp.sePgDis = true → Blocks (.unitGate u) s s.blk))
      ∧ (u ∈ s.blk.crp.clockGated ∨ s.blk.crp.cgDis = true → u = .relight e →
        (s.blk.crp.rlPgDis = false → Blocks (.unitGate u) s
          { s.blk with crp := { s.blk.crp with rlPowerGated := insertNat s.blk.crp.rlPowerGated e } })
        ∧ (s.blk.crp.rlPgDis = true → Blocks (.unitGate u) s s.blk))
      ∧ (u ∈ s.blk.crp.clockGated ∨ s.blk.crp.cgDis = true → (∀ i, u ≠ .se i ∧ u ≠ .relight i) → Blocks (.unitGate u) s s.blk))
  ∧ (∀ (s : State) (u : UnitId), s.blk.glb.mainReset = true ∨ unitExists (openW s) u = false ∨ unitIdle (openW s) u = false →
      Blocks (.unitGate u) s s.blk)
  ∧ (∀ (s : State) (e : Nat), (seOf s e).run = none → Blocks (.unitWake (.se e)) s { s.blk with crp := { s.blk.crp with
      clockGated := s.blk.crp.clockGated.filter (fun x => x != .se e), gateStat := s.blk.crp.gateStat &&& ~~~(1#64 <<< e) } })
  ∧ (∀ (s : State) (e : Nat), ((seOf s e).run).isSome = true → Leaves (.unitWake (.se e)) s (loadStep e { openW s with b := { s.blk with
      crp := { s.blk.crp with clockGated := s.blk.crp.clockGated.filter (fun x => x != .se e)
                              gateStat := s.blk.crp.gateStat &&& ~~~(1#64 <<< e) } } }))
  ∧ (∀ (s : State) (e : Nat) (b : Blk), b = { s.blk with crp := { s.blk.crp with
          clockGated := s.blk.crp.clockGated.filter (fun x => x != .relight e)
          rlPowerGated := s.blk.crp.rlPowerGated.filter (fun x => x != e) } } →
      ((∀ o ∈ s.blk.fetches, o.queued = true → holdsEngine o e = false) → Blocks (.unitWake (.relight e)) s b)
      ∧ ∀ o, s.blk.fetches.find? (fun o => o.queued && holdsEngine o e) = some o →
          Leaves (.unitWake (.relight e)) s (beginOp o.id { openW s with b := b }))
  ∧ (∀ (s : State) (u : UnitId), (∀ i, u ≠ .se i ∧ u ≠ .relight i) → Blocks (.unitWake u) s { s.blk with crp := { s.blk.crp with
      clockGated := s.blk.crp.clockGated.filter (fun x => x != u) } })
  ∧ (∀ (s : State) (mw : Nat), s.blk.glb.mainReset = false →
      mw = min 0xFFFFFFFF (Config.powerEstimate s.blk.cnt s.blk.crp.tCore * s.blk.crp.pwrScale / 256) →
      Blocks .powerEstimate s { s.blk with crp := { s.blk.crp with
        avgMw := mw, peakMw := max s.blk.crp.peakMw mw, energy := s.blk.crp.energy + mw } })
  ∧ (∀ (s : State) (c : CmdId) (env : Env) (k : Cmd) (d : Bytes) (v : W), opOf k = 0x90 →
      (Starts s c k ∧ v = begun s c k ∧ snapshotCheck v k = none ∨ Runs s c k ∧ v = openW s) →
      d = snapshot v (arg k 0x18 1) k.part 0 →
      (linesFree v (arg k 0x10 8) d.length = false → Leaves (.statsSnapshot c env) s (flushLines (arg k 0x10 8) d.length v))
      ∧ (linesFree v (arg k 0x10 8) d.length = true → ∀ (code : Rsp) (w : W),
        writeBytes (seAcc env k.ctx) (arg k 0x10 8) d v = (code, w) →
        (code = .ok → Leaves (.statsSnapshot c env) s
          (done env c .ok 0 (toLe 8 s.blk.crp.tCore ++ toLe 8 d.length) (cntGlb 0x28 1 w)))
        ∧ (code ≠ .ok → Leaves (.statsSnapshot c env) s (done env c (rspStatus code) 0 [] w))))
  ∧ ∀ (s : State) (env : Env) (d : Bytes) (a : Nat), s.blk.glb.mainReset = false → memCanonical s →
      d = snapshot (openW s) 0x17 0xFF s.blk.tlm.sample →
      a = bits s.blk.tlm.sampBase.toNat 47 14 * 16384 + 16384 * (s.blk.tlm.sample % bits s.blk.tlm.sampCfg.toNat 47 32) →
      (s.blk.tlm.sampBase.getLsbD 0 = false → Blocks (.telemetrySample env) s s.blk)
      ∧ (s.blk.tlm.todo = [] → s.blk.tlm.sampBase.getLsbD 0 = true → d.length ≤ 16384 → slotBad (openW s) a = false →
          linesFree (openW s) a d.length = true →
          Leads (.telemetrySample env) s (fun t => SameOutside s t a d.length ∧ t.blk.tlm.todo = []
            ∧ t.blk.tlm.sample = s.blk.tlm.sample + 1 ∧ t.blk.tlm.skipped = s.blk.tlm.skipped
            ∧ (env.wr = [] → s.blk.ras.inj = [] → ∀ i, i < d.length → byteAt t (a + i) = d.getD i 0)))
      ∧ (s.blk.tlm.todo ≠ [] → s.blk.tlm.sampBase.getLsbD 0 = true → d.length ≤ 16384 → slotBad (openW s) a = false →
          linesFree (openW s) a d.length = true →
          Leads (.telemetrySample env) s (fun t => SameOutside s t a d.length ∧ t.blk.tlm.todo = []
            ∧ t.blk.tlm.sample = s.blk.tlm.sample + 1 ∧ t.blk.tlm.skipped = sat32 s.blk.tlm.skipped))
      ∧ (s.blk.tlm.todo = [] → s.blk.tlm.sampBase.getLsbD 0 = true → d.length ≤ 16384 → slotBad (openW s) a = false →
          linesFree (openW s) a d.length = false →
          Leaves (.telemetrySample env) s (flushLines a d.length { openW s with b := { s.blk with tlm := { s.blk.tlm with
            sample := s.blk.tlm.sample + 1, todo := [(a, d)] } } }))
      ∧ (s.blk.tlm.todo = [] → s.blk.tlm.sampBase.getLsbD 0 = true → d.length ≤ 16384 → slotBad (openW s) a = true →
          Blocks (.telemetrySample env) s { s.blk with tlm := { s.blk.tlm with
            sample := s.blk.tlm.sample + 1, sampBad := true, skipped := sat32 s.blk.tlm.skipped } })

/-- O59. Register accesses, PARTITION_SET and fabric commands. A read of a high word returns what its register held when the
low word of its instance was read, while no other low word of its kind is; a read of CRP_PWR leaves PEAK_MW at 0; a read
whose word is uncorrectable in both copies answers 0 with an error and an event; in RESET none is served. A write of a
register with a reserved encoding, or that its rule ignores, is logged and changes nothing else; one where no register
is written changes nothing. A write of 1 to an RW1C bit clears it and leaves the others; the RW registers named take the
fields written. PARTITION_SET whose checks pass puts the definition in force, at once where no SE holds a chunk; while a
patch runs it waits. An accepted FABRIC_CMD is acknowledged and enters the fabric queue; a further copy does not run
again, and is answered as the first was. That a read is no row is log entry 16; the offsets of PARTITION_SET are log
entry 76. -/
def Obligations.RegisterWrites : Prop :=
  (∀ (s t : State) (low kind o : Nat) (offs : List Nat), s.blk.glb.state ≠ .reset → t.blk.glb.state ≠ .reset →
      latchOf low = some (kind, low, offs) → o ∈ offs →
      tfind t.blk.latches kind = tfind (readAccess .none low s).2.blk.latches kind →
      (readAccess .none low s).1 = { data := readReg s low, err := false }
      ∧ (readAccess .none (low + o) t).1 = { data := readReg s (low + o), err := false })
  ∧ (∀ s : State, s.blk.glb.state ≠ .reset → readAccess .none 0x10030 s
      = ({ data := readReg s 0x10030, err := false }, { s with blk := { s.blk with crp := { s.blk.crp with peakMw := 0 } } }))
  ∧ (∀ (s t : State) (a : Nat) (r : ReadRsp), s.blk.glb.state ≠ .reset → readAccess .bothCopies a s = (r, t) →
      r = { data := 0, err := true } ∧ t.mem = s.mem ∧ t.blk = { s.blk with tlm := t.blk.tlm })
  ∧ (∀ (s : State) (f : ReadFault) (a : Nat), s.blk.glb.state = .reset → readAccess f a s = ({ data := 0, err := false }, s))
  ∧ (∀ (s : State) (addr : Nat) (v : Word) (env : Env),
      (writeReg env addr v (openW s) = .ignored → Leads (.registerWrite addr v env) s (fun t => t.mem = s.mem
        ∧ t.blk = { s.blk with tlm := t.blk.tlm } ∧ t.blk.tlm.elNext = s.blk.tlm.elNext + 1
        ∧ t.blk.tlm.girq = s.blk.tlm.girq))
      ∧ (addr % 8 ≠ 0 ∨ s.blk.glb.state = .reset ∨ 0x1000000 ≤ addr → Blocks (.registerWrite addr v env) s s.blk)
      ∧ (0x60000 ≤ addr → portsOpen (openW s) = false → Blocks (.registerWrite addr v env) s s.blk)
      ∧ (s.blk.glb.state ≠ .reset →
        (bits v.toNat 9 0 = 0 ∨ 1000 < bits v.toNat 9 0 → Leaves (.registerWrite 0x10010 v env) s (writeIgnored 0x10010 v (openW s)))
        ∧ (bits v.toNat 15 0 = 0 → Leaves (.registerWrite 0x10040 v env) s (writeIgnored 0x10040 v (openW s)))
        ∧ (bits v.toNat 9 0 ≠ 0 → bits v.toNat 9 0 ≤ 1000 → Blocks (.registerWrite 0x10010 v env) s
            { s.blk with crp := { s.blk.crp with tbPeriod := bits v.toNat 9 0 } })
        ∧ Blocks (.registerWrite 0x30018 v env) s { s.blk with tlm := { s.blk.tlm with elAck := v } }
        ∧ Blocks (.registerWrite 0x30000 v env) s { s.blk with tlm := { s.blk.tlm with
            girq := s.blk.tlm.girq && !v.getLsbD 0 } }
        ∧ Leads (.registerWrite 0x40000 v env) s (fun t => t.mem = s.mem
            ∧ t.blk = { s.blk with ras := { s.blk.ras with stat := t.blk.ras.stat } }
            ∧ ∀ i, t.blk.ras.stat.getLsbD i = (s.blk.ras.stat.getLsbD i && !v.getLsbD i))
        ∧ (portsOpen (openW s) = true →
          (s.blk.lnk.en = true → Leaves (.registerWrite 0x70008 v env) s (writeIgnored 0x70008 v (openW s)))
          ∧ (s.blk.lnk.en = false → Blocks (.registerWrite 0x70008 v env) s
              { s.blk with lnk := { s.blk.lnk with coord := v.setWidth 32 } })
          ∧ (bits v.toNat 47 32 < 64 ∨ bits v.toNat 15 0 = 0 →
              Leaves (.registerWrite 0xC0000 v env) s (writeIgnored 0xC0000 v (openW s)))
          ∧ (64 ≤ bits v.toNat 47 32 → bits v.toNat 15 0 ≠ 0 → Blocks (.registerWrite 0xC0000 v env) s
              { s.blk with hostCyc := bits v.toNat 47 32, srcqKib := bits v.toNat 31 16, auditMs := bits v.toNat 15 0 }))))
  ∧ (∀ (s : State) (c : CmdId) (env : Env) (k : Cmd), Issued s c env k 0x84 → s.blk.patch = none →
      partitionCheck (begun s c k) k = none →
      (∀ e ∈ s.blk.eng.ses, e.2.run = none ∧ e.2.moveTo = none) →
      ∀ T, T = tset s.blk.parts (arg k 0x10 1 % 16) (partOfArgs k) → (T.map (·.1)).Pairwise (· < ·) → (∀ x ∈ T, x.1 < 16) →
      (∀ x ∈ T, ∀ y ∈ T, x.1 ≠ y.1 → x.2.seMask &&& y.2.seMask = 0) →
      Leads (.partitionSet c env) s (fun t => Finished s t c k {} { begun s c k with b := { (begun s c k).b with parts := T } }))
  ∧ (∀ (s : State) (c : CmdId) (env : Env) (k : Cmd), findCmd (openW s) c = some k → k.phase = .fetched → s.blk.patch.isSome = true →
      Blocks (.partitionSet c env) s s.blk)
  ∧ ∀ (s : State) (rx : Rx) (env : Env) (pk : Packet) (w : W) (k : Cmd), rx.pk.hdr.opcode = 7 → receive rx (openW s) = (some pk, w) →
      k = { id := { q := fabricQ, n := w.b.nextFabric }, slot := bytesAt pk.payload 0x10 128, ctx := fld pk.payload 0x0A 2 % 4096
            part := fld pk.payload 8 1 % 16, cls := 1, msgid := BitVec.ofNat 64 (fld pk.payload 0 8), src := pk.hdr.src
            fetchedUs := nowUs w } →
      (∀ r, w.b.fabRsps.find? (fun r => r.msgid == fld pk.payload 0 8 && r.src == pk.hdr.src) = some r →
        Leaves (.fabricCmd rx env) s (sendFabric r.src r.pk.payload (sendAck pk.hdr (fld pk.payload 0 8) w)))
      ∧ ((∀ r ∈ w.b.fabRsps, ¬ (r.msgid = fld pk.payload 0 8 ∧ r.src = pk.hdr.src)) →
       ((∃ x ∈ w.b.cmds, x.id.q = fabricQ ∧ x.msgid.toNat = fld pk.payload 0 8 ∧ x.src = pk.hdr.src) →
        Leaves (.fabricCmd rx env) s (sendAck pk.hdr (fld pk.payload 0 8) w))
      ∧ ((∀ x ∈ w.b.cmds, ¬ (x.id.q = fabricQ ∧ x.msgid.toNat = fld pk.payload 0 8 ∧ x.src = pk.hdr.src)) →
        Leaves (.fabricCmd rx env) s (enterFabric env pk (sendAck pk.hdr (fld pk.payload 0 8) w))
        ∧ ∀ u, (enterFabric env pk u).b.cmds = u.b.cmds ++ [{ k with id := { q := fabricQ, n := u.b.nextFabric }, fetchedUs := nowUs u }]
            ∨ (opInfo (opOf k)).isNone))

/-- O60. A command whose own check fails ends with that check's status. A command that starts and fails a check of its own
rule completes at once with the status and INFO of the first check that fails, and has no other effect. A PARTITION_SET starts only while
no patch runs. -/
def Obligations.FailedChecksEndCommands : Prop :=
  ∀ (s : State) (c : CmdId) (env : Env) (k : Cmd) (i : Instr) (chk : W → Cmd → Check) (o : Outc),
    Starts s c k → Calm s env → Reports s c k →
    (i, opOf k, chk) ∈ [(Instr.regionDefine c env, 0x10, regionCheck), (.regionRetire c env, 0x11, retireCheck),
      (.regionSound c env, 0x12, soundCheck), (.watchOpen c env, 0x20, watchOpenCheck), (.accumClear c env, 0x30, accumClearCheck),
      (.accumWrite c env, 0x31, accumWriteCheck), (.reduceScatter c env, 0x33, reduceCheck), (.allGather c env, 0x34, gatherCheck),
      (.kernelLoad c env, 0x41, kernelLoadCheck), (.relightStart c env, 0x62, relightCheck), (.restripe c env, 0x63, restripeCheck),
      (.degradedRead c env, 0x64, degradedCheck), (.copy c env, 0x70, fun w k => copyCheck w k true),
      (.fill c env, 0x71, fun w k => copyCheck w k false), (.snuff c env, 0x82, fun _ k => deny (k.part != 0) 0xB2),
      (.imagePatch c env, 0x83, patchCheck), (.partitionSet c env, 0x84, partitionCheck),
      (.statsSnapshot c env, 0x90, snapshotCheck)] →
    (opOf k = 0x84 → s.blk.patch = none) → chk (begun s c k) k = some o → Leads i s (fun t => Finished s t c k o (begun s c k))
end

