-- ==== Sys2Proof/Laws/Memory.lean ====
section
/-! SUPPORT. Laws of host memory: a read after a write, the canonical form, and what a journal leaves. -/

namespace Sys2Proof.Machine

theorem memWfFrom_mono (m : Mem) (lo hi : Nat) (h : lo ≤ hi) (hm : memWfFrom hi m = true) : memWfFrom lo m = true := by
  cases m with
  | nil => rfl
  | cons e t =>
    obtain ⟨k, v⟩ := e
    simp only [memWfFrom, Bool.and_eq_true, decide_eq_true_eq] at hm ⊢
    exact ⟨⟨by omega, hm.1.2⟩, hm.2⟩

theorem memGet_below (m : Mem) (lo a : Nat) (h : a < lo) (hm : memWfFrom lo m = true) : memGet m a = 0 := by
  cases m with
  | nil => rfl
  | cons e t =>
    obtain ⟨k, v⟩ := e
    simp only [memWfFrom, Bool.and_eq_true, decide_eq_true_eq] at hm
    have h1 : a ≠ k := by omega
    have h2 : a < k := by omega
    simp [memGet, h1, h2]

theorem memWfFrom_memSet (m : Mem) (lo a : Nat) (v : Byte) (h : lo ≤ a) (hm : memWfFrom lo m = true) :
    memWfFrom lo (memSet m a v) = true := by
  induction m generalizing lo with
  | nil =>
    by_cases hv : v = 0
    · simp only [memSet, if_pos hv, memWfFrom]
    · simp only [memSet, if_neg hv, memWfFrom, Bool.and_eq_true, decide_eq_true_eq]; exact ⟨⟨h, hv⟩, trivial⟩
  | cons e t ih =>
    obtain ⟨k, x⟩ := e
    simp only [memWfFrom, Bool.and_eq_true, decide_eq_true_eq] at hm
    obtain ⟨⟨h1, h2⟩, h3⟩ := hm
    simp only [memSet]
    split
    · rename_i hak
      by_cases hv : v = 0
      · simp only [if_pos hv, memWfFrom, Bool.and_eq_true, decide_eq_true_eq]; exact ⟨⟨h1, h2⟩, h3⟩
      · simp only [if_neg hv, memWfFrom, Bool.and_eq_true, decide_eq_true_eq]
        exact ⟨⟨h, hv⟩, ⟨⟨by omega, h2⟩, h3⟩⟩
    · split
      · rename_i hak; subst hak
        by_cases hv : v = 0
        · simp only [if_pos hv]; exact memWfFrom_mono t lo (a + 1) (by omega) h3
        · simp only [if_neg hv, memWfFrom, Bool.and_eq_true, decide_eq_true_eq]; exact ⟨⟨h, hv⟩, h3⟩
      · simp only [memWfFrom, Bool.and_eq_true, decide_eq_true_eq]
        exact ⟨⟨h1, h2⟩, ih (k + 1) (by omega) h3⟩

/-- A write of a byte keeps the canonical form. -/
theorem memWf_memSet (m : Mem) (a : Nat) (v : Byte) (hm : memWf m = true) : memWf (memSet m a v) = true :=
  memWfFrom_memSet m 0 a v (Nat.zero_le a) hm

theorem memGet_memSet_from (m : Mem) (lo a b : Nat) (v : Byte) (hm : memWfFrom lo m = true) :
    memGet (memSet m a v) b = if b = a then v else memGet m b := by
  induction m generalizing lo with
  | nil => by_cases hv : v = 0 <;> simp only [memSet, hv, memGet] <;> split <;> simp_all [memGet]
  | cons e t ih =>
    obtain ⟨k, x⟩ := e
    simp only [memWfFrom, Bool.and_eq_true, decide_eq_true_eq] at hm
    obtain ⟨⟨h1, h2⟩, h3⟩ := hm
    simp only [memSet]
    split
    · rename_i hak
      by_cases hv : v = 0
      · simp only [hv, if_true]
        split
        · rename_i hb; subst hb
          have hne : b ≠ k := by omega
          simp [memGet, hne, hak]
        · rfl
      · simp only [hv, if_false, memGet]
        split
        · rfl
        · split
          · have : b ≠ k := by omega
            have : b < k := by omega
            simp_all
          · rfl
    · split
      · rename_i h4 h5; subst h5
        by_cases hv : v = 0
        · simp only [hv, if_true, memGet]
          split
          · rename_i hb; subst hb; exact memGet_below t (b + 1) b (by omega) h3
          · split
            · rename_i hb; exact memGet_below t (a + 1) b (by omega) h3
            · rfl
        · rw [if_neg hv]; simp only [memGet]; split <;> rfl
      · simp only [memGet]
        split
        · rename_i hb; subst hb
          have : b ≠ a := by omega
          simp [this]
        · split
          · have : b ≠ a := by omega
            simp [this]
          · exact ih (k + 1) h3

/-- A byte read after a write of a byte. -/
theorem memGet_memSet (m : Mem) (a b : Nat) (v : Byte) (hm : memWf m = true) :
    memGet (memSet m a v) b = if b = a then v else memGet m b := memGet_memSet_from m 0 a b v hm

/-- A journal keeps the canonical form. -/
theorem memWf_commitJournal (m : Mem) (j : List Host.Cell) (hm : memWf m = true) : memWf (commitJournal m j) = true := by
  induction j with
  | nil => exact hm
  | cons e t ih => obtain ⟨a, v⟩ := e; exact memWf_memSet _ a v ih

/-- What a byte reads as once a journal is in memory: its newest entry, or the byte as it was. -/
theorem memGet_commitJournal (m : Mem) (j : List Host.Cell) (a : Nat) (hm : memWf m = true) :
    memGet (commitJournal m j) a = match j.find? (fun c => c.1 == a) with | some c => c.2 | none => memGet m a := by
  induction j with
  | nil => rfl
  | cons e t ih =>
    obtain ⟨k, v⟩ := e
    simp only [commitJournal, memGet_memSet _ k a v (memWf_commitJournal m t hm)]
    by_cases h : a = k
    · subst h; simp
    · have h' : ¬ k = a := fun e => h e.symm
      simp [h, h', ih]

/-- The state a command leaves reads as its transaction did. -/
theorem memGet_closeW (s : State) (w : W) (a : Nat) (hb : w.base = s.mem) (hm : memWf s.mem = true) :
    memGet (closeW s w).mem a = getByte w a := by
  simp only [closeW, memGet_commitJournal _ _ _ hm, getByte, hb] <;> (cases w.jr.find? (fun c => c.1 == a) <;> rfl)

@[simp] theorem getByte_putBytes_nil (w : W) (a : Nat) : putBytes w a [] = w := rfl

/-- Bytes written, read back. -/
theorem getByte_putBytes (w : W) (a b : Nat) (d : Bytes) :
    getByte (putBytes w a d) b = if a ≤ b ∧ b < a + d.length then d.getD (b - a) 0 else getByte w b := by
  induction d generalizing w a with
  | nil =>
    have : ¬ (a ≤ b ∧ b < a + ([] : Bytes).length) := by simp
    simp only [putBytes, if_neg this]
  | cons x d ih =>
    simp only [putBytes, ih]
    by_cases h1 : a + 1 ≤ b ∧ b < a + 1 + d.length
    · have h2 : a ≤ b ∧ b < a + (x :: d).length := by simp; omega
      rw [if_pos h1, if_pos h2]
      have : b - a = (b - (a + 1)) + 1 := by omega
      rw [this]; simp
    · rw [if_neg h1]
      by_cases h3 : b = a
      · subst h3
        have h2 : b ≤ b ∧ b < b + (x :: d).length := by simp
        rw [if_pos h2]; simp [getByte]
      · have h2 : ¬ (a ≤ b ∧ b < a + (x :: d).length) := by simp; omega
        have h4 : ¬ a = b := fun e => h3 e.symm
        rw [if_neg h2]; simp [getByte, h4]

/-- The journal once a run of bytes is written. -/
def journalOf : Nat → Bytes → List Host.Cell → List Host.Cell
  | _, [], j => j
  | a, x :: t, j => journalOf (a + 1) t ((a, x) :: j)

/-- Writing bytes changes the journal alone. -/
theorem putBytes_eq (w : W) (a : Nat) (d : Bytes) : putBytes w a d = { w with jr := journalOf a d w.jr } := by
  induction d generalizing w a with
  | nil => rfl
  | cons x d ih => simp [putBytes, ih, journalOf]

@[simp] theorem putBytes_b (w : W) (a : Nat) (d : Bytes) : (putBytes w a d).b = w.b := by
  induction d generalizing w a with
  | nil => rfl
  | cons x d ih => simp [putBytes, ih]

@[simp] theorem putBytes_base (w : W) (a : Nat) (d : Bytes) : (putBytes w a d).base = w.base := by
  induction d generalizing w a with
  | nil => rfl
  | cons x d ih => simp [putBytes, ih]

@[simp] theorem putBytes_build (w : W) (a : Nat) (d : Bytes) : (putBytes w a d).build = w.build := by
  induction d generalizing w a with
  | nil => rfl
  | cons x d ih => simp [putBytes, ih]

end Sys2Proof.Machine
end

