-- ==== Sys2Proof/Laws/State.lean ====
section
/-! SUPPORT. What each update of a state, a transaction or a table changes: one lemma for each, true by rfl. -/

namespace Sys2Proof.Machine

/-! ### State -/

@[simp] theorem openW_build (s : State) : (openW s).build = s.build := rfl
@[simp] theorem openW_base (s : State) : (openW s).base = s.mem := rfl
@[simp] theorem openW_jr (s : State) : (openW s).jr = [] := rfl
@[simp] theorem openW_b (s : State) : (openW s).b = s.blk := rfl
@[simp] theorem closeW_build (s : State) (w : W) : (closeW s w).build = s.build := rfl
@[simp] theorem closeW_mem (s : State) (w : W) : (closeW s w).mem = commitJournal s.mem w.jr := rfl
@[simp] theorem closeW_blk (s : State) (w : W) : (closeW s w).blk = w.b := rfl
@[simp] theorem closeW_pending (s : State) (w : W) : (closeW s w).pending = s.pending := rfl

/-- A meaning answers the state its transaction closes to. -/
theorem run_next (f : W → W) (s : State) : run f s = .next (closeW s (f (openW s))) := rfl

/-- A transaction without a journal entry leaves memory as it was. -/
theorem closeW_of_jr_nil (s : State) (w : W) (h : w.jr = []) : closeW s w = { s with blk := w.b } := by
  simp [closeW, h, commitJournal]

/-! ### The tables of the block -/

@[simp] theorem setSlice_b (p : Nat) (x : Slice) (w : W) : (setSlice p x w).b = { w.b with slices := tset w.b.slices p x } := rfl
@[simp] theorem setQp_b (q : Nat) (x : Qp) (w : W) : (setQp q x w).b = { w.b with qps := tset w.b.qps q x } := rfl
@[simp] theorem setCtx_b (i : Nat) (x : Ctx) (w : W) : (setCtx i x w).b = { w.b with ctxs := tset w.b.ctxs i x } := rfl
@[simp] theorem setRgn_b (i : Nat) (x : Region) (w : W) : (setRgn i x w).b = { w.b with rgns := tset w.b.rgns i x } := rfl
@[simp] theorem setGrp_b (g : Nat) (x : Group) (w : W) : (setGrp g x w).b = { w.b with grps := tset w.b.grps g x } := rfl
@[simp] theorem setSe_b (e : Nat) (x : Se) (w : W) :
    (setSe e x w).b = { w.b with eng := { w.b.eng with ses := tset w.b.eng.ses e x } } := rfl
@[simp] theorem modLp_b (l : Nat) (f : Lp → Lp) (w : W) :
    (modLp l f w).b = { w.b with lnk := { w.b.lnk with ports := tset w.b.lnk.ports l (f (getLp w l)) } } := rfl
@[simp] theorem cntAdd_b (a n : Nat) (w : W) :
    (cntAdd a n w).b = { w.b with cnt := tset w.b.cnt a ((tget w.b.cnt a 0 + n) % 2 ^ 64) } := rfl
@[simp] theorem logEv_b (code sev inst ctx : Nat) (args : List Nat) (w : W) :
    (logEv code sev inst ctx args w).b = { w.b with tlm := (logEv code sev inst ctx args w).b.tlm } := rfl

@[simp] theorem setSlice_jr (p : Nat) (x : Slice) (w : W) : (setSlice p x w).jr = w.jr := rfl
@[simp] theorem setQp_jr (q : Nat) (x : Qp) (w : W) : (setQp q x w).jr = w.jr := rfl
@[simp] theorem setCtx_jr (i : Nat) (x : Ctx) (w : W) : (setCtx i x w).jr = w.jr := rfl
@[simp] theorem setRgn_jr (i : Nat) (x : Region) (w : W) : (setRgn i x w).jr = w.jr := rfl
@[simp] theorem setGrp_jr (g : Nat) (x : Group) (w : W) : (setGrp g x w).jr = w.jr := rfl
@[simp] theorem setSe_jr (e : Nat) (x : Se) (w : W) : (setSe e x w).jr = w.jr := rfl
@[simp] theorem modLp_jr (l : Nat) (f : Lp → Lp) (w : W) : (modLp l f w).jr = w.jr := rfl
@[simp] theorem cntAdd_jr (a n : Nat) (w : W) : (cntAdd a n w).jr = w.jr := rfl
@[simp] theorem logEv_jr (code sev inst ctx : Nat) (args : List Nat) (w : W) : (logEv code sev inst ctx args w).jr = w.jr := rfl

end Sys2Proof.Machine
end

