-- ==== Sys2Proof/Laws/Tables.lean ====
section
/-! SUPPORT. Laws of the indexed tables and of lists changed at one member. -/

namespace Sys2Proof.Machine

theorem tfind_tset {α : Type} (t : Tbl α) (i j : Nat) (x : α) :
    tfind (tset t i x) j = if j = i then some x else tfind t j := by
  induction t with
  | nil => simp [tset, tfind]
  | cons e t ih =>
    obtain ⟨k, v⟩ := e
    simp only [tset]
    split
    · simp [tfind]
    · split
      · subst_vars; simp only [tfind]; split <;> rfl
      · simp only [tfind, ih]; split <;> split <;> first | rfl | omega

@[simp] theorem tget_tset_same {α : Type} (t : Tbl α) (i : Nat) (x d : α) : tget (tset t i x) i d = x := by
  simp [tget, tfind_tset]

theorem tget_tset_other {α : Type} (t : Tbl α) (i j : Nat) (x d : α) (h : j ≠ i) :
    tget (tset t i x) j d = tget t j d := by
  simp [tget, tfind_tset, h]

@[simp] theorem tset_tset {α : Type} (t : Tbl α) (i : Nat) (x y : α) : tset (tset t i x) i y = tset t i y := by
  induction t with
  | nil => simp [tset]
  | cons e t ih =>
    obtain ⟨k, v⟩ := e
    simp only [tset]
    split
    · simp [tset]
    · split
      · simp [tset]
      · rename_i h1 h2
        simp [tset, h1, h2, ih]

/-- Changing the members a test picks out, then dropping them, drops them. -/
theorem filter_mapIf {α : Type} (p : α → Bool) (f : α → α) (l : List α) (h : ∀ x, p x = true → p (f x) = true) :
    (mapIf p f l).filter (fun x => !p x) = l.filter (fun x => !p x) := by
  induction l with
  | nil => rfl
  | cons x l ih =>
    have ih' : List.filter (fun x => !p x) (List.map (fun x => if p x then f x else x) l) = l.filter (fun x => !p x) := ih
    by_cases hx : p x = true
    · simp [mapIf, hx, h x hx, ih']
    · simp [mapIf, hx, ih']

theorem find_mapIf {α : Type} (p : α → Bool) (f : α → α) (l : List α) (h : ∀ x, p x = true → p (f x) = true) :
    (mapIf p f l).find? p = (l.find? p).map f := by
  induction l with
  | nil => rfl
  | cons x l ih =>
    have ih' : List.find? p (List.map (fun x => if p x then f x else x) l) = (l.find? p).map f := ih
    by_cases hx : p x = true
    · simp [mapIf, hx, h x hx]
    · simp [mapIf, hx, ih']

end Sys2Proof.Machine
end

