-- ==== Sys2Proof/Laws/Complete.lean ====
section
/-! SUPPORT. What a completion does (R118, R119, R125): the spec lemma that the statements about commands rest on. -/

namespace Sys2Proof.Machine

open Sys2Proof.Safety

theorem injHit_none (w : W) (d i : Nat) (h : w.b.ras.inj = []) : injHit w d i = false := by
  simp [injHit, h, tget, tfind]

/-- A write of a part of a line that memory answers OK. -/
theorem writePart_ok (x : Acc) (a : Nat) (d : Bytes) (w : W) (he : x.env.wr = []) (hi : w.b.ras.inj = []) :
    writePart x a d w = (.ok, putBytes (present1 x 2 (lineOf a) w) (lineOf a)
      (putAt (getBytes w (lineOf a) 64) (a - lineOf a) d)) := by
  have h : injAccess (present1 x 2 (lineOf a) w) 8 (lineOf a) = false := by
    have hp : injHit (present1 x 2 (lineOf a) w) 8 (portOf w.build (lineOf a)) = false := injHit_none _ _ _ hi
    simp only [injAccess, show (present1 x 2 (lineOf a) w).build = w.build from rfl, hp, Bool.false_and]
  simp [writePart, writeAs, writeInj, noteCode, he, h]

/-- A request that is presented changes the counters and the list of requests alone. -/
theorem present1_eq (x : Acc) (op line : Nat) (w : W) :
    ∃ n md, present1 x op line w = { w with b := { w.b with cnt := n, mdOut := md } } :=
  ⟨_, _, rfl⟩

theorem getQp_setQp (q : Nat) (x : Qp) (w : W) : getQp (setQp q x w) q = x := by simp [getQp]

theorem setQp_setQp (q : Nat) (x y : Qp) (w : W) : setQp q x (setQp q y w) = setQp q x w := by simp [setQp]

theorem modQp_setQp (q : Nat) (f : Qp → Qp) (x : Qp) (w : W) : modQp q f (setQp q x w) = setQp q (f x) w := by
  rw [modQp, getQp_setQp, setQp_setQp]

theorem countDone_modQp (q n : Nat) (good : Bool) (w : W) :
    countDone q good (modQp q (fun k => { k with done := k.done + 1, notOk := if good then k.notOk else k.notOk ++ [n] }) w)
      = setQp q (countedQp (getQp w q) n good) w := by
  rw [countDone, show ∀ f : Qp → Qp, modQp q f w = setQp q (f (getQp w q)) w from fun _ => rfl, modQp_setQp]; rfl

/-- The outcome of a command that has none that waits, of a context that is not being torn down. -/
theorem finalOutc_plain (w : W) (k : Cmd) (o : Outc) (ho : k.outc = none) (ht : (getCtx w k.ctx).state ≠ .teardown) :
    finalOutc w k false o = { o with now := true, force := false } := by
  have : ((getCtx w k.ctx).state == .teardown) = false := by simpa using ht
  simp [finalOutc, ho, this]

/-- A completion of a command that is not silent, where memory answers OK and the entry's line is free: the entry, the queue pair, the
counters, and the request on the md_ port. -/
theorem complete_entry (env : Env) (c : CmdId) (k : Cmd) (o : Outc) (w : W)
    (hk : findCmd w c = some k) (hq : c.q ≠ fabricQ) (hs : bit (arg k 1 1) 1 = false) (ho : k.outc = none)
    (ht : (getCtx w k.ctx).state ≠ .teardown) (hl : linesFree w (entryAt (getQp w c.q)) 32 = true)
    (he : env.wr = []) (hi : w.b.ras.inj = []) :
    ∃ n md, complete env false c o w =
        { putBytes w (lineOf (entryAt (getQp w c.q)))
            (putAt (getBytes w (lineOf (entryAt (getQp w c.q))) 64) (entryAt (getQp w c.q) - lineOf (entryAt (getQp w c.q)))
              (completionBytes k o (getQp w c.q).sqHead (getQp w c.q).phase)) with
          b := { w.b with cmds := w.b.cmds.filter (fun k => k.id != c)
                          qps := tset w.b.qps c.q (doneQp (getQp w c.q) c.n (isOk o.status) (bit (arg k 1 1) 0)), cnt := n
                          mdOut := md } } := by
  have hg0 : getQp (cntGlb 0 1 (dropCmd c w)) c.q = getQp w c.q := rfl
  have hsl : silent k { o with now := true, force := false } = false := by simp [silent, hs]
  have hcb : ∀ h p, completionBytes k { o with now := true, force := false } h p = completionBytes k o h p := fun _ _ => rfl
  have hl' : linesFree w (cqSlot (getQp w c.q)) 32 = true := hl
  simp only [complete, hk, finalOutc_plain w k o ho ht, if_neg hq, hsl, hl', hcb, Bool.not_true, Bool.and_false, Bool.false_eq_true,
    if_false, countDone_modQp, getQp_setQp, hg0]
  rw [writePart_ok _ _ _ _ he (by simpa [cntGlb, dropCmd] using hi)]
  have hput : ∀ (a : Nat) (d : Bytes) (x : Acc) (l : Nat) (y : Qp), putBytes (present1 x 2 l (setQp c.q y (cntGlb 0 1 (dropCmd c w)))) a d
      = setQp c.q y (putBytes (present1 x 2 l (cntGlb 0 1 (dropCmd c w))) a d) := by
    intros; simp only [putBytes_eq]; rfl
  simp only [hput, modQp_setQp, bne_self_eq_false, Bool.false_eq_true, if_false]
  have hfin : ∀ (b : Bool) (x : Qp) (v : W), (if b = true then raiseQpIrq c.q (setQp c.q x v) else setQp c.q x v)
      = setQp c.q (if b then irqQp x else x) v := by
    intro b x v; cases b
    · rfl
    · simp only [if_true, raiseQpIrq, modQp_setQp]; rfl
  rw [hfin]
  obtain ⟨n, md, hp⟩ := present1_eq (seAcc env k.ctx) 2 (lineOf (cqSlot (countedQp (getQp w c.q) c.n (isOk o.status))))
    (cntGlb 0 1 (dropCmd c w))
  refine ⟨n, md, ?_⟩
  simp only [hp, putBytes_eq]
  rfl

/-- A run of bytes replaced inside a structure, byte by byte. -/
theorem putAt_getD (b x : Bytes) (off i : Nat) (h : off + x.length ≤ b.length) :
    (putAt b off x).getD i 0 = if off ≤ i ∧ i < off + x.length then x.getD (i - off) 0 else b.getD i 0 := by
  simp only [putAt, List.getD_eq_getElem?_getD]
  by_cases h1 : i < off
  · rw [if_neg (by omega), List.append_assoc, List.getElem?_append_left (by simp; omega)]
    simp [h1]
  · by_cases h2 : i < off + x.length
    · rw [if_pos ⟨by omega, h2⟩, List.append_assoc, List.getElem?_append_right (by simp; omega),
        List.getElem?_append_left (by simp; omega)]
      have : min off b.length = off := by omega
      simp [this]
    · rw [if_neg (by omega), List.getElem?_append_right (by simp; omega)]
      have : min off b.length = off := by omega
      simp only [List.length_append, List.length_take, List.getElem?_drop, this]
      congr 2; omega

theorem putAt_length (b x : Bytes) (off : Nat) (h : off + x.length ≤ b.length) : (putAt b off x).length = b.length := by
  simp [putAt]; omega

theorem getBytes_getD (w : W) (a n i : Nat) (h : i < n) : (getBytes w a n).getD i 0 = getByte w (a + i) := by
  simp [getBytes, h]

theorem getBytes_length (w : W) (a n : Nat) : (getBytes w a n).length = n := by simp [getBytes]

theorem toLe_length (n x : Nat) : (toLe n x).length = n := by
  induction n generalizing x with
  | zero => rfl
  | succ n ih => simp [toLe, ih]

theorem padTo_length (n : Nat) (b : Bytes) : (padTo n b).length = n := by
  simp [padTo, zeros] <;> omega

theorem bytesAt_length (b : Bytes) (off n : Nat) : (bytesAt b off n).length = n := by
  simp [bytesAt] <;> omega

theorem completionBytes_length (k : Cmd) (o : Outc) (h : Nat) (p : Bool) : (completionBytes k o h p).length = 32 := by
  simp [completionBytes, toLe_length, padTo_length, bytesAt_length, zeros]

/-- A byte read after a part of a line is replaced. -/
theorem getByte_putPart (w : W) (a b : Nat) (d : Bytes) (h : a % 64 + d.length ≤ 64) :
    getByte (putBytes w (lineOf a) (putAt (getBytes w (lineOf a) 64) (a - lineOf a) d)) b
      = if a ≤ b ∧ b < a + d.length then d.getD (b - a) 0 else getByte w b := by
  have hl : lineOf a + a % 64 = a := by simp only [lineOf]; have := Nat.mod_le a 64; omega
  have hlen : a - lineOf a + d.length ≤ (getBytes w (lineOf a) 64).length := by rw [getBytes_length]; omega
  rw [getByte_putBytes, putAt_length _ _ _ hlen, getBytes_length, putAt_getD _ _ _ _ hlen]
  by_cases h1 : lineOf a ≤ b ∧ b < lineOf a + 64
  · rw [if_pos h1]
    by_cases h2 : a ≤ b ∧ b < a + d.length
    · rw [if_pos (by omega), if_pos h2]; congr 1; omega
    · rw [if_neg (by omega), if_neg h2, getBytes_getD _ _ _ _ (by omega)]; congr 1; omega
  · rw [if_neg h1, if_neg (by omega)]

/-- A command completed from a transaction that has written nothing yet has finished. -/
theorem finished_of_complete (env : Env) (s : State) (c : CmdId) (k k' : Cmd) (o : Outc) (w : W)
    (hk : findCmd w c = some k') (hk' : k'.slot = k.slot) (hq : c.q ≠ fabricQ) (hr : Reports s c k) (hc : Calm s env)
    (ho : k'.outc = none) (ht : (getCtx w k'.ctx).state ≠ .teardown) (hl : linesFree w (entryAt (getQp w c.q)) 32 = true)
    (hb : w.base = s.mem) (hj : w.jr = []) (hi : w.b.ras.inj = [])
    (hqp : (getQp w c.q).cqBase = (qpOf s c.q).cqBase ∧ (getQp w c.q).cqTail = (qpOf s c.q).cqTail
      ∧ (getQp w c.q).sqHead = (qpOf s c.q).sqHead ∧ (getQp w c.q).phase = (qpOf s c.q).phase) :
    Finished s (closeW s (complete env false c o w)) c k o w := by
  obtain ⟨hs, ha, -, -⟩ := hr
  obtain ⟨_, he, _, hm⟩ := hc
  obtain ⟨h1, h2, h3, h4⟩ := hqp
  have harg : ∀ a n, arg k' a n = arg k a n := by intro a n; simp [arg, hk']
  have hop : opOf k' = opOf k := by simp [opOf, hk']
  obtain ⟨n, md, hn⟩ := complete_entry env c k' o w hk hq (by rw [harg]; exact hs) ho ht hl he hi
  have hent : entryAt (getQp w c.q) = entryAt (qpOf s c.q) := by simp [entryAt, h1, h2]
  have hcb : completionBytes k' o (getQp w c.q).sqHead (getQp w c.q).phase
      = completionBytes k o (qpOf s c.q).sqHead (qpOf s c.q).phase := by
    simp [completionBytes, hk', hop, h3, h4]
  have hbyte : ∀ b, byteAt (closeW s (complete env false c o w)) b
      = if entryAt (qpOf s c.q) ≤ b ∧ b < entryAt (qpOf s c.q) + 32
        then (completionBytes k o (qpOf s c.q).sqHead (qpOf s c.q).phase).getD (b - entryAt (qpOf s c.q)) 0 else byteAt s b := by
    intro b
    have hg : getByte w b = byteAt s b := by simp [getByte, hj, hb, byteAt]
    have hz : (entryAt (qpOf s c.q)) % 64 + (completionBytes k o (qpOf s c.q).sqHead (qpOf s c.q).phase).length ≤ 64 := by
      rw [completionBytes_length]
      simp only [entryAt]; omega
    have hp := getByte_putPart w (entryAt (qpOf s c.q)) b
      (completionBytes k o (qpOf s c.q).sqHead (qpOf s c.q).phase) hz
    rw [completionBytes_length, hg] at hp
    rw [byteAt, memGet_closeW _ _ _ (by rw [hn]; simp [hb]) hm, ← hp, hn, hent, hcb]
    rfl
  refine ⟨rfl, rfl, ?_, ?_, ?_⟩
  · simp only [closeW_blk, hn, harg]
  · intro i hi'
    rw [hbyte, if_pos ⟨by omega, by omega⟩]; congr 1; omega
  · intro b hb'
    rw [hbyte, if_neg (by omega)]

/-! ### Starting and going on -/

/-- A command row on a command that starts now. -/
theorem cmdRow_starts (s : State) (c : CmdId) (k : Cmd) (sel : Cmd → Bool) (env : Env) (start goOn : Cmd → W → W)
    (h : Starts s c k) (hsel : sel k = true) : cmdRow c sel env start goOn (openW s) = start k (begun s c k) := by
  obtain ⟨h1, h2, h3, h4, h5, h6, h7⟩ := h
  have hid : k.id = c := by simpa using List.find?_some h1
  have hx : getCtx (openW s) k.ctx = ctxOf s k.ctx := rfl
  have hp : (CmdPhase.fetched == CmdPhase.running) = false := by decide
  simp only [cmdRow, h1, hsel, hid, hx, h3, h4, h5, h6, h7, hp, Bool.not_true, Bool.and_false, Bool.or_false,
    Bool.false_eq_true, if_false, begun]

/-- A command row on a command that runs. -/
theorem cmdRow_runs (s : State) (c : CmdId) (k : Cmd) (sel : Cmd → Bool) (env : Env) (start goOn : Cmd → W → W)
    (h : Runs s c k) (hsel : sel k = true) : cmdRow c sel env start goOn (openW s) = goOn k (openW s) := by
  obtain ⟨h1, h2, h3, h4, h5⟩ := h
  have hid : k.id = c := by simpa using List.find?_some h1
  have hx : getCtx (openW s) k.ctx = ctxOf s k.ctx := rfl
  have hp : (CmdPhase.running == CmdPhase.running) = true := by decide
  simp only [cmdRow, h1, hsel, hid, hx, h3, h4, h5, hp, Bool.not_true, Bool.and_false, Bool.or_false,
    Bool.false_eq_true, if_false, if_true]

/-- Checks 1 to 4 of a command that is not critical change nothing. -/
theorem checksHead_free (k : Cmd) (w : W) (cls : CmdClass) (h : opInfo (opOf k) = some (false, cls)) :
    (checksHead k w).2 = w := by
  simp only [checksHead, h]
  split
  · rfl
  · split
    · rfl
    · simp only [Bool.false_eq_true, if_false, Bool.false_and]
      repeat' split
      all_goals first | rfl | simp_all

/-- Check 2 that a command passes changes the counters of its partition and class alone (R388). -/
theorem checkTag_sec (k : Cmd) (w : W) (hi : w.b.ras.inj = []) (hp : (checkTag k w).1 = none) :
    ∃ l r, (checkTag k w).2 = { w with b := { w.b with sec := { w.b.sec with last := l, rsn := r } } } := by
  have hh := injHit_none w 0x11 0 hi
  simp only [checkTag, hh, Bool.false_eq_true, if_false, Bool.not_false, Bool.true_and] at hp ⊢
  split at hp
  · exact absurd hp (by simp)
  · rename_i h1
    rw [if_neg h1]
    split at hp
    · rename_i h2
      rw [if_pos h2]
      split at hp
      · exact absurd hp (by simp)
      · rename_i h3
        rw [if_neg h3]; exact ⟨_, _, rfl⟩
    · rename_i h2
      rw [if_neg h2]
      split at hp
      · exact absurd hp (by simp)
      · rename_i h3
        rw [if_neg h3]; exact ⟨_, w.b.sec.rsn, rfl⟩

/-- Checks 1 to 4 that a command passes change at most the counters of its partition and class (R116, R388). -/
theorem checksHead_sec (k : Cmd) (w : W) (hi : w.b.ras.inj = []) (hp : (checksHead k w).1 = none) :
    ∃ l r, (checksHead k w).2 = { w with b := { w.b with sec := { w.b.sec with last := l, rsn := r } } } := by
  cases hop : opInfo (opOf k) with
  | none => simp [checksHead, hop, fail] at hp
  | some p =>
    obtain ⟨crit, cls⟩ := p
    cases crit with
    | false => exact ⟨w.b.sec.last, w.b.sec.rsn, checksHead_free k w cls hop⟩
    | true =>
      cases hr : (checkTag k w).1 with
      | some o =>
        simp only [checksHead, hop, if_true] at hp
        split at hp
        · simp [fail] at hp
        · split at hp
          · simp [fail] at hp
          · rw [show checkTag k w = ((checkTag k w).1, (checkTag k w).2) from rfl, hr] at hp
            simp at hp
      | none =>
        obtain ⟨l, r, h⟩ := checkTag_sec k w hi hr
        refine ⟨l, r, ?_⟩
        rw [← h]
        have key : ∀ x, checksHead k w = x → x.1 = none → x.2 = (checkTag k w).2 := by
          intro x hx h0
          simp only [checksHead, hop, if_true] at hx
          rw [show checkTag k w = ((checkTag k w).1, (checkTag k w).2) from rfl, hr] at hx
          generalize (checkTag k w).2 = v at hx ⊢
          simp only at hx
          repeat' split at hx
          all_goals subst hx
          all_goals first | rfl | (simp [fail] at h0; done)
        exact key _ rfl hp

theorem countStart_cmds (k : Cmd) (w : W) : (countStart k w).b.cmds = w.b.cmds := by
  unfold countStart; split <;> rfl

theorem findCmd_begun (s : State) (c : CmdId) (k : Cmd) (hk : findCmd (openW s) c = some k)
    (hc : (checksHead k (openW s)).2.b.cmds = s.blk.cmds) :
    findCmd (begun s c k) c = some { k with phase := .running } := by
  have : (begun s c k).b.cmds = mapIf (fun k => k.id == c) (fun k => { k with phase := .running }) s.blk.cmds := by
    simp only [begun, modCmd, ← hc, countStart_cmds]
  simp only [findCmd, this]
  rw [find_mapIf _ _ _ (by intro x hx; exact hx)]
  simp only [findCmd, openW_b] at hk
  rw [hk]; rfl

/-- A queue pair once the wait of a command that starts is counted (R448). -/
def waitedQp (q : Qp) (wait : Nat) : Qp :=
  { q with statWait := (q.statWait + wait) % 2 ^ 32, wraps := if 2 ^ 32 ≤ q.statWait + wait then q.wraps ||| 4#3 else q.wraps }

/-- What the start of a command changes: the counters of a critical command, its phase, and the wait statistics. -/
theorem begun_eq (s : State) (c : CmdId) (k : Cmd) (hk : Starts s c k) (hi : s.blk.ras.inj = []) :
    ∃ l r, begun s c k = { openW s with b := { s.blk with
        sec := { s.blk.sec with last := l, rsn := r }
        qps := tset s.blk.qps c.q (waitedQp (qpOf s c.q) (nowUs (openW s) - k.fetchedUs))
        cmds := mapIf (fun k => k.id == c) (fun k => { k with phase := .running }) s.blk.cmds } } := by
  obtain ⟨h1, hq, _, _, _, _, h7⟩ := hk
  have hid : k.id = c := by simpa using List.find?_some h1
  obtain ⟨l, r, h⟩ := checksHead_sec k (openW s) hi h7
  exact ⟨l, r, by rw [begun, h, countStart, hid, if_neg hq]; rfl⟩

/-- The queue pair of a command that starts, as a completion sees it. -/
theorem begun_qp (s : State) (c : CmdId) (k : Cmd) (hk : Starts s c k) (hi : s.blk.ras.inj = []) :
    (getQp (begun s c k) c.q).cqBase = (qpOf s c.q).cqBase ∧ (getQp (begun s c k) c.q).cqTail = (qpOf s c.q).cqTail
      ∧ (getQp (begun s c k) c.q).sqHead = (qpOf s c.q).sqHead ∧ (getQp (begun s c k) c.q).phase = (qpOf s c.q).phase := by
  obtain ⟨l, r, h⟩ := begun_eq s c k hk hi
  have : getQp (begun s c k) c.q = waitedQp (qpOf s c.q) (nowUs (openW s) - k.fetchedUs) := by
    rw [h]; exact tget_tset_same _ _ _ _
  rw [this]; exact ⟨rfl, rfl, rfl, rfl⟩

/-- The command of a transaction in which it has started. -/
theorem begun_find (s : State) (c : CmdId) (k : Cmd) (hk : Starts s c k) (hi : s.blk.ras.inj = []) :
    findCmd (begun s c k) c = some { k with phase := .running } := by
  obtain ⟨l, r, h⟩ := checksHead_sec k (openW s) hi hk.2.2.2.2.2.2
  exact findCmd_begun s c k hk.1 (by rw [h]; rfl)

/-- Two transactions with the same build and slices, and no fetch in either, leave the same lines free. -/
theorem linesFree_congr (v w : W) (a n : Nat) (hb : w.build = v.build) (hs : w.b.slices = v.b.slices) (hv : v.b.fetches = [])
    (hw : w.b.fetches = []) : linesFree w a n = linesFree v a n := by
  have h1 : fetchLines v = [] := by simp [fetchLines, hv]
  have h2 : fetchLines w = [] := by simp [fetchLines, hw]
  have h3 : ∀ p, portReady w p = portReady v p := by
    intro p; simp only [portReady, hazUsed, getSlice, hs, h1, h2, List.filter_nil, List.length_nil]
  simp only [linesFree, portsReady, noneFetched, h1, h2, h3, hs, hb]

/-- A command that completes from the transaction of its start, with an effect that leaves the slices, its context and the fetches as
they are, has finished. -/
theorem finished_of_start (env : Env) (s : State) (c : CmdId) (k : Cmd) (o : Outc) (w : W)
    (hk : Starts s c k) (hc : Calm s env) (hr : Reports s c k)
    (hcmd : w.b.cmds = (begun s c k).b.cmds) (hqps : w.b.qps = (begun s c k).b.qps) (hb : w.base = s.mem) (hj : w.jr = [])
    (hbd : w.build = s.build) (hsl : w.b.slices = s.blk.slices) (hx : w.b.ctxs = s.blk.ctxs) (hf : w.b.fetches = [])
    (hi : w.b.ras.inj = []) : Finished s (closeW s (complete env false c o w)) c k o w := by
  have hfc : findCmd w c = some { k with phase := .running } := by
    have := begun_find s c k hk hc.2.2.1
    simp only [findCmd, hcmd] at this ⊢; exact this
  have hq : getQp w c.q = getQp (begun s c k) c.q := by simp only [getQp, hqps]
  have hqb := begun_qp s c k hk hc.2.2.1
  have ht : (getCtx w k.ctx).state ≠ .teardown := by
    have h := hk.2.2.1
    simp only [ctxRuns, ctxOf, Bool.or_eq_true, beq_iff_eq] at h
    intro h'
    simp only [getCtx, hx] at h'
    rw [h'] at h; simp at h
  have hl : linesFree w (entryAt (getQp w c.q)) 32 = true := by
    have he : entryAt (getQp w c.q) = entryAt (qpOf s c.q) := by simp only [entryAt, hq, hqb.1, hqb.2.1]
    rw [he, linesFree_congr (openW s) w _ _ hbd hsl hr.2.2.2 hf]; exact hr.2.2.1
  exact finished_of_complete env s c k _ o w hfc rfl hk.2.1 hr hc hk.2.2.2.1 ht hl hb hj hi (by rw [hq]; exact hqb)

end Sys2Proof.Machine
end

