-- ==== Sys2Proof/Laws/Access.lean ====
section
/-! SUPPORT. What an access of the block's own and a read through the control port can do (R7, R9, R40, R63, R460). -/

namespace Sys2Proof.Machine

/-! ### Requests on the md_ ports -/

@[simp] theorem noteMd_b (o : MdOut) (w : W) : (noteMd o w).b = { w.b with mdOut := o :: w.b.mdOut } := rfl
@[simp] theorem noteMd_jr (o : MdOut) (w : W) : (noteMd o w).jr = w.jr := rfl
@[simp] theorem noteMd_build (o : MdOut) (w : W) : (noteMd o w).build = w.build := rfl
@[simp] theorem present1_jr (x : Acc) (op line : Nat) (w : W) : (present1 x op line w).jr = w.jr := rfl
@[simp] theorem present1_build (x : Acc) (op line : Nat) (w : W) : (present1 x op line w).build = w.build := rfl
@[simp] theorem present1_inj (x : Acc) (op line : Nat) (w : W) : (present1 x op line w).b.ras = w.b.ras := rfl

/-- A read of a line that memory answers OK and no injection meets: its bytes, and the request presented. -/
theorem readLine_ok (x : Acc) (line : Nat) (w : W) (he : x.env.rd = []) (hi : w.b.ras.inj = []) :
    readLine x line w = (.ok, getBytes w line 64, present1 x 0 line w) := by
  have h : injHit (present1 x 0 line w) 7 (portOf w.build line) = false := injHit_none _ _ _ hi
  simp only [readLine, readCode, he, readInj, injAccess, present1_build, h]; rfl

/-- A write of a whole line that memory answers OK and no injection meets: the request presented, and its bytes. -/
theorem writeLine_ok (x : Acc) (line : Nat) (d : Bytes) (w : W) (he : x.env.wr = []) (hi : w.b.ras.inj = []) :
    writeLine x line d w = (.ok, putBytes (present1 x 1 line w) line d) := by
  have h : injHit (present1 x 1 line w) 8 (portOf w.build line) = false := injHit_none _ _ _ hi
  simp only [writeLine, writeAs, he, writeInj, injAccess, present1_build, h]; rfl

/-! ### Reads through the control port -/

/-- A read through the control port that no fault meets answers data, and leaves everything but the latches and
PEAK_MW. -/
theorem readAccess_fine (a : Nat) (s : State) (h : s.blk.glb.state ≠ .reset) :
    ∃ l m, readAccess .none a s
      = ({ data := readValue s a, err := false }, { s with blk := { s.blk with latches := l, crp := { s.blk.crp with peakMw := m } } }) := by
  have hr : (s.blk.glb.state == .reset) = false := by simpa using h
  simp only [readAccess, hr, Bool.false_eq_true, if_false, afterRead]
  split
  · exact ⟨s.blk.latches, 0, rfl⟩
  · split
    · split
      · exact ⟨_, s.blk.crp.peakMw, rfl⟩
      · exact ⟨s.blk.latches, s.blk.crp.peakMw, rfl⟩
    · exact ⟨s.blk.latches, s.blk.crp.peakMw, rfl⟩

/-- No read changes host memory, the build or the queue. -/
theorem readAccess_frame (f : ReadFault) (a : Nat) (s : State) :
    (readAccess f a s).2.mem = s.mem ∧ (readAccess f a s).2.build = s.build ∧ (readAccess f a s).2.pending = s.pending := by
  by_cases h : s.blk.glb.state = .reset
  · have hr : (s.blk.glb.state == .reset) = true := by simpa using h
    simp only [readAccess, hr, if_true]; exact ⟨trivial, trivial, trivial⟩
  · have hr : (s.blk.glb.state == .reset) = false := by simpa using h
    have hf : ∀ t : State, (afterRead t a).mem = t.mem ∧ (afterRead t a).build = t.build ∧ (afterRead t a).pending = t.pending := by
      intro t
      simp only [afterRead]
      split
      · exact ⟨rfl, rfl, rfl⟩
      · split
        · split <;> exact ⟨rfl, rfl, rfl⟩
        · exact ⟨rfl, rfl, rfl⟩
    have hp : ∀ t : State, (readParity t a).mem = t.mem ∧ (readParity t a).build = t.build ∧ (readParity t a).pending = t.pending :=
      fun t => ⟨by simp [readParity, noteParity, setRas]; rfl, rfl, rfl⟩
    cases f with
    | none => simp only [readAccess, hr, Bool.false_eq_true, if_false]; exact hf s
    | parity =>
      simp only [readAccess, hr, Bool.false_eq_true, if_false]
      exact ⟨(hf _).1.trans (hp s).1, (hf _).2.1.trans (hp s).2.1, (hf _).2.2.trans (hp s).2.2⟩
    | parityTwice =>
      simp only [readAccess, hr, Bool.false_eq_true, if_false, readFails]
      exact ⟨(hp s).1, (hp s).2.1, (hp s).2.2⟩
    | bothCopies => simp only [readAccess, hr, Bool.false_eq_true, if_false, readFails]; exact ⟨rfl, rfl, rfl⟩

end Sys2Proof.Machine
end

