-- ==== Sys2Proof/Laws/Clocks.lean ====
section
/-! SUPPORT. What the time counters change: nothing but the counters. -/

namespace Sys2Proof.Machine

/-- A fold of steps that change counters only changes counters only. -/
theorem foldl_b_cnt {α : Type} (f : W → α → W) (h : ∀ w x, ∃ c, f w x = { w with b := { w.b with cnt := c } }) (l : List α) (w : W) :
    ∃ c, l.foldl f w = { w with b := { w.b with cnt := c } } := by
  induction l generalizing w with
  | nil => exact ⟨w.b.cnt, rfl⟩
  | cons x l ih =>
    obtain ⟨c, hc⟩ := h w x
    obtain ⟨d, hd⟩ := ih (f w x)
    exact ⟨d, by rw [List.foldl_cons, hd, hc]⟩

/-- A step that changes the counters only, made under a condition, changes the counters only. -/
theorem if_b_cnt (p : Bool) (v w : W) (c d : Tbl Nat) (h : v = { w with b := { w.b with cnt := c } }) (f : W → W)
    (hf : f v = { v with b := { v.b with cnt := d } }) : ∃ c, (if p then f v else v) = { w with b := { w.b with cnt := c } } := by
  cases p
  · exact ⟨c, h⟩
  · exact ⟨d, by rw [if_pos rfl, hf, h]⟩

theorem countSe_eq (d : Nat) (w : W) (e : Nat) : ∃ c, countSe d w e = { w with b := { w.b with cnt := c } } := by
  rw [countSe]
  obtain ⟨c1, h1⟩ := if_b_cnt ((getSe w e).state == .running || (getSe w e).state == .commit) w w w.b.cnt _ rfl (cntSe e 0x08 d) rfl
  obtain ⟨c2, h2⟩ := if_b_cnt ((getSe w e).state == .commit) _ w c1 _ h1 (cntSe e 0x10 d) rfl
  exact if_b_cnt (w.b.crp.gateStat.getLsbD e) _ w c2 _ h2 (cntSe e 0x20 d) rfl

theorem countMp_eq (d : Nat) (w : W) (p : Nat) : ∃ c, countMp d w p = { w with b := { w.b with cnt := c } } := by
  unfold countMp; split <;> exact ⟨_, rfl⟩

theorem countLp_eq (d : Nat) (w : W) (l : Nat) : ∃ c, countLp d w l = { w with b := { w.b with cnt := c } } := by
  unfold countLp; split <;> exact ⟨_, rfl⟩

/-- Counting time changes the counters and nothing else. -/
theorem countTime_eq (d : Nat) (w : W) : ∃ c, countTime d w = { w with b := { w.b with cnt := c } } := by
  obtain ⟨c1, h1⟩ := foldl_b_cnt (countSe d) (countSe_eq d) (List.range w.build.nse) w
  obtain ⟨c2, h2⟩ := foldl_b_cnt (countMp d) (countMp_eq d) (List.range w.build.nmp) { w with b := { w.b with cnt := c1 } }
  obtain ⟨c3, h3⟩ := foldl_b_cnt (countLp d) (countLp_eq d) (List.range w.build.nlp) { w with b := { w.b with cnt := c2 } }
  simp only [countTime, h1, h2, h3]
  split <;> exact ⟨_, rfl⟩

end Sys2Proof.Machine
end

