-- ==== Sys2Proof/WellFormed.lean ====
section
/-! DEFINITION. Which commands the hardware of a full build can be handed: operands within the widths and counts of the
signals, tables and numberings they stand for. The meanings are total; a term that is not well formed stands for no event of
the hardware. -/

namespace Sys2Proof

/-- A memory port of a full build (R2, R33). -/
def wfPort (p : Nat) : Bool := decide (p < 32)

/-- A read request carries no write data beat (R37). -/
def wfRead (r : MpReq) : Bool := r.data.isEmpty

/-- A write request carries exactly one beat of 256 B (R35, R37). -/
def wfWrite (r : MpReq) : Bool := decide (r.data.length = 256)

/-- The same for an atomic request (R37). -/
def wfAtomic (r : MpReq) : Bool := decide (r.data.length = 256)

/-- The answers of a downstream response: 1 to 4 lines (R35, R40). -/
def wfCodes (l : List Rsp) : Bool := decide (1 ≤ l.length) && decide (l.length ≤ 4)

/-- The 48-bit address of a line (R35). -/
def wfLine (a : Nat) : Bool := decide (a % 64 = 0) && decide (a < 2 ^ 48)

/-- An environment: every entry it lists is the address of a line, and an entry fails its parity at most twice. -/
def wfEnv (e : Env) : Bool := (e.rd ++ e.wr).all (fun x => wfLine x.1) && decide (e.par ≤ 2)

/-- A fetched command: one of 8,192 queue pairs, or the fabric queue (R108, R390). -/
def wfCmd (c : CmdId) : Bool := decide (c.q ≤ 8192)

/-- A received packet: one of 8 link ports, at most 4,096 B of payload (R66, R70). A LENGTH that differs is an error the
packet may have. -/
def wfRx (x : Rx) : Bool := decide (x.port < 8) && decide (x.pk.payload.length ≤ 4096)

/-- A state engine of a full build (R2). -/
def wfSe (e : Nat) : Bool := decide (e < 64)

/-- A context (R126). -/
def wfCtx (x : Nat) : Bool := decide (x < 4096)

/-- A group (R148). -/
def wfGrp (g : Nat) : Bool := decide (g < 256)

/-- A multicast group, where one is named. -/
def wfGrpOpt (g : Option Nat) : Bool := g.all (fun g => decide (g < 65536))

/-- A region (R146). -/
def wfRgn (r : Nat) : Bool := decide (r < 16384)

/-- An input of the monitors (R399). -/
def wfMon (kind : MonKind) (bit : Nat) : Bool :=
  match kind with
  | .tamper => decide (bit < 4)
  | .vwarn | .vtrip | .cwarn | .ctrip => decide (bit < 8)

/-- A unit of a full build (R417). -/
def wfUnit (u : UnitId) : Bool :=
  match u with
  | .slice p => decide (p < 32)
  | .se e => decide (e < 64)
  | .pr l => decide (l < 8)
  | .relight j => decide (j < 8)
  | .seal j => decide (j < 4)
  | .frontEnd qps => qps.all (fun q => decide (q < 8192))
  | .lantern | .helm | .pool => true

/-- An SRAM error: array code, instance and word within the widths of RAS_LAST (R431). -/
def wfSram (e : SramErr) : Bool := decide (e.array < 256) && decide (e.inst < 256) && decide (e.word < 2 ^ 32)

/-- Is the term a command that the hardware can be handed? -/
def Instr.wf : Instr → Bool
  | .mpRead p r => wfPort p && wfRead r
  | .mpWrite p r => wfPort p && wfWrite r
  | .mpWriteMasked p r => wfPort p && wfWrite r
  | .mpAtomic p r => wfPort p && wfAtomic r
  | .mdResponse p tag codes => wfPort p && decide (tag < 4096) && wfCodes codes
  | .mergeFlushTimeout p line => wfPort p && wfLine line
  | .degradedReadDone _ env => wfEnv env
  | .fetchDeadlineExpiry _ member env => decide (member < 16) && wfEnv env
  | .fetchRetryTimer _ => true
  | .commandFetch q env => decide (q < 8192) && wfEnv env
  | .doorbell q _ => decide (q < 8192)
  | .irqHoldoffExpiry q => decide (q < 8192)
  | .nop c env => wfCmd c && wfEnv env
  | .fence c env => wfCmd c && wfEnv env
  | .regionDefine c env => wfCmd c && wfEnv env
  | .regionRetire c env => wfCmd c && wfEnv env
  | .regionSound c env => wfCmd c && wfEnv env
  | .soundingStream r env => wfRgn r && wfEnv env
  | .soundingComplete r env => wfRgn r && wfEnv env
  | .soundingTimeout r env => wfRgn r && wfEnv env
  | .watchOpen c env => wfCmd c && wfEnv env
  | .watchPoll c env => wfCmd c && wfEnv env
  | .pollTimeout x env => wfCtx x && wfEnv env
  | .windowOpen c env => wfCmd c && wfEnv env
  | .encodingComplete x env => wfCtx x && wfEnv env
  | .encodingTimeout x env => wfCtx x && wfEnv env
  | .watchClose c env => wfCmd c && wfEnv env
  | .closeBarrier x env => wfCtx x && wfEnv env
  | .closeTimeout x env => wfCtx x && wfEnv env
  | .watchAbandon c env => wfCmd c && wfEnv env
  | .accumClear c env => wfCmd c && wfEnv env
  | .accumWrite c env => wfCmd c && wfEnv env
  | .reduceScatter c env => wfCmd c && wfEnv env
  | .directDeadline c env => wfCmd c && wfEnv env
  | .collectiveTimeout c env => wfCmd c && wfEnv env
  | .collectiveRepeatTimer c => wfCmd c
  | .allGather c env => wfCmd c && wfEnv env
  | .datumAdvanceSet c env => wfCmd c && wfEnv env
  | .datumAdvanceRecompute c env => wfCmd c && wfEnv env
  | .datumAdvanceMargin c env => wfCmd c && wfEnv env
  | .kernelRun c env => wfCmd c && wfEnv env
  | .kernelLoad c env => wfCmd c && wfEnv env
  | .bearingReadRunning c env => wfCmd c && wfEnv env
  | .bearingReadMember c env => wfCmd c && wfEnv env
  | .bearingSweepStart c env => wfCmd c && wfEnv env
  | .bearingSweepAdopt c env => wfCmd c && wfEnv env
  | .memberFence c env => wfCmd c && wfEnv env
  | .memberAdoptSurvivor c env => wfCmd c && wfEnv env
  | .memberAdoptSpare c env => wfCmd c && wfEnv env
  | .adoptResend g => wfGrp g
  | .adoptTimeout g env => wfGrp g && wfEnv env
  | .relightStart c env => wfCmd c && wfEnv env
  | .relightStateTransfer g env => wfGrp g && wfEnv env
  | .relightStripeDone _ env => wfEnv env
  | .relightTimeout g env => wfGrp g && wfEnv env
  | .restripe c env => wfCmd c && wfEnv env
  | .restripeStream r env => wfRgn r && wfEnv env
  | .restripeTimeout r env => wfRgn r && wfEnv env
  | .degradedRead c env => wfCmd c && wfEnv env
  | .copy c env => wfCmd c && wfEnv env
  | .fill c env => wfCmd c && wfEnv env
  | .keyInstallInstall c env => wfCmd c && wfEnv env
  | .keyInstallActivate c env => wfCmd c && wfEnv env
  | .keyInstallErase c env => wfCmd c && wfEnv env
  | .counterResync c env => wfCmd c && wfEnv env
  | .snuff c env => wfCmd c && wfEnv env
  | .imagePatch c env => wfCmd c && wfEnv env
  | .helmHandoverReady env => wfEnv env
  | .helmHandoverTimeout env => wfEnv env
  | .patchLibrarySwap env => wfEnv env
  | .patchSlotTimeout env => wfEnv env
  | .partitionSet c env => wfCmd c && wfEnv env
  | .groupDefine c env => wfCmd c && wfEnv env
  | .groupRelease c env => wfCmd c && wfEnv env
  | .formationJoinResend g => wfGrp g
  | .formationTimeout g env => wfGrp g && wfEnv env
  | .injectArm c env => wfCmd c && wfEnv env
  | .injectDisarm c env => wfCmd c && wfEnv env
  | .injectArmExpiry => true
  | .statsSnapshot c env => wfCmd c && wfEnv env
  | .sli e => wfSe e
  | .slih e => wfSe e
  | .sadd e => wfSe e
  | .saddi e => wfSe e
  | .ssub e => wfSe e
  | .smul e => wfSe e
  | .sand e => wfSe e
  | .sor e => wfSe e
  | .sxor e => wfSe e
  | .sshl e => wfSe e
  | .sshr e => wfSe e
  | .ssra e => wfSe e
  | .scmp e => wfSe e
  | .br e => wfSe e
  | .bz e => wfSe e
  | .bnz e => wfSe e
  | .loop e => wfSe e
  | .vadd e => wfSe e
  | .vsub e => wfSe e
  | .vmul e => wfSe e
  | .vfma e => wfSe e
  | .vmin e => wfSe e
  | .vmax e => wfSe e
  | .vrcp e => wfSe e
  | .vrsq e => wfSe e
  | .vsqrt e => wfSe e
  | .vexp2 e => wfSe e
  | .vlog2 e => wfSe e
  | .vcmp e => wfSe e
  | .vsel e => wfSe e
  | .vand e => wfSe e
  | .vor e => wfSe e
  | .vxor e => wfSe e
  | .vshl e => wfSe e
  | .vshr e => wfSe e
  | .viadd e => wfSe e
  | .vcvt e => wfSe e
  | .vbcast e => wfSe e
  | .vext e => wfSe e
  | .vidx e => wfSe e
  | .ldv e => wfSe e
  | .ldl e => wfSe e
  | .stl e => wfSe e
  | .waitl e => wfSe e
  | .ldds e env => wfSe e && wfEnv env
  | .cbegin e => wfSe e
  | .cst e env => wfSe e && wfEnv env
  | .st e env => wfSe e && wfEnv env
  | .dadd e env => wfSe e && wfEnv env
  | .cend e env => wfSe e && wfEnv env
  | .qacc e => wfSe e
  | .rand e => wfSe e
  | .bolganNop e => wfSe e
  | .chunkDispatch part env => decide (part < 16) && wfEnv env
  | .sliceExpiry e => wfSe e
  | .kernelTimeout e env => wfSe e && wfEnv env
  | .commitPhaseTimeout e env => wfSe e && wfEnv env
  | .unitPrepare g _ env => wfGrp g && wfEnv env
  | .hostUnitTimeout p g _ => wfPort p && wfGrp g
  | .deltaPacketTimeout p _ => wfPort p
  | .unitReady g src _ => wfGrp g && decide (src < 16)
  | .doneNoticeTimer g => wfGrp g
  | .parityRebuild _ env => wfEnv env
  | .poolAudit => true
  | .stageFullResume port env => decide (port < 8) && wfEnv env
  | .pressureEpisode10ms => true
  | .pressureRepeatLog => true
  | .pressureEpisodeEnd => true
  | .bearingSweepPeriod r env => wfRgn r && wfEnv env
  | .sweepComplete r env => wfRgn r && wfEnv env
  | .parityScrubStart r => wfRgn r
  | .parityScrubStripe _ env => wfEnv env
  | .lanternPeriod => true
  | .affinityMove _ => true
  | .lanternSuspect _ => true
  | .lanternLost _ env => wfEnv env
  | .downIndication port _ env => decide (port < 8) && wfEnv env
  | .lpTxOff port _ => decide (port < 8)
  | .lpLinkUp port _ => decide (port < 8)
  | .seqLossTimeout _ vc mcast upTo env => decide (vc < 6) && wfGrpOpt mcast && decide (upTo < 2 ^ 24) && wfEnv env
  | .vc0RepeatTimer _ => true
  | .lantern rx env => wfRx rx && wfEnv env
  | .ack rx env => wfRx rx && wfEnv env
  | .prepare rx env => wfRx rx && wfEnv env
  | .apply rx env => wfRx rx && wfEnv env
  | .delta rx env => wfRx rx && wfEnv env
  | .poll rx env => wfRx rx && wfEnv env
  | .barrier rx env => wfRx rx && wfEnv env
  | .groupBearing rx env => wfRx rx && wfEnv env
  | .abandonNotice rx env => wfRx rx && wfEnv env
  | .tornNotice rx env => wfRx rx && wfEnv env
  | .reduce rx env => wfRx rx && wfEnv env
  | .reduceRepeat rx env => wfRx rx && wfEnv env
  | .gather rx env => wfRx rx && wfEnv env
  | .gatherRepeat rx env => wfRx rx && wfEnv env
  | .fetchLine rx env => wfRx rx && wfEnv env
  | .fetchFrag rx env => wfRx rx && wfEnv env
  | .fetchRebuild rx env => wfRx rx && wfEnv env
  | .fetchMap rx env => wfRx rx && wfEnv env
  | .fetchState rx env => wfRx rx && wfEnv env
  | .fetchTiles rx env => wfRx rx && wfEnv env
  | .fetchWatch rx env => wfRx rx && wfEnv env
  | .fetchRsp rx env => wfRx rx && wfEnv env
  | .fabricCmd rx env => wfRx rx && wfEnv env
  | .join rx env => wfRx rx && wfEnv env
  | .desc rx env => wfRx rx && wfEnv env
  | .endNotice rx env => wfRx rx && wfEnv env
  | .loss rx env => wfRx rx && wfEnv env
  | .settle rx env => wfRx rx && wfEnv env
  | .done rx env => wfRx rx && wfEnv env
  | .fenced rx env => wfRx rx && wfEnv env
  | .adopt rx env => wfRx rx && wfEnv env
  | .adopted rx env => wfRx rx && wfEnv env
  | .rlBegin rx env => wfRx rx && wfEnv env
  | .rlAnswer rx env => wfRx rx && wfEnv env
  | .rlEnd rx env => wfRx rx && wfEnv env
  | .rlCancel rx env => wfRx rx && wfEnv env
  | .rsBegin rx env => wfRx rx && wfEnv env
  | .rsAnswer rx env => wfRx rx && wfEnv env
  | .ctxEnable x => wfCtx x
  | .ctxDisable x env => wfCtx x && wfEnv env
  | .ctxReset x env => wfCtx x && wfEnv env
  | .teardownDone x _ env => wfCtx x && wfEnv env
  | .qpEnable q _ => decide (q < 8192)
  | .qpReset q => decide (q < 8192)
  | .serveOn => true
  | .serveOff env => wfEnv env
  | .seDrain e => wfSe e
  | .seReadmit e => wfSe e
  | .quiesce p => wfPort p
  | .quiesceExpired p _ => wfPort p
  | .linkEnable _ => true
  | .mcastEnable _ => true
  | .bseedWrite g _ _ => wfGrp g
  | .ldrDownloadGo _ => true
  | .ldrAbort => true
  | .ldrData _ => true
  | .imageVerified => true
  | .imageApplied => true
  | .helmReportTimeout => true
  | .injectWrite d _ env => decide (d < 18) && wfEnv env
  | .registerWrite addr _ env => decide (addr % 8 = 0) && decide (addr < 2 ^ 25) && wfEnv env
  | .mainResetAssert => true
  | .mainResetRelease => true
  | .selfTestDone _ _ => true
  | .coldReset => true
  | .wrapperReset => true
  | .powerLoss => true
  | .dbgUnlock => true
  | .kpWord _ _ _ => true
  | .keyDerivationDone => true
  | .kidCheck env => wfEnv env
  | .tamperTrip kind bit env => wfMon kind bit && wfEnv env
  | .monitorWarn kind bit env => wfMon kind bit && wfEnv env
  | .ssReadFrame _ _ => true
  | .ssSnuffFrame words _ env => decide (words.length ≤ 256) && wfEnv env
  | .tbStrobe _ => true
  | .tbLost => true
  | .sramScrub errs env => errs.all wfSram && wfEnv env
  | .unitReset u kind code word env =>
    wfUnit u && (kind == 1 || kind == 2) && decide (code < 256) && decide (word < 2 ^ 32) && wfEnv env
  | .watchdogTrip machine inst env => decide (machine < 16) && decide (inst < 256) && wfEnv env
  | .helmRestart => true
  | .unitGate u => wfUnit u
  | .unitWake u => wfUnit u
  | .powerEstimate => true
  | .telemetrySample env => wfEnv env
  | .quiesceCleared p _ => wfPort p
  | .memClockResumed p => wfPort p
  | .seSelfTestRerunDone e _ => wfSe e

end Sys2Proof
end

