-- ==== Sys2Proof/Tests/Slice0.lean ====
section
/-! SUPPORT. The model's own tests: terms that WellFormed refuses, effects of single commands on small states, and for every
statement with hypotheses a concrete state and operands that meet them. -/

namespace Sys2Proof.Tests

open Sys2Proof Sys2Proof.Machine Sys2Proof.Safety

set_option Elab.async false

/-! ### Small states -/

/-- Fields of a structure, (offset, length, value), over n zero bytes. -/
def fill (n : Nat) (l : List (Nat × Nat × Nat)) : Bytes :=
  l.foldl (fun b f => putAt b f.1 (toLe f.2.1 f.2.2)) (zeros n)

/-- A fetched command of queue pair 0 with an opcode and fields. -/
def cmdOf (op : Nat) (l : List (Nat × Nat × Nat)) : Cmd :=
  { id := { q := 0, n := 0 }, slot := fill 64 ((0, 1, op) :: l), ctx := 1, part := 0 }

def c0 : CmdId := { q := 0, n := 0 }

/-- A block in SERVICE: partition 0 holds everything, context 1 and queue pair 0 are in use. -/
def blk0 : Blk :=
  { glb := { state := .service, mainReset := false, helmOk := true }
    sec := { keyOk := true, derived := true, fuses := List.replicate 17 1 }
    parts := [(0, { seMask := 0xFFFFFFFFFFFFFFFF, ctxFirst := 1, ctxCount := 4095, qpCount := 8192, cmdShare := 4096
                    groupMax := 256, regionMax := 16384, poolKib := 24576, sliceUs := 100 })]
    ctxs := [(1, { state := .active, enable := true })]
    qps := [(0, { enable := true, state := .active, ctx := 1, sqBase := 0x10000, cqBase := 0x20000, fetched := 1, sqHead := 1
                  sqTail := 1 })] }

/-- The state of a block. -/
def stOf (b : Blk) : State := { blk := b }

/-- The state of a block with one command in flight. -/
def with1 (b : Blk) (k : Cmd) : State := stOf { b with cmds := [k] }

theorem fst_of {α β : Type} (x : α × β) (a : α) (h : x.1 = a) : ∃ b, x = (a, b) := ⟨x.2, by rw [← h]⟩

/-- The hypotheses of `Issued`, as a Boolean. -/
def issuedB (s : State) (c : CmdId) (env : Env) (k : Cmd) (op : Nat) : Bool :=
  decide (findCmd (openW s) c = some k ∧ c.q ≠ fabricQ ∧ ctxRuns (ctxOf s k.ctx) = true ∧ k.outc = none ∧ k.phase = .fetched
    ∧ mayStart (openW s) k = true ∧ (checksHead k (openW s)).1 = none ∧ env.rd = [] ∧ env.wr = [] ∧ s.blk.ras.inj = []
    ∧ memWf s.mem = true ∧ (bit (arg k 1 1) 1 = false ∧ (qpOf s c.q).cqBase % 32 = 0
      ∧ linesFree (openW s) (entryAt (qpOf s c.q)) 32 = true ∧ s.blk.fetches = []) ∧ opOf k = op)

theorem issued_of (s : State) (c : CmdId) (env : Env) (k : Cmd) (op : Nat) (h : issuedB s c env k op = true) :
    Issued s c env k op := by
  simp only [issuedB, decide_eq_true_eq] at h
  exact ⟨⟨h.1, h.2.1, h.2.2.1, h.2.2.2.1, h.2.2.2.2.1, h.2.2.2.2.2.1, h.2.2.2.2.2.2.1⟩,
    ⟨h.2.2.2.2.2.2.2.1, h.2.2.2.2.2.2.2.2.1, h.2.2.2.2.2.2.2.2.2.1, h.2.2.2.2.2.2.2.2.2.2.1⟩,
    h.2.2.2.2.2.2.2.2.2.2.2.1, h.2.2.2.2.2.2.2.2.2.2.2.2⟩

/-! ### Critical commands with a valid tag, whatever the tag function is -/

/-- The first slot and the counter of a critical command: fields of its slot, COUNTER 1. -/
def preOf (op : Nat) (l : List (Nat × Nat × Nat)) : Bytes := fill 0x50 ((0, 1, op) :: (0x40, 8, 1) :: l)

/-- A critical command of queue pair 0 and a partition with a valid tag. -/
def critOf (b : Blk) (op : Nat) (l : List (Nat × Nat × Nat)) (p : Nat := 0) : Cmd :=
  { id := c0, slot := preOf op l ++ (padTo 16 (cmdTag b.sec (preOf op l) 1 p 0) ++ zeros 32), ctx := 1, part := p }

/-- The state of a block with one critical command in flight, and of host memory. -/
def withC (b : Blk) (op : Nat) (l : List (Nat × Nat × Nat)) (m : Mem := []) (p : Nat := 0) : State :=
  { with1 b (critOf b op l p) with mem := m }

theorem fld_pre (pre r : Bytes) (off len : Nat) (h : off + len ≤ pre.length) : fld (pre ++ r) off len = fld pre off len := by
  simp only [fld]
  rw [List.drop_append_of_le_length (by omega), List.take_append_of_le_length (by simp; omega)]

theorem dependentBad_pre (pre r : Bytes) (h : pre.length = 80) : dependentBad (pre ++ r) = dependentBad pre := by
  have h0 : ∀ off len, off + len ≤ 80 → fld (pre ++ r) off len = fld pre off len := fun o n ho => fld_pre pre r o n (by omega)
  unfold dependentBad
  rw [h0 0 1 (by omega)]
  split
  case h_2 =>
    congr 1
    apply List.filter_congr
    intro j hj
    rw [List.mem_range] at hj
    rw [h0 0x11 1 (by omega), h0 (0x30 + 2 * j) 2 (by omega)]
  all_goals simp (disch := omega) only [h0]

theorem argsOf_range (op : Nat) : ∀ f ∈ argsOf op, f.off + f.len ≤ 80 := by
  unfold argsOf
  split <;> simp [fAny, fBits, fRange, fAddr, fIdx, fIdxOpt, groupArgs]
  intro a h; omega

theorem fieldBad_tag (b : Bytes) : fieldBad b (fAny 0x50 16) = [] := by
  have : ∀ i, i < 16 → 255 - (allBits 16) >>> (8 * i) % 256 = 0 := by decide
  have hf : (List.range 16).filter (fun i => fld b 0x50 16 >>> (8 * i) % 256 &&& (255 - (allBits 16) >>> (8 * i) % 256) != 0) = [] := by
    rw [List.filter_eq_nil_iff]
    intro i hi
    rw [List.mem_range] at hi
    rw [this i hi]; simp
  simp only [fieldBad, fAny, hf]; rfl

theorem malformed_tag (pre t : Bytes) (h : pre.length = 80) (ht : t.length = 16) (cls : CmdClass)
    (ho : opInfo (fld pre 0 1) = some (true, cls)) :
    malformedAt (pre ++ (t ++ zeros 32)) = malformedAt (pre ++ zeros 48) := by
  have hop : ∀ r, fld (pre ++ r) 0 1 = fld pre 0 1 := fun r => fld_pre pre r 0 1 (by omega)
  simp only [malformedAt, hop, ho, dependentBad_pre _ _ h]
  congr 3
  · simp only [uncoveredBad]
    have hl : (pre ++ (t ++ zeros 32)).length = (pre ++ zeros 48).length := by simp [h, ht, zeros]
    rw [hl]
    apply List.filter_congr
    intro i hi
    by_cases h1 : 0x50 ≤ i ∧ i < 0x60
    · have : ∀ l : List FieldSpec, fAny 0x50 16 ∈ l → l.all (fun f => decide (i < f.off) || decide (f.off + f.len ≤ i)) = false := by
        intro l hm
        rw [List.all_eq_false]
        refine ⟨_, hm, ?_⟩
        show ¬ (decide (i < 0x50) || decide (0x50 + 16 ≤ i)) = true
        rw [Bool.or_eq_true, decide_eq_true_eq, decide_eq_true_eq]; omega
      rw [this _ (by simp [fieldsOf])]; simp
    · congr 2
      simp only [List.getD_eq_getElem?_getD]
      by_cases h2 : i < 80
      · rw [List.getElem?_append_left (by omega), List.getElem?_append_left (by omega)]
      · rw [List.getElem?_append_right (by omega), List.getElem?_append_right (by omega),
          List.getElem?_append_right (by omega), h, ht]
        simp only [zeros, List.getElem?_replicate]
        simp only [List.length_append, h, zeros, List.length_replicate, List.mem_range] at hi
        rw [if_pos (by omega), if_pos (by omega)]
  · simp only [List.flatMap]
    congr 1
    apply List.map_congr_left
    intro f hf
    simp only [fieldsOf, List.mem_append, List.mem_cons, if_true, List.not_mem_nil, or_false] at hf
    have key : f.off + f.len ≤ 80 ∨ f = fAny 0x50 16 := by
      rcases hf with ((rfl | rfl | rfl) | hf) | (rfl | rfl)
      · left; simp [fAny]
      · left; simp [fBits]
      · left; simp [fAny]
      · left; exact argsOf_range _ f hf
      · left; simp [fAny]
      · right; rfl
    rcases key with hk | rfl
    · simp only [fieldBad, fld_pre pre _ _ _ (show f.off + f.len ≤ pre.length by omega)]
    · rw [fieldBad_tag, fieldBad_tag]

/-- What a critical command with COUNTER 1 needs to start in a block, beside its tag. -/
def critB (b : Blk) (op : Nat) (l : List (Nat × Nat × Nat)) (p : Nat := 0) : Bool :=
  (match opInfo op with | some (true, _) => true | _ => false)
    && decide (op ≠ 0x81 ∧ op < 256 ∧ (preOf op l).length = 80 ∧ fld (preOf op l) 0 1 = op ∧ fld (preOf op l) 0x40 8 = 1
      ∧ bytesAt (preOf op l ++ zeros 48) 0 0x48 = bytesAt (preOf op l) 0 0x48
      ∧ malformedAt (preOf op l ++ zeros 48) = none ∧ lastOf b.sec p 0 = 0 ∧ b.glb.state = .service
      ∧ (tget b.ctxs 1 {}).state = .active ∧ b.ras.inj = [] ∧ bit (fld (preOf op l) 1 1) 1 = false
      ∧ (tget b.qps 0 {}).cqBase % 32 = 0 ∧ b.fetches = [] ∧ linesFree (openW (stOf b)) (entryAt (tget b.qps 0 {})) 32 = true
      ∧ phaseOps.contains op = false)

/-- The block once such a command has started. -/
def begunC (b : Blk) (op : Nat) (l : List (Nat × Nat × Nat)) (m : Mem := []) (p : Nat := 0) : W :=
  modCmd c0 (fun k => { k with phase := .running }) (countStart (critOf b op l p)
    { openW (withC b op l m p) with b := { (withC b op l m p).blk with sec := { b.sec with last := tset b.sec.last (3 * p) 1 } } })

/-- The only command in flight may start, unless its Watch ends. -/
theorem mayStart_one (b : Blk) (k : Cmd) (m : Mem) (h : phaseOps.contains (opOf k) = false) :
    mayStart (openW { with1 b k with mem := m }) k = true := by
  have he : earlier (openW { with1 b k with mem := m }) k = [] := by
    simp only [earlier, with1, stOf, openW]
    exact List.filter_eq_nil_iff.mpr (by intro x hx; rw [List.mem_singleton] at hx; subst hx; simp)
  simp only [mayStart, isFree, awaitsEnd, he, h, List.all_nil, Bool.and_false, Bool.false_and, Bool.not_false, Bool.and_self]

/-- Checks 1 to 4 pass in any state with the block's keys, states of contexts and no injection. -/
theorem crit_head_of (b : Blk) (op : Nat) (l : List (Nat × Nat × Nat)) {p : Nat} (h : critB b op l p = true) (w : W) (hsec : w.b.sec = b.sec)
    (hglb : w.b.glb = b.glb) (hctx : w.b.ctxs = b.ctxs) (hras : w.b.ras = b.ras) :
    checksHead (critOf b op l p) w = (none, { w with b := { w.b with sec := { b.sec with last := tset b.sec.last (3 * p) 1 } } }) := by
  simp only [critB, Bool.and_eq_true, decide_eq_true_eq] at h
  obtain ⟨h0, h1, h2, h3, h4, h5, h6, h7, h8, h9, h10, h11, h12, h13, -⟩ := h
  split at h0
  case h_2 => cases h0
  case h_1 cls hc =>
    have hop : opOf (critOf b op l p) = op := by
      simp only [opOf, critOf]; rw [fld_pre _ _ _ _ (by omega), h4]
    have harg : arg (critOf b op l p) 0x40 8 = 1 := by
      simp only [arg, critOf]; rw [fld_pre _ _ _ _ (by omega), h5]
    have hb : ∀ x y : Bytes, bytesAt (preOf op l ++ (x ++ y)) 0 0x48 = bytesAt (preOf op l) 0 0x48 := by
      intro x y; simp only [bytesAt, List.drop_zero]
      rw [List.take_append_of_le_length (by omega)]
    have hslot : (critOf b op l p).slot = preOf op l ++ (padTo 16 (cmdTag b.sec (preOf op l) 1 p 0) ++ zeros 32) := rfl
    have htag : padTo 16 (cmdTag b.sec (critOf b op l p).slot 1 p 0) = bytesAt (critOf b op l p).slot 0x50 16 := by
      have : cmdTag b.sec (critOf b op l p).slot 1 p 0 = cmdTag b.sec (preOf op l) 1 p 0 := by
        simp only [cmdTag, hslot, hb]
      rw [this, hslot]
      simp only [bytesAt]
      rw [List.drop_append_of_le_length (by omega), List.drop_eq_nil_of_le (by omega), List.nil_append,
        List.take_append_of_le_length (by rw [padTo_length] <;> omega), List.take_of_length_le (by rw [padTo_length] <;> omega)]
      simp [padTo_length]
    have hm : malformedAt (critOf b op l p).slot = none := by
      rw [hslot, malformed_tag _ _ h3 (padTo_length _ _) cls (by rw [h4]; exact hc), h7]
    have ht : checkTag (critOf b op l p) w = (none, { w with b := { w.b with sec := { b.sec with last := tset b.sec.last (3 * p) 1 } } }) := by
      have hj : injHit w 0x11 0 = false := injHit_none _ _ _ (by rw [hras]; exact h11)
      simp only [checkTag, hj, hop, harg, Bool.false_eq_true, if_false, Bool.not_false, Bool.true_and]
      rw [hsec, show (critOf b op l p).ctx = 1 from rfl,
        show (critOf b op l p).part = p from rfl, show (critOf b op l p).cls = 0 from rfl, htag, h8]
      simp [h1]
    obtain ⟨v, hv, hvc, hvg⟩ : ∃ v : W, v = { w with b := { w.b with sec := { b.sec with last := tset b.sec.last (3 * p) 1 } } }
        ∧ v.b.ctxs = b.ctxs ∧ v.b.glb = b.glb := ⟨_, rfl, hctx, hglb⟩
    rw [← hv] at ht ⊢
    simp only [checksHead, hop, hc, ht, hm]
    rw [show (critOf b op l p).id.q = 0 from rfl, show (critOf b op l p).ctx = 1 from rfl]
    have hx : ∀ v : W, v.b.ctxs = b.ctxs → ((getCtx v 1).state == CtxState.retiring) = false := by
      intro v hv; rw [getCtx, hv, h10]; rfl
    have hs : ∀ v : W, v.b.glb = b.glb → ∀ t, (v.b.glb.state == t) = (BlockState.service == t) := by
      intro v hv t; rw [hv, h9]
    simp only [if_true, hx v hvc, hs v hvg, hs w hglb]
    rfl

theorem crit_head (b : Blk) (op : Nat) (l : List (Nat × Nat × Nat)) {m : Mem} {p : Nat} (h : critB b op l p = true) :
    checksHead (critOf b op l p) (openW (withC b op l m p))
      = (none, { openW (withC b op l m p) with b := { (withC b op l m p).blk with sec := { b.sec with last := tset b.sec.last (3 * p) 1 } } }) :=
  crit_head_of b op l h _ rfl rfl rfl rfl

theorem begun_crit (b : Blk) (op : Nat) (l : List (Nat × Nat × Nat)) {m : Mem} {p : Nat} (h : critB b op l p = true) :
    begun (withC b op l m p) c0 (critOf b op l p) = begunC b op l m p := by
  rw [begun, crit_head b op l h]; rfl

theorem issued_crit (b : Blk) (op : Nat) (l : List (Nat × Nat × Nat)) {m : Mem} {p : Nat} (h : critB b op l p = true)
    (hm : memWf m = true := by decide) :
    Issued (withC b op l m p) c0 {} (critOf b op l p) op := by
  have hh := crit_head (m := m) b op l h
  simp only [critB, Bool.and_eq_true, decide_eq_true_eq] at h
  obtain ⟨h0, h1, h2, h3, h4, h5, h6, h7, h8, h9, h10, h11, h12, h13, h14, h15, h16⟩ := h
  have hop : opOf (critOf b op l p) = op := by simp only [opOf, critOf]; rw [fld_pre _ _ _ _ (by omega), h4]
  refine ⟨⟨?_, by decide, ?_, rfl, rfl, ?_, by rw [hh]⟩, ⟨rfl, rfl, h11, hm⟩, ⟨?_, h13, ?_, h14⟩, hop⟩
  · simp [findCmd, withC, with1, stOf, openW, critOf]
  · show ctxRuns (tget b.ctxs 1 {}) = true
    rw [ctxRuns, h10]; rfl
  · exact mayStart_one b _ m (by rw [hop]; exact h16)
  · simp only [arg, critOf]; rw [fld_pre _ _ _ _ (by omega), h12]
  · exact (linesFree_congr (openW (stOf b)) _ _ _ rfl rfl h14 h14).trans h15

/-! ### Witnesses: the global statements, the front end -/

theorem wit_MemoryStaysCanonical : memCanonical { mem := [(5, 1), (9, 2)] } ∧ step { mem := [(5, 1), (9, 2)] } = .next { mem := [(5, 1), (9, 2)] } :=
  ⟨rfl, rfl⟩

/-- A doorbell: no valid bit; a queue pair not enabled; a tail at its bound; a head that reaches the tail. -/
theorem wit_DoorbellsAndQueuePairs :
    (portsOpen (openW (stOf blk0)) = true ∧ (0 : Word).getLsbD 16 = false ∧ (0 : Word).getLsbD 48 = false)
    ∧ ((0x10001 : Word).getLsbD 16 = true ∧ (qpOf (stOf blk0) 8191).enable = false)
    ∧ ((qpOf (stOf blk0) 0).enable = true ∧ ctxRuns (ctxOf (stOf blk0) (qpOf (stOf blk0) 0).ctx) = true
        ∧ (0x1000000010 - 1 : Word).getLsbD 48 = false ∧ (0x1000F : Word).getLsbD 16 = true ∧ (0x1000F : Word).getLsbD 48 = false
        ∧ bits (0x1000F : Word).toNat 15 0 < 2 ^ (qpOf (stOf blk0) 0).sqLog2)
    ∧ ((0x1000000000000 : Word).getLsbD 48 = true ∧ bits (0x1000000000000 : Word).toNat 47 32 < 2 ^ (qpOf (stOf blk0) 0).cqLog2
        ∧ subMod (bits (0x1000000000000 : Word).toNat 47 32) (qpOf (stOf blk0) 0).cqHead (2 ^ (qpOf (stOf blk0) 0).cqLog2)
            ≤ subMod (qpOf (stOf blk0) 0).cqTail (qpOf (stOf blk0) 0).cqHead (2 ^ (qpOf (stOf blk0) 0).cqLog2))
    ∧ (qpOf (stOf { blk0 with qps := [(0, { holding := true, heldIrq := true })] }) 0).holding = true
    ∧ ((qpOf (stOf { blk0 with qps := [] }) 0).enable = false ∧ portsOpen (openW (stOf { blk0 with qps := [] })) = true) := by decide +kernel

/-- A tail at the ring's length; a head at it, and one beyond the tail; no hold-off; a reset of an enabled queue pair, and of one that
no command in flight is held back by. -/
theorem wit_DoorbellFaults :
    ((0x10010 : Word).getLsbD 16 = true ∧ 2 ^ (qpOf (stOf blk0) 0).sqLog2 ≤ bits (0x10010 : Word).toNat 15 0)
    ∧ ((0x1001000000000 : Word).getLsbD 48 = true ∧ 2 ^ (qpOf (stOf blk0) 0).cqLog2 ≤ bits (0x1001000000000 : Word).toNat 47 32)
    ∧ ((0x1000100000000 : Word).getLsbD 48 = true ∧ (0x1000100000000 : Word).getLsbD 16 = false
      ∧ subMod (qpOf (stOf blk0) 0).cqTail (qpOf (stOf blk0) 0).cqHead (2 ^ (qpOf (stOf blk0) 0).cqLog2)
          < subMod (bits (0x1000100000000 : Word).toNat 47 32) (qpOf (stOf blk0) 0).cqHead (2 ^ (qpOf (stOf blk0) 0).cqLog2))
    ∧ (qpOf (stOf blk0) 0).holding = false ∧ (qpOf (stOf blk0) 0).enable = true
    ∧ (∀ k ∈ (stOf { blk0 with qps := [] }).blk.cmds, opOf k ≠ 2 ∧ k.outc = none) := by decide +kernel

/-- A block with a ring region of context 1 and queue pair 5 laid out in it. -/
def blkQ : Blk :=
  { blk0 with
    rgns := [(3, { state := .active, base := 0x100000, size := 1, kind := .ring, ctx := 1 })]
    qps := [(5, { sqBase := 0x100000, cqBase := 0x101000 })] }

/-- QP_ENABLE of a queue pair whose rings are in order, and of one without a ring region. -/
theorem wit_QpEnable : ∃ (v : Word) (x : Qp), (qpOf (stOf blkQ) 5).enable = false ∧ v.getLsbD 2 = false
    ∧ 4 ≤ bits v.toNat 36 32 ∧ bits v.toNat 36 32 ≤ 16 ∧ 4 ≤ bits v.toNat 44 40 ∧ bits v.toNat 44 40 ≤ 16
    ∧ x = { qpOf (stOf blkQ) 5 with irqAll := v.getLsbD 1, holdoffUs := bits v.toNat 63 56, ctx := bits v.toNat 27 16
                                    sqLog2 := bits v.toNat 36 32, cqLog2 := bits v.toNat 44 40 }
    ∧ enableFails (setQp 5 x (openW (stOf blkQ))) 5 = none
    ∧ enableFails (setQp 5 x (openW (stOf { blkQ with rgns := [] }))) 5 = some 4
    ∧ (0x40400010005 : Word).getLsbD 2 = true ∧ bits (0x40300010001 : Word).toNat 36 32 < 4 ∧ 16 < bits (0x110400010001 : Word).toNat 44 40 :=
  ⟨0x40400010001, _, by decide +kernel, by decide +kernel, by decide +kernel, by decide +kernel, by decide +kernel,
    by decide +kernel, rfl, by decide +kernel, by decide +kernel, by decide +kernel, by decide +kernel, by decide +kernel⟩

/-- One slot waiting: a NOP, and the first slot of a SNUFF. -/
def stFetch (op : Byte) : State :=
  { blk := { blk0 with qps := [(0, { enable := true, state := .active, ctx := 1, sqBase := 0x10000, cqBase := 0x20000, sqTail := 1 })] }
    mem := [(0x10000, op)] }

theorem wit_CommandFetchTakesASlot : ∀ op ∈ [(1 : Byte), 0x40, 0x82], ∃ crit cls, Calm (stFetch op) {} ∧ frontRuns (openW (stFetch op)) = true
    ∧ nextFetch (openW (stFetch op)) = some 0 ∧ nextFetch (openW (stFetch op)) ≠ some 1 ∧ (qpOf (stFetch op) 0).half = [] ∧ hasCredit (openW (stFetch op)) 0 = true
    ∧ (qpOf (stFetch op) 0).sqHead < 2 ^ (qpOf (stFetch op) 0).sqLog2
    ∧ subMod (qpOf (stFetch op) 0).sqTail (qpOf (stFetch op) 0).sqHead (2 ^ (qpOf (stFetch op) 0).sqLog2) = 1
    ∧ linesFree (openW (stFetch op)) ((qpOf (stFetch op) 0).sqBase + 64 * (qpOf (stFetch op) 0).sqHead) 64 = true
    ∧ opInfo (byteAt (stFetch op) ((qpOf (stFetch op) 0).sqBase + 64 * (qpOf (stFetch op) 0).sqHead)).toNat = some (crit, cls)
    ∧ crit = decide (op = 0x82) := by
  intro op h
  simp only [List.mem_cons, List.not_mem_nil, or_false] at h
  rcases h with rfl | rfl | rfl
  · exact ⟨false, .free, ⟨rfl, rfl, rfl, rfl⟩, by decide +kernel⟩
  · exact ⟨false, .range, ⟨rfl, rfl, rfl, rfl⟩, by decide +kernel⟩
  · exact ⟨true, .serial, ⟨rfl, rfl, rfl, rfl⟩, by decide +kernel⟩

/-- Context 1 in a state. -/
def stCtx (c : CtxState) : State := stOf { blk0 with ctxs := [(1, { state := c })], qps := [] }

theorem wit_ContextEnableDisable :
    ((ctxOf (stCtx .disabled) 1).state = .disabled ∧ (partOfCtx? (openW (stCtx .disabled)) 1).isSome = true
      ∧ (ctxOf (stCtx .frozen) 1).state = .frozen ∧ portsOpen (openW (stCtx .frozen)) = true
      ∧ (∀ e ∈ (stCtx .frozen).blk.qps, e.2.ctx ≠ 1) ∧ (ctxOf (stCtx .active) 1).state = .active
      ∧ (∀ k ∈ (stCtx .frozen).blk.cmds, k.outc = none) ∧ ctxRuns (ctxOf (stCtx .active) 1) = true
      ∧ (ctxOf (stOf { blk0 with parts := [], ctxs := [] }) 1).state = .disabled
      ∧ partOfCtx? (openW (stOf { blk0 with parts := [], ctxs := [] })) 1 = none ∧ ctxCmds (openW (stCtx .teardown)) 1 = [])
    ∧ (ctxOf (stCtx .teardown) 1).state = .teardown ∧ teardownActs {} 1 (openW (stCtx .teardown)) = openW (stCtx .teardown)
    ∧ committing (openW (stCtx .teardown)) 1 = false ∧ (ctxOf (stCtx .teardown) 1).resetAfter = false := by decide +kernel

def kNop : Cmd := cmdOf 1 []
def kFence (q target n : Nat) : Cmd := cmdOf 2 [(0x10, 2, q), (0x12, 1, target), (0x18, 8, n)]
/-- A FENCE that awaits a command of its queue pair that is still in flight. -/
def kAwait : Cmd := { cmdOf 2 [] with id := { q := 0, n := 1 }, phase := .running, awaits := [0] }
def stAwait : State := stOf { blk0 with cmds := [kNop, kAwait] }
/-- A FENCE, running, whose target queue pair serves no more. -/
def kLost : Cmd := { kFence 7 1 1 with phase := .running }
def stLost : State :=
  stOf { blk0 with qps := [(0, { enable := true, state := .active, ctx := 1, cqBase := 0x20000 }), (7, { fetched := 1 })]
                   cmds := [kLost, { cmdOf 1 [] with id := { q := 7, n := 0 } }] }

/-- An opcode that is not assigned; a FENCE that waits when it starts, for a queue pair that serves, and for one that does not. -/
def kBad : Cmd := cmdOf 0xFF []

theorem wit_FencesStart :
    (findCmd (openW (with1 blk0 kBad)) c0 = some kBad ∧ mayStart (openW (with1 blk0 kBad)) kBad = true ∧ opInfo (opOf kBad) = none
      ∧ ctxRuns (ctxOf (with1 blk0 kBad) kBad.ctx) = true ∧ Reports (with1 blk0 kBad) c0 kBad)
    ∧ (∀ x ∈ [0, 7], Issued (stOf { blk0 with cmds := [kFence x 1 2] }) c0 {} (kFence x 1 2) 0x02
      ∧ partOfQp? (openW (stOf { blk0 with cmds := [kFence x 1 2] })) x = some 0
      ∧ fenceOpen (begun (stOf { blk0 with cmds := [kFence x 1 2] }) c0 (kFence x 1 2)) (kFence x 1 2) = true
      ∧ qpServes (begun (stOf { blk0 with cmds := [kFence x 1 2] }) c0 (kFence x 1 2)) x = decide (x = 0)) := by
  refine ⟨⟨by decide +kernel, by decide +kernel, by decide +kernel, by decide +kernel, ⟨by decide +kernel, by decide +kernel, by decide +kernel,
    rfl⟩⟩, ?_⟩
  intro x h
  simp only [List.mem_cons, List.not_mem_nil, or_false] at h
  rcases h with rfl | rfl <;> exact ⟨issued_of _ _ _ _ _ (by decide +kernel), by decide +kernel⟩

theorem wit_NopAndFenceComplete :
    Issued (with1 blk0 kNop) c0 {} kNop 0x01 ∧ Issued (with1 blk0 (kFence 0 0 0)) c0 {} (kFence 0 0 0) 0x02
    ∧ fenceOpen (begun (with1 blk0 (kFence 0 0 0)) c0 (kFence 0 0 0)) (kFence 0 0 0) = false
    ∧ (Runs stAwait { q := 0, n := 1 } kAwait ∧ fenceOpen (openW stAwait) kAwait = true)
    ∧ (Runs stLost c0 kLost ∧ Calm stLost {} ∧ Reports stLost c0 kLost ∧ fenceOpen (openW stLost) kLost = true
      ∧ arg kLost 0x12 1 = 1 ∧ qpServes (openW stLost) (arg kLost 0x10 2 % 0x2000) = false) :=
  ⟨issued_of _ _ _ _ _ (by decide +kernel), issued_of _ _ _ _ _ (by decide +kernel), by decide +kernel,
    ⟨⟨by decide +kernel, by decide, by decide +kernel, rfl, rfl⟩, by decide +kernel⟩,
    ⟨by decide +kernel, by decide, by decide +kernel, rfl, rfl⟩, ⟨rfl, rfl, rfl, rfl⟩,
    ⟨by decide +kernel, by decide +kernel, by decide +kernel, rfl⟩, by decide +kernel, by decide +kernel, by decide +kernel⟩

/-- Two PLAIN regions of context 1. -/
def blkP : Blk :=
  { blk0 with rgns := [(1, { state := .active, base := 0x100000, size := 1, ctx := 1 }),
                       (2, { state := .active, base := 0x200000, size := 1, ctx := 1 })] }
def kCopy : Cmd := cmdOf 0x70 [(0x10, 8, 0x100000), (0x18, 8, 0x200000), (0x20, 8, 64)]
def kFill : Cmd := cmdOf 0x71 [(0x18, 8, 0x20FFC0), (0x20, 8, 64), (0x28, 8, 0x0807060504030201)]

theorem wit_CopyAndFillMoveBytes :
    (Issued (with1 blkP kCopy) c0 {} kCopy 0x70 ∧ copyCheck (begun (with1 blkP kCopy) c0 kCopy) kCopy true = none
      ∧ arg kCopy 0x20 8 = 64 ∧ arg kCopy 0x18 8 % 64 = 0 ∧ arg kCopy 0x10 8 % 64 = 0
      ∧ (kCopy.prog = 0 ∧ kCopy.units = [] ∧ kCopy.degraded = false ∧ kCopy.patch = [])
      ∧ linesReadable (begun (with1 blkP kCopy) c0 kCopy) (arg kCopy 0x10 8) 64 = true
      ∧ (∀ u ∈ (with1 blkP kCopy).blk.units, u.cmd ≠ some c0)
      ∧ linesFree (begun (with1 blkP kCopy) c0 kCopy) (arg kCopy 0x18 8) 64 = true
      ∧ lineMode (begun (with1 blkP kCopy) c0 kCopy) (arg kCopy 0x18 8) = .plain
      ∧ chunkHeld (begun (with1 blkP kCopy) c0 kCopy) (arg kCopy 0x18 8) = false
      ∧ entryAt (qpOf (with1 blkP kCopy) 0) + 32 ≤ arg kCopy 0x18 8)
    ∧ (Issued (with1 blkP kFill) c0 {} kFill 0x71 ∧ copyCheck (begun (with1 blkP kFill) c0 kFill) kFill false = none
      ∧ arg kFill 0x20 8 = 64 ∧ linesFree (begun (with1 blkP kFill) c0 kFill) (arg kFill 0x18 8) 64 = true
      ∧ lineMode (begun (with1 blkP kFill) c0 kFill) (arg kFill 0x18 8) = .plain
      ∧ chunkHeld (begun (with1 blkP kFill) c0 kFill) (arg kFill 0x18 8) = false
      ∧ (kFill.prog = 0 ∧ kFill.units = [] ∧ kFill.degraded = false ∧ kFill.patch = [])
      ∧ entryAt (qpOf (with1 blkP kFill) 0) + 32 ≤ arg kFill 0x18 8) :=
  ⟨⟨issued_of _ _ _ _ _ (by decide +kernel), by decide +kernel⟩, ⟨issued_of _ _ _ _ _ (by decide +kernel), by decide +kernel⟩⟩

/-! ### Witnesses: groups, regions, Datum -/

/-- A member slot. -/
def mem3 (c : Nat) (s : SlotState) : Slot := { coord := BitVec.ofNat 32 c, state := s }

/-- A group of three, this member the first. -/
def grp0 : Group :=
  { state := .whole, n := 3, k := 2, m := 1, dgn := 7, members := [mem3 0 .alive, mem3 1 .alive, mem3 2 .alive] ++ List.replicate 13 {}
    ctx := 1 }

/-- The block with the group, its peers, and regions: PLAIN 1 and 2, ACCUM 3, CODED 4, PARITY 5 and 9, WINDOW 6, RECORD 8. -/
def blkG : Blk :=
  { blk0 with
    lnk := { en := true, torus := 0x04040404, peers := [(0, { coord := 1, aff := 0 }), (1, { coord := 2, aff := 1 })] }
    grps := [(0, grp0)]
    rgns := [(1, { state := .active, base := 0x100000, size := 1, ctx := 1 }), (2, { state := .active, base := 0x200000, size := 1, ctx := 1 }),
      (3, { state := .active, base := 0x300000, size := 1, kind := .accum, ctx := 1, grp := some 0, elem := 2 }),
      (4, { state := .unsounded, base := 0x400000, size := 1, kind := .coded, ctx := 1, grp := some 0, partner := some 5 }),
      (5, { state := .active, base := 0x500000, size := 1, kind := .parity, ctx := 1, grp := some 0, partner := some 4 }),
      (6, { state := .active, base := 0x600000, size := 1, kind := .window, ctx := 1, grp := some 0, partner := some 9 }),
      (8, { state := .active, base := 0x800000, size := 1, kind := .record, ctx := 1 }),
      (9, { state := .active, base := 0x900000, size := 1, kind := .parity, ctx := 1, grp := some 0, partner := some 6 })] }

/-- The same with context 1's Watch in a phase. -/
def blkPhase (p : Phase) (b : Blk) : Blk := { b with ctxs := [(1, { state := .active, enable := true, watch := { phase := p, w := 1 } })] }

def blkOpen : Blk := blkPhase .opened blkG
def kClear : Cmd := cmdOf 0x30 [(0x10, 2, 3)]
def kWrite : Cmd := cmdOf 0x31 [(0x10, 2, 3), (0x18, 8, 0x100000), (0x30, 8, 128)]
def kSet (mode : Nat) : Cmd := cmdOf 0x35 [(0x10, 2, 3), (0x12, 1, mode), (0x13, 1, if mode = 2 then 3 else 0)]

theorem wit_DatumCommandsAct :
    (Issued (with1 blkOpen kClear) c0 {} kClear 0x30 ∧ accumClearCheck (begun (with1 blkOpen kClear) c0 kClear) kClear = none
      ∧ auBusy (begun (with1 blkOpen kClear) c0 kClear) (arg kClear 0x10 2) = false
      ∧ tileRange? (getRgn (begun (with1 blkOpen kClear) c0 kClear) (arg kClear 0x10 2)) (arg kClear 0x18 8) (arg kClear 0x20 8) = some (0, 3)
      ∧ ∀ t, t < 3 → tileFree (begun (with1 blkOpen kClear) c0 kClear)
          (getRgn (begun (with1 blkOpen kClear) c0 kClear) (arg kClear 0x10 2)) 0 (0 + t) = true)
    ∧ (Issued (with1 blkOpen kWrite) c0 {} kWrite 0x31 ∧ accumWriteCheck (begun (with1 blkOpen kWrite) c0 kWrite) kWrite = none)
    ∧ ∀ mode ∈ [0, 1, 2], Issued (with1 blkG (kSet mode)) c0 {} (kSet mode) 0x35
        ∧ datumCheck (begun (with1 blkG (kSet mode)) c0 (kSet mode)) (kSet mode) = none
        ∧ auBusy (begun (with1 blkG (kSet mode)) c0 (kSet mode)) (arg (kSet mode) 0x10 2) = false
        ∧ (kSet mode).prog = 0 ∧ arg (kSet mode) 0x12 1 = mode := by
  refine ⟨⟨issued_of _ _ _ _ _ (by decide +kernel), by decide +kernel⟩, ⟨issued_of _ _ _ _ _ (by decide +kernel), by decide +kernel⟩, ?_⟩
  intro mode h
  simp only [List.mem_cons, List.not_mem_nil, or_false] at h
  rcases h with rfl | rfl | rfl <;> exact ⟨issued_of _ _ _ _ _ (by decide +kernel), by decide +kernel⟩

theorem wit_ClearedTilesAreZero : ∃ code w', (getRgn (openW (stOf blkG)) 3).kind = .accum ∧ (getRgn (openW (stOf blkG)) 3).base % 65536 = 0
    ∧ 2 + 1 ≤ tilesOf (getRgn (openW (stOf blkG)) 3) ∧ (openW (stOf blkG)).b.ras.inj = []
    ∧ clearTiles {} 3 2 1 (openW (stOf blkG)) = (code, w') :=
  ⟨_, _, by decide +kernel, by decide +kernel, by decide +kernel, rfl, rfl⟩

/-- REDUCE_SCATTER and ALL_GATHER over the group's three members on the first axis. -/
def kReduce : Cmd :=
  cmdOf 0x33 [(0x10, 2, 3), (0x14, 2, 1), (0x16, 1, 0), (0x18, 4, 0), (0x1C, 4, 2), (0x24, 2, 0), (0x26, 2, 0xFFFF), (0x28, 2, 0xFFFF)]
def kGather : Cmd := cmdOf 0x34 [(0x10, 2, 3), (0x14, 2, 2), (0x16, 2, 0xFFFF), (0x18, 4, 0), (0x1C, 4, 2)]

/-- A packet from member 1 to this member, of an opcode, with NOSEQ. -/
def rxOf (vc op : Nat) (p : Bytes) (raddr : Nat := 0) : Rx :=
  { port := 0
    pk := { hdr := { dest := 0, src := 1, vc := BitVec.ofNat 8 vc, opcode := BitVec.ofNat 8 op, group := 7
                     length := BitVec.ofNat 16 p.length, member := 1, flags := 4, raddr := BitVec.ofNat 64 raddr, seq := 0 }
            payload := p } }

theorem some_of {α : Type} (x : Option α) (h : x.isSome = true) : ∃ y, x = some y := Option.isSome_iff_exists.mp h

/-- An accepted packet, and what a check says of it. -/
theorem pair_of (x : Option (Packet × W)) (f : Packet → W → Bool) (h : ((x.map (fun y => f y.1 y.2)).getD false) = true) :
    ∃ pk w, x = some (pk, w) ∧ f pk w = true := by
  cases x with
  | none => cases h
  | some y => exact ⟨y.1, y.2, rfl, h⟩

/-- A RING collective under way whose second member's packets were lost, and a DIRECT one. -/
def collR : Coll := { cmd := c0, ctx := 1, isReduce := true, region := 3, coll := 1, members := [0, 1, 2], pos := 0, ready := true }
def collD : Coll := { cmd := c0, ctx := 1, isReduce := true, region := 3, coll := 1, members := [0, 1, 2], pos := 0, direct := true }
def kDirect : Cmd := { cmdOf 0x33 [(0x10, 2, 3), (0x12, 1, 1), (0x20, 4, 1000)] with phase := .running }
def kGather2 : Cmd := { kGather with phase := .running }

theorem wit_CollectivesBegin :
    (Issued (with1 blkOpen kReduce) c0 {} kReduce 0x33 ∧ reduceCheck (begun (with1 blkOpen kReduce) c0 kReduce) kReduce = none)
    ∧ (Issued (with1 blkOpen kGather) c0 {} kGather 0x34 ∧ gatherCheck (begun (with1 blkOpen kGather) c0 kGather) kGather = none)
    ∧ (findColl (openW (with1 { blkOpen with colls := [collD] } kDirect)) c0 = some collD
      ∧ findCmd (openW (with1 { blkOpen with colls := [collD] } kDirect)) c0 = some kDirect ∧ arg kDirect 0x20 4 ≠ 0
      ∧ collD.direct = true ∧ collD.closed = false ∧ collD.finished = false
      ∧ Runs (with1 { blkOpen with colls := [collD] } kDirect) c0 kDirect ∧ opOf kDirect = 0x33
      ∧ Runs (with1 blkOpen kGather2) c0 kGather2 ∧ opOf kGather2 = 0x34 ∧ findColl (openW (with1 blkOpen kGather2)) c0 = none)
    ∧ (findColl (openW (stOf { blkOpen with colls := [collR] })) c0 = some collR ∧ collR.finished = false ∧ collR.ready = true)
    ∧ (∃ pk w, accepted (openW (stOf blkOpen)) (rxOf 2 0x20 (fill 128 []) 0x300000) 0x20 (fun p => fld p 0xA 1 != 1) = some (pk, w))
    ∧ (∃ pk w, accepted (openW (stOf blkOpen)) (rxOf 2 0x20 (fill 64 [(0xA, 1, 1)]) 0x300000) 0x20 (fun p => fld p 0xA 1 == 1) = some (pk, w))
    ∧ (∃ pk w, accepted (openW (stOf blkOpen)) (rxOf 3 0x30 (fill 128 []) 0x300000) 0x30 (fun p => fld p 0xA 1 != 1) = some (pk, w))
    ∧ (∃ pk w, accepted (openW (stOf blkOpen)) (rxOf 3 0x30 (fill 64 [(0xA, 1, 1)]) 0x300000) 0x30 (fun p => fld p 0xA 1 == 1) = some (pk, w)) := by
  have h := fun x => fun hx => (pair_of x (fun _ _ => true) hx).imp (fun pk => Exists.imp (fun w => And.left))
  exact ⟨⟨issued_of _ _ _ _ _ (by decide +kernel), by decide +kernel⟩, ⟨issued_of _ _ _ _ _ (by decide +kernel), by decide +kernel⟩,
    ⟨by decide +kernel, by decide +kernel, by decide +kernel, rfl, rfl, rfl, ⟨by decide +kernel, by decide, by decide +kernel, rfl, rfl⟩,
      by decide +kernel, ⟨by decide +kernel, by decide, by decide +kernel, rfl, rfl⟩, by decide +kernel, by decide +kernel⟩,
    by decide +kernel, h _ (by decide +kernel), h _ (by decide +kernel), h _ (by decide +kernel), h _ (by decide +kernel)⟩

/-! ### Witnesses: regions, Sounding, descriptors -/

/-- The block with a free PARITY region 10 of 32 KiB rounded up. -/
def blkD : Blk :=
  { blkG with rgns := blkG.rgns ++ [(10, { state := .active, base := 0xB00000, size := 1, kind := .parity, ctx := 1, grp := some 0 })] }
/-- REGION_DEFINE of a PLAIN region at index 20, and of a CODED one at index 21 paired with region 10. -/
def aPlain : List (Nat × Nat × Nat) := [(0x10, 8, 0xA00000), (0x18, 4, 1), (0x28, 2, 0x8000 + 20)]
def aCoded : List (Nat × Nat × Nat) :=
  [(0x10, 8, 0xA00000), (0x18, 4, 1), (0x1C, 1, 1), (0x23, 1, 4), (0x1E, 2, 10), (0x28, 2, 0x8000 + 21)]

theorem wit_RegionDefineFillsAnEntry :
    (Issued (withC blkD 0x10 aPlain) c0 {} (critOf blkD 0x10 aPlain) 0x10
      ∧ regionCheck (begun (withC blkD 0x10 aPlain) c0 (critOf blkD 0x10 aPlain)) (critOf blkD 0x10 aPlain) = none
      ∧ codedKind ((kindOfCode (arg (critOf blkD 0x10 aPlain) 0x1C 1)).getD .plain) = false)
    ∧ (Issued (withC blkD 0x10 aCoded) c0 {} (critOf blkD 0x10 aCoded) 0x10
      ∧ regionCheck (begun (withC blkD 0x10 aCoded) c0 (critOf blkD 0x10 aCoded)) (critOf blkD 0x10 aCoded) = none
      ∧ codedKind ((kindOfCode (arg (critOf blkD 0x10 aCoded) 0x1C 1)).getD .plain) = true
      ∧ 21 ≠ arg (critOf blkD 0x10 aCoded) 0x1E 2) := by
  have h1 : critB blkD 0x10 aPlain = true := by decide +kernel
  have h2 : critB blkD 0x10 aCoded = true := by decide +kernel
  rw [begun_crit _ _ _ h1, begun_crit _ _ _ h2]
  exact ⟨⟨issued_crit _ _ _ h1, by decide +kernel⟩, ⟨issued_crit _ _ _ h2, by decide +kernel⟩⟩

theorem wit_RegionRetireFreesTheEntry :
    Issued (withC blkG 0x11 [(0x10, 2, 2)]) c0 {} (critOf blkG 0x11 [(0x10, 2, 2)]) 0x11
    ∧ retireCheck (begun (withC blkG 0x11 [(0x10, 2, 2)]) c0 (critOf blkG 0x11 [(0x10, 2, 2)])) (critOf blkG 0x11 [(0x10, 2, 2)]) = none
    ∧ arg (critOf blkG 0x11 [(0x10, 2, 2)]) 0x10 2 = 2 ∧ (rgnOf (withC blkG 0x11 [(0x10, 2, 2)]) 2).kind ≠ .parity
    ∧ (rgnOf (withC blkG 0x11 [(0x10, 2, 2)]) 2).partner = none ∧ (rgnOf (withC blkG 0x11 [(0x10, 2, 2)]) 2).sweeping = false
    ∧ (ctxOf (withC blkG 0x11 [(0x10, 2, 2)]) 1).state = .active
    ∧ (∀ e ∈ (withC blkG 0x11 [(0x10, 2, 2)]).blk.slices, e.2.haz = [] ∧ e.2.need = [] ∧ e.2.chan = []) := by
  have h : critB blkG 0x11 [(0x10, 2, 2)] = true := by decide +kernel
  rw [begun_crit _ _ _ h]
  exact ⟨issued_crit _ _ _ h, by decide +kernel⟩

/-- REGION_RETIRE of the coded region 4, whose PARITY region is 5. -/
theorem wit_CodedRegionRetires :
    Issued (withC blkG 0x11 [(0x10, 2, 4)]) c0 {} (critOf blkG 0x11 [(0x10, 2, 4)]) 0x11
    ∧ retireCheck (begun (withC blkG 0x11 [(0x10, 2, 4)]) c0 (critOf blkG 0x11 [(0x10, 2, 4)])) (critOf blkG 0x11 [(0x10, 2, 4)]) = none
    ∧ arg (critOf blkG 0x11 [(0x10, 2, 4)]) 0x10 2 = 4 ∧ (rgnOf (withC blkG 0x11 [(0x10, 2, 4)]) 4).kind ≠ .parity
    ∧ (rgnOf (withC blkG 0x11 [(0x10, 2, 4)]) 4).partner = some 5 ∧ (rgnOf (withC blkG 0x11 [(0x10, 2, 4)]) 4).sweeping = false
    ∧ (ctxOf (withC blkG 0x11 [(0x10, 2, 4)]) 1).state = .active
    ∧ (∀ e ∈ (withC blkG 0x11 [(0x10, 2, 4)]).blk.slices, e.2.haz = [] ∧ e.2.need = [] ∧ e.2.chan = []) := by
  have h : critB blkG 0x11 [(0x10, 2, 4)] = true := by decide +kernel
  rw [begun_crit _ _ _ h]
  exact ⟨issued_crit _ _ _ h, by decide +kernel⟩

def kSound : Cmd := cmdOf 0x12 [(0x10, 2, 4), (0x12, 1, 1)]
/-- A Sounding of region 4 under way: streaming at a fragment, or with its end notice sent and the others' in. -/
def stSound (x : Stream) : State :=
  with1 { blkG with rgns := tset blkG.rgns 4 { state := .sounding, base := 0x400000, size := 1, kind := .coded, ctx := 1, grp := some 0
                                               partner := some 5, sepoch := 1 }
                    streams := [x] } { kSound with phase := .running }
def sGo : Stream := { kind := .sound, region := 4, g := 0, cmd := c0, sepoch := 1, descs := [1, 2], begun := true }
def sEnd : Stream := { sGo with next := numFrags (rgnOf (stSound sGo) 4), endSent := true, ends := [1, 2] }
def sWait : Stream := { kind := .sound, region := 4, g := 0, cmd := c0, sepoch := 1 }

theorem wit_SoundingRuns :
    (Issued (with1 blkG kSound) c0 {} kSound 0x12 ∧ soundCheck (begun (with1 blkG kSound) c0 kSound) kSound = none)
    ∧ (∃ w, streamStep {} .sound 4 (openW (stSound sGo)) = (.went, w))
    ∧ (∃ code f w, streamStep { rd := [(0x400000, .poison)] } .sound 4 (openW (stSound sGo)) = (.failed code f, w))
    ∧ (findStream (countEnds (endStream .sound 4 (openW (stSound sEnd)))) .sound 4 = some sEnd ∧ sEnd.endSent = true
      ∧ allEnds (countEnds (endStream .sound 4 (openW (stSound sEnd)))) sEnd = true)
    ∧ (findStream (countEnds (endStream .sound 4 (openW (stSound sWait)))) .sound 4 = some sWait ∧ sWait.endSent = false)
    ∧ (findStream (openW (stSound sWait)) .sound 4 = some sWait ∧ allDescs (openW (stSound sWait)) sWait = false) := by
  exact ⟨⟨issued_of _ _ _ _ _ (by decide +kernel), by decide +kernel⟩, fst_of _ _ (by decide +kernel),
    ⟨.poison, 0, fst_of _ _ (by decide +kernel)⟩, by decide +kernel, by decide +kernel, by decide +kernel⟩

/-- A FORM message of member 1 about a slot, with a code, a count, and a body. -/
def formOf (kind slot code : Nat) (coord : Nat) (body : Bytes) (count : Nat := 0) (mask : Nat := 0) : Rx :=
  rxOf 0 2 (fill 32 [(0, 8, 77), (8, 1, kind), (9, 1, slot), (0xA, 1, code), (0xB, 1, 1), (0xC, 4, coord), (0x18, 4, count),
    (0x1C, 2, mask)] ++ body)

/-- An accepted FORM message, its group and its sender, and what a check says of them. -/
theorem form_of (x : Option (Packet × W)) (f : Packet → W → Nat → Group → Nat → Bool)
    (h : (match x with
      | some (pk, w) => (match formFrom w pk with | some (gi, g, m) => f pk w gi g m | none => false)
      | none => false) = true) :
    ∃ pk w gi g m, x = some (pk, w) ∧ formFrom w pk = some (gi, g, m) ∧ f pk w gi g m = true := by
  cases x with
  | none => cases h
  | some y =>
    cases hf : formFrom y.2 y.1 with
    | none => simp [hf] at h
    | some z => exact ⟨y.1, y.2, z.1, z.2.1, z.2.2, rfl, hf, by simpa [hf] using h⟩

theorem wit_DescriptorsAndEndNotices :
    (∃ pk w gi g m, formAccepted (openW (stSound sWait)) (formOf 1 0 0 0 (fill 56 [(0, 8, 0x400000)])) 1 = some (pk, w)
      ∧ formFrom w pk = some (gi, g, m) ∧ senderLive g m = true)
    ∧ (∃ pk w gi g m, formAccepted (openW (stSound sGo)) (formOf 2 0 0 0 (fill 4 [(0, 4, 0x80000005)])) 2 = some (pk, w)
      ∧ formFrom w pk = some (gi, g, m) ∧ senderLive g m = true) :=
  ⟨form_of _ (fun _ _ _ g m => senderLive g m) (by decide +kernel), form_of _ (fun _ _ _ g m => senderLive g m) (by decide +kernel)⟩

/-! ### Witnesses: Watches and Bearings -/

def kOpen : Cmd := cmdOf 0x20 [(0x10, 6, 1), (0x18, 2, 8), (0x1A, 1, 2)]
theorem wit_WatchOpens : Issued (with1 blkG kOpen) c0 {} kOpen 0x20 ∧ watchOpenCheck (begun (with1 blkG kOpen) c0 kOpen) kOpen = none :=
  ⟨issued_of _ _ _ _ _ (by decide +kernel), by decide +kernel⟩

/-- Commands of the Watch without operands, in a phase. -/
def kW (op : Nat) : Cmd := cmdOf op []
def stW (p : Phase) (op : Nat) : State := with1 (blkPhase p blkG) (kW op)
/-- Context 1 closing for command 0: its barrier under way, or still to start. -/
def stClosing (run : Option (Word × Nat)) : State :=
  with1 { blkG with ctxs := [(1, { state := .active, enable := true, watch := { phase := .closing, w := 1, closeCmd := some c0, barRun := run } })] }
    { kW 0x21 with phase := .running }

theorem wit_WatchPollAndClose :
    (Issued (stW .opened 0x24) c0 {} (kW 0x24) 0x24 ∧ (ctxOf (stW .opened 0x24) 1).watch.phase = .opened)
    ∧ (∀ p ∈ [Phase.polled, .window, .skip, .closing], Issued (stW p 0x21) c0 {} (kW 0x21) 0x21
        ∧ (ctxOf (stW p 0x21) 1).watch.phase = p)
    ∧ (∀ p ∈ [Phase.opened, .polling, .polled, .encoding, .skip], Issued (stW p 0x23) c0 {} (kW 0x23) 0x23
        ∧ (ctxOf (stW p 0x23) 1).watch.phase = p ∧ accumQuiet (begun (stW p 0x23) c0 (kW 0x23)) 1 = true)
    ∧ (ctxOf (stW .polling 1) 1).watch.phase = .polling ∧ (ctxOf (stW .closing 1) 1).watch.phase = .closing
    ∧ ∀ run ∈ [none, some ((3 : Word), 1)], (ctxOf (stClosing run) 1).watch.phase = .closing
        ∧ (ctxOf (stClosing run) 1).watch.closeCmd = some c0 ∧ (ctxOf (stClosing run) 1).watch.ending = none
        ∧ (ctxOf (stClosing run) 1).watch.barRun = run ∧ closeReady (openW (stClosing run)) 1 c0 = true := by
  refine ⟨⟨issued_of _ _ _ _ _ (by decide +kernel), by decide +kernel⟩, ?_, ?_, by decide +kernel, by decide +kernel, ?_⟩
  · intro p h
    simp only [List.mem_cons, List.not_mem_nil, or_false] at h
    rcases h with rfl | rfl | rfl | rfl <;> exact ⟨issued_of _ _ _ _ _ (by decide +kernel), by decide +kernel⟩
  · intro p h
    simp only [List.mem_cons, List.not_mem_nil, or_false] at h
    rcases h with rfl | rfl | rfl | rfl | rfl <;> exact ⟨issued_of _ _ _ _ _ (by decide +kernel), by decide +kernel⟩
  · intro run h
    simp only [List.mem_cons, List.not_mem_nil, or_false] at h
    rcases h with rfl | rfl <;> decide +kernel

/-- A Watch command that runs already. -/
def kR (op : Nat) : Cmd := { kW op with phase := .running }
/-- A Watch in a phase with a command named by its poll and its close. -/
def stTimer (p : Phase) : State :=
  with1 { blkG with ctxs := [(1, { state := .active, enable := true, watch := { phase := p, w := 1, pollCmd := some c0, closeCmd := some c0 } })] }
    (kR 0x24)

/-- The Watch's commands outside their phases, one that runs, and its timers in their phases and outside them. -/
theorem wit_WatchCommandsElsewhere :
    (Issued (stW .polled 0x24) c0 {} (kW 0x24) 0x24 ∧ (ctxOf (stW .polled 0x24) 1).watch.phase ≠ .opened)
    ∧ (Issued (stW .opened 0x21) c0 {} (kW 0x21) 0x21
      ∧ (ctxOf (stW .opened 0x21) 1).watch.phase ∉ [Phase.polled, .window, .skip, .closing])
    ∧ (Issued (stW .window 0x23) c0 {} (kW 0x23) 0x23
      ∧ (ctxOf (stW .window 0x23) 1).watch.phase ∉ [Phase.opened, .polling, .polled, .encoding, .skip])
    ∧ (ctxOf (stW .opened 0x23) 1).watch.ending = none
    ∧ ((ctxOf (stTimer .polling) 1).watch.phase = .polling ∧ (ctxOf (stTimer .polling) 1).watch.pollCmd = some c0
      ∧ (ctxOf (stTimer .closing) 1).watch.phase = .closing ∧ (ctxOf (stTimer .closing) 1).watch.closeCmd = some c0
      ∧ (ctxOf (stTimer .opened) 1).watch.phase ≠ .polling ∧ (ctxOf (stTimer .opened) 1).watch.phase ≠ .closing
      ∧ (ctxOf (stTimer .opened) 1).watch.closeCmd = some c0 ∧ (ctxOf (stTimer .opened) 1).watch.ending = none) :=
  ⟨⟨issued_of _ _ _ _ _ (by decide +kernel), by decide +kernel⟩, ⟨issued_of _ _ _ _ _ (by decide +kernel), by decide +kernel⟩,
    ⟨issued_of _ _ _ _ _ (by decide +kernel), by decide +kernel⟩, by decide +kernel, by decide +kernel⟩

theorem wit_WatchCommandsRun : ∀ op ∈ [0x24, 0x21, 0x23, 0x22], opOf (kR op) = op
    ∧ Runs (with1 (blkPhase .encoding blkG) (kR op)) c0 (kR op) := by
  intro op h
  simp only [List.mem_cons, List.not_mem_nil, or_false] at h
  rcases h with rfl | rfl | rfl | rfl <;>
    exact ⟨by decide +kernel, by decide +kernel, by decide, by decide +kernel, rfl, rfl⟩

/-- The window with encoding asked for, and an encoding that waits for its descriptors. -/
def stEnc (p : Phase) (l : List Stream) : State :=
  with1 { blkG with ctxs := [(1, { state := .active, enable := true, watch := { phase := p, w := 1, flags := 1, winCmd := some c0 } })]
                    streams := l } (kW 0x22)
def sEnc : Stream := { kind := .encode, region := 6, g := 0, cmd := c0, sepoch := 2, w := 1 }

theorem wit_WindowOpens :
    (Issued (stW .polled 0x22) c0 {} (kW 0x22) 0x22 ∧ (ctxOf (stW .polled 0x22) 1).watch.phase = .polled
      ∧ bit (ctxOf (stW .polled 0x22) 1).watch.flags 0 = false)
    ∧ (Issued (stEnc .polled []) c0 {} (kW 0x22) 0x22 ∧ (ctxOf (stEnc .polled []) 1).watch.phase = .polled
      ∧ bit (ctxOf (stEnc .polled []) 1).watch.flags 0 = true ∧ windowRgns (openW (stEnc .polled [])) 1 ≠ [])
    ∧ (Issued (stW .skip 0x22) c0 {} (kW 0x22) 0x22 ∧ (ctxOf (stW .skip 0x22) 1).watch.phase = .skip)
    ∧ (ctxOf (stEnc .encoding [sEnc]) 1).watch.phase = .encoding
    ∧ (∃ st ∈ encodesOf (openW (stEnc .encoding [sEnc])) 1, allDescs (openW (stEnc .encoding [sEnc])) st = false) :=
  ⟨⟨issued_of _ _ _ _ _ (by decide +kernel), by decide +kernel⟩, ⟨issued_of _ _ _ _ _ (by decide +kernel), by decide +kernel⟩,
    ⟨issued_of _ _ _ _ _ (by decide +kernel), by decide +kernel⟩, by decide +kernel, by decide +kernel⟩

/-- WINDOW_OPEN in another phase, with no WINDOW region, and while it encodes; encoding that is over, and that waits for end notices. -/
theorem wit_WindowsElsewhere :
    (Issued (stW .opened 0x22) c0 {} (kW 0x22) 0x22 ∧ (ctxOf (stW .opened 0x22) 1).watch.phase ∉ [Phase.polled, .skip])
    ∧ (ctxOf (with1 (blkPhase .encoding blkG) (kR 0x22)) 1).watch.phase = .encoding
    ∧ windowRgns (openW (with1 { stEnc .polled [] |>.blk with rgns := [] } (kW 0x22))) 1 = []
    ∧ (ctxOf (stEnc .opened []) 1).watch.phase ≠ .encoding
    ∧ ∃ st ∈ encodesOf (openW (stEnc .encoding [{ sEnc with descs := [1, 2], begun := true, endSent := true }])) 1,
        st.endSent = true ∧ allEnds (openW (stEnc .encoding [{ sEnc with descs := [1, 2], begun := true, endSent := true }])) st = false :=
  ⟨⟨issued_of _ _ _ _ _ (by decide +kernel), by decide +kernel⟩, by decide +kernel, by decide +kernel, by decide +kernel, by decide +kernel⟩

/-- A BARRIER packet of a kind about instance (1, 0) of domain 0. -/
def rxBar (op kind : Nat) : Rx := rxOf 0 op (fill 64 [(0, 8, 55), (8, 6, 1), (0xF, 1, kind)])

theorem wit_WatchPackets :
    (∃ pk w, accepted (openW (stOf blkOpen)) (rxBar 4 0) 4 (fun _ => true) = some (pk, w))
    ∧ (∃ pk w, accepted (openW (stOf blkOpen)) (rxBar 5 0) 5 (fun p => fld p 0xF 1 == 0 || decide (3 < fld p 0xF 1)) = some (pk, w))
    ∧ (∀ n ∈ [1, 2, 3], ∃ pk w, accepted (openW (stOf blkOpen)) (rxBar 5 n) 5 (fun p => fld p 0xF 1 == n) = some (pk, w)) := by
  have h := fun x => fun hx => (pair_of x (fun _ _ => true) hx).imp (fun pk => Exists.imp (fun w => And.left))
  refine ⟨h _ (by decide +kernel), h _ (by decide +kernel), ?_⟩
  intro n hn
  simp only [List.mem_cons, List.not_mem_nil, or_false] at hn
  rcases hn with rfl | rfl | rfl <;> exact h _ (by decide +kernel)

/-- Region 4 sounded, with a running Bearing and periodic sweeps. -/
def rgnS : Region :=
  { state := .sounded, base := 0x400000, size := 1, kind := .coded, ctx := 1, grp := some 0, partner := some 5, bvalid := 1, sweepEn := true }
def blkS (r : Region) : Blk := { blkG with rgns := tset blkG.rgns 4 r }
def kB (op kind : Nat) : Cmd := cmdOf op [(0x10, 2, 4), (0x12, 1, kind)]
/-- A group that is FORMING with no regions. -/
def blkForm : Blk := { blkG with grps := [(0, { grp0 with state := .forming })], rgns := [] }

theorem wit_BearingsReadAndSwept :
    (portsOpen (openW (stOf blkForm)) = true ∧ seedOpen (openW (stOf blkForm)) 0 = true ∧ seedOpen (openW (stOf blkG)) 0 = false)
    ∧ (∀ n ∈ [0, 1], Issued (with1 (blkS rgnS) (kB 0x50 n)) c0 {} (kB 0x50 n) 0x50 ∧ arg (kB 0x50 n) 0x12 1 = n)
    ∧ (rgnOf (with1 (blkS rgnS) (kB 0x50 0)) (arg (kB 0x50 0) 0x10 2) = rgnS ∧ rgnS.state ≠ .free ∧ codedKind rgnS.kind = true
      ∧ rgnS.grp.isSome = true)
    ∧ (∀ n ∈ [0, 1], Issued (with1 (blkS rgnS) (kB 0x51 n)) c0 {} (kB 0x51 n) 0x51 ∧ arg (kB 0x51 n) 0x12 1 = n
        ∧ sweepCheck (begun (with1 (blkS rgnS) (kB 0x51 n)) c0 (kB 0x51 n)) (kB 0x51 n) = none
        ∧ (rgnOf (with1 (blkS rgnS) (kB 0x51 n)) (arg (kB 0x51 n) 0x10 2)).sweepCmd = none
        ∧ sweepable (begun (with1 (blkS rgnS) (kB 0x51 n)) c0 (kB 0x51 n)) (arg (kB 0x51 n) 0x10 2) = true)
    ∧ (rgnS.sweeping = false ∧ rgnS.sweepEn = true ∧ sweepable (openW (stOf (blkS rgnS))) 4 = true)
    ∧ ∃ r : Region, rgnOf (stOf (blkS r)) 4 = r ∧ r.sweeping = true ∧ rgnBytes r ≤ r.front ∧ r.sweepS = r.brun ∧ r.sweepCmd = none
        ∧ r.adopting = false := by
  refine ⟨by decide +kernel, ?_, by decide +kernel, ?_, by decide +kernel,
    ⟨{ rgnS with sweeping := true, front := 65536 }, by decide +kernel⟩⟩
  · intro n hn
    simp only [List.mem_cons, List.not_mem_nil, or_false] at hn
    rcases hn with rfl | rfl <;> exact ⟨issued_of _ _ _ _ _ (by decide +kernel), by decide +kernel⟩
  · intro n hn
    simp only [List.mem_cons, List.not_mem_nil, or_false] at hn
    rcases hn with rfl | rfl <;> exact ⟨issued_of _ _ _ _ _ (by decide +kernel), by decide +kernel⟩

/-- A seed beyond the groups; a sweep that reads a line, and one behind the region's last whose sum differs. -/
theorem wit_SweepsGoOn :
    portsOpen (openW (stOf blkG)) = true ∧ 256 ≤ 256
    ∧ (∃ r : Region, rgnOf (stOf (blkS r)) 4 = r ∧ r.sweeping = true ∧ sweepable (openW (stOf (blkS r))) 4 = true ∧ r.front < rgnBytes r
      ∧ (blkS r).fetches = [] ∧ linesReadable (openW (stOf (blkS r))) (r.base + r.front) 64 = true)
    ∧ ∃ r : Region, rgnOf (stOf (blkS r)) 4 = r ∧ r.sweeping = true ∧ rgnBytes r ≤ r.front ∧ sweepable (openW (stOf (blkS r))) 4 = true
      ∧ r.sweepS ≠ r.brun ∧ r.sweepCmd = none ∧ r.adopting = false :=
  ⟨by decide +kernel, by decide, ⟨{ rgnS with sweeping := true, front := 64 }, by decide +kernel⟩,
    ⟨{ rgnS with sweeping := true, front := 65536, sweepS := 1 }, by decide +kernel⟩⟩

/-! ### Witnesses: memory ports, serving, state engines -/

/-- A host request of one line. -/
def rq (addr len : Nat) (tag : Nat := 7) : MpReq :=
  { aop := 0, len := BitVec.ofNat 2 len, ctx := 1, qos := 0, tag := BitVec.ofNat 12 tag, addr := BitVec.ofNat 48 addr, data := []
    mask := 3 }

theorem wit_HostRequestsAreForwarded :
    (∀ op ∈ [0, 1, 2, 3], (portsOpen (openW (stOf blk0)) = true ∧ 5 < (stOf blk0).build.nmp)
      ∧ (sliceOf (stOf blk0) 5 = {} ∧ (rq 0x1000 0).addr.toNat % 64 = 0
      ∧ (rq 0x1000 0).addr.toNat % 256 + 64 * ((rq 0x1000 0).len.toNat + 1) ≤ 256 ∧ (rq 0x1000 0).len = 0)
      ∧ treat (openW (stOf blk0)) op (rq 0x1000 0).addr.toNat = .forward
      ∧ chunkHeld (openW (stOf blk0)) 0x1000 = false ∧ lineRebuilt (openW (stOf blk0)) 0x1000 = false
      ∧ rgnAt (openW (stOf blk0)) 0x1000 = none ∧ (stOf blk0).blk.fetches = [])
    ∧ (sliceOf (stOf (blkS rgnS)) 5 = {} ∧ (rq 0x400000 0).len = 0 ∧ treat (openW (stOf (blkS rgnS))) 1 (rq 0x400000 0).addr.toNat = .coded
      ∧ lineMode (openW (stOf (blkS rgnS))) (rq 0x400000 0).addr.toNat = .coded
      ∧ chunkHeld (openW (stOf (blkS rgnS))) 0x400000 = false ∧ lineRebuilt (openW (stOf (blkS rgnS))) 0x400000 = false)
    ∧ (∀ op ∈ [0, 1, 2, 3], treat (openW (stOf blkG)) op (rq 0x500000 0).addr.toNat = .denied) := by decide +kernel

/-- A read, a write or a masked write of a line, forwarded and not yet answered. -/
def hr (op : Nat) : HostReq := { tag := 7, op := op, req := rq 0x1000 0, lines := 1, codes := [none], data := [[]] }
def mdr (op : Nat) : MdReq := { tag := 3, addr := 0x1000, lines := 1, op := op, mask := 3, who := .host 7 }
def stFwd (op : Nat) : State :=
  { blk := { blk0 with slices := [(5, { reqs := [hr op], md := [mdr op]
                                        haz := [{ line := 0x1000, q := [{ job := .fwd 7, write := op != 0, started := true }] }] })] }
    mem := [(0x1001, 9)] }

theorem wit_MemoryAnswersTheHost : ∀ op ∈ [0, 1, 2], memWf (stFwd op).mem = true ∧ (stFwd op).blk.ras.inj = []
    ∧ nothingWaits (openW (stFwd op)) = true ∧ (sliceOf (stFwd op) 5).waitq = [] ∧ (sliceOf (stFwd op) 5).need = []
    ∧ (sliceOf (stFwd op) 5).chan = [] ∧ (∀ m ∈ (sliceOf (stFwd op) 5).md, m.tag ≠ 4)
    ∧ (sliceOf (stFwd op) 5).md.find? (fun m => m.tag == 3) = some (mdr op) ∧ [Rsp.ok, .ok].length ≠ (mdr op).lines
    ∧ (sliceOf (stFwd op) 5).reqs = [hr op] ∧ (sliceOf (stFwd op) 5).md = [mdr op]
    ∧ (sliceOf (stFwd op) 5).haz = [{ line := lineOf (hr op).req.addr.toNat, q := [{ job := .fwd (hr op).tag, write := (hr op).op != 0, started := true }] }]
    ∧ (mdr op).who = .host (hr op).tag ∧ (mdr op).lines = 1 ∧ (hr op).codes = [none] ∧ (hr op).data = [[]] ∧ (hr op).op ≤ 2 := by
  decide +kernel

/-- A block crossed by two lines and by the last of four, an atomic of two lines, an address inside a line. -/
theorem wit_BrokenRequestsAnswerError : portsOpen (openW (stOf blk0)) = true ∧ 31 < (stOf blk0).build.nmp
    ∧ (sliceOf (stOf blk0) 31).quiesce = false ∧ (sliceOf (stOf blk0) 31).noClock = false
    ∧ 256 < (rq 0x10C0 1).addr.toNat % 256 + 64 * ((rq 0x10C0 1).len.toNat + 1)
    ∧ 256 < (rq 0x1040 3).addr.toNat % 256 + 64 * ((rq 0x1040 3).len.toNat + 1) ∧ (rq 0x1000 1).len ≠ 0
    ∧ (rq 0x1001 0).addr.toNat % 64 ≠ 0 ∧ (rq 0x103F 0).addr.toNat % 64 ≠ 0 := by decide +kernel

/-- A merge entry that stands alone, over plain memory and over a coded line. -/
def mg (line : Nat) : Merge := { line := line, data := List.replicate 64 1, mask := 3, ctx := 1 }
def stMg (line : Nat) : State := stOf { blkS rgnS with slices := [(5, { merge := [mg line] })] }

theorem wit_MergeEntriesFlush : ∀ l ∈ [0x1000, 0x400000], (sliceOf (stMg l) 5).merge = [mg l] ∧ (sliceOf (stMg l) 5).haz = []
    ∧ (sliceOf (stMg l) 5).jobs = [] ∧ (sliceOf (stMg l) 5).md = [] ∧ (sliceOf (stMg l) 5).quiesce = false
    ∧ (sliceOf (stMg l) 5).noClock = false ∧ lineMode (openW (stMg l)) (mg l).line = (if l = 0x1000 then .plain else .coded)
    ∧ chunkHeld (openW (stMg l)) (mg l).line = false ∧ lineRebuilt (openW (stMg l)) (mg l).line = false
    ∧ (sliceOf (stMg l) 5).waitq = [] ∧ (stMg l).blk.fetches = []
    ∧ (∀ m ∈ (sliceOf (stMg l) 5).merge, m.line ≠ 0x2000) := by decide +kernel

theorem wit_SlicesQuiesce :
    (portsOpen (openW (stOf blk0)) = true ∧ 5 < (stOf blk0).build.nmp ∧ (sliceOf (stOf blk0) 5).quiesce = false
      ∧ (sliceOf (stOf blk0) 5).noClock = false
      ∧ (sliceOf (stOf blk0) 5).merge = [] ∧ (sliceOf (stOf blk0) (pathOf (openW (stOf blk0)) 5)).hostUnits = [])
    ∧ ((sliceOf (stOf { blk0 with slices := [(5, { quiesce := true })] }) 5).quiesce = true
      ∧ isQuiesced (sliceOf (stOf { blk0 with slices := [(5, { quiesce := true })] }) 5) = true)
    ∧ (sliceOf (stOf { blk0 with slices := [(5, { noClock := true })] }) 5).noClock = true := by decide +kernel

/-- PASS, with an image and keys. -/
def blkPass : Blk := { blk0 with glb := { blk0.glb with state := .pass }, qps := [], ctxs := [], lnk := { ports := [(0, { dnSeen := true, linkUp := true })] } }

theorem wit_ServingStartsAndStops :
    ((stOf blkPass).blk.glb.state = .pass ∧ (stOf blkPass).blk.glb.helmOk = true ∧ (stOf blkPass).blk.sec.keyOk = true
      ∧ (∃ p, p < (stOf blkPass).build.nmp ∧ (stOf blkPass).blk.glb.stfail1.getLsbD p = false)
      ∧ (∃ l, l < (stOf blkPass).build.nlp ∧ lpWorks (openW (stOf blkPass)) l = true))
    ∧ ((stOf blk0).blk.glb.state = .service ∧ (∀ g ∈ (stOf blk0).blk.grps, g.2.state = .free)
      ∧ (∀ c ∈ (stOf blk0).blk.ctxs, c.2.watch.phase = .idle) ∧ (stOf blk0).blk.eng.runs = [] ∧ (stOf blk0).blk.eng.ses = []
      ∧ (∀ e ∈ (stOf blk0).blk.slices, e.2.merge = [] ∧ e.2.hostUnits = [] ∧ e.2.haz = [] ∧ e.2.need = [] ∧ e.2.chan = []))
    ∧ (mayServe (openW (stOf blk0)) = false ∧ mayStopServing (openW (stOf blkG)) = false ∧ (stOf blkG).blk.glb.state ≠ .reset) :=
  ⟨⟨rfl, rfl, rfl, ⟨31, by decide +kernel⟩, ⟨0, by decide +kernel⟩⟩, by decide +kernel⟩

theorem wit_StateEnginesDrain : portsOpen (openW (stOf blk0)) = true ∧ 63 < (stOf blk0).build.nse ∧ (seOf (stOf blk0) 63).drain = false
    ∧ (∃ x : Se, seOf (stOf { blk0 with eng := { ses := [(63, x)] } }) 63 = x ∧ x.drain = true ∧ x.err.getLsbD 3 = false ∧ x.state ≠ .absent)
    ∧ (∀ b ∈ [false, true], ∃ x : Se, seOf (stOf { blk0 with eng := { ses := [(63, x)] } }) 63 = x ∧ x.testing = true ∧ x.run = none
        ∧ x.drain = true ∧ x.readmit = b)
    ∧ (seOf (stOf blk0) 63).testing = false
    ∧ (∃ x : Se, seOf (stOf { blk0 with eng := { ses := [(63, x)] } }) 63 = x ∧ x.testing = true ∧ x.run.isSome = true) :=
  ⟨by decide +kernel, by decide +kernel, by decide +kernel, ⟨{ drain := true, state := .drained }, by decide +kernel⟩,
    fun b _ => ⟨{ testing := true, drain := true, readmit := b, state := .drained }, rfl, rfl, rfl, rfl, rfl⟩, by decide +kernel,
    ⟨{ testing := true, run := some c0 }, by decide +kernel⟩⟩

/-! ### Witnesses: link ports, Lantern, streams -/

/-- A received packet, and what a check says of it. -/
theorem recv_of (x : Option Packet × W) (f : Packet → W → Bool)
    (h : (match x with | (some pk, w) => f pk w | _ => false) = true) : ∃ pk w, x = (some pk, w) ∧ f pk w = true := by
  obtain ⟨o, w⟩ := x
  cases o with
  | none => cases h
  | some pk => exact ⟨pk, w, rfl, h⟩

/-- A beacon of the peer with coordinate 1. -/
def rxBeacon (epoch : Nat) : Rx := rxOf 0 1 (fill 64 [(0, 1, 1), (8, 8, epoch)])
/-- The block with a peer entry for coordinate 1. -/
def stPeer (p : Peer) : State := stOf { blkG with lnk := { blkG.lnk with peers := [(0, { p with coord := 1 })] } }

theorem wit_LanternKeepsPeers :
    (canSend (openW (stOf blkG)) 0 1 = true ∧ (stOf blkG).blk.glb.helmStopped = false)
    ∧ (∀ e ∈ [none, some (5 : Word), some 6], (rxBeacon 5).pk.hdr.opcode = 1
        ∧ ∃ pk w, receive (rxBeacon 5) (openW (stPeer { coord := 1, aff := 0, epoch := e })) = (some pk, w)
          ∧ (decide (pk.hdr.opcode = 1 ∧ fld pk.payload 8 8 = 5) && (match peerOf w pk.hdr.src with
             | some (i, p) => decide (p.state = .alive ∧ p.epoch = e) && !beaconIgnored w i
             | none => false)) = true)
    ∧ (∀ st ∈ [PeerState.alive, .suspect], ∃ p : Peer,
        peerOf (openW (stPeer { coord := 1, aff := 0, state := st, counting := true })) 1 = some (0, p)
        ∧ p.counting = true ∧ p.state = st
        ∧ beaconIgnored (openW (stPeer { coord := 1, aff := 0, state := st, counting := true })) 0 = false)
    ∧ 7 < (stPeer { coord := 1, aff := 0 }).build.nlp := by
  refine ⟨by decide +kernel, ?_, ?_, by decide +kernel⟩
  · intro e he
    simp only [List.mem_cons, List.not_mem_nil, or_false] at he
    rcases he with rfl | rfl | rfl <;> exact ⟨rfl, recv_of _ (fun pk w => decide (pk.hdr.opcode = 1 ∧ fld pk.payload 8 8 = 5) &&
      (match peerOf w pk.hdr.src with
        | some (i, p) => decide (p.state = .alive ∧ p.epoch = _) && !beaconIgnored w i
        | none => false)) (by decide +kernel)⟩
  · intro st h
    simp only [List.mem_cons, List.not_mem_nil, or_false] at h
    rcases h with rfl | rfl
    · exact ⟨{ coord := 1, aff := 0, counting := true }, by decide +kernel⟩
    · exact ⟨{ coord := 1, aff := 0, state := .suspect, counting := true }, by decide +kernel⟩

/-- No beacon may be sent; an injection that makes beacons of the first peer ignored; a beacon of a LOST peer; no peer; a port beyond. -/
theorem wit_LanternElsewhere :
    canSend (openW (stOf blk0)) 0 1 = false
    ∧ beaconIgnored (openW (stOf { blkG with ras := { inj := [(0x0C, { count := 1, go := true })] } })) 0 = true
    ∧ (∃ pk w, receive (rxBeacon 5) (openW (stPeer { coord := 1, aff := 0, state := .lost })) = (some pk, w)
        ∧ (match peerOf w pk.hdr.src with | some (i, p) => decide (p.state = .lost) && !beaconIgnored w i | none => false) = true)
    ∧ peerOf (openW (stPeer { coord := 1, aff := 0 })) 3 = none ∧ (stPeer { coord := 1, aff := 0 }).build.nlp ≤ 8 :=
  ⟨by decide +kernel, by decide +kernel,
    recv_of _ (fun pk w => match peerOf w pk.hdr.src with | some (i, p) => decide (p.state = .lost) && !beaconIgnored w i | none => false)
      (by decide +kernel), by decide +kernel, by decide +kernel⟩

theorem wit_LinkSignalsAndEnables : portsOpen (openW (stOf blk0)) = true ∧ 7 < (stOf blk0).build.nlp ∧ (stOf blk0).build.nlp ≤ 8
    ∧ Unsent (stOf blk0) ∧ portsOpen (openW (stOf { blk0 with glb := { blk0.glb with mainReset := true, state := .reset } })) = false
    ∧ (stOf blk0).blk.lnk.mcastEn = false ∧ (stOf blk0).build.mcastCap = true ∧ (stOf blk0).blk.glb.stfail1.getLsbD 59 = false
    ∧ portsOpen (openW { stOf blk0 with build := { mcastCap := false } }) = true := by
  unfold Unsent; decide +kernel

/-- Unit (member 1, serial 5) of a HOST block of region 4, prepared, waiting for packet 5 of VC1. -/
def prep1 : Prep :=
  { g := 0, src := 1, unit := 0x100000000000005, kind := 0, sepoch := 1, nlines := 1, base := 0x400000, watch := 0, index := 0, run := 0
    runFirst := 0, runCount := 0, seqs := [some 5, none, none, none, none], copies := [55]
    hdr := { (rxOf 0 3 []).pk.hdr with flags := 0 } }
def rs1 : RxStream := { src := 1, mcast := none, vc := 1, exp := some 3 }
def stLate : State := stOf { blkS rgnS with preps := [prep1], lnk := { blkG.lnk with rxStreams := [rs1] } }

/-- A unit of this member on region 4, prepared and waiting for members 1 and 2. -/
def unit1 : CUnit :=
  { g := 0, unit := 9, kind := 0, region := 4, base := 0x400000, sepoch := 1, watch := 0, index := 0, ctx := 1, closed := true }
def vmsg (why : Vc0For) : Vc0Msg := { msgid := 77, dest := 1, pk := (rxOf 0 3 (zeros 96)).pk, why := why }
def stVc0 (why : Vc0For) : State :=
  stOf { blkS rgnS with lnk := { blkG.lnk with vc0 := [vmsg why] }, units := [{ unit1 with prepared := true, waitSet := [1, 2] }] }
def rxAck : Rx := rxOf 0 6 (fill 64 [(0, 8, 77)])

theorem wit_LostPacketsAndRepeats :
    (isPeer (openW stLate) 1 = true ∧ awaited (openW stLate) 1 1 none 5 = true ∧ stLate.blk.lnk.rxStreams = [rs1] ∧ rs1.src = 1
      ∧ rs1.mcast = none ∧ rs1.vc = 1 ∧ rs1.exp = some 3 ∧ seqAhead 3 ((5 + 1) % 2 ^ 24) < 2 ^ 23 ∧ 0 < seqAhead 3 ((5 + 1) % 2 ^ 24))
    ∧ (isPeer (openW stLate) 9 = false ∧ awaited (openW stLate) 1 1 none 6 = false)
    ∧ ((stVc0 .other).blk.lnk.vc0.find? (fun x => x.msgid == 77) = some (vmsg .other) ∧ (vmsg .other).why = .other
      ∧ (stVc0 .other).blk.lnk.vc0.find? (fun x => x.msgid == 78) = none
      ∧ findUnit (openW (stVc0 (.prepare 0 9 1))) 0 9 = some { unit1 with prepared := true, waitSet := [1, 2] })
    ∧ (∃ pk w, accepted (openW stLate) rxAck 6 (fun _ => true) = some (pk, w)
        ∧ (w.b.lnk.vc0.find? (fun x => x.msgid == fld pk.payload 0 8 && x.dest == pk.hdr.src)).isNone = true)
    ∧ ∀ why ∈ [Vc0For.other, .prepare 0 9 1, .apply 0 9 1], ∃ pk w, accepted (openW (stVc0 why)) rxAck 6 (fun _ => true) = some (pk, w)
        ∧ decide (w.b.lnk.vc0.find? (fun x => x.msgid == fld pk.payload 0 8 && x.dest == pk.hdr.src) = some (vmsg why)) = true := by
  refine ⟨by decide +kernel, by decide +kernel, by decide +kernel,
    pair_of _ (fun pk w => (w.b.lnk.vc0.find? (fun x => x.msgid == fld pk.payload 0 8 && x.dest == pk.hdr.src)).isNone) (by decide +kernel), ?_⟩
  intro why h
  simp only [List.mem_cons, List.not_mem_nil, or_false] at h
  rcases h with rfl | rfl | rfl <;>
    exact pair_of _ (fun pk w => decide (w.b.lnk.vc0.find? (fun x => x.msgid == fld pk.payload 0 8 && x.dest == pk.hdr.src) = _))
      (by decide +kernel)

/-! ### Witnesses: delta and commit -/

def opk : OpenPkt := { id := 0, g := 0, unit := 9, frag := 0x500000, dest := some 1, lines := [(0, List.replicate 64 1)] }
/-- The unit closed, or open with its packet open in slice 5 and port 0 off for VC1. -/
def stUnit : State := stOf { blkS rgnS with units := [unit1] }
def stOpenUnit : State :=
  stOf { blkS rgnS with units := [{ unit1 with closed := false }], slices := [(5, { hostUnits := [(0, 9)], openPkts := [opk] })]
                        lnk := { blkG.lnk with ports := [(0, { txOff := 2 })] } }

theorem wit_UnitsCloseAndPrepare :
    (findUnit (openW stUnit) 0 9 = some unit1 ∧ unit1.closed = true ∧ unit1.prepared = false ∧ unitInPde (openW stUnit) 0 9 = false)
    ∧ ((0, 9) ∈ (sliceOf stOpenUnit 5).hostUnits ∧ (0, 8) ∉ (sliceOf stOpenUnit 5).hostUnits
      ∧ (sliceOf stOpenUnit 5).openPkts.find? (fun x => x.id == 0) = some opk
      ∧ (sliceOf stOpenUnit 5).openPkts.find? (fun x => x.id == 1) = none)
    ∧ (findUnit (openW stUnit) 0 7 = none ∧ findUnit (openW stOpenUnit) 0 9 = some { unit1 with closed := false })
    ∧ ((sliceOf stOpenUnit 5).openPkts = [opk] ∧ (sliceOf stOpenUnit 5).sendQ = [] ∧ mayHandOn (openW stOpenUnit) opk = false
      ∧ opk.id = 0) := by decide +kernel

/-- Region 4 sounded in epoch 1; the pool of the partition of a size in KiB. -/
def blkH (kib : Nat) : Blk :=
  { blkS { rgnS with sepoch := 1 } with parts := blk0.parts.map (fun p => (p.1, { p.2 with poolKib := kib })) }
/-- A DELTA of one line of member 1's unit, for parity line 0 of region 5. -/
def rxDelta : Rx := rxOf 1 0x10 (fill 96 [(0, 8, 0x100000000000005), (8, 8, 1), (0x11, 1, 1), (32, 8, 5)]) 0x500000
/-- No room in the pool, and a STAGING region whose ports are quiesced. -/
def blkWait : Blk :=
  { blkH 0 with
    rgns := (blkH 0).rgns ++ [(12, { state := .active, base := 0xC00000, size := 1, kind := .staging, ctx := 1, grp := some 0 })]
    slices := (List.range 32).map (fun p => (p, { quiesce := true })) }
def arr1 : Arrival :=
  { g := 0, src := 1, coord := 1, unit := 0x100000000000005, frag := 0x500000, partner := 5
    pkt := { seq := 5, mcast := none, size := 64, lines := [(0x500000, List.replicate 64 1)] }, raddr := 0x500000
    payload := rxDelta.pk.payload, hold := false }

theorem wit_DeltasAreHeld :
    (∀ x ∈ [(24576, Placed.placed), (0, .full)], rxDelta.pk.hdr.opcode = 0x10 ∧ (lpOf (stOf (blkH x.1)) rxDelta.port).stalled = []
        ∧ ∃ pk w, receive rxDelta (openW (stOf (blkH x.1))) = (some pk, w) ∧ ((takeDelta {} pk w).1 == x.2) = true)
    ∧ (∃ pk w, receive rxDelta (openW (stOf blkWait)) = (some pk, w) ∧ ((takeDelta {} pk w).1 == .waits) = true)
    ∧ (∃ l : Lp, lpOf (stOf { blkG with lnk := { blkG.lnk with ports := [(0, l)] } }) rxDelta.port = l ∧ l.stalled ≠ []
        ∧ inService (openW (stOf blkG)) = true ∧ blkG.lnk.en = true
        ∧ noRoom (openW (stOf { blkG with lnk := { blkG.lnk with ports := [(0, l)] } })) rxDelta = false)
    ∧ ((openW (stOf (blkH 24576))).b.pool.all (fun e => !(e.unit == arr1.unit)) = true ∧ classBlocks arr1.pkt.size = some 1
      ∧ allocSpan (usedSpans (openW (stOf (blkH 24576)))) 1 = some (0, 1)
      ∧ withinQuota (openW (stOf (blkH 24576))) arr1.partner arr1.coord 1 = true) := by
  refine ⟨?_, recv_of _ (fun pk w => (takeDelta {} pk w).1 == _) (by decide +kernel), ⟨{ stalled := [rxDelta] }, by decide +kernel⟩,
    by decide +kernel⟩
  intro x h
  simp only [List.mem_cons, List.not_mem_nil, or_false] at h
  rcases h with rfl | rfl <;>
    exact ⟨rfl, by decide +kernel, recv_of _ (fun pk w => (takeDelta {} pk w).1 == _) (by decide +kernel)⟩

/-- The last span of the pool of each class. -/
theorem wit_PoolSpansFit : allocSpan [(0, 98240)] 64 = some (98240, 64) ∧ allocSpan [(0, 98303)] 1 = some (98303, 1)
    ∧ classBlocks 1 = some 1 ∧ classBlocks 256 = some 1 ∧ classBlocks 257 = some 4 ∧ classBlocks 16384 = some 64 := by decide +kernel

/-- A COMMIT of member 1's unit 5 on region 4, of a stage. -/
def rxCommit (stage : Nat) : Rx :=
  rxOf 0 3 (fill 96 [(0, 8, 66), (8, 8, 0x100000000000005), (0x10, 1, stage), (0x12, 1, 1), (0x14, 4, 1), (0x18, 8, 0x400000)])
def stPrep (p : Option Prep) : State := stOf { blkH 24576 with preps := p.toList }
/-- What both stages assume of an accepted COMMIT. -/
def commitB (pk : Packet) (w : W) (f : Prep → Bool) : Bool :=
  match senderOf w pk.hdr with
  | some (gi, g, m) => !commitDiscarded w g (prepOf gi m pk) && !w.b.applied.contains (gi, m, (prepOf gi m pk).unit) && f (prepOf gi m pk)
  | none => false

/-- What an APPLY assumes of the unit held. -/
def applyB (p : Option Prep) (pk : Packet) (w : W) : Bool :=
  commitB pk w (fun q => decide (findPrep w 0 1 q.unit = p)
    && (match p with | some x => (recordTomb x w).1 && !applyWaits (recordTomb x w).2 x | none => true))

theorem wit_CommitsAtTheHolder :
    (∀ p ∈ [none, some { prep1 with ready := true }], ∃ pk w,
        accepted (openW (stPrep p)) (rxCommit 0) 3 (fun b => fld b 0x10 1 == 0 || (decide (1 < fld b 0x10 1))) = some (pk, w)
        ∧ commitB pk w (fun q => decide (findPrep w 0 1 q.unit = p)) = true)
    ∧ (∀ p ∈ [none, some { prep1 with ready := true }], ∃ pk w,
        accepted (openW (stPrep p)) (rxCommit 1) 3 (fun b => fld b 0x10 1 == 1) = some (pk, w)
        ∧ applyB p pk w = true)
    ∧ ∃ p : Prep, findPrep (openW (stPrep (some p))) 0 1 p.unit = some p ∧ p.ready = false ∧ (∀ x ∈ p.seqs, x = none)
        ∧ heldLines (openW (stPrep (some p))) 0 1 p.unit + aheadLines (openW (stPrep (some p))) 0 1 p.unit = p.nlines ∧ p.copies = [] := by
  refine ⟨?_, ?_, ⟨{ prep1 with seqs := [none], nlines := 0, copies := [] }, by decide +kernel⟩⟩
  · intro p h
    simp only [List.mem_cons, List.not_mem_nil, or_false] at h
    rcases h with rfl | rfl <;>
      exact pair_of _ (fun pk w => commitB pk w (fun q => decide (findPrep w 0 1 q.unit = _))) (by decide +kernel)
  · intro p h
    simp only [List.mem_cons, List.not_mem_nil, or_false] at h
    rcases h with rfl | rfl <;>
      exact pair_of _ (applyB _) (by decide +kernel)

/-- A PREPARE and an APPLY of a unit that is not ready, of one applied before, and of one whose group takes nothing; an APPLY that
the ports hold back; UNIT_READY of no unit, and of one whose packets have not arrived. -/
def stDone : State := stOf { blkH 24576 with applied := [(0, 1, prep1.unit)] }
def held1 : PoolEntry :=
  { id := 0, g := 0, src := 1, coord := 1, unit := prep1.unit, frag := 0x500000, partner := 5, pkts := [arr1.pkt], span := some (0, 1) }
def stHeldBack : State :=
  stOf { blkH 24576 with preps := [{ prep1 with ready := true }], pool := [held1]
                         slices := (List.range 32).map (fun p => (p, { quiesce := true })) }
def elseB (pk : Packet) (w : W) (f : W → Group → Prep → Bool) : Bool :=
  match senderOf w pk.hdr with | some (gi, g, m) => f w g (prepOf gi m pk) | none => false

/-- The two stages of a COMMIT, with what their rows take. -/
def stages : List (Nat × (Bytes → Bool)) :=
  [(0, fun b => fld b 0x10 1 == 0 || (decide (1 < fld b 0x10 1))), (1, fun b => fld b 0x10 1 == 1)]

theorem wit_CommitsElsewhere :
    (∀ st ∈ stages, ∃ pk w, accepted (openW (stPrep (some prep1))) (rxCommit st.1) 3 st.2 = some (pk, w)
        ∧ commitB pk w (fun q => decide (findPrep w 0 1 q.unit = some prep1 ∧ prep1.ready = false)) = true)
    ∧ (∀ st ∈ stages, ∃ pk w, accepted (openW stDone) (rxCommit st.1) 3 st.2 = some (pk, w)
        ∧ elseB pk w (fun w _ a => w.b.applied.contains (0, 1, a.unit)) = true)
    ∧ (∀ st ∈ stages, ∃ pk w, accepted (openW (stOf blkG)) (rxCommit st.1) 3 st.2 = some (pk, w)
        ∧ elseB pk w commitDiscarded = true)
    ∧ (∃ pk w, accepted (openW stHeldBack) (rxCommit 1) 3 (fun b => fld b 0x10 1 == 1) = some (pk, w)
        ∧ commitB pk w (fun q => decide (findPrep w 0 1 q.unit = some { prep1 with ready := true })
            && (recordTomb { prep1 with ready := true } w).1 && applyWaits (recordTomb { prep1 with ready := true } w).2
                { prep1 with ready := true }) = true)
    ∧ findPrep (openW (stPrep none)) 0 1 prep1.unit = none
    ∧ (∃ x ∈ prepStreams (groupOf (stPrep (some prep1)) 0) prep1, reached (openW (stPrep (some prep1))) prep1.hdr.src x.1 1 x.2 = false) := by
  refine ⟨?_, ?_, ?_, pair_of _ (fun pk w => commitB pk w (fun q => decide (findPrep w 0 1 q.unit = some { prep1 with ready := true })
      && (recordTomb { prep1 with ready := true } w).1 && applyWaits (recordTomb { prep1 with ready := true } w).2
        { prep1 with ready := true })) (by decide +kernel), by decide +kernel, by decide +kernel⟩
  all_goals
    intro st h
    simp only [stages, List.mem_cons, List.not_mem_nil, or_false] at h
    rcases h with rfl | rfl
  · exact pair_of _ (fun pk w => commitB pk w _) (by decide +kernel)
  · exact pair_of _ (fun pk w => commitB pk w _) (by decide +kernel)
  · exact pair_of _ (fun pk w => elseB pk w _) (by decide +kernel)
  · exact pair_of _ (fun pk w => elseB pk w _) (by decide +kernel)
  · exact pair_of _ (fun pk w => elseB pk w _) (by decide +kernel)
  · exact pair_of _ (fun pk w => elseB pk w _) (by decide +kernel)

/-- The tombstone table full of tombstones of member 2's unit 1. -/
def tomb0 : Tomb := { g := 0, src := 2, unit := 1 }
def stFull : State := stOf { blkH 24576 with preps := [{ prep1 with ready := true }], tombs := List.replicate 32768 tomb0 }

theorem wit_TombstonesFull : ∃ pk w, accepted (openW stFull) (rxCommit 1) 3 (fun b => fld b 0x10 1 == 1) = some (pk, w)
    ∧ commitB pk w (fun q => decide (findPrep w 0 1 q.unit = some { prep1 with ready := true })) = true
    ∧ (recordTomb { prep1 with ready := true } w).1 = false := by
  have none_of : ∀ (n : Nat) (w : W), w.b.tombs = List.replicate n tomb0 → tombOf w 0 1 prep1.unit = none := by
    intro n w h
    simp [tombOf, h, List.find?_replicate, tombIs, tomb0]
  have full : ∀ w : W, w.b.tombs = List.replicate 32768 tomb0 → (recordTomb { prep1 with ready := true } w).1 = false := by
    intro w h
    have := none_of _ w h
    simp only [recordTomb]
    rw [show ({ prep1 with ready := true } : Prep).g = 0 from rfl, show ({ prep1 with ready := true } : Prep).src = 1 from rfl,
      show ({ prep1 with ready := true } : Prep).unit = prep1.unit from rfl, this, h, List.length_replicate]
    rfl
  have ht : (accepted (openW stFull) (rxCommit 1) 3 (fun b => fld b 0x10 1 == 1)).map (fun y => y.2.b.tombs)
      = some (List.replicate 32768 tomb0) := rfl
  obtain ⟨pk, w, h, hf⟩ := pair_of (accepted (openW stFull) (rxCommit 1) 3 (fun b => fld b 0x10 1 == 1))
    (fun pk w => commitB pk w (fun q => decide (findPrep w 0 1 q.unit = some { prep1 with ready := true }))) (by decide +kernel)
  rw [h] at ht
  exact ⟨pk, w, h, hf, full w (Option.some.inj ht)⟩

theorem wit_PoolAuditAndPressure :
    (stOf { blkG with ras := { bgctl := 8 } }).blk.ras.bgctl.getLsbD 3 = true
    ∧ ((stOf blk0).blk.ras.bgctl.getLsbD 3 = false ∧ (stOf blk0).blk.leaks = [] ∧ (stOf blk0).blk.ras.inj = []
      ∧ (∀ g ∈ (stOf blk0).blk.grps, g.2.state = .free) ∧ (∀ e ∈ (stOf blk0).blk.pool, entryLeaked (openW (stOf blk0)) e = false))
    ∧ ((stOf { blk0 with leaks := [(5, 1)] }).blk.leaks = [(5, 1)] ∧ (stOf { blk0 with leaks := [(5, 1)] }).blk.grps = []
      ∧ (stOf { blk0 with leaks := [(5, 1)] }).blk.pool = [])
    ∧ (entryLeaked (openW (stOf { blk0 with pool := [{ held1 with refs := 0 }] })) { held1 with refs := 0 } = true
      ∧ (stOf blk0).blk.pressure.active = false ∧ (lpOf (stOf blk0) 0).stalled = []
      ∧ underPressure (openW (stOf { blk0 with lnk := { ports := [(0, { rxOff := 2 })] } })) = true)
    ∧ (∃ l : Lp, lpOf (stOf { blkG with lnk := { blkG.lnk with ports := [(0, l)] } }) 0 = l ∧ l.stalled ≠ [])
    ∧ (∀ b ∈ [false, true], (stOf { blk0 with pressure := { active := true, logged := b } }).blk.pressure.active = true
      ∧ (stOf { blk0 with pressure := { active := true, logged := b } }).blk.pressure.logged = b
      ∧ underPressure (openW (stOf { blk0 with pressure := { active := true, logged := b } })) = false) :=
  ⟨by decide +kernel, by decide +kernel, by decide +kernel, by decide +kernel, ⟨{ stalled := [rxDelta] }, by decide +kernel⟩,
    by decide +kernel⟩

/-! ### Witnesses: groups, loss, adoption -/

/-- Host memory with a member list at 0x100000 of coordinates 0, 1 and c, and the placement map of those three at 0xA00000. -/
def memMap (c : Byte) : Mem :=
  [(0x100004, 1), (0x100008, c), (0xA00004, 1), (0xA00008, 1), (0xA00010, 1), (0xA00014, 2), (0xA00018, 2), (0xA00020, c),
   (0xA00024, 3), (0xA00028, 3)]
/-- The block with that map and a group in entry 0. -/
def blkM (g : Group) : Blk := { blkG with grps := [(0, g)], pmapBase := 0xA00000, pmapCnt := 3 }
def aDefine : List (Nat × Nat × Nat) := [(0x10, 1, 3), (0x11, 1, 3), (0x12, 1, 2), (0x13, 1, 1), (0x16, 2, 9), (0x20, 8, 0x100000)]
def aRelease : List (Nat × Nat × Nat) := [(0x10, 1, 3)]

/-- A list that passes its checks. -/
theorem ok_of {α β : Type} (x : Except α β × W) (f : β → W → Bool)
    (h : (match x with | (.ok l, w) => f l w | _ => false) = true) : ∃ l w, x = (.ok l, w) ∧ f l w = true := by
  obtain ⟨o, w⟩ := x
  cases o with
  | error _ => cases h
  | ok l => exact ⟨l, w, rfl, h⟩

/-- A group of three with slot states. -/
def grpS (st : GrpState) (a b c : SlotState) : Group :=
  { grp0 with state := st, members := [mem3 0 a, mem3 1 b, mem3 2 c] ++ List.replicate 13 {} }
def stGrp (g : Group) : State := stOf (blkM g)
def grpForm : Group := { grpS .forming .alive .alive .alive with cmds := [c0] }

/-- The line of the member list while a host's write of it is under way. -/
def blkShut : Blk :=
  { blkM {} with slices := [(0, { haz := [{ line := 0x100000, q := [{ job := .fwd 7, write := true, started := true }] }] })] }
/-- Members 1 and 2 listed the other way round. -/
def grpSwap : Group := { grpS .forming .alive .alive .alive with members := [mem3 0 .alive, mem3 2 .alive, mem3 1 .alive] ++ List.replicate 13 {} }

/-- Lists that cannot be read; a group that does not form; JOINs that do not count, and one of a sender another slot names. -/
theorem wit_JoinsElsewhere :
    (Issued (withC blkShut 0x85 aDefine (memMap 2)) c0 {} (critOf blkShut 0x85 aDefine) 0x85
      ∧ arg (critOf blkShut 0x85 aDefine) 0x11 1 ≠ 0
      ∧ linesReadable (openW (withC blkShut 0x85 aDefine (memMap 2))) (arg (critOf blkShut 0x85 aDefine) 0x20 8) 64 = false)
    ∧ (groupOf (stGrp grp0) 0).state ≠ .forming
    ∧ (∀ g ∈ [grpS .broken .alive .alive .alive, grpS .whole .alive .lost .alive, { grpS .whole .alive .alive .alive with self := 1 }],
        ∃ pk w, formAccepted (openW (stGrp g)) (formOf 0 1 0 1 (groupBody grp0)) 0 = some (pk, w)
        ∧ (match senderOf w pk.hdr with
          | some (_, g, x) => decide (g.state ∉ [GrpState.forming, .whole, .degraded]
              ∨ slotOut (slotAt g ((memberOf g pk.hdr.src).getD x)).state = true ∨ (memberOf g pk.hdr.src).getD x = g.self)
          | none => false) = true)
    ∧ (∃ pk w, formAccepted (openW (stGrp grpSwap)) (formOf 0 1 0 1 (groupBody grp0)) 0 = some (pk, w)
        ∧ (match senderOf w pk.hdr with
          | some (_, g, x) => decide (g.state = .forming ∧ (memberOf g pk.hdr.src).getD x ≠ x
              ∧ slotOut (slotAt g ((memberOf g pk.hdr.src).getD x)).state = false ∧ (memberOf g pk.hdr.src).getD x ≠ g.self)
          | none => false) = true) := by
  have h1 : critB blkShut 0x85 aDefine = true := by decide +kernel
  refine ⟨⟨issued_crit _ _ _ h1 (by decide +kernel), by decide +kernel⟩, by decide +kernel, ?_,
    pair_of _ (fun pk w => match senderOf w pk.hdr with
      | some (_, g, x) => decide (g.state = .forming ∧ (memberOf g pk.hdr.src).getD x ≠ x
          ∧ slotOut (slotAt g ((memberOf g pk.hdr.src).getD x)).state = false ∧ (memberOf g pk.hdr.src).getD x ≠ g.self)
      | none => false) (by decide +kernel)⟩
  intro g h
  simp only [List.mem_cons, List.not_mem_nil, or_false] at h
  rcases h with rfl | rfl | rfl <;>
    exact pair_of _ (fun pk w => match senderOf w pk.hdr with
      | some (_, g, x) => decide (g.state ∉ [GrpState.forming, .whole, .degraded]
          ∨ slotOut (slotAt g ((memberOf g pk.hdr.src).getD x)).state = true ∨ (memberOf g pk.hdr.src).getD x = g.self)
      | none => false) (by decide +kernel)

theorem wit_GroupsFormAndGo :
    (Issued (withC (blkM {}) 0x85 aDefine (memMap 2)) c0 {} (critOf (blkM {}) 0x85 aDefine) 0x85
      ∧ arg (critOf (blkM {}) 0x85 aDefine) 0x11 1 ≠ 0
      ∧ ListsReadable (withC (blkM {}) 0x85 aDefine (memMap 2)) (critOf (blkM {}) 0x85 aDefine)
      ∧ groupBad (critOf (blkM {}) 0x85 aDefine).slot true = [] ∧ (withC (blkM {}) 0x85 aDefine (memMap 2)).blk.lnk.en = true
      ∧ (groupOf (withC (blkM {}) 0x85 aDefine (memMap 2)) (arg (critOf (blkM {}) 0x85 aDefine) 0x10 1)).state = .free
      ∧ ∃ l w, listChecks {} (critOf (blkM {}) 0x85 aDefine) none
          (begun (withC (blkM {}) 0x85 aDefine (memMap 2)) c0 (critOf (blkM {}) 0x85 aDefine)) = (.ok l, w) ∧ true = true)
    ∧ (∀ st ∈ [GrpState.whole, .degraded, .broken],
      Issued (withC { blkG with grps := [(3, { grp0 with state := st })] } 0x85 aRelease) c0 {}
        (critOf { blkG with grps := [(3, { grp0 with state := st })] } 0x85 aRelease) 0x85
      ∧ rgnsOfGrp (openW (withC { blkG with grps := [(3, { grp0 with state := st })] } 0x85 aRelease)) 3 = []
      ∧ groupBad (critOf { blkG with grps := [(3, { grp0 with state := st })] } 0x85 aRelease).slot false = []
      ∧ arg (critOf { blkG with grps := [(3, { grp0 with state := st })] } 0x85 aRelease) 0x11 1 = 0)
    ∧ ((groupOf (stGrp grpForm) 0).state = .forming ∧ (groupOf (stGrp grpForm) 0).cmds = [c0])
    ∧ (∀ st ∈ [GrpState.forming, .whole, .degraded], ∀ code ∈ [0, 1], ∃ pk w gi g m,
        formAccepted (openW (stGrp (grpS st .alive .alive .alive))) (formOf 0 1 code 1 (groupBody grp0)) 0 = some (pk, w)
        ∧ formFrom w pk = some (gi, g, m)
        ∧ decide (g.state = st ∧ slotOut (slotAt g m).state = false ∧ m ≠ g.self ∧ bytesAt pk.payload 32 80 = groupBody g
            ∧ fld pk.payload 0xA 1 % 2 = code) = true)
    ∧ (∃ pk w gi g m, formAccepted (openW (stGrp (grpS .forming .alive .alive .alive))) (formOf 0 1 0 1 (zeros 80)) 0 = some (pk, w)
        ∧ formFrom w pk = some (gi, g, m) ∧ decide (bytesAt pk.payload 32 80 ≠ groupBody g ∧ m ≠ g.self) = true) := by
  have h1 : critB (blkM {}) 0x85 aDefine = true := by decide +kernel
  refine ⟨⟨issued_crit _ _ _ h1 (by decide +kernel), by decide +kernel, by unfold ListsReadable; decide +kernel, by decide +kernel, rfl,
      by decide +kernel, ?_⟩, ?_, by decide +kernel, ?_,
    form_of _ (fun pk _ _ g m => decide (bytesAt pk.payload 32 80 ≠ groupBody g ∧ m ≠ g.self)) (by decide +kernel)⟩
  · rw [begun_crit _ _ _ h1]
    exact ok_of _ (fun _ _ => true) (by decide +kernel)
  · intro st h
    simp only [List.mem_cons, List.not_mem_nil, or_false] at h
    rcases h with rfl | rfl | rfl <;> exact ⟨issued_crit _ _ _ (by decide +kernel), by decide +kernel⟩
  · intro st h code hc
    simp only [List.mem_cons, List.not_mem_nil, or_false] at h hc
    rcases h with rfl | rfl | rfl <;> rcases hc with rfl | rfl <;>
      exact form_of _ (fun pk _ _ g m => decide (g.state = _ ∧ slotOut (slotAt g m).state = false ∧ m ≠ g.self
        ∧ bytesAt pk.payload 32 80 = groupBody g ∧ fld pk.payload 0xA 1 % 2 = _)) (by decide +kernel)

/-- Notices that do not fit: a sender whose coordinate is not its slot's, a LOSS of another coordinate, FENCED about another slot or
from a member that is not alive. -/
theorem wit_NoticesElsewhere :
    (∀ kind ∈ [3, 4, 5, 6], ∃ pk w, formAccepted (openW (stGrp grpSwap)) (formOf kind 0 0 0 []) kind = some (pk, w)
        ∧ (formFrom w pk).isNone = true)
    ∧ (∀ kind ∈ [3, 4], ∃ pk w gi g m, formAccepted (openW (stGrp grp0)) (formOf kind 2 0 9 []) kind = some (pk, w)
        ∧ formFrom w pk = some (gi, g, m) ∧ decide ((slotAt g (msgSlot pk)).coord ≠ msgCoord pk) = true)
    ∧ (∃ pk w gi g m, formAccepted (openW (stGrp grp0)) (formOf 6 2 0 2 []) 6 = some (pk, w)
        ∧ formFrom w pk = some (gi, g, m) ∧ decide (msgSlot pk ≠ g.self) = true)
    ∧ (∃ pk w gi g m, formAccepted (openW (stGrp (grpS .degraded .alive .lost .alive))) (formOf 6 0 0 0 []) 6 = some (pk, w)
        ∧ formFrom w pk = some (gi, g, m) ∧ decide (msgSlot pk = g.self ∧ (slotAt g m).state ∉ [SlotState.alive, .suspect]) = true) := by
  refine ⟨?_, ?_, form_of _ (fun pk _ _ g _ => decide (msgSlot pk ≠ g.self)) (by decide +kernel),
    form_of _ (fun pk _ _ g m => decide (msgSlot pk = g.self ∧ (slotAt g m).state ∉ [SlotState.alive, .suspect])) (by decide +kernel)⟩
  · intro kind h
    simp only [List.mem_cons, List.not_mem_nil, or_false] at h
    rcases h with rfl | rfl | rfl | rfl <;> exact pair_of _ (fun pk w => (formFrom w pk).isNone) (by decide +kernel)
  · intro kind h
    simp only [List.mem_cons, List.not_mem_nil, or_false] at h
    rcases h with rfl | rfl <;>
      exact form_of _ (fun pk _ _ g _ => decide ((slotAt g (msgSlot pk)).coord ≠ msgCoord pk)) (by decide +kernel)

def aFence : List (Nat × Nat × Nat) := [(0x10, 1, 0), (0x11, 1, 2)]

theorem wit_LossIsToldAndSettled :
    (∀ x ∈ [(0, 0, 3), (2, 2, 4)], ∃ pk w gi g m,
        formAccepted (openW (stGrp grp0)) (formOf 3 x.1 x.2.2 x.2.1 []) 3 = some (pk, w) ∧ formFrom w pk = some (gi, g, m)
        ∧ decide (senderLive g m = true ∧ (slotAt g (msgSlot pk)).coord = msgCoord pk ∧ msgSlot pk < g.n ∧ msgSlot pk = x.1
            ∧ g.self = 0) = true)
    ∧ (∃ pk w gi g m, formAccepted (openW (stGrp grp0)) (formOf 4 2 1 2 (fill 8 [(0, 8, 5)]) 1) 4 = some (pk, w)
        ∧ formFrom w pk = some (gi, g, m)
        ∧ decide (senderLive g m = true ∧ (slotAt g (msgSlot pk)).coord = msgCoord pk ∧ msgSlot pk < g.n ∧ g.state ≠ .forming) = true)
    ∧ (∃ pk w gi g m, formAccepted (openW (stGrp grp0)) (formOf 5 1 0 1 (fill 8 [(0, 8, 5)]) 1) 5 = some (pk, w)
        ∧ formFrom w pk = some (gi, g, m) ∧ true = true)
    ∧ (∃ pk w gi g m, formAccepted (openW (stGrp grp0)) (formOf 6 0 0 0 []) 6 = some (pk, w) ∧ formFrom w pk = some (gi, g, m)
        ∧ decide (msgSlot pk = g.self ∧ msgCoord pk = w.b.lnk.coord ∧ (slotAt g m).state = .alive) = true)
    ∧ (∀ u ∈ (stGrp grp0).blk.units, u.complete = false)
    ∧ (∀ st ∈ [GrpState.whole, .degraded, .relighting, .restriping],
        Issued (withC (blkM { grp0 with state := st }) 0x60 aFence) c0 {} (critOf (blkM { grp0 with state := st }) 0x60 aFence) 0x60
        ∧ bit (arg (critOf (blkM { grp0 with state := st }) 0x60 aFence) 0x12 1) 0 = false
        ∧ arg (critOf (blkM { grp0 with state := st }) 0x60 aFence) 0x11 1 = 2
        ∧ (slotAt { grp0 with state := st } 2).state ∉ [SlotState.fenced, .adopted]) := by
  refine ⟨?_, form_of _ (fun pk _ _ g m => decide (senderLive g m = true ∧ (slotAt g (msgSlot pk)).coord = msgCoord pk
      ∧ msgSlot pk < g.n ∧ g.state ≠ .forming)) (by decide +kernel), form_of _ (fun _ _ _ _ _ => true) (by decide +kernel),
    form_of _ (fun pk w _ g m => decide (msgSlot pk = g.self ∧ msgCoord pk = w.b.lnk.coord ∧ (slotAt g m).state = .alive))
      (by decide +kernel), by decide +kernel, ?_⟩
  · intro x h
    simp only [List.mem_cons, List.not_mem_nil, or_false] at h
    rcases h with rfl | rfl <;>
      exact form_of _ (fun pk _ _ g m => decide (senderLive g m = true ∧ (slotAt g (msgSlot pk)).coord = msgCoord pk ∧ msgSlot pk < g.n
        ∧ msgSlot pk = _ ∧ g.self = 0)) (by decide +kernel)
  · intro st h
    simp only [List.mem_cons, List.not_mem_nil, or_false] at h
    rcases h with rfl | rfl | rfl | rfl <;> exact ⟨issued_crit _ _ _ (by decide +kernel), by decide +kernel⟩

/-- The group with slot 2 lost and settled, or not yet; the slot to be taken by coordinate 3. -/
def grpLost (settled : Bool) : Group :=
  { grpS .degraded .alive .alive .lost with settling := [{ slot := 2, coord := 2, settled := settled }] }
def aAdopt (role : Nat) : List (Nat × Nat × Nat) :=
  [(0x10, 1, 0), (0x11, 1, 3), (0x12, 1, 2), (0x13, 1, 1), (0x14, 1, 0), (0x16, 2, 7), (0x20, 8, 0x100000),
   (0x2C, 1, if role = 1 then 0 else 2), (0x2D, 1, role)]
def adoptB (b : Bool) : Prop :=
  Issued (withC (blkM (grpLost b)) 0x61 (aAdopt 0) (memMap 3)) c0 {} (critOf (blkM (grpLost b)) 0x61 (aAdopt 0)) 0x61
    ∧ arg (critOf (blkM (grpLost b)) 0x61 (aAdopt 0)) 0x2D 1 ≠ 1
    ∧ adoptDiffers (critOf (blkM (grpLost b)) 0x61 (aAdopt 0)) (grpLost b) = false ∧ slotOut (slotAt (grpLost b) 2).state = true
    ∧ (isSettled (grpLost b) 2 = b ∧ adoptFields (critOf (blkM (grpLost b)) 0x61 (aAdopt 0)) = none
      ∧ ∀ i, i < 16 → i ≠ 2 → ([0, 1, 3] ++ List.replicate 13 0 : List Coord).getD i 0 = (slotAt (grpLost b) i).coord)
    ∧ ListsReadable (withC (blkM (grpLost b)) 0x61 (aAdopt 0) (memMap 3)) (critOf (blkM (grpLost b)) 0x61 (aAdopt 0))
    ∧ ∃ l v, readMlist {} (critOf (blkM (grpLost b)) 0x61 (aAdopt 0))
          (begun (withC (blkM (grpLost b)) 0x61 (aAdopt 0) (memMap 3)) c0 (critOf (blkM (grpLost b)) 0x61 (aAdopt 0))) = (some l, v)
        ∧ decide (l = [0, 1, 3] ++ List.replicate 13 0) = true
        ∧ ∃ l' w, listChecks {} (critOf (blkM (grpLost b)) 0x61 (aAdopt 0)) (some (0, 2)) v = (.ok l', w)
            ∧ decide (l' = [0, 1, 3] ++ List.replicate 13 0) = true

/-- A list that is read and passes its checks. -/
theorem list_of (x : Option (List Coord) × W) (y : W → Except Outc (List Coord) × W) (l0 : List Coord)
    (h : (match x with | (some l, v) => decide (l = l0) && (match y v with | (.ok l', _) => decide (l' = l0) | _ => false) | _ => false) = true) :
    ∃ l v, x = (some l, v) ∧ decide (l = l0) = true ∧ ∃ l' w, y v = (.ok l', w) ∧ decide (l' = l0) = true := by
  obtain ⟨o, v⟩ := x
  cases o with
  | none => cases h
  | some l =>
    simp only [Bool.and_eq_true] at h
    refine ⟨l, v, rfl, h.1, ?_⟩
    have h2 := h.2
    cases hy : y v with
    | mk e w =>
      rw [hy] at h2
      cases e with
      | error _ => cases h2
      | ok l' => exact ⟨l', w, rfl, h2⟩

/-- A group that adopts nothing; ADOPT about another slot; answers that do not fit, and a second one. -/
theorem wit_AdoptionsElsewhere :
    (groupOf (stGrp grp0) 0).adopting = none
    ∧ (∃ pk w gi g m, formAccepted (openW (stGrp grp0)) (formOf 7 2 0 2 (zeros 80)) 7 = some (pk, w)
        ∧ formFrom w pk = some (gi, g, m) ∧ decide (msgSlot pk ≠ m) = true)
    ∧ (∀ x ∈ [grp0, { grp0 with adopting := some c0, adoptAns := [(1, [])] }],
        ∃ pk w gi g m, formAccepted (openW (stGrp x)) (formOf 8 0 0 0 (zeros 16)) 8 = some (pk, w) ∧ formFrom w pk = some (gi, g, m)
        ∧ decide (g.adopting = none ∨ (∃ a ∈ g.adoptAns, a.1 = m)) = true) := by
  refine ⟨by decide +kernel, form_of _ (fun pk _ _ _ m => decide (msgSlot pk ≠ m)) (by decide +kernel), ?_⟩
  intro x h
  simp only [List.mem_cons, List.not_mem_nil, or_false] at h
  rcases h with rfl | rfl <;>
    exact form_of _ (fun _ _ _ g m => decide (g.adopting = none ∨ (∃ a ∈ g.adoptAns, a.1 = m))) (by decide +kernel)

theorem wit_AdoptionRewritesASlot : (∀ b ∈ [true, false], adoptB b)
    ∧ (Issued (withC (blkM {}) 0x61 (aAdopt 1) (memMap 3)) c0 {} (critOf (blkM {}) 0x61 (aAdopt 1)) 0x61
      ∧ arg (critOf (blkM {}) 0x61 (aAdopt 1)) 0x2D 1 = 1 ∧ adoptFields (critOf (blkM {}) 0x61 (aAdopt 1)) = none
      ∧ ListsReadable (withC (blkM {}) 0x61 (aAdopt 1) (memMap 3)) (critOf (blkM {}) 0x61 (aAdopt 1)) ∧ (groupOf (withC (blkM {}) 0x61 (aAdopt 1) (memMap 3)) 0).state = .free
      ∧ ∃ l w, listChecks {} (critOf (blkM {}) 0x61 (aAdopt 1)) none
          (begun (withC (blkM {}) 0x61 (aAdopt 1) (memMap 3)) c0 (critOf (blkM {}) 0x61 (aAdopt 1))) = (.ok l, w) ∧ true = true)
    ∧ (groupOf (stGrp { grpS .degraded .adopted .alive .alive with adopting := some c0 }) 0).adopting = some c0
    ∧ (∃ pk w gi g m, formAccepted (openW (stGrp (grpS .degraded .alive .adopted .alive))) (formOf 7 1 0 1 (zeros 80)) 7 = some (pk, w)
        ∧ formFrom w pk = some (gi, g, m)
        ∧ decide (msgSlot pk = m ∧ msgCoord pk = pk.hdr.src ∧ (slotAt g m).state = .adopted) = true)
    ∧ (∃ pk w gi g m, formAccepted (openW (stGrp { grpS .degraded .adopted .alive .alive with adopting := some c0 }))
          (formOf 8 0 0 0 (zeros 16)) 8 = some (pk, w) ∧ formFrom w pk = some (gi, g, m)
        ∧ decide (g.adopting.isSome = true ∧ msgSlot pk = g.self ∧ msgCoord pk = w.b.lnk.coord ∧ (∀ a ∈ g.adoptAns, a.1 ≠ m)) = true) := by
  have h1 : critB (blkM {}) 0x61 (aAdopt 1) = true := by decide +kernel
  refine ⟨?_, ⟨issued_crit _ _ _ h1 (by decide +kernel), by decide +kernel, by decide +kernel, by unfold ListsReadable; decide +kernel,
      by decide +kernel, ?_⟩, by decide +kernel,
    form_of _ (fun pk _ _ g m => decide (msgSlot pk = m ∧ msgCoord pk = pk.hdr.src ∧ (slotAt g m).state = .adopted)) (by decide +kernel),
    form_of _ (fun pk w _ g m => decide (g.adopting.isSome = true ∧ msgSlot pk = g.self ∧ msgCoord pk = w.b.lnk.coord
      ∧ (∀ a ∈ g.adoptAns, a.1 ≠ m))) (by decide +kernel)⟩
  · intro b h
    simp only [List.mem_cons, List.not_mem_nil, or_false] at h
    rcases h with rfl | rfl
    · have hc : critB (blkM (grpLost true)) 0x61 (aAdopt 0) = true := by decide +kernel
      refine ⟨issued_crit _ _ _ hc (by decide +kernel), by decide +kernel, by decide +kernel, by decide +kernel, by decide +kernel,
        by unfold ListsReadable; decide +kernel, ?_⟩
      rw [begun_crit _ _ _ hc]
      exact list_of _ _ _ (by decide +kernel)
    · have hc : critB (blkM (grpLost false)) 0x61 (aAdopt 0) = true := by decide +kernel
      refine ⟨issued_crit _ _ _ hc (by decide +kernel), by decide +kernel, by decide +kernel, by decide +kernel, by decide +kernel,
        by unfold ListsReadable; decide +kernel, ?_⟩
      rw [begun_crit _ _ _ hc]
      exact list_of _ _ _ (by decide +kernel)
  · rw [begun_crit _ _ _ h1]
    exact ok_of _ (fun _ _ => true) (by decide +kernel)

/-! ### Witnesses: Relight, Restripe, fetches, scrubs -/

/-- The spare's group with a STAGING region, its coded region unsounded. -/
def grpSpare (st : GrpState) : Group := grpS st .adopted .alive .alive
def blkR (g : Group) : Blk :=
  { blkG with grps := [(0, g)]
              rgns := [(1, { state := .active, base := 0x100000, size := 1, ctx := 1 }),
                (4, { state := .unsounded, base := 0x400000, size := 1, kind := .coded, ctx := 1, grp := some 0, partner := some 5 }),
                (5, { state := .active, base := 0x500000, size := 1, kind := .parity, ctx := 1, grp := some 0, partner := some 4 }),
                (7, { state := .active, base := 0x700000, size := 1, kind := .staging, ctx := 1, grp := some 0 })] }
def aRelight : List (Nat × Nat × Nat) := [(0x10, 1, 0)]
def rl0 : Relight := { cmd := c0, fetchUs := 200, waiting := [] }
/-- A stripe of the Relight answered by members 1 and 2. -/
def opRl (why : FetchFor) (stripe target : Nat) (a b : Nat) : FetchOp :=
  { id := 3, why := why, g := 0, region := 4, stripe := stripe, line := 0, lines := 1, target := target, chosen := [(a, 1), (b, 2)], asked := true
    answers := [{ member := a, role := if (roleOf 3 1 a stripe).1 then 0 else 1, lines := [(0, zeros 64)], seqh := [none] },
                { member := b, role := if (roleOf 3 1 b stripe).1 then 0 else 1, lines := [(0, zeros 64)], seqh := [none] }] }
def stOp (b : Blk) (o : FetchOp) : State := stOf { b with fetches := [o] }
def stRl : State := stOp (blkR { grpSpare .relighting with relight := some { rl0 with regions := [4], next := 2, active := [(4, 1)] }, rlPhase := 3, rlSlot := 0 })
  (opRl (.relight 4 1) 1 0 1 2)
/-- A survivor of a Relight of slot 1. -/
def stSurv (st : GrpState) (r : Nat) : State := stGrp { grpS st .alive .adopted .alive with rlSlot := r }

/-- The first component of a pair that a check holds of. -/
theorem ok1_of {β : Type} (x : Rsp × β) (h : x.1 = .ok) : ∃ w, x = (.ok, w) := ⟨x.2, by rw [← h]⟩

theorem wit_RelightRuns :
    (Issued (withC (blkR (grpSpare .degraded)) 0x62 aRelight) c0 {} (critOf (blkR (grpSpare .degraded)) 0x62 aRelight) 0x62
      ∧ relightCheck (begun (withC (blkR (grpSpare .degraded)) 0x62 aRelight) c0 (critOf (blkR (grpSpare .degraded)) 0x62 aRelight))
          (critOf (blkR (grpSpare .degraded)) 0x62 aRelight) = none)
    ∧ ((groupOf (stGrp { grpSpare .relighting with relight := some rl0, rlPhase := 2 }) 0).relight = some rl0 ∧ rl0.waiting = []
      ∧ (groupOf (stGrp { grpSpare .relighting with relight := some rl0, rlPhase := 2 }) 0).rlPhase = 2)
    ∧ (findOp (openW stRl) 3 = some (opRl (.relight 4 1) 1 0 1 2) ∧ opReady (openW stRl) (opRl (.relight 4 1) 1 0 1 2) = true
      ∧ (roleOf (groupOf stRl 0).n (groupOf stRl 0).m (groupOf stRl 0).self 1).1 = true
      ∧ ∃ w, writeStripe {} (opRl (.relight 4 1) 1 0 1 2) 4 1 (openW stRl) = (.ok, w))
    ∧ (∀ st ∈ [GrpState.broken, .degraded], ∃ pk w gi g m, formAccepted (openW (stSurv st 0)) (formOf 9 1 0 1 []) 9 = some (pk, w)
        ∧ formFrom w pk = some (gi, g, m)
        ∧ decide (msgSlot pk = m ∧ (slotAt g m).state = .adopted ∧ g.state = st ∧ allSettled g = true ∧ w.b.streams = []) = true)
    ∧ (∀ code ∈ [0, 1], ∃ pk w gi g m,
        formAccepted (openW (stGrp { grpSpare .relighting with relight := some { rl0 with waiting := [1] } })) (formOf 10 0 code 0 []) 10
          = some (pk, w) ∧ formFrom w pk = some (gi, g, m)
        ∧ decide (msgSlot pk = g.self ∧ msgCoord pk = w.b.lnk.coord ∧ g.relight = some { rl0 with waiting := [1] } ∧ m = 1
            ∧ fld pk.payload 0xA 1 = code) = true)
    ∧ (∃ pk w gi g m, formAccepted (openW (stSurv .relighting 1)) (formOf 11 1 0 1 (zeros 8)) 11 = some (pk, w)
        ∧ formFrom w pk = some (gi, g, m) ∧ decide (msgSlot pk = m ∧ (slotAt g m).state = .adopted) = true)
    ∧ (∃ pk w gi g m, formAccepted (openW (stSurv .relighting 1)) (formOf 12 1 0 1 []) 12 = some (pk, w)
        ∧ formFrom w pk = some (gi, g, m) ∧ decide (msgSlot pk = m ∧ g.relight = none ∧ g.rlSlot = m) = true) := by
  have h1 : critB (blkR (grpSpare .degraded)) 0x62 aRelight = true := by decide +kernel
  refine ⟨⟨issued_crit _ _ _ h1, ?_⟩, by decide +kernel, ⟨by decide +kernel, by decide +kernel, by decide +kernel, ok1_of _ (by decide +kernel)⟩, ?_, ?_,
    form_of _ (fun pk _ _ g m => decide (msgSlot pk = m ∧ (slotAt g m).state = .adopted)) (by decide +kernel),
    form_of _ (fun pk _ _ g m => decide (msgSlot pk = m ∧ g.relight = none ∧ g.rlSlot = m)) (by decide +kernel)⟩
  · rw [begun_crit _ _ _ h1]; decide +kernel
  · intro st h
    simp only [List.mem_cons, List.not_mem_nil, or_false] at h
    rcases h with rfl | rfl <;>
      exact form_of _ (fun pk w _ g m => decide (msgSlot pk = m ∧ (slotAt g m).state = .adopted ∧ g.state = _ ∧ allSettled g = true
        ∧ w.b.streams = [])) (by decide +kernel)
  · intro code h
    simp only [List.mem_cons, List.not_mem_nil, or_false] at h
    rcases h with rfl | rfl <;>
      exact form_of _ (fun pk w _ g m => decide (msgSlot pk = g.self ∧ msgCoord pk = w.b.lnk.coord
        ∧ g.relight = some { rl0 with waiting := [1] } ∧ m = 1 ∧ fld pk.payload 0xA 1 = _)) (by decide +kernel)

/-- The Relight's stripe behind a port that grants nothing, and one whose answers are not in. -/
def stRlShut : State := stOf { stRl.blk with slices := [(4, { quiesce := true })] }
def stRlOpen : State := stOf { stRl.blk with fetches := [{ opRl (.relight 4 1) 1 0 1 2 with answers := [] }] }
def rlCmd : Relight := { rl0 with waiting := [] }
def stRl1 : State :=
  with1 (blkR { grpSpare .relighting with relight := some rlCmd, rlPhase := 1 }) { cmdOf 0x62 [] with phase := .running }

theorem wit_RelightsElsewhere :
    ((groupOf stRl1 0).relight = some rlCmd ∧ (groupOf stRl1 0).rlPhase = 1 ∧ (findCmd (openW stRl1) rlCmd.cmd).isSome = true
      ∧ rlCmd.fetches = [])
    ∧ (groupOf (stGrp grp0) 0).relight = none
    ∧ (linesFree (openW stRlShut) (roleAddr (groupOf stRlShut 0) (rgnOf stRlShut 4) (partnerOf (openW stRlShut) (rgnOf stRlShut 4))
          (roleOf (groupOf stRlShut 0).n (groupOf stRlShut 0).m (groupOf stRlShut 0).self 1) 1 0) 64 = false
      ∧ opReady (openW stRlShut) (opRl (.relight 4 1) 1 0 1 2) = true)
    ∧ (linesFree (openW stRl) (roleAddr (groupOf stRl 0) (rgnOf stRl 4) (partnerOf (openW stRl) (rgnOf stRl 4))
          (roleOf (groupOf stRl 0).n (groupOf stRl 0).m (groupOf stRl 0).self 1) 1 0) 64 = true
      ∧ (writeStripe { wr := [(0x400400, .error)] } (opRl (.relight 4 1) 1 0 1 2) 4 1 (openW stRl)).1 = .error)
    ∧ (findOp (openW stRlOpen) 3 = some { opRl (.relight 4 1) 1 0 1 2 with answers := [] }
      ∧ opReady (openW stRlOpen) { opRl (.relight 4 1) 1 0 1 2 with answers := [] } = false) := by decide +kernel

/-- RL_BEGIN in other states of the group, and of a member that is not adopted; RL_END and RL_CANCEL of such members; answers nobody waits for. -/
theorem wit_RelightMessagesElsewhere :
    (∀ g ∈ [grpS .relighting .alive .adopted .alive, grpS .restriping .alive .adopted .alive],
        ∃ pk w gi g' m, formAccepted (openW (stGrp g)) (formOf 9 1 0 1 []) 9 = some (pk, w) ∧ formFrom w pk = some (gi, g', m)
        ∧ decide (msgSlot pk = m ∧ (slotAt g' m).state = .adopted ∧ (g'.state = .relighting ∨ g'.state = .restriping)) = true)
    ∧ (∃ pk w gi g m, formAccepted (openW (stGrp (grpS .degraded .alive .adopted .lost))) (formOf 9 1 0 1 []) 9 = some (pk, w)
        ∧ formFrom w pk = some (gi, g, m)
        ∧ decide (msgSlot pk = m ∧ (slotAt g m).state = .adopted ∧ g.state = .degraded ∧ allSettled g = false ∧ w.b.streams = []) = true)
    ∧ (∀ kind ∈ [9, 11], ∃ pk w gi g m, formAccepted (openW (stGrp grp0)) (formOf kind 1 0 1 (zeros 8)) kind = some (pk, w)
        ∧ formFrom w pk = some (gi, g, m) ∧ decide ((slotAt g m).state ≠ .adopted) = true)
    ∧ (∃ pk w gi g m, formAccepted (openW (stSurv .relighting 2)) (formOf 12 1 0 1 []) 12 = some (pk, w)
        ∧ formFrom w pk = some (gi, g, m) ∧ decide (g.rlSlot ≠ m) = true)
    ∧ (∀ code ∈ [0, 1], ∃ pk w gi g m, formAccepted (openW (stGrp grp0)) (formOf 10 0 code 0 []) 10 = some (pk, w)
        ∧ formFrom w pk = some (gi, g, m)
        ∧ decide (msgSlot pk = g.self ∧ msgCoord pk = w.b.lnk.coord ∧ g.relight = none ∧ fld pk.payload 0xA 1 = code) = true)
    ∧ (∃ pk w gi g m, formAccepted (openW (stGrp { grpSpare .relighting with relight := some rl0 })) (formOf 10 0 0 0 []) 10 = some (pk, w)
        ∧ formFrom w pk = some (gi, g, m) ∧ (match g.relight with | some r => decide (m ∉ r.waiting) | none => false) = true) := by
  refine ⟨?_, form_of _ (fun pk w _ g m => decide (msgSlot pk = m ∧ (slotAt g m).state = .adopted ∧ g.state = .degraded
      ∧ allSettled g = false ∧ w.b.streams = [])) (by decide +kernel), ?_,
    form_of _ (fun _ _ _ g m => decide (g.rlSlot ≠ m)) (by decide +kernel), ?_,
    form_of _ (fun _ _ _ g m => match g.relight with | some r => decide (m ∉ r.waiting) | none => false) (by decide +kernel)⟩
  · intro x h
    simp only [List.mem_cons, List.not_mem_nil, or_false] at h
    rcases h with rfl | rfl <;> exact form_of _ (fun pk _ _ g m => decide (msgSlot pk = m ∧ (slotAt g m).state = .adopted
      ∧ (g.state = .relighting ∨ g.state = .restriping))) (by decide +kernel)
  · intro kind h
    simp only [List.mem_cons, List.not_mem_nil, or_false] at h
    rcases h with rfl | rfl <;> exact form_of _ (fun _ _ _ g m => decide ((slotAt g m).state ≠ .adopted)) (by decide +kernel)
  · intro code h
    simp only [List.mem_cons, List.not_mem_nil, or_false] at h
    rcases h with rfl | rfl <;> exact form_of _ (fun pk w _ g _ => decide (msgSlot pk = g.self ∧ msgCoord pk = w.b.lnk.coord
      ∧ g.relight = none ∧ fld pk.payload 0xA 1 = _)) (by decide +kernel)

/-- RESTRIPE of region 4 to PLAIN storage, and the stream it starts. -/
def aRestripe : List (Nat × Nat × Nat) := [(0x10, 2, 4), (0x12, 1, 5), (0x14, 2, 0xFFFF), (0x16, 1, 2)]
def rsStream (begun : Bool) : Stream := { kind := .restripe, region := 4, g := 0, cmd := c0, sepoch := 2, descs := [1, 2], begun := begun }
def stF0 : State := stOf (blkS rgnS)
def stRs (x : Stream) : State := stOf { blkS { rgnS with restripe := some (0, 0, 5, 2) } with streams := [x] }

theorem wit_RestripeRuns :
    (Issued (withC (blkS rgnS) 0x63 aRestripe) c0 {} (critOf (blkS rgnS) 0x63 aRestripe) 0x63
      ∧ restripeCheck (begun (withC (blkS rgnS) 0x63 aRestripe) c0 (critOf (blkS rgnS) 0x63 aRestripe))
          (critOf (blkS rgnS) 0x63 aRestripe) = none)
    ∧ (∃ w, streamStep {} .restripe 4 (openW (stRs (rsStream true))) = (.went, w))
    ∧ (∃ code f w, streamStep { rd := [(0x400000, .error)] } .restripe 4 (openW (stRs (rsStream true))) = (.failed code f, w))
    ∧ findStream (openW (stRs (rsStream true))) .restripe 4 = some (rsStream true)
    ∧ (∀ st ∈ [GrpState.whole, .broken], ∃ pk w gi g m, formAccepted (openW (stGrp (grpS st .alive .alive .alive))) (formOf 13 1 0 1 (zeros 16)) 13
          = some (pk, w) ∧ formFrom w pk = some (gi, g, m)
        ∧ decide (g.state = st ∧ outMembers g = [] ∧ w.b.streams = []) = true)
    ∧ (∀ code ∈ [0, 1], ∃ pk w gi g m, formAccepted (openW (stRs { rsStream false with waiting := [(0, 1)] })) (formOf 14 1 code 1 []) 14
          = some (pk, w) ∧ formFrom w pk = some (gi, g, m)
        ∧ decide (w.b.streams.find? (fun x => x.kind == .restripe && x.waiting.contains (gi, m)) = some { rsStream false with waiting := [(0, 1)] }
            ∧ fld pk.payload 0xA 1 = code) = true) := by
  have h1 : critB (blkS rgnS) 0x63 aRestripe = true := by decide +kernel
  refine ⟨⟨issued_crit _ _ _ h1, ?_⟩, fst_of _ _ (by decide +kernel), ⟨.error, 0, fst_of _ _ (by decide +kernel)⟩, by decide +kernel, ?_, ?_⟩
  · rw [begun_crit _ _ _ h1]; decide +kernel
  · intro st h
    simp only [List.mem_cons, List.not_mem_nil, or_false] at h
    rcases h with rfl | rfl <;>
      exact form_of _ (fun pk w _ g m => decide (g.state = _ ∧ outMembers g = [] ∧ w.b.streams = [])) (by decide +kernel)
  · intro code h
    simp only [List.mem_cons, List.not_mem_nil, or_false] at h
    rcases h with rfl | rfl <;>
      exact form_of _ (fun pk w gi g m => decide (w.b.streams.find? (fun x => x.kind == .restripe && x.waiting.contains (gi, m))
        = some { rsStream false with waiting := [(0, 1)] } ∧ fld pk.payload 0xA 1 = _)) (by decide +kernel)

/-- A RESTRIPE that runs; no Restripe; RS_BEGIN in other states; an RS_ANSWER nobody waits for. -/
def kRs : Cmd := { cmdOf 0x63 aRestripe with phase := .running }
theorem wit_RestripesElsewhere :
    (Runs (with1 (blkS rgnS) kRs) c0 kRs ∧ opOf kRs = 0x63) ∧ findStream (openW stF0) .restripe 4 = none
    ∧ (∃ w, streamStep {} .restripe 4 (openW stF0) = (.waits, w))
    ∧ (∀ st ∈ [GrpState.relighting, .forming], ∃ pk w gi g m, formAccepted (openW (stGrp (grpS st .alive .alive .alive))) (formOf 13 1 0 1 (zeros 16)) 13
          = some (pk, w) ∧ formFrom w pk = some (gi, g, m) ∧ decide (g.state = .relighting ∨ g.state = .forming) = true)
    ∧ (∃ pk w gi g m, formAccepted (openW (stGrp (grpS .degraded .alive .alive .lost))) (formOf 13 1 0 1 (zeros 16)) 13 = some (pk, w)
        ∧ formFrom w pk = some (gi, g, m)
        ∧ decide (g.state ∈ [GrpState.whole, .degraded, .restriping] ∧ outMembers g ≠ [] ∧ w.b.streams = []) = true)
    ∧ (∃ pk w gi g m, formAccepted (openW (stGrp grp0)) (formOf 14 1 0 1 []) 14 = some (pk, w) ∧ formFrom w pk = some (gi, g, m)
        ∧ (w.b.streams.find? (fun x => x.kind == .restripe && x.waiting.contains (gi, m))).isNone = true) := by
  refine ⟨⟨⟨by decide +kernel, by decide, by decide +kernel, rfl, rfl⟩, by decide +kernel⟩, by decide +kernel, fst_of _ _ (by decide +kernel), ?_,
    form_of _ (fun _ w _ g _ => decide (g.state ∈ [GrpState.whole, .degraded, .restriping] ∧ outMembers g ≠ [] ∧ w.b.streams = []))
      (by decide +kernel),
    form_of _ (fun _ w gi _ m => (w.b.streams.find? (fun x => x.kind == .restripe && x.waiting.contains (gi, m))).isNone) (by decide +kernel)⟩
  intro st h
  simp only [List.mem_cons, List.not_mem_nil, or_false] at h
  rcases h with rfl | rfl <;>
    exact form_of _ (fun _ _ _ g _ => decide (g.state = .relighting ∨ g.state = .forming)) (by decide +kernel)

/-- A FETCH of member 1: kind, role, region epoch, flags, lines, address. -/
def rxFetch (kind role sepoch addr : Nat) : Rx :=
  rxOf 4 0x40 (fill 128 [(0, 8, 66), (8, 1, kind), (9, 1, role), (0xA, 1, sepoch), (0xC, 4, 1), (0x10, 6, addr)])
def stF : State := stOf (blkS rgnS)
/-- What an accepted FETCH of lines names: a region that is served, or is not. -/
def fetchB (kind role : Nat) (served : Bool) (pk : Packet) (w : W) : Bool :=
  match senderOf w pk.hdr with
  | none => false
  | some (gi, g, m) =>
    decide (fld pk.payload 8 1 = kind ∧ fld pk.payload 9 1 = role ∧ bit (fld pk.payload 0xB 1) 0 = false)
      && (match fetchTarget w gi (fld pk.payload 9 1) (fld pk.payload 0x10 6) (fld pk.payload 0xC 4) with
          | none => false
          | some (ri, v) => decide (fetchServed w ri v (fld pk.payload 0xA 1) = served)
              && (role == 0 || !served || (answerHolder {} g m v pk.payload w).1))

theorem wit_FetchesAreServed :
    (∀ kind ∈ [0, 1, 2], ∀ role ∈ [0, 1], ∀ served ∈ [false, true], ∃ pk w,
      accepted (openW stF) (rxFetch kind role (b2n (!served)) (if role = 0 then 0x400000 else 0x500000)) 0x40
        (fun p => fld p 8 1 == kind || (kind == 0 && decide (6 < fld p 8 1))) = some (pk, w) ∧ fetchB kind role served pk w = true)
    ∧ (∀ kind ∈ [3, 4, 5, 6], ∃ pk w, accepted (openW stF) (rxFetch kind 0 0 0x400000) 0x40 (fun p => fld p 8 1 == kind) = some (pk, w)
        ∧ (senderOf w pk.hdr).isSome = true)
    ∧ (∀ status ∈ [0, 2], ∃ pk w, accepted (openW (stOp (blkS rgnS) { opRl (.rebuild) 0 2 1 2 with answers := [] }))
          (rxOf 5 0x50 (fill 128 [(0, 8, 1), (8, 1, status), (0xC, 2, 1)])) 0x50 (fun _ => true) = some (pk, w)
        ∧ decide ((w.b.fetches.find? (fun o => o.g == 0 && o.chosen.contains (1, fld pk.payload 0 8))).isSome = true
            ∧ fld pk.payload 8 1 = status) = true) := by
  refine ⟨?_, ?_, ?_⟩
  · intro kind h role hr served hs
    simp only [List.mem_cons, List.not_mem_nil, or_false] at h hr hs
    rcases h with rfl | rfl | rfl <;> rcases hr with rfl | rfl <;> rcases hs with rfl | rfl <;>
      exact pair_of _ (fetchB _ _ _) (by decide +kernel)
  · intro kind h
    simp only [List.mem_cons, List.not_mem_nil, or_false] at h
    rcases h with rfl | rfl | rfl | rfl <;> exact pair_of _ (fun pk w => (senderOf w pk.hdr).isSome) (by decide +kernel)
  · intro status h
    simp only [List.mem_cons, List.not_mem_nil, or_false] at h
    rcases h with rfl | rfl <;>
      exact pair_of _ (fun pk w => decide ((w.b.fetches.find? (fun o => o.g == 0 && o.chosen.contains (1, fld pk.payload 0 8))).isSome = true
        ∧ fld pk.payload 8 1 = _)) (by decide +kernel)

/-- A FETCH of settled lines that a unit has touched, of lines of no region, and of a reserved kind; a FETCH_RSP nobody asked for. -/
def stTouched : State := stOf { blkS rgnS with units := [{ unit1 with lines := 1, kind := 2 }] }
def rxSettled : Rx := rxOf 4 0x40 (fill 128 [(0, 8, 66), (0xB, 1, 1), (0xC, 4, 1), (0x10, 6, 0x400000)])
theorem wit_FetchesElsewhere :
    (∃ pk w, accepted (openW stTouched) rxSettled 0x40 (fun p => fld p 8 1 == 0 || (0 == 0 && decide (6 < fld p 8 1))) = some (pk, w)
        ∧ (match senderOf w pk.hdr with
          | none => false
          | some (gi, _, _) => (match fetchTarget w gi (fld pk.payload 9 1) (fld pk.payload 0x10 6) (fld pk.payload 0xC 4) with
              | none => false
              | some (ri, v) => fetchServed w ri v (fld pk.payload 0xA 1)
                  && !unitsDone w (unitsTouching w gi ri (fld pk.payload 0x10 6 - v.base) (64 * fld pk.payload 0xC 4)))) = true)
    ∧ (∃ pk w, accepted (openW stF) (rxFetch 0 0 0 0xF00000) 0x40 (fun p => fld p 8 1 == 0 || (0 == 0 && decide (6 < fld p 8 1))) = some (pk, w)
        ∧ (match senderOf w pk.hdr with
          | none => false
          | some (gi, _, _) => (fetchTarget w gi (fld pk.payload 9 1) (fld pk.payload 0x10 6) (fld pk.payload 0xC 4)).isNone) = true)
    ∧ (∃ pk w, accepted (openW stF) (rxFetch 7 0 0 0x400000) 0x40 (fun p => fld p 8 1 == 0 || (0 == 0 && decide (6 < fld p 8 1))) = some (pk, w)
        ∧ ((senderOf w pk.hdr).isSome && decide (6 < fld pk.payload 8 1)) = true)
    ∧ (∃ pk w, accepted (openW stF) (rxOf 5 0x50 (fill 128 [(0, 8, 1), (0xC, 2, 1)])) 0x50 (fun _ => true) = some (pk, w)
        ∧ ((senderOf w pk.hdr).isSome && (w.b.fetches.find? (fun o => o.g == 0 && o.chosen.contains (1, fld pk.payload 0 8))).isNone) = true) :=
  ⟨pair_of _ (fun pk w => match senderOf w pk.hdr with
      | none => false
      | some (gi, _, _) => (match fetchTarget w gi (fld pk.payload 9 1) (fld pk.payload 0x10 6) (fld pk.payload 0xC 4) with
          | none => false
          | some (ri, v) => fetchServed w ri v (fld pk.payload 0xA 1)
              && !unitsDone w (unitsTouching w gi ri (fld pk.payload 0x10 6 - v.base) (64 * fld pk.payload 0xC 4)))) (by decide +kernel),
    pair_of _ (fun pk w => match senderOf w pk.hdr with
      | none => false
      | some (gi, _, _) => (fetchTarget w gi (fld pk.payload 9 1) (fld pk.payload 0x10 6) (fld pk.payload 0xC 4)).isNone) (by decide +kernel),
    pair_of _ (fun pk w => (senderOf w pk.hdr).isSome && decide (6 < fld pk.payload 8 1)) (by decide +kernel),
    pair_of _ (fun pk w => (senderOf w pk.hdr).isSome
      && (w.b.fetches.find? (fun o => o.g == 0 && o.chosen.contains (1, fld pk.payload 0 8))).isNone) (by decide +kernel)⟩

/-- A DEGRADED_READ of the region's first line. -/
def kDeg : Cmd := cmdOf 0x64 [(0x10, 2, 4), (0x12, 1, 0), (0x20, 8, 64), (0x28, 8, 0x100000)]
/-- A sweep's degraded read of region 4's first line, which is data of stripe 2. -/
def opSw : FetchOp := opRl (.sweep 4) 2 0 1 2
def stSw : State := stOp (blkS { rgnS with sweeping := true }) opSw

theorem wit_DegradedReadsComplete :
    (Issued (with1 (blkS rgnS) kDeg) c0 {} kDeg 0x64
      ∧ degradedCheck (begun (with1 (blkS rgnS) kDeg) c0 kDeg) kDeg = none
      ∧ kDeg.prog = 0 ∧ kDeg.patch = [] ∧ 64 ≤ arg kDeg 0x20 8
      ∧ ∃ id w, startFetch (.cmd kDeg.id) 0 4 (stripeOf grp0 rgnS 0 0).1 0 1 0 (begun (with1 (blkS rgnS) kDeg) c0 kDeg) = (some id, w))
    ∧ (Calm stSw {} ∧ findOp (openW stSw) 3 = some opSw ∧ opSw.why = .sweep 4 ∧ opReady (openW stSw) opSw = true
      ∧ (∀ x ∈ opSw.chosen, x.1 ≠ (groupOf stSw 0).self) ∧ opSw.target = (groupOf stSw 0).self ∧ opAddr (openW stSw) opSw = 0x400000
      ∧ (∃ d, decodedLine (openW stSw) opSw 0 = some d ∧ d.length = 64) ∧ (rgnOf stSw 4).sweeping = true
      ∧ (rgnOf stSw 4).base + (rgnOf stSw 4).front = 0x400000 ∧ stSw.blk.fetches = [opSw]
      ∧ portsReady (openW stSw) 0x400000 64 = true ∧ (∀ e ∈ stSw.blk.slices, e.2.haz = [] ∧ e.2.need = [] ∧ e.2.chan = []))
    ∧ ((opSw.chosen.any (fun c => c.1 == 1)) = true ∧ answered { opSw with answers := [] } 1 = false)
    ∧ (let x : FetchOp := { opRl .rebuild 0 0 1 2 with chosen := [], waiting := true }
       (stOp { blkS rgnS with glb := { blk0.glb with stfail1 := 0xFF0000000000 } } x).blk.fetches = [x] ∧ x.id = 3 ∧ x.waiting = true
       ∧ engineCount (openW (stOp { blkS rgnS with glb := { blk0.glb with stfail1 := 0xFF0000000000 } } x)) = 0) := by
  refine ⟨⟨issued_of _ _ _ _ _ (by decide +kernel), by decide +kernel, rfl, rfl, by decide +kernel, ⟨0, fst_of _ _ (by decide +kernel)⟩⟩,
    ⟨⟨rfl, rfl, rfl, rfl⟩, by decide +kernel, rfl, by decide +kernel, by decide +kernel, by decide +kernel, by decide +kernel,
      ⟨zeros 64, by decide +kernel⟩, by decide +kernel⟩, by decide +kernel, by decide +kernel⟩

/-- A DEGRADED_READ that runs, and one with too few members left. -/
def kDegR : Cmd := { kDeg with phase := .running }
def blkFew : Blk := { blkS rgnS with grps := [(0, grpS .broken .alive .lost .lost)] }
/-- A line for a coded write, for a host, and one whose own read is answered ERROR. -/
def opJob : FetchOp := opRl (.job 0 5) 2 0 1 2
def opHost : FetchOp := opRl (.host 0 7) 2 0 1 2
def opOwn : FetchOp := opRl (.sweep 4) 1 2 0 1
def stShutOp (o : FetchOp) : State := stOf { stSw.blk with fetches := [o], slices := [(0, { noClock := true }), (4, { noClock := true })] }

theorem own_of (x : Option (Rsp × FetchOp × W)) (f : Rsp → FetchOp → W → Bool)
    (h : (match x with | some (c, y, w) => f c y w | none => false) = true) : ∃ c y w, x = some (c, y, w) ∧ f c y w = true := by
  cases x with
  | none => cases h
  | some z => exact ⟨z.1, z.2.1, z.2.2, rfl, h⟩

theorem wit_DegradedReadsElsewhere :
    (Runs (with1 (blkS rgnS) kDegR) c0 kDegR ∧ opOf kDegR = 0x64)
    ∧ (degradedCheck (begun (with1 blkFew kDeg) c0 kDeg) kDeg = none
      ∧ ∃ w, startFetch (.cmd kDeg.id) 0 4 (stripeOf grp0 rgnS 0 0).1 0 1 0 (begun (with1 blkFew kDeg) c0 kDeg) = (none, w))
    ∧ (∀ o ∈ [opJob, opHost], findOp (openW (stOp (blkS rgnS) o)) 3 = some o ∧ enginePrio o.why = 0
        ∧ opReady (openW (stOp (blkS rgnS) o)) o = true ∧ portsReady (openW (stOp (blkS rgnS) o)) (opAddr (openW (stOp (blkS rgnS) o)) o) 64 = true
        ∧ ∃ c x w, ownAnswer {} o (openW (stOp (blkS rgnS) o)) = some (c, x, w)
            ∧ decide (c = .ok ∧ x.why = o.why ∧ x.target = (groupOf (stOp (blkS rgnS) o) 0).self ∧ (decodedLine w x 0).isSome = true) = true)
    ∧ (opReady (openW (stOp (blkS rgnS) opOwn)) opOwn = true
        ∧ portsReady (openW (stOp (blkS rgnS) opOwn)) (opAddr (openW (stOp (blkS rgnS) opOwn)) opOwn) 64 = true
        ∧ ∃ c x w, ownAnswer { rd := [(0x400400, .error)] } opOwn (openW (stOp (blkS rgnS) opOwn)) = some (c, x, w)
            ∧ decide (c = .error ∧ (decodedLine w x 0).isSome = true) = true)
    ∧ (portsReady (openW (stShutOp opSw)) (opAddr (openW (stShutOp opSw)) opSw) 64 = false
        ∧ (ownAnswer {} opOwn (openW (stShutOp opOwn))).isNone = true ∧ answered opSw 1 = true
        ∧ (opSw.chosen.any (fun c => c.1 == 0)) = false ∧ opSw.waiting = false) := by
  refine ⟨⟨⟨by decide +kernel, by decide, by decide +kernel, rfl, rfl⟩, by decide +kernel⟩, ⟨by decide +kernel, fst_of _ _ (by decide +kernel)⟩, ?_,
    ⟨by decide +kernel, by decide +kernel, own_of _ (fun c x w => decide (c = .error ∧ (decodedLine w x 0).isSome = true)) (by decide +kernel)⟩,
    by decide +kernel⟩
  intro o h
  simp only [List.mem_cons, List.not_mem_nil, or_false] at h
  rcases h with rfl | rfl <;> exact ⟨by decide +kernel, by decide +kernel, by decide +kernel, by decide +kernel,
    own_of _ (fun c x w => decide (c = .ok ∧ x.why = _ ∧ x.target = _ ∧ (decodedLine w x 0).isSome = true)) (by decide +kernel)⟩

/-- A rebuild of the parity line that this member holds in stripe 0, and a scrub of it, answered by the data members. -/
def opPar (why : FetchFor) : FetchOp := opRl why 0 0 1 2
def stPar (b : Byte) (why : FetchFor) : State :=
  { stOp { blkS { rgnS with scrub := some 0 } with grps := [(0, { grp0 with unknown := [0x500000] })] } (opPar why) with
    mem := if b = 0 then [] else (List.range 64).map (fun i => (0x500000 + i, b)) }

theorem wit_ParityIsRebuiltAndScrubbed :
    (Calm (stPar 0 .rebuild) {} ∧ findOp (openW (stPar 0 .rebuild)) 3 = some (opPar .rebuild)
      ∧ opReady (openW (stPar 0 .rebuild)) (opPar .rebuild) = true ∧ heldUpTo (openW (stPar 0 .rebuild)) (opPar .rebuild) grp0 0 = true
      ∧ (rebuiltLine (openW (stPar 0 .rebuild)) (opPar .rebuild) 0).1 = 0x500000
      ∧ linesFree (openW (stPar 0 .rebuild)) 0x500000 64 = true
      ∧ (writeLine (holderAcc { wr := [(0x500000, .error)] } 1) 0x500000 (zeros 64) (openW (stPar 0 .rebuild))).1 = .error
      ∧ opReady (openW (stPar 0 .rebuild)) { opPar .rebuild with answers := [] } = false ∧ (opPar .rebuild).lines = 1
      ∧ (rgnOf (stPar 0 .rebuild) 4).scrub.isSome = true
      ∧ scrubbable (openW (stOf blkG)) 4 = false ∧ (rgnOf (stOf blkG) 4).scrub = none)
    ∧ (scrubbable (openW (stOf (blkS rgnS))) 4 = true ∧ (rgnOf (stOf (blkS rgnS)) 4).scrub = none)
    ∧ (∀ x ∈ [((0 : Byte), 0), (14, 1)], findOp (openW (stPar x.1 (.scrub 4))) 3 = some (opPar (.scrub 4))
        ∧ opReady (openW (stPar x.1 (.scrub 4))) (opPar (.scrub 4)) = true
        ∧ linesFree (openW (stPar x.1 (.scrub 4))) (opAddr (openW (stPar x.1 (.scrub 4))) (opPar (.scrub 4))) 64 = true
        ∧ ∃ w, scrubLines {} (opPar (.scrub 4)) 1 (openW (stPar x.1 (.scrub 4))) = (x.2, .ok, w)) := by
  refine ⟨⟨⟨rfl, rfl, rfl, rfl⟩, by decide +kernel⟩, by decide +kernel, ?_⟩
  have h : ∀ (x : Nat × Rsp × W) (n : Nat), x.1 = n → x.2.1 = .ok → ∃ w, x = (n, .ok, w) := fun x n h1 h2 => ⟨x.2.2, by rw [← h1, ← h2]⟩
  intro x hx
  simp only [List.mem_cons, List.not_mem_nil, or_false] at hx
  rcases hx with rfl | rfl <;> exact ⟨by decide +kernel, by decide +kernel, by decide +kernel,
    h _ _ (by decide +kernel) (by decide +kernel)⟩

/-! ### Witnesses: state engines -/

/-- Kernel slot 0: streams COD of region 4, DOUT and DIN scalars of region 3, OUT of region 2; slot 1: one IN stream of region 4.
Scratch lies at 256 KiB. -/
def slots : Tbl KSlot :=
  [(0, { ninstr := 3, nstream := 4, scrBase := 0x400, scrSize := 4, streams := [(2, 0, 0), (5, 0, 0), (6, 0, 0), (3, 0, 0)] }),
   (1, { ninstr := 1, base := 3, nstream := 1, streams := [(1, 0, 0)] })]
def run0 : Run := { cmd := c0, ctx := 1, part := 0, slot := 0, regions := [4, 3, 3, 2], first := 0, count := 1, next := 1, taken := []
                    ordinal := 0, watch := 0, params := zeros 64, resume := false, order := 0, live := [0] }
def se0 (st : SeState) : Se := { state := st, ctx := 1, run := some c0, n := 4096, nextLoad := 32, sliceOut := false }
def blkE (se : Se) (words : List Nat) : Blk :=
  { blkS { rgnS with elem := 2 } with
    eng := { ses := [(0, se)], kslots := slots, runs := [run0], kstore := (List.range words.length).zip (words.map (BitVec.ofNat 64)) } }
/-- SE 0 at an instruction: opcode, fields D A B C MOD as bits 55 to 32, immediate. -/
def insW (op mid imm : Nat) : Nat := op * 2 ^ 56 + mid * 2 ^ 32 + imm
def stK (se : Se) (op imm : Nat) (mid : Nat := 0) : State := stOf (blkE se [insW op mid imm])
def insK (op imm : Nat) (mid : Nat := 0) : Ins := insOf (insW op mid imm)

theorem wit_ScalarAndControlInstructions :
    (∀ op ∈ [0x01, 0x02, 0x03, 0x04, 0x05, 0x06, 0x07, 0x08, 0x09, 0x0A, 0x0B, 0x0C, 0x0D, 0x10, 0x11, 0x12, 0x13, 0x7E],
      At (stK (se0 .running) op 2) 0 op run0 (se0 .running) (insK op 2))
    ∧ (insK 0x10 2).imm % 4096 < (tget (stK (se0 .running) 0x10 2).blk.eng.kslots (se0 .running).slot {}).ninstr := by
  simp only [At]; decide +kernel

theorem wit_VectorInstructions :
    (∀ op ∈ [0x20, 0x21, 0x22, 0x23, 0x24, 0x25, 0x28, 0x29, 0x2A, 0x2B, 0x2C, 0x30, 0x31, 0x32, 0x33, 0x34, 0x35, 0x36, 0x37, 0x38, 0x39,
        0x3A, 0x3B, 0x51], At (stK (se0 .commit) op 0) 0 op run0 (se0 .commit) (insK op 0) ∧ Sound (stK (se0 .commit) op 0) 0) := by
  simp only [At, Sound]; decide +kernel

/-- The same with an element operand in s1 and an address in s2. -/
def seL (v : Word) : Se := { se0 .running with sregs := [(1, v)] }
/-- D, A, B, C, MOD with B = s1 and A = s1. -/
def midB : Nat := 1 * 2 ^ 9
def midA : Nat := 1 * 2 ^ 14

theorem wit_LocalStoreInstructions :
    (At (stK (seL 128) 0x40 0 midB) 0 0x40 run0 (seL 128) (insK 0x40 0 midB) ∧ elemOk (seL 128) (sreg (seL 128) (insK 0x40 0 midB).b) = true
      ∧ stripLoaded (openW (stK (seL 128) 0x40 0 midB)) run0 (seL 128) ((sreg (seL 128) (insK 0x40 0 midB).b).toNat / 128) = true
      ∧ streamNo (openW (stK (seL 128) 0x40 0 midB)) run0 0 = some (0, 2, 0, 0, 4))
    ∧ (∀ v ∈ [127, 4096], At (stK (seL (BitVec.ofNat 64 v)) 0x40 0 midB) 0 0x40 run0 (seL (BitVec.ofNat 64 v)) (insK 0x40 0 midB)
        ∧ elemOk (seL (BitVec.ofNat 64 v)) (sreg (seL (BitVec.ofNat 64 v)) (insK 0x40 0 midB).b) = false)
    ∧ (∀ op ∈ [0x41, 0x42], At (stK (seL 0x40000) op 0x200 midB) 0 op run0 (seL 0x40000) (insK op 0x200 midB)
        ∧ (sreg (seL 0x40000) (insK op 0x200 midB).b + BitVec.ofNat 64 (insK op 0x200 midB).imm).toNat = 0x40200
        ∧ lsOk (openW (stK (seL 0x40000) op 0x200 midB)) run0 0x40200 (op == 0x42) = true
        ∧ lsLoaded (openW (stK (seL 0x40000) op 0x200 midB)) run0 (seL 0x40000) 0x40200 = true
        ∧ (vreg (seL 0x40000) (insK op 0x200 midB).a).length = 128
        ∧ lsOk (openW (stK (seL 0x40000) op 0x200 midB)) run0 0x40201 (op == 0x42) = false
        ∧ lsOk (openW (stK (seL 0x40000) op 0x200 midB)) run0 0x40240 (op == 0x42) = false)
    ∧ (At (stK (seL 3968) 0x43 0 midA) 0 0x43 run0 (seL 3968) (insK 0x43 0 midA) ∧ elemOk (seL 3968) (sreg (seL 3968) (insK 0x43 0 midA).a) = true
      ∧ stripLoaded (openW (stK (seL 3968) 0x43 0 midA)) run0 (seL 3968) ((sreg (seL 3968) (insK 0x43 0 midA).a).toNat / 128) = true) := by
  simp only [At]
  exact ⟨by decide +kernel, by decide +kernel, by decide +kernel, by decide +kernel⟩

/-- The same with its first strip not yet loaded. -/
def seU (v : Word) : Se := { seL v with nextLoad := 0 }
theorem wit_LoadsAwaited :
    (At (stK (seU 0) 0x40 0 midB) 0 0x40 run0 (seU 0) (insK 0x40 0 midB) ∧ elemOk (seU 0) 0 = true
      ∧ stripLoaded (openW (stK (seU 0) 0x40 0 midB)) run0 (seU 0) 0 = false)
    ∧ (At (stK (seU 0) 0x43 0 midA) 0 0x43 run0 (seU 0) (insK 0x43 0 midA)
      ∧ stripLoaded (openW (stK (seU 0) 0x43 0 midA)) run0 (seU 0) 0 = false)
    ∧ (At (stK (seL 127) 0x43 0 midA) 0 0x43 run0 (seL 127) (insK 0x43 0 midA) ∧ elemOk (seL 127) (sreg (seL 127) (insK 0x43 0 midA).a) = false)
    ∧ (At (stK (seU 0) 0x41 0 midB) 0 0x41 run0 (seU 0) (insK 0x41 0 midB) ∧ lsOk (openW (stK (seU 0) 0x41 0 midB)) run0 0 false = true
      ∧ lsLoaded (openW (stK (seU 0) 0x41 0 midB)) run0 (seU 0) 0 = false) := by
  simp only [At]
  exact ⟨by decide +kernel, by decide +kernel, by decide +kernel, by decide +kernel⟩

/-- An SE at the last instruction of its kernel, and at a branch beyond it; branches both ways. -/
def seEnd (st : SeState) : Se := { se0 st with pc := 2 }
def stEnd : State := stOf (blkE (seEnd .running) [0, 0, insW 0x7E 0 0])
theorem wit_KernelsEnd :
    (Stands stEnd 0 0x7E run0 (seEnd .running) (insK 0x7E 0)
      ∧ (tget stEnd.blk.eng.kslots (seEnd .running).slot {}).ninstr ≤ (seEnd .running).pc + 1)
    ∧ (Stands (stK (se0 .running) 0x10 3) 0 0x10 run0 (se0 .running) (insK 0x10 3)
      ∧ (tget (stK (se0 .running) 0x10 3).blk.eng.kslots (se0 .running).slot {}).ninstr ≤ (insK 0x10 3).imm % 4096) := by
  simp only [Stands]; decide +kernel

/-- What DADD and LDDS of element 0 of region 3 do to memory, answer by answer. -/
def daddCodes (env : Env) (w : W) (e : Se) : Rsp × Rsp × Rsp × Rsp :=
  let g := getRgn w 3
  let a := readTile env g 0 0 w
  let b := readBytes (auAcc env g.ctx) (elemAt g 0 0) (esOf g) a.2.2
  let n := daddTile g e e.chunk 0 a.2.1
  let c := writePart (auAcc env g.ctx) (elemAt g 0 0) (storeInt g ((((loadInt g b.2.1 : Nat) : Int) + n.2) % (2 ^ datumBits g : Nat)).toNat) b.2.2
  let d := writeTile env 3 0 0 a.2.1 n.1 c.2
  (a.1, b.1, c.1, d.1)
def daddB (w : W) (e : Se) : Bool := decide (daddCodes {} w e = (.ok, .ok, .ok, .ok))
def lddsCodes (env : Env) (w : W) : Rsp × Rsp :=
  let a := readTileAs (seAcc env 1) (getRgn w 3) 0 0 w
  (a.1, (readBytes (seAcc env 1) (elemAt (getRgn w 3) 0 0) (esOf (getRgn w 3)) a.2.2).1)
def lddsB (w : W) : Bool := decide (lddsCodes {} w = (.ok, .ok))
/-- The same state while a host's write of a line is under way. -/
def busyAt (line : Nat) (s : State) : State :=
  stOf { s.blk with slices := [(portOf {} line, { haz := [{ line := line, q := [{ job := .fwd 7, write := true, started := true }] }] })] }
/-- A kernel without a COD stream. -/
def stNoCod : State := stOf { blkE (se0 .running) [insW 0x48 0 0] with eng :=
  { (blkE (se0 .running) [insW 0x48 0 0]).eng with kslots := [(0, { ninstr := 3, nstream := 1, streams := [(1, 0, 0)] })] } }

theorem wit_CommitInstructions :
    (∀ op ∈ [0x48, 0x49, 0x4A, 0x4B, 0x44], ∀ st ∈ [SeState.running, .commit],
      At (stK (se0 st) op 0) 0 op run0 (se0 st) (insK op 0) ∧ (se0 st).state = st)
    ∧ (elemOk (seL 127) (sreg (seL 127) (insK 0x49 0 midB).b) = false
      ∧ At (stK { seL 127 with state := .commit } 0x49 0 midB) 0 0x49 run0 { seL 127 with state := .commit } (insK 0x49 0 midB)
      ∧ At (stK { seL 127 with state := .commit } 0x4A 3 midB) 0 0x4A run0 { seL 127 with state := .commit } (insK 0x4A 3 midB)
      ∧ At (stK { seU 0 with state := .commit } 0x49 0 midB) 0 0x49 run0 { seU 0 with state := .commit } (insK 0x49 0 midB)
      ∧ stripLoaded (openW (stK { seU 0 with state := .commit } 0x49 0 midB)) run0 { seU 0 with state := .commit } 0 = false
      ∧ storeReady (openW (busyAt 0x400000 (stK (se0 .commit) 0x49 0))) 0x400000 512 true = false
      ∧ stripAt (openW (busyAt 0x400000 (stK (se0 .commit) 0x49 0))) run0 (se0 .commit) (rgnOf (stK (se0 .commit) 0x49 0) 4) 0 = 0x400000)
    ∧ (auBusy (openW (stK (se0 .commit) 0x4B 1)) 3 = false
      ∧ linesFree (openW (stK (se0 .commit) 0x4B 1)) (stateAt (rgnOf (stK (se0 .commit) 0x4B 1) 3) 0 0) 64 = true
      ∧ linesFree (openW (busyAt (stateAt (rgnOf (stK (se0 .commit) 0x4B 1) 3) 0 0) (stK (se0 .commit) 0x4B 1)))
          (stateAt (rgnOf (stK (se0 .commit) 0x4B 1) 3) 0 0) 64 = false
      ∧ linesFree (openW (busyAt 0x300000 (stK (se0 .commit) 0x4B 1))) 0x300000 64 = false
      ∧ lineOf (elemAt (rgnOf (stK (se0 .commit) 0x4B 1) 3) 0 0) = 0x300000
      ∧ daddCodes { rd := [(0x300000, .error)] } (openW (stK (se0 .commit) 0x4B 1)) (se0 .commit) = (.ok, .error, .ok, .ok)
      ∧ daddCodes { wr := [(0x300000, .error)] } (openW (stK (se0 .commit) 0x4B 1)) (se0 .commit) = (.ok, .ok, .error, .ok)
      ∧ daddCodes { wr := [(stateAt (rgnOf (stK (se0 .commit) 0x4B 1) 3) 0 0, .error)] } (openW (stK (se0 .commit) 0x4B 1)) (se0 .commit)
          = (.ok, .ok, .ok, .error))
    ∧ (linesReadable (openW (stK (se0 .running) 0x44 2)) (stateAt (rgnOf (stK (se0 .running) 0x44 2) 3) 0 0) 64 = true
      ∧ linesReadable (openW (stK (se0 .running) 0x44 2)) 0x300000 64 = true
      ∧ linesReadable (openW (busyAt 0x300000 (stK (se0 .running) 0x44 2))) 0x300000 64 = false
      ∧ linesReadable (openW (busyAt (stateAt (rgnOf (stK (se0 .running) 0x44 2) 3) 0 0) (stK (se0 .running) 0x44 2)))
          (stateAt (rgnOf (stK (se0 .running) 0x44 2) 3) 0 0) 64 = false
      ∧ lddsCodes { rd := [(0x300000, .denied)] } (openW (stK (se0 .running) 0x44 2)) = (.ok, .denied))
    ∧ (elemsOf (rgnOf (stK (se0 .running) 0x44 2) 3) ≤ 65536 ∧ Stands (stK { se0 .running with residue := true } 0x4C 0) 0 0x4C run0
        { se0 .running with residue := true } (insK 0x4C 0))
    ∧ (At stNoCod 0 0x48 run0 (se0 .running) (insK 0x48 0) ∧ codStreams (openW stNoCod) run0 = [])
    ∧ (elemOk (se0 .commit) (sreg (se0 .commit) 0) = true ∧ streamNo (openW (stK (se0 .commit) 0x49 0)) run0 0 = some (0, 2, 0, 0, 4)
      ∧ stripLoaded (openW (stK (se0 .commit) 0x49 0)) run0 (se0 .commit) 0 = true
      ∧ storeReady (openW (stK (se0 .commit) 0x49 0))
          (stripAt (openW (stK (se0 .commit) 0x49 0)) run0 (se0 .commit) (rgnOf (stK (se0 .commit) 0x49 0) 4) 0) 512 true = true)
    ∧ (streamNo (openW (stK (se0 .commit) 0x4A 3)) run0 3 = some (3, 3, 0, 0, 2)
      ∧ storeReady (openW (stK (se0 .commit) 0x4A 3))
          (stripAt (openW (stK (se0 .commit) 0x4A 3)) run0 (se0 .commit) (rgnOf (stK (se0 .commit) 0x4A 3) 2) 0) 512 false = true)
    ∧ (streamNo (openW (stK (se0 .commit) 0x4B 1)) run0 1 = some (1, 5, 0, 0, 3)
      ∧ (0 : Nat) < elemsOf (rgnOf (stK (se0 .commit) 0x4B 1) 3) ∧ auBusy (openW (stK (se0 .commit) 0x4B 1)) 3 = false
      ∧ linesFree (openW (stK (se0 .commit) 0x4B 1)) (lineOf (elemAt (rgnOf (stK (se0 .commit) 0x4B 1) 3) 0 0)) 64 = true
      ∧ daddB (openW (stK (se0 .commit) 0x4B 1)) (se0 .commit) = true)
    ∧ (Stands (stK (se0 .commit) 0x4C 0) 0 0x4C run0 (se0 .commit) (insK 0x4C 0) ∧ (se0 .commit).residue = false)
    ∧ (streamNo (openW (stK (se0 .running) 0x44 2)) run0 2 = some (2, 6, 0, 0, 3) ∧ lddsB (openW (stK (se0 .running) 0x44 2)) = true)
    ∧ (At (stK (se0 .running) 0x50 1) 0 0x50 run0 (se0 .running) (insK 0x50 1) ∧ Sound (stK (se0 .running) 0x50 1) 0
      ∧ streamNo (openW (stK (se0 .running) 0x50 1)) run0 1 = some (1, 5, 0, 0, 3)) := by
  simp only [At, Sound, Stands]
  exact ⟨by decide +kernel, by decide +kernel, by decide +kernel, by decide +kernel, by decide +kernel, by decide +kernel, by decide +kernel,
    by decide +kernel, by decide +kernel, by decide +kernel, by decide +kernel, by decide +kernel⟩

/-- A kernel image of one CEND with one IN stream, at 0x100000. -/
def memImg : Mem :=
  [(0x100000, 0x42), (0x100001, 0x4F), (0x100002, 0x4C), (0x100003, 0x47), (0x100004, 1), (0x100005, 3), (0x100006, 1), (0x100008, 1),
   (0x100010, 1), (0x100047, 0x4C)]
def aLoad : List (Nat × Nat × Nat) := [(0x10, 1, 5), (0x18, 8, 0x100000), (0x20, 4, 72)]
def aUnload : List (Nat × Nat × Nat) := [(0x10, 1, 5)]
def blkV : Blk := blkE (se0 .idle) []
def kRun : Cmd := cmdOf 0x40 [(0x10, 1, 1), (0x11, 1, 1), (0x18, 8, 0), (0x20, 8, 1), (0x28, 8, 0x100000), (0x30, 2, 4)]
def blkN : Blk := { blkV with eng := { blkV.eng with runs := [] } }
/-- A partition of SE 0 alone, idle, with a run whose chunk 0 is ready. -/
def run1 : Run := { run0 with slot := 1, regions := [4], next := 0, live := [] }
def stDisp : State := stOf { blkV with parts := [(0, { seMask := 1 })], eng := { blkV.eng with runs := [run1], ses := [(0, { ctx := 1, sliceOut := false })] } }

/-- An image that is read. -/
theorem img_of (x : Rsp × Bytes × W) (f : Bytes → W → Bool) (h : (decide (x.1 = .ok) && f x.2.1 x.2.2) = true) :
    ∃ img w, x = (.ok, img, w) ∧ f img w = true := by
  simp only [Bool.and_eq_true, decide_eq_true_eq] at h
  exact ⟨x.2.1, x.2.2, by rw [← h.1], h.2⟩

theorem some2_of {α β : Type} (x : Option (α × β)) (f : α → β → Bool) (h : ((x.map (fun y => f y.1 y.2)).getD false) = true) :
    ∃ a b, x = some (a, b) ∧ f a b = true := by
  cases x with
  | none => cases h
  | some y => exact ⟨y.1, y.2, rfl, h⟩

/-- An image without its magic; a store of kernels that is full; a command that runs; a library slot about to be replaced; an SE
that ends its commit phase, and one without a chunk. -/
def kLoadR : Cmd := { cmdOf 0x41 aLoad with phase := .running }
def kRunR : Cmd := { kRun with phase := .running }
def stHeld : State := with1 { blkN with patch := some { cmd := { q := 0, n := 9 }, image := [], stage := 1, slots := [1] } } kRun
def blkFull : Blk := { blkV with eng := { blkV.eng with kslots := [(7, { base := 0, ninstr := 65536 })] } }
theorem wit_KernelsElsewhere :
    (Runs (with1 blkN kLoadR) c0 kLoadR ∧ opOf kLoadR = 0x41) ∧ (Runs (with1 blkN kRunR) c0 kRunR ∧ opOf kRunR = 0x40)
    ∧ patchHolds (openW stHeld) c0 = true
    ∧ (∃ img w, readBytes (seAcc {} 1) 0x100000 72 (begunC blkV 0x41 aLoad []) = (.ok, img, w) ∧ decide (imageBad img = some 0) = true)
    ∧ (∃ img w, readBytes (seAcc {} 1) 0x100000 72 (begunC blkFull 0x41 aLoad memImg) = (.ok, img, w)
        ∧ decide (imageBad img = none ∧ kAlloc (kSpans w 5) (fld img 6 2) = none) = true)
    ∧ ((seOf (stOf (blkE { se0 .commit with ending := some true } [])) 0).ending.isSome = true
      ∧ (seOf (stOf blk0) 0).run = none ∧ (seOf (stOf blk0) 0).ending = none
      ∧ partOfSe? (openW (stOf { blkV with eng := { blkV.eng with ses := [(0, se0 .running)] }, parts := [(0, { seMask := 1 })] })) 0 = some 0
      ∧ inService (openW (stOf blkPass)) = false) := by
  refine ⟨⟨⟨by decide +kernel, by decide, by decide +kernel, rfl, rfl⟩, by decide +kernel⟩,
    ⟨⟨by decide +kernel, by decide, by decide +kernel, rfl, rfl⟩, by decide +kernel⟩, by decide +kernel,
    img_of _ (fun img _ => decide (imageBad img = some 0)) (by decide +kernel),
    img_of _ (fun img w => decide (imageBad img = none ∧ kAlloc (kSpans w 5) (fld img 6 2) = none)) (by decide +kernel), by decide +kernel⟩

theorem wit_KernelsLoadAndRun :
    (∀ l ∈ [aUnload, aLoad], Issued (withC blkV 0x41 l memImg) c0 {} (critOf blkV 0x41 l) 0x41
      ∧ kernelLoadCheck (begun (withC blkV 0x41 l memImg) c0 (critOf blkV 0x41 l)) (critOf blkV 0x41 l) = none
      ∧ arg (critOf blkV 0x41 l) 0x20 4 = if l = aLoad then 72 else 0)
    ∧ (inPlain (begun (withC blkV 0x41 aLoad memImg) c0 (critOf blkV 0x41 aLoad)) 1 0x100000 72 = true
      ∧ linesReadable (begun (withC blkV 0x41 aLoad memImg) c0 (critOf blkV 0x41 aLoad)) 0x100000 72 = true
      ∧ ∃ img w, readBytes (seAcc {} 1) 0x100000 72 (begun (withC blkV 0x41 aLoad memImg) c0 (critOf blkV 0x41 aLoad)) = (.ok, img, w)
        ∧ decide (imageBad img = none ∧ kAlloc (kSpans w 5) (fld img 6 2) = some 4) = true)
    ∧ (Issued (with1 blkN kRun) c0 {} kRun 0x40 ∧ kernelRunCheck (begun (with1 blkN kRun) c0 kRun) kRun = none
      ∧ patchHolds (openW (with1 blkN kRun)) c0 = false ∧ linesReadable (begun (with1 blkN kRun) c0 kRun) (arg kRun 0x28 8) 64 = true
      ∧ bit (arg kRun 0x12 1) 0 = false ∧ arg kRun 0x20 8 ≠ 0 ∧ findRun (openW (with1 blkN kRun)) c0 = none
      ∧ (∀ g ∈ (with1 blkN kRun).blk.grps, g.2.state ≠ .broken))
    ∧ ((List.range stDisp.build.nse).filter (fun e => partOfSe? (openW stDisp) e == some 0) = [0] ∧ (seOf stDisp 0).state = .idle
      ∧ (seOf stDisp 0).drain = false ∧ (seOf stDisp 0).sliceOut = false ∧ inService (openW stDisp) = true
      ∧ (seOf stDisp 0).ctx ∈ readyCtxs (openW stDisp) 0 ∧ readyRun (openW stDisp) 0 (seOf stDisp 0).ctx = some (run1, 0)
      ∧ (∀ l ∈ startLines (openW stDisp) run1, linesReadable (openW stDisp) l 64 = true))
    ∧ (∀ st ∈ [SeState.running, .commit], (seOf (stK (se0 st) 0x7E 0) 0).run.isSome = true ∧ (seOf (stK (se0 st) 0x7E 0) 0).ending = none
      ∧ (seOf (stK (se0 st) 0x7E 0) 0).state = st) := by
  have h1 : critB blkV 0x41 aLoad = true := by decide +kernel
  have h0 : critB blkV 0x41 aUnload = true := by decide +kernel
  refine ⟨?_, ?_, ⟨issued_of _ _ _ _ _ (by decide +kernel), by decide +kernel⟩, by decide +kernel, by decide +kernel⟩
  · intro l h
    simp only [List.mem_cons, List.not_mem_nil, or_false] at h
    rcases h with rfl | rfl
    · rw [begun_crit _ _ _ h0]; exact ⟨issued_crit _ _ _ h0 (by decide +kernel), by decide +kernel⟩
    · rw [begun_crit _ _ _ h1]; exact ⟨issued_crit _ _ _ h1 (by decide +kernel), by decide +kernel⟩
  · rw [begun_crit _ _ _ h1]
    exact ⟨by decide +kernel, by decide +kernel,
      img_of _ (fun img w => decide (imageBad img = none ∧ kAlloc (kSpans w 5) (fld img 6 2) = some 4)) (by decide +kernel)⟩

/-! ### Witnesses: security -/

theorem cmdTag_pre (sec : Sec) (pre r : Bytes) (x p c : Nat) (h : pre.length = 80) : cmdTag sec (pre ++ r) x p c = cmdTag sec pre x p c := by
  simp only [cmdTag, bytesAt, List.drop_zero]
  rw [List.take_append_of_le_length (by omega)]

theorem tag_at (pre t : Bytes) (h : pre.length = 80) (ht : t.length = 16) : bytesAt (pre ++ (t ++ zeros 32)) 0x50 16 = t := by
  simp only [bytesAt]
  rw [List.drop_append_of_le_length (by omega), List.drop_eq_nil_of_le (by omega), List.nil_append,
    List.take_append_of_le_length (by omega), List.take_of_length_le (by omega)]
  simp [ht]

theorem flipped_ne (l : Bytes) (h : l.length = 16) : l ≠ l.map (· ^^^ 1) := by
  cases l with
  | nil => cases h
  | cons a t =>
    intro he
    have : ∀ x : Byte, x ≠ x ^^^ 1 := by decide
    exact this a (List.cons.inj he).1

/-- A critical command of a queue, an opcode and fields whose tag is right, or has a bit of each byte flipped. -/
def tagCmd (sec : Sec) (op : Nat) (l : List (Nat × Nat × Nat)) (good : Bool) (q : Nat) : Cmd :=
  let t := padTo 16 (cmdTag sec (preOf op l) 1 0 0)
  { id := { q := q, n := 0 }, slot := preOf op l ++ ((if good then t else t.map (· ^^^ 1)) ++ zeros 32), ctx := 1, part := 0 }
/-- LAST 1, RSN 0. -/
def blkT : Blk := { blk0 with sec := { blk0.sec with last := [(0, 1)] } }
def stTag (op : Nat) (l : List (Nat × Nat × Nat)) (good : Bool) (q : Nat) : State := with1 blkT (tagCmd blkT.sec op l good q)

/-- What a critical command needs to fail check 2. -/
theorem tag_fails (op : Nat) (l : List (Nat × Nat × Nat)) (good : Bool) (q : Nat) (hp : (preOf op l).length = 80 ∧ fld (preOf op l) 0 1 = op
      ∧ fld (preOf op l) 0x40 8 = 1 ∧ fld (preOf op l) 1 1 = 0 ∧ phaseOps.contains op = false) :
    findCmd (openW (stTag op l good q)) { q := q, n := 0 } = some (tagCmd blkT.sec op l good q)
    ∧ ctxRuns (ctxOf (stTag op l good q) 1) = true ∧ opOf (tagCmd blkT.sec op l good q) = op
    ∧ mayStart (openW (stTag op l good q)) (tagCmd blkT.sec op l good q) = true
    ∧ (stTag op l good q).blk.glb.state ≠ .snuffed ∧ Calm (stTag op l good q) {} ∧ ListsReadable (stTag op l good q) (tagCmd blkT.sec op l good q)
    ∧ (q = 0 → Reports (stTag op l good q) { q := q, n := 0 } (tagCmd blkT.sec op l good q))
    ∧ (padTo 16 (cmdTag blkT.sec (tagCmd blkT.sec op l good q).slot 1 0 0) = bytesAt (tagCmd blkT.sec op l good q).slot 0x50 16 ↔ good = true)
    ∧ (if op = 0x81 then arg (tagCmd blkT.sec op l good q) 0x40 8 ≠ rsnOf blkT.sec 0 0
       else arg (tagCmd blkT.sec op l good q) 0x40 8 ≤ lastOf blkT.sec 0 0) := by
  obtain ⟨h80, hop0, hctr, hopt, hph⟩ := hp
  have hl : (if good then padTo 16 (cmdTag blkT.sec (preOf op l) 1 0 0)
      else (padTo 16 (cmdTag blkT.sec (preOf op l) 1 0 0)).map (· ^^^ 1)).length = 16 := by
    split <;> simp [padTo_length]
  have hf : ∀ o n, o + n ≤ 80 → fld (tagCmd blkT.sec op l good q).slot o n = fld (preOf op l) o n :=
    fun o n h => fld_pre _ _ _ _ (by omega)
  have hop : opOf (tagCmd blkT.sec op l good q) = op := by simp only [opOf]; rw [hf _ _ (by omega), hop0]
  refine ⟨by simp [findCmd, stTag, with1, stOf, openW, tagCmd], rfl, hop, mayStart_one blkT _ [] (by rw [hop]; exact hph),
    (by show blk0.glb.state ≠ .snuffed; decide), ⟨rfl, rfl, rfl, rfl⟩, ⟨rfl, rfl⟩, fun hq => ?_, ?_, ?_⟩
  · subst hq
    refine ⟨?_, (by show (tget blk0.qps 0 {}).cqBase % 32 = 0; decide), ?_, rfl⟩
    · simp only [arg]; rw [hf _ _ (by omega), hopt]; rfl
    · show linesFree (openW (stTag op l good 0)) (entryAt (tget blk0.qps 0 {})) 32 = true
      exact (linesFree_congr (openW (stOf blkT)) _ _ _ rfl rfl rfl rfl).trans (by decide +kernel)
  · show padTo 16 (cmdTag blkT.sec (preOf op l ++ (_ ++ zeros 32)) 1 0 0) = bytesAt (preOf op l ++ (_ ++ zeros 32)) 0x50 16 ↔ _
    rw [cmdTag_pre _ _ _ _ _ _ h80, tag_at _ _ h80 hl]
    constructor
    · intro he
      cases h : good with
      | true => rfl
      | false => simp only [h, Bool.false_eq_true, if_false] at he; exact absurd he (flipped_ne _ (padTo_length _ _))
    · intro h; simp [h]
  · simp only [arg]; rw [hf _ _ (by omega), hctr]
    split <;> decide +kernel

/-- A tag that differs; a counter that is not above LAST; a COUNTER_RESYNC whose counter is not RSN; a GROUP_DEFINE; a PARTITION_SET of
the fabric. -/
theorem wit_FailedTagsAnswerAuthFail : ∀ x ∈ ([(0x11, [], false, 0), (0x11, [], true, 0), (0x81, [], true, 0), (0x85, [(0x11, 1, 3)], false, 0),
      (0x84, [], false, 8192)] : List (Nat × List (Nat × Nat × Nat) × Bool × Nat)),
    (preOf x.1 x.2.1).length = 80 ∧ fld (preOf x.1 x.2.1) 0 1 = x.1 ∧ fld (preOf x.1 x.2.1) 0x40 8 = 1 ∧ fld (preOf x.1 x.2.1) 1 1 = 0
      ∧ phaseOps.contains x.1 = false ∧ blkT.patch = none := by
  decide +kernel

/-- Seal keys of partition 0: DGN 7 with slot 0 active and slot 1 filled. -/
def key7 : SealKey := { dgn := 7, owner := 0, key0 := some (zeros 32), key1 := some (zeros 32) }
def blkKey : Blk := { blk0 with sec := { blk0.sec with skeys := [(0, key7)] } }
def aKey (op slot dgn : Nat) : List (Nat × Nat × Nat) := [(0x10, 1, op), (0x11, 1, slot), (0x12, 2, dgn)]
/-- What the keys of such a command find: its OP, its slot, and its entry. -/
theorem key_fld (b : Blk) (op slot dgn : Nat) (h : (preOf 0x80 (aKey op slot dgn)).length = 80 ∧ fld (preOf 0x80 (aKey op slot dgn)) 0 1 = 0x80
      ∧ fld (preOf 0x80 (aKey op slot dgn)) 0x10 1 = op ∧ fld (preOf 0x80 (aKey op slot dgn)) 0x11 1 = slot
      ∧ fld (preOf 0x80 (aKey op slot dgn)) 0x12 2 = dgn) (hs : slot < 2) :
    keyOp op (critOf b 0x80 (aKey op slot dgn)) = true ∧ keySlotOf (critOf b 0x80 (aKey op slot dgn)) = slot
      ∧ keyDgn (critOf b 0x80 (aKey op slot dgn)) = dgn := by
  have hf : ∀ o n, o + n ≤ 80 → fld (critOf b 0x80 (aKey op slot dgn)).slot o n = fld (preOf 0x80 (aKey op slot dgn)) o n :=
    fun o n hn => fld_pre _ _ _ _ (by omega)
  simp only [keyOp, isOp, keySlotOf, keyDgn, opOf, arg, hf 0 1 (by omega), hf 0x10 1 (by omega), hf 0x11 1 (by omega),
    hf 0x12 2 (by omega), h.2.1, h.2.2.1, h.2.2.2.1, h.2.2.2.2]
  exact ⟨by simp, Nat.mod_eq_of_lt hs, trivial⟩

/-- Does an entry belong to a partition other than 0? -/
def foreignOf (e : Option (Nat × SealKey)) : Bool := match e with | some (_, x) => x.owner != 0 | none => false
/-- A key command that may start, and its entry. -/
theorem key_issued (b : Blk) (op slot dgn : Nat) (e : Option (Nat × SealKey)) (hc : critB b 0x80 (aKey op slot dgn) = true)
    (hf : (preOf 0x80 (aKey op slot dgn)).length = 80 ∧ fld (preOf 0x80 (aKey op slot dgn)) 0 1 = 0x80
      ∧ fld (preOf 0x80 (aKey op slot dgn)) 0x10 1 = op ∧ fld (preOf 0x80 (aKey op slot dgn)) 0x11 1 = slot
      ∧ fld (preOf 0x80 (aKey op slot dgn)) 0x12 2 = dgn) (hs : slot < 2) (he : sealEntry (begunC b 0x80 (aKey op slot dgn)) dgn = e) :
    Issued (withC b 0x80 (aKey op slot dgn)) c0 {} (critOf b 0x80 (aKey op slot dgn)) 0x80
    ∧ keyOp op (critOf b 0x80 (aKey op slot dgn)) = true ∧ keySlotOf (critOf b 0x80 (aKey op slot dgn)) = slot
    ∧ keyDgn (critOf b 0x80 (aKey op slot dgn)) = dgn
    ∧ sealEntry (begun (withC b 0x80 (aKey op slot dgn)) c0 (critOf b 0x80 (aKey op slot dgn))) (keyDgn (critOf b 0x80 (aKey op slot dgn))) = e
    ∧ foreignKey (begun (withC b 0x80 (aKey op slot dgn)) c0 (critOf b 0x80 (aKey op slot dgn))) (critOf b 0x80 (aKey op slot dgn))
        = deny (foreignOf e) 0xB3 := by
  obtain ⟨h1, h2, h3⟩ := key_fld b op slot dgn hf hs
  refine ⟨issued_crit _ _ _ hc, h1, h2, h3, ?_, ?_⟩
  · rw [begun_crit _ _ _ hc, h3, he]
  · rw [begun_crit _ _ _ hc, foreignKey, h3, he]; rfl

/-- A COUNTER_RESYNC whose COUNTER is RSN. -/
def blkRs : Blk := { blk0 with sec := { blk0.sec with rsn := [(0, 1)] } }

theorem resync_head : (checksHead (critOf blkRs 0x81 [(0x10, 8, 5)]) (openW (withC blkRs 0x81 [(0x10, 8, 5)]))).1 = none := by
  have hp : (preOf 0x81 [(0x10, 8, 5)]).length = 80 ∧ fld (preOf 0x81 [(0x10, 8, 5)]) 0 1 = 0x81 ∧ fld (preOf 0x81 [(0x10, 8, 5)]) 0x40 8 = 1
      ∧ malformedAt (preOf 0x81 [(0x10, 8, 5)] ++ zeros 48) = none := by decide +kernel
  have hop : opOf (critOf blkRs 0x81 [(0x10, 8, 5)]) = 0x81 := by simp only [opOf, critOf]; rw [fld_pre _ _ _ _ (by omega), hp.2.1]
  have harg : arg (critOf blkRs 0x81 [(0x10, 8, 5)]) 0x40 8 = 1 := by simp only [arg, critOf]; rw [fld_pre _ _ _ _ (by omega), hp.2.2.1]
  have hm : malformedAt (critOf blkRs 0x81 [(0x10, 8, 5)]).slot = none := by
    show malformedAt (preOf 0x81 [(0x10, 8, 5)] ++ (_ ++ zeros 32)) = none
    rw [malformed_tag _ _ hp.1 (padTo_length _ _) .serial (by rw [hp.2.1]; rfl), hp.2.2.2]
  have htag : padTo 16 (cmdTag blkRs.sec (critOf blkRs 0x81 [(0x10, 8, 5)]).slot 1 0 0) = bytesAt (critOf blkRs 0x81 [(0x10, 8, 5)]).slot 0x50 16 := by
    show padTo 16 (cmdTag blkRs.sec (preOf 0x81 [(0x10, 8, 5)] ++ (_ ++ zeros 32)) 1 0 0) = bytesAt (preOf 0x81 [(0x10, 8, 5)] ++ (_ ++ zeros 32)) 0x50 16
    rw [cmdTag_pre _ _ _ _ _ _ hp.1, tag_at _ _ hp.1 (padTo_length _ _)]
  have ht : ∃ v, checkTag (critOf blkRs 0x81 [(0x10, 8, 5)]) (openW (withC blkRs 0x81 [(0x10, 8, 5)])) = (none, v)
      ∧ v.b.glb = blkRs.glb ∧ v.b.ctxs = blkRs.ctxs := by
    have hj : injHit (openW (withC blkRs 0x81 [(0x10, 8, 5)])) 0x11 0 = false := injHit_none _ _ _ rfl
    simp only [checkTag, hj, hop, harg, Bool.false_eq_true, if_false, Bool.not_false, Bool.true_and]
    rw [show (openW (withC blkRs 0x81 [(0x10, 8, 5)])).b.sec = blkRs.sec from rfl, show (critOf blkRs 0x81 [(0x10, 8, 5)]).ctx = 1 from rfl,
      show (critOf blkRs 0x81 [(0x10, 8, 5)]).part = 0 from rfl, show (critOf blkRs 0x81 [(0x10, 8, 5)]).cls = 0 from rfl, htag]
    rw [if_neg (by simp), if_pos trivial, if_neg (by decide)]
    exact ⟨_, rfl, rfl, rfl⟩
  obtain ⟨v, h1, h2, h3⟩ := ht
  simp only [checksHead, hop, show opInfo 0x81 = some (true, .serial) from rfl, h1, hm, if_true]
  have hx : ((getCtx v 1).state == CtxState.retiring) = false := by rw [getCtx, h3]; rfl
  have hs : ∀ t, (v.b.glb.state == t) = (BlockState.service == t) := by intro t; rw [h2]; rfl
  rw [show (critOf blkRs 0x81 [(0x10, 8, 5)]).id.q = 0 from rfl, show (critOf blkRs 0x81 [(0x10, 8, 5)]).ctx = 1 from rfl, hx, hs, hs]
  rfl

/-- An entry of another partition; one with slot 1 empty; one whose DGN a group uses; every entry in use. -/
def keyBlk (e : SealKey) : Blk := { blk0 with sec := { blk0.sec with skeys := [(0, e)] } }
def keyUsed : Blk := { keyBlk key7 with grps := [(0, grp0)] }
def keyFull : Blk := { blk0 with sec := { blk0.sec with skeys := (List.range 256).map (fun n => (n, { dgn := 1000 + n, owner := 0 })) } }
/-- What the witnesses of the key commands need, as a Boolean: block, OP, slot, DGN, entry. -/
def keyB (b : Blk) (op slot dgn : Nat) (e : Option (Nat × SealKey)) : Bool :=
  critB b 0x80 (aKey op slot dgn) && decide ((preOf 0x80 (aKey op slot dgn)).length = 80 ∧ fld (preOf 0x80 (aKey op slot dgn)) 0 1 = 0x80
      ∧ fld (preOf 0x80 (aKey op slot dgn)) 0x10 1 = op ∧ fld (preOf 0x80 (aKey op slot dgn)) 0x11 1 = slot
      ∧ fld (preOf 0x80 (aKey op slot dgn)) 0x12 2 = dgn) && decide (slot < 2)
    && decide (b.sec.skeys.find? (fun x => x.2.dgn == dgn) = e)

theorem wit_KeyCommands (b : Blk) (op slot dgn : Nat) (e : Option (Nat × SealKey)) (h : keyB b op slot dgn e = true) :
    Issued (withC b 0x80 (aKey op slot dgn)) c0 {} (critOf b 0x80 (aKey op slot dgn)) 0x80
    ∧ keyOp op (critOf b 0x80 (aKey op slot dgn)) = true ∧ keySlotOf (critOf b 0x80 (aKey op slot dgn)) = slot
    ∧ keyDgn (critOf b 0x80 (aKey op slot dgn)) = dgn
    ∧ sealEntry (begun (withC b 0x80 (aKey op slot dgn)) c0 (critOf b 0x80 (aKey op slot dgn))) (keyDgn (critOf b 0x80 (aKey op slot dgn))) = e
    ∧ foreignKey (begun (withC b 0x80 (aKey op slot dgn)) c0 (critOf b 0x80 (aKey op slot dgn))) (critOf b 0x80 (aKey op slot dgn))
        = deny (foreignOf e) 0xB3 := by
  simp only [keyB, Bool.and_eq_true, decide_eq_true_eq] at h
  exact key_issued b op slot dgn e h.1.1.1 h.1.1.2 h.1.2 h.2

theorem wit_KeysAreInstalled :
    (∀ x ∈ [(0, 0, 7), (0, 1, 7), (1, 1, 7), (2, 0, 7), (2, 1, 7)], keyB blkKey x.1 x.2.1 x.2.2 (some (0, key7)) = true)
    ∧ (∀ x ∈ [(0, 0, 9), (1, 0, 9), (2, 0, 9)], keyB blkKey x.1 x.2.1 x.2.2 none = true) ∧ freeIndex blkKey.sec.skeys 256 = some 1
    ∧ (∀ op ∈ [0, 1, 2], keyB (keyBlk { key7 with owner := 5 }) op 0 7 (some (0, { key7 with owner := 5 })) = true)
    ∧ (keyB (keyBlk { key7 with key1 := none }) 1 1 7 (some (0, { key7 with key1 := none })) = true
      ∧ keySlot { key7 with key1 := none } 1 = none ∧ (keySlot key7 1).isSome = true)
    ∧ (keyB keyUsed 2 0 7 (some (0, key7)) = true ∧ (∃ g ∈ keyUsed.grps, g.2.state ≠ .free ∧ g.2.dgn = 7) ∧ blkKey.grps = [])
    ∧ keyB keyFull 0 0 9 none = true ∧ freeIndex keyFull.sec.skeys 256 = none ∧ key7.active = 0 := by
  refine ⟨by decide +kernel, by decide +kernel, by decide +kernel, by decide +kernel, by decide +kernel, by decide +kernel, by decide +kernel,
    by decide +kernel, by decide +kernel⟩

theorem wit_CounterResync : Issued (withC blkRs 0x81 [(0x10, 8, 5)]) c0 {} (critOf blkRs 0x81 [(0x10, 8, 5)]) 0x81
    ∧ Unsent (withC blkRs 0x81 [(0x10, 8, 5)]) ∧ Unsent (withC blkKey 0x80 (aKey 0 0 7)) := by
  have hop : opOf (critOf blkRs 0x81 [(0x10, 8, 5)]) = 0x81 := by
    simp only [opOf, critOf]; rw [fld_pre _ _ _ _ (by decide)]; decide +kernel
  have hu : Unsent (stOf blk0) := by unfold Unsent; decide +kernel
  refine ⟨⟨⟨?_, by decide, rfl, rfl, rfl, mayStart_one blkRs _ [] (by rw [hop]; rfl), resync_head⟩, ⟨rfl, rfl, rfl, rfl⟩, ⟨?_, rfl, ?_, rfl⟩, hop⟩,
    hu, hu⟩
  · simp [findCmd, withC, with1, stOf, openW, critOf]
  · simp only [arg, critOf]; rw [fld_pre _ _ _ _ (by decide)]; decide +kernel
  · exact (linesFree_congr (openW (stOf blkRs)) _ _ _ rfl rfl (by decide +kernel) (by decide +kernel)).trans (by decide +kernel)

/-- A SNUFF of partition 1 and of partition 0; the block with its main domain in reset, and at rest. -/
theorem wit_SnuffZeroises :
    (∀ p ∈ [1, 0], Issued (withC blk0 0x82 [] [] p) c0 {} (critOf blk0 0x82 [] p) 0x82 ∧ (critOf blk0 0x82 [] p).part = p)
    ∧ (∀ x ∈ [(MonKind.tamper, 3, 1), (.vtrip, 7, 2), (.ctrip, 0, 3)], tripCause x.1 = some x.2.2 ∧ x.2.1 < (monBase x.1).2)
    ∧ (∀ x ∈ [(MonKind.vwarn, 7), (.cwarn, 0)], tripCause x.1 = none ∧ x.2 < (monBase x.1).2)
    ∧ ((monBase .tamper).2 ≤ 4 ∧ (monBase .cwarn).2 ≤ 8)
    ∧ (openW (stOf { blk0 with sec := { snuffLatch := true } })).b.sec.snuffLatch = true
    ∧ ((openW (stOf { blk0 with glb := {} })).b.sec.snuffLatch = false ∧ (openW (stOf { blk0 with glb := {} })).b.glb.mainReset = true)
    ∧ ((openW (stOf blk0)).b.sec.snuffLatch = false ∧ (openW (stOf blk0)).b.glb.mainReset = false ∧ (openW (stOf blk0)).b.glb.power = true
      ∧ (openW (stOf blk0)).b.cmds = [] ∧ (openW (stOf blk0)).b.grps = [] ∧ (openW (stOf blk0)).b.slices = []
      ∧ (openW (stOf blk0)).b.eng.runs = [] ∧ (openW (stOf blk0)).b.eng.ses = [] ∧ (openW (stOf blk0)).b.lnk.ports = []) := by
  refine ⟨?_, by decide, by decide, by decide, rfl, by decide +kernel, by decide +kernel⟩
  intro p hp
  simp only [List.mem_cons, List.not_mem_nil, or_false] at hp
  rcases hp with rfl | rfl <;> exact ⟨issued_crit _ _ _ (by decide +kernel), rfl⟩

/-- A critical command that passes its first checks passes them from the fabric too, where its context is its partition's. -/
theorem fabric_head (k : Cmd) (w v : W) (cls : CmdClass) (h : checksHead k w = (none, v)) (ho : opInfo (opOf k) = some (true, cls))
    (hq : k.id.q = 0) (hc : k.ctx ≠ 0) (hp : partOfCtx? v k.ctx = some k.part) (n : Nat) :
    checksHead { k with id := { q := fabricQ, n := n } } w = (none, v) := by
  have ht : checkTag { k with id := { q := fabricQ, n := n } } w = checkTag k w := rfl
  have hop : opOf { k with id := { q := fabricQ, n := n } } = opOf k := rfl
  simp only [checksHead, hop, ho, ht, hq] at h ⊢
  generalize checkTag k w = r at h ⊢
  obtain ⟨c, u⟩ := r
  cases c with
  | some o => simp at h; split at h <;> simp_all
  | none =>
    simp only [Bool.not_true, Bool.and_false, Bool.false_eq_true, if_false] at h ⊢
    split at h
    · cases h
    · simp only [if_true] at h ⊢
      rename_i hs
      rw [if_neg hs]
      split at h
      · cases h
      · rename_i h1
        rw [if_neg h1]
        split at h
        · cases h
        · rename_i h2
          rw [if_neg h2]
          split at h
          · cases h
          · rw [show decide (0 = fabricQ) = false from rfl, Bool.false_and, if_neg (by decide : ¬ (false = true))] at h
            split at h
            · cases h
            · obtain ⟨-, rfl⟩ := Prod.mk.inj h
              simp [hc, hp]

/-- A SNUFF of the fabric. -/
def kFab : Cmd := { critOf blk0 0x82 [] 0 with id := { q := fabricQ, n := 0 } }
theorem wit_FabricSnuff : findCmd (openW (with1 blk0 kFab)) { q := fabricQ, n := 0 } = some kFab ∧ kFab.outc = none ∧ kFab.phase = .fetched
    ∧ mayStart (openW (with1 blk0 kFab)) kFab = true ∧ (checksHead kFab (openW (with1 blk0 kFab))).1 = none ∧ opOf kFab = 0x82 := by
  have h : critB blk0 0x82 [] 0 = true := by decide +kernel
  have hop : opOf (critOf blk0 0x82 [] 0) = 0x82 := (issued_crit (m := []) blk0 0x82 [] h).2.2.2
  have hp : ∀ u : W, u.b.parts = blk0.parts → partOfCtx? u 1 = some 0 := by
    intro u hu; simp only [partOfCtx?, hu]; decide +kernel
  have hf := fabric_head (critOf blk0 0x82 [] 0) _ _ .serial (crit_head_of blk0 0x82 [] h (openW (with1 blk0 kFab)) rfl rfl rfl rfl)
    (by rw [hop]; rfl) rfl (by decide) (hp _ rfl) 0
  refine ⟨by simp [findCmd, with1, stOf, openW, kFab], rfl, rfl,
    mayStart_one blk0 kFab [] (by show phaseOps.contains (opOf (critOf blk0 0x82 [] 0)) = false; rw [hop]; rfl), ?_, hop⟩
  rw [show kFab = { critOf blk0 0x82 [] 0 with id := { q := fabricQ, n := 0 } } from rfl] at hf ⊢
  rw [hf]

/-- Four bytes as a word of a service frame. -/
def wordOf (a b c d : Byte) : BitVec 32 := BitVec.ofNat 32 (a.toNat * 2 ^ 24 + b.toNat * 2 ^ 16 + c.toNat * 2 ^ 8 + d.toNat)

theorem frame_word (a b c d : Byte) : frameBytes (wordOf a b c d) = [a, b, c, d] := by
  have ha := a.isLt; have hb := b.isLt; have hc := c.isLt; have hd := d.isLt
  simp only [frameBytes, wordOf, toLe, List.reverse_cons, List.reverse_nil, List.nil_append, List.cons_append, BitVec.toNat_ofNat]
  congr 1
  · apply BitVec.eq_of_toNat_eq; simp only [BitVec.toNat_ofNat]; omega
  congr 1
  · apply BitVec.eq_of_toNat_eq; simp only [BitVec.toNat_ofNat]; omega
  congr 1
  · apply BitVec.eq_of_toNat_eq; simp only [BitVec.toNat_ofNat]; omega
  congr 1
  apply BitVec.eq_of_toNat_eq; simp only [BitVec.toNat_ofNat]; omega

theorem four_of (t : Bytes) (n : Nat) (h : t.length = n + 4) : ∃ a b c d r, t = a :: b :: c :: d :: r ∧ r.length = n := by
  rcases t with _ | ⟨a, _ | ⟨b, _ | ⟨c, _ | ⟨d, r⟩⟩⟩⟩ <;> simp only [List.length_cons, List.length_nil] at h
  all_goals first | omega | exact ⟨a, b, c, d, r, rfl, by omega⟩

theorem words_of : ∀ (n : Nat) (t : Bytes), t.length = 4 * n → ∃ ws : List (BitVec 32), ws.length = n ∧ ws.flatMap frameBytes = t
  | 0, t, h => by
    have : t = [] := List.eq_nil_of_length_eq_zero (by omega)
    subst this; exact ⟨[], rfl, rfl⟩
  | n + 1, t, h => by
    obtain ⟨a, b, c, d, r, rfl, hr⟩ := four_of t (4 * n) (by omega)
    obtain ⟨ws, h1, h2⟩ := words_of n r hr
    exact ⟨wordOf a b c d :: ws, by rw [List.length_cons, h1], by rw [List.flatMap_cons, frame_word, h2]; rfl⟩

/-- A Snuff frame with COUNTER 5 whose tag verifies. -/
theorem wit_snuff_frame (sec : Sec) : ∃ ws : List (BitVec 32), ws.length = 8 ∧ ws.getD 0 0 = 0x02070000
    ∧ padTo 16 (Config.kmac256 (kCmd sec 0 2) ((ws.take 4).flatMap frameBytes) 128 (ascii "OLIPHOR TAG")) = (ws.drop 4).flatMap frameBytes
    ∧ (ws.getD 1 0).toNat * 2 ^ 32 + (ws.getD 2 0).toNat = 5 := by
  obtain ⟨t, h1, h2⟩ := words_of 4 (padTo 16 (Config.kmac256 (kCmd sec 0 2)
    (([0x02070000, 0, 5, 0] : List (BitVec 32)).flatMap frameBytes) 128 (ascii "OLIPHOR TAG"))) (padTo_length _ _)
  have e1 : (([0x02070000, 0, 5, 0] : List (BitVec 32)) ++ t).take 4 = [0x02070000, 0, 5, 0] := rfl
  have e2 : (([0x02070000, 0, 5, 0] : List (BitVec 32)) ++ t).drop 4 = t := rfl
  exact ⟨[0x02070000, 0, 5, 0] ++ t, by simp [h1], rfl, by rw [e1, e2, h2], by simp⟩

/-- The key port with a number of words taken, and with the root key zero or not. -/
def stKp (n : Nat) (v : Word) : State := stOf { blk0 with sec := { kpWords := n, fuses := List.replicate n v } }

theorem wit_KeyPortAndServicePort :
    (stOf { blk0 with sec := { snuffLatch := true } }).blk.sec.snuffLatch = true ∧ 17 ≤ (stKp 17 1).blk.sec.kpWords
    ∧ (∀ n ∈ [0, 15, 16], (stKp n 1).blk.sec.snuffLatch = false ∧ (stKp n 1).blk.sec.kpFailed = false ∧ (stKp n 1).blk.sec.kpWords = n
        ∧ (BitVec.ofNat 5 n).toNat = (stKp n 1).blk.sec.kpWords)
    ∧ (((stKp 16 1).blk.sec.fuses ++ [0]).take 4).any (· != 0) = true ∧ (((stKp 16 0).blk.sec.fuses ++ [1]).take 4).all (· == 0) = true
    ∧ (stOf { blk0 with sec := { kpFailed := true } }).blk.sec.kpFailed = true ∧ (stOf blk0).blk.sec.deriving_ = false
    ∧ (BitVec.ofNat 5 3).toNat ≠ (stKp 15 1).blk.sec.kpWords
    ∧ ((stOf { blk0 with sec := {} }).blk.sec.keyOk = false ∧ (stOf blkPass).blk.glb.state = .pass ∧ (stOf blkPass).blk.sec.keyOk = true
      ∧ (stOf { blk0 with glb := { blk0.glb with state := .dark } }).blk.glb.state ≠ .pass
      ∧ (stOf { blk0 with glb := { blk0.glb with state := .dark } }).blk.glb.state ≠ .service)
    ∧ (∃ sec : Sec, sec.deriving_ = true) ∧ (stOf blk0).blk.sec.keyOk = true ∧ (stOf blk0).blk.ras.inj = []
    ∧ (bits (0x01200000 : BitVec 32).toNat 31 24 = 1 ∧ bits (0x01200000 : BitVec 32).toNat 23 16 = 32 ∧ 32 * (32 + 1) = 1056
      ∧ 1050 < 32 * (32 + 1) ∧ 1050 % 32 ≠ 0)
    ∧ blk0.sec.derived = true ∧ lastOf blk0.sec 0 2 < 5 ∧ 5 ≤ lastOf { blk0.sec with last := [(2, 5)] } 0 2 := by
  refine ⟨?_, ?_, ?_, ?_, ?_, ?_, ?_, ?_, ?_, ⟨{ deriving_ := true }, rfl⟩, ?_, ?_, ?_, ?_, ?_, ?_⟩ <;> decide +kernel

/-- A KID that is, and one that is not, what the root key gives. -/
theorem wit_Kids (s : Sec) : ∃ x y : Sec, padTo 16 (kidOf x) = x.kid ∧ padTo 16 (kidOf y) ≠ y.kid ∧ x.keyOk = s.keyOk ∧ y.keyOk = s.keyOk :=
  ⟨{ s with kid := padTo 16 (kidOf s) }, { s with kid := [] }, rfl, fun h => absurd (congrArg List.length h) (by
    show (padTo 16 (kidOf s)).length ≠ 0; rw [padTo_length]; decide), rfl, rfl⟩

/-! ### Witnesses: images and the loader -/

/-- The loader in a phase of a block state. -/
def stLdr (st : BlockState) (l : Ldr) : State := stOf { blk0 with glb := { blk0.glb with state := st }, ldr := l }

/-- An image of one HELM section of four bytes of code. -/
def imgHelm : Bytes := fill 0x100 [(7, 1, 1), (0x40, 1, 1), (0x44, 4, 0x80), (0x48, 4, 0x80), (0x80, 4, 4), (0x10, 8, 9)]

/-- The first bytes of a FULL image of four sections, LIB and STRUCT empty, and of PATCHes of one section: an empty LIB, a HELM of
four bytes of code that takes over from one format, a LIB of one kernel. -/
def headFull : Bytes := fill 0x140 [(0, 4, 0x444C414E), (4, 1, 2), (5, 1, 3), (7, 1, 4), (8, 4, 0x140 + 5504), (0x18, 2, 0xFFF),
  (0x40, 1, 1), (0x44, 4, 0xC0), (0x48, 4, 0x80), (0x50, 1, 2), (0x54, 4, 0x140), (0x60, 1, 3), (0x64, 4, 0x140), (0x70, 1, 4),
  (0x74, 4, 0x140), (0x78, 4, 5504)]
def headOf (kind off len : Nat) (l : List (Nat × Nat × Nat)) : Bytes := fill off ([(0, 4, 0x444C414E), (4, 1, 2), (5, 1, 3), (6, 1, 1),
  (7, 1, 2), (8, 4, off + 5504), (0x18, 2, 0xFFF), (0x40, 1, kind), (0x44, 4, 0xC0), (0x48, 4, len), (0x50, 1, 4), (0x54, 4, off),
  (0x58, 4, 5504)] ++ l)
def headLib : Bytes := headOf 2 0xC0 0 []
def headHelm (form : Nat) : Bytes := headOf 1 0x140 0x80 [(0x1A, 2, form), (0x1C, 2, form), (0xC0, 4, 4)]
def headKern : Bytes := headOf 2 0x140 80 ((0xC0, 1, 200) :: (0xC4, 4, 72)
  :: memImg.map (fun x => (0xC8 + (x.1 - 0x100000), 1, x.2.toNat)))

/-- Eight-byte words of a byte string. -/
def fuseWords (t : Bytes) (n : Nat) : List Word := (List.range n).map (fun i => BitVec.ofNat 64 (fld t (8 * i) 8))
/-- Fuses of a part whose keys are those of a signature section of zeros. -/
def fusesV : List Word := List.replicate 4 1 ++ fuseWords (padTo 48 (Config.sha3_384 (zeros 96))) 6
  ++ fuseWords (padTo 48 (Config.sha3_384 (zeros 1952))) 6 ++ [0]

theorem toLe_fld : ∀ (n : Nat) (t : Bytes), t.length = n → toLe n (leNat t) = t
  | 0, t, h => by
    have : t = [] := List.eq_nil_of_length_eq_zero h
    subst this; rfl
  | n + 1, [], h => by simp at h
  | n + 1, a :: t, h => by
    have ha := a.isLt
    simp only [leNat, toLe]
    rw [show (a.toNat + 256 * leNat t) / 256 = leNat t from by omega, toLe_fld n t (by simpa using h)]
    congr 1
    apply BitVec.eq_of_toNat_eq; simp only [BitVec.toNat_ofNat]; omega

theorem leNat_small : ∀ t : Bytes, leNat t < 256 ^ t.length
  | [] => by simp [leNat]
  | a :: t => by
    have ha := a.isLt
    have ht := leNat_small t
    simp only [leNat, List.length_cons, Nat.pow_succ]
    omega

theorem fuse_back : ∀ (n : Nat) (t : Bytes), t.length = 8 * n →
    (List.range n).flatMap (fun i => toLe 8 (BitVec.ofNat 64 (fld t (8 * i) 8)).toNat) = t
  | 0, t, h => by
    have : t = [] := List.eq_nil_of_length_eq_zero (by omega)
    subst this; rfl
  | n + 1, t, h => by
    rw [List.range_succ_eq_map, List.flatMap_cons, List.flatMap_map]
    have hd : ∀ i, fld t (8 * (i + 1)) 8 = fld (t.drop 8) (8 * i) 8 := by
      intro i; simp only [fld, List.drop_drop]; rw [show 8 + 8 * i = 8 * (i + 1) from by omega]
    simp only [Nat.succ_eq_add_one, hd]
    rw [fuse_back n (t.drop 8) (by rw [List.length_drop]; omega)]
    have hl : (t.take 8).length = 8 := by rw [List.length_take]; omega
    have hb := leNat_small (t.take 8)
    rw [hl] at hb
    simp only [fld, Nat.mul_zero, List.drop_zero, BitVec.toNat_ofNat]
    rw [Nat.mod_eq_of_lt (by omega), toLe_fld 8 _ hl, List.take_append_drop]

theorem fusesV_at (b : Blk) (h : b.sec.fuses = fusesV) : fuseBytes b.sec 4 6 = padTo 48 (Config.sha3_384 (zeros 96))
    ∧ fuseBytes b.sec 10 6 = padTo 48 (Config.sha3_384 (zeros 1952)) := by
  have h4 : ((fusesV.drop 4).take 6) = fuseWords (padTo 48 (Config.sha3_384 (zeros 96))) 6 := rfl
  have h10 : ((fusesV.drop 10).take 6) = fuseWords (padTo 48 (Config.sha3_384 (zeros 1952))) 6 := rfl
  simp only [fuseBytes, h, h4, h10, fuseWords, List.flatMap_map]
  exact ⟨fuse_back 6 _ (padTo_length _ _), fuse_back 6 _ (padTo_length _ _)⟩

/-- With those fuses, an image whose table has no error and whose signature section is zeros verifies where the two signature
checks, which are opaque, answer true. -/
theorem verify_of (w : W) (patch : Bool) (img : Bytes) (len : Nat) (he : ∀ k d g, Config.ecdsaVerify k d g = true)
    (hm : ∀ k d g, Config.mldsaVerify k d g = true) (hf : w.b.sec.fuses = fusesV) (hk : w.b.sec.keyOk = true)
    (ht : tableErr w.build patch img len = none) (hs : bytesAt (bytesAt img (sigOff img) 5504) 0 96 = zeros 96)
    (hq : bytesAt (bytesAt img (sigOff img) 5504) 0xC0 1952 = zeros 1952) (n : Nat) (hn : n = 0) :
    verifyErr w patch n img len = none := by
  obtain ⟨h1, h2⟩ := fusesV_at w.b hf
  simp [verifyErr, ht, hk, hs, hq, h1, h2, he, hm, hn]

theorem wit_ImagesLoad :
    ((stLdr .dark { phase := .ready }).blk.glb.state = .dark ∧ (stLdr .dark { phase := .ready }).blk.ldr.phase = .ready
      ∧ bits (0x0020000000000001 : Word).toNat 1 0 = 1 ∧ (0x0020000000000001 : Word).getLsbD 3 = false
      ∧ bits (0x0020000000000001 : Word).toNat 63 32 = 2097152)
    ∧ ((stLdr .dark { phase := .receiving, mode := 1, total := 64 }).blk.ldr.base = none
      ∧ (stLdr .dark { phase := .receiving, mode := 1, total := 64 }).blk.ldr.len < 2 ^ 32)
    ∧ (∀ x ∈ [(LdrPhase.ready, 0), (.receiving, 0), (.receiving, 56)],
        (stLdr .dark { phase := x.1, bytes := x.2, total := 64 }).blk.glb.state ≠ .reset
        ∧ ((stLdr .dark { phase := x.1, bytes := x.2, total := 64 }).blk.ldr.phase ≠ .receiving ↔ x.1 = .ready)
        ∧ ((stLdr .dark { phase := x.1, bytes := x.2, total := 64 }).blk.ldr.bytes + 8 = (64 : Nat) ↔ x.2 = 56))
    ∧ verifyErr (openW (stLdr .loading { phase := .verifying, buf := zeros 64, total := 64 })) false
        (minSvn (stLdr .loading { phase := .verifying, buf := zeros 64, total := 64 }).blk.sec) (zeros 64) 64 = some 4
    ∧ (stLdr .loading { phase := .verifying, buf := zeros 64, total := 64 }).blk.glb.stfail1.getLsbD 59 = false
    ∧ (match applyImage imgHelm (openW (stLdr .loading { phase := .applying, buf := imgHelm })) with
       | .ok w => decide (w.b.glb.imgId = 9) | .error _ => false) = true
    ∧ (match applyImage (zeros 64) (openW (stLdr .loading { phase := .applying, buf := zeros 64 })) with
       | .ok _ => false | .error e => decide (e = 0x0E)) = true := by
  refine ⟨by decide +kernel, by decide +kernel, by decide +kernel, by decide +kernel, by decide +kernel, by decide +kernel, by decide +kernel⟩

/-- MODE fetch; reserved modes; a GO outside DARK, or of a length that is not of the rule; the loader's reads under way, at their last,
and when nothing is downloaded. -/
def stRd (bytes : Nat) (st : BlockState) : State := stLdr st { phase := .receiving, mode := 2, len := 128, total := 128, bytes := bytes, base := some 0x100000 }
theorem wit_LoaderElsewhere :
    (bits (0x0020000000000002 : Word).toNat 1 0 = 2 ∧ bits (0x0020000000000003 : Word).toNat 1 0 = 3 ∧ bits (0 : Word).toNat 1 0 = 0)
    ∧ ((stLdr .service {}).blk.glb.state ≠ .dark ∧ (0x0000004000000001 : Word).getLsbD 3 = false
      ∧ bits (0x0000002000000001 : Word).toNat 63 32 % 64 ≠ 0 ∧ 2097152 < bits (0x0020004000000001 : Word).toNat 63 32
      ∧ (stLdr .service {}).blk.glb.state ≠ .reset)
    ∧ (downloading (openW (stRd 0 .dark)) = true ∧ (stRd 0 .dark).blk.ldr.base = some 0x100000 ∧ 1 ≤ (stRd 0 .dark).blk.ldr.mode
      ∧ (stRd 0 .dark).blk.ldr.mode ≤ 2 ∧ (stRd 0 .dark).blk.ldr.len < 2 ^ 32 ∧ (stRd 0 .dark).blk.ldr.bytes + 64 ≠ (stRd 0 .dark).blk.ldr.total
      ∧ (stRd 64 .dark).blk.ldr.bytes + 64 = (stRd 64 .dark).blk.ldr.total ∧ downloading (openW (stRd 64 .dark)) = true
      ∧ downloading (openW (stRd 0 .snuffed)) = false)
    ∧ (downloading (openW (stLdr .dark { phase := .receiving, mode := 1, len := 64, total := 64 })) = true
      ∧ downloading (openW (stLdr .dark { phase := .ready, mode := 1 })) = false
      ∧ (stLdr .dark { phase := .ready, mode := 1 }).blk.glb.state ≠ .loading) := by
  refine ⟨by decide +kernel, by decide +kernel, by decide +kernel, by decide +kernel⟩

/-- The state in which such an image waits for its verification, which finds nothing. -/
def stSigned : State := stOf { blk0 with glb := { blk0.glb with state := .loading }, sec := { blk0.sec with fuses := fusesV }
                                         ldr := { phase := .verifying, buf := headFull ++ zeros 5504, total := 0x140 + 5504 } }

theorem wit_ImagesVerify (he : ∀ k d g, Config.ecdsaVerify k d g = true) (hm : ∀ k d g, Config.mldsaVerify k d g = true) :
    stSigned.blk.glb.state = .loading ∧ stSigned.blk.ldr.phase = .verifying ∧ stSigned.blk.glb.stfail1.getLsbD 59 = false
    ∧ verifyErr (openW stSigned) false (minSvn stSigned.blk.sec) stSigned.blk.ldr.buf stSigned.blk.ldr.total = none := by
  refine ⟨rfl, rfl, by decide, verify_of _ _ _ _ he hm rfl rfl ?_ ?_ ?_ _ rfl⟩
  · decide +kernel
  · decide +kernel
  · decide +kernel

/-- The same on a block whose Helm failed its self-test. -/
theorem wit_ImagesVerifyWithoutHelm (he : ∀ k d g, Config.ecdsaVerify k d g = true) (hm : ∀ k d g, Config.mldsaVerify k d g = true) :
    ∃ s : State, s = stOf { stSigned.blk with glb := { stSigned.blk.glb with stfail1 := 0x800000000000000 } }
      ∧ s.blk.glb.state = .loading ∧ s.blk.ldr.phase = .verifying ∧ s.blk.glb.stfail1.getLsbD 59 = true
      ∧ verifyErr (openW s) false (minSvn s.blk.sec) s.blk.ldr.buf s.blk.ldr.total = none :=
  ⟨_, rfl, rfl, rfl, by decide, verify_of _ _ _ _ he hm rfl rfl (by decide +kernel) (by decide +kernel) (by decide +kernel) _ rfl⟩

/-! ### Witnesses: patches -/

/-- The bytes of a list from an address on that are not zero. -/
def memFrom (a : Nat) (l : Bytes) : Mem :=
  ((List.range l.length).map (fun i => (a + i, l.getD i 0))).filter (fun x => x.2 != 0)

def aPatch (len : Nat) : List (Nat × Nat × Nat) := [(0x10, 8, 0x100000), (0x18, 4, len)]
/-- A patch in progress at a stage, with a HELM section. -/
def patchAt (stage : Nat) : Patch := { cmd := { q := 0, n := 9 }, image := headHelm 0, stage := stage, slots := [200] }
def blkPt (p : Option Patch) : Blk := { blkP with sec := { blkP.sec with fuses := fusesV }, patch := p }
/-- IMAGE_PATCH of an image of n lines whose first bytes are a header, over a block. -/
def stPt (b : Blk) (n : Nat) (h : Bytes) : State := withC b 0x83 (aPatch (64 * n)) (memFrom 0x100000 h)
def kPatR : Cmd := { cmdOf 0x83 (aPatch 64) with phase := .running }
/-- Line 0x100000 of memory port 0 is in use. -/
def blkPtBusy : Blk := { blkP with slices := [(portOf {} 0x100000, { haz := [{ line := 0x100000, q := [{ job := .fwd 7, write := true, started := true }] }] })] }
def st9 (p : Patch) : State := stOf { blk0 with patch := some p }

theorem wit_PatchesApply :
    (Issued (withC blkP 0x83 (aPatch 64)) c0 {} (critOf blkP 0x83 (aPatch 64)) 0x83
      ∧ patchCheck (begun (withC blkP 0x83 (aPatch 64)) c0 (critOf blkP 0x83 (aPatch 64))) (critOf blkP 0x83 (aPatch 64)) = none
      ∧ linesReadable (begun (withC blkP 0x83 (aPatch 64)) c0 (critOf blkP 0x83 (aPatch 64))) 0x100000 64 = true
      ∧ ∃ img w, readBytes (seAcc {} 1) 0x100000 64 (begun (withC blkP 0x83 (aPatch 64)) c0 (critOf blkP 0x83 (aPatch 64))) = (.ok, img, w)
        ∧ decide (patchErr w img 64 = some 4) = true)
    ∧ (∀ x ∈ [(0, 1), (1, 1), (1, 0)], (st9 (patchAt x.1)).blk.patch = some (patchAt x.1)
        ∧ (patchAt x.1).stage = x.1 ∧ (sectBytes (patchAt x.1).image 1).isSome = true
        ∧ slotsBusy (openW (stOf { blk0 with patch := some (patchAt x.1)
                                             cmds := [{ cmdOf 0x40 [(0x10, 1, if x.2 = 1 then 200 else 201)] with phase := .running }] }))
            (patchAt x.1).slots = decide (x.2 = 1))
    ∧ ((∀ p, (stOf blk0).blk.patch = some p → p.stage ≠ 0) ∧ (∀ p, (stOf blk0).blk.patch = some p → p.stage ≠ 1)) := by
  have h1 : critB blkP 0x83 (aPatch 64) = true := by decide +kernel
  refine ⟨⟨issued_crit _ _ _ h1, ?_⟩, by decide +kernel, ⟨nofun, nofun⟩⟩
  rw [begun_crit _ _ _ h1]
  exact ⟨by decide +kernel, by decide +kernel, img_of _ (fun img w => decide (patchErr w img 64 = some 4)) (by decide +kernel)⟩

/-- An IMAGE_PATCH that runs on: its lines in use, its memory not OK, its own patch under way, another one under way. -/
theorem wit_PatchesWait :
    (Runs (with1 blkPtBusy kPatR) c0 kPatR ∧ opOf kPatR = 0x83 ∧ ((with1 blkPtBusy kPatR).blk.patch.map (·.cmd)) ≠ some c0
      ∧ linesReadable (openW (with1 blkPtBusy kPatR)) (arg kPatR 0x10 8) (arg kPatR 0x18 4) = false
      ∧ linesReadable (openW (with1 blkP kPatR)) (arg kPatR 0x10 8) (arg kPatR 0x18 4) = true)
    ∧ (readBytes (seAcc { rd := [(0x100000, .poison)] } kPatR.ctx) (arg kPatR 0x10 8) (arg kPatR 0x18 4) (openW (with1 blkP kPatR))).1 ≠ .ok
    ∧ (∀ c ∈ [c0, { q := 0, n := 9 }], Runs (with1 { blkP with patch := some { patchAt 0 with cmd := c } } kPatR) c0 kPatR
        ∧ (with1 { blkP with patch := some { patchAt 0 with cmd := c } } kPatR).blk.patch = some { patchAt 0 with cmd := c }
        ∧ { patchAt 0 with cmd := c }.cmd = c) := by
  refine ⟨⟨⟨by decide +kernel, by decide, by decide +kernel, rfl, rfl⟩, by decide +kernel⟩, by decide +kernel, ?_⟩
  intro c hc
  exact ⟨⟨by simp [findCmd, openW, with1, stOf]; rfl, by decide, by show ctxRuns (tget blkP.ctxs 1 {}) = true; decide +kernel, rfl, rfl⟩, rfl, rfl⟩

/-- What a read with nothing wrong on its way keeps. -/
def Kept (v w : W) : Prop := v.build = w.build ∧ v.b.sec = w.b.sec ∧ v.b.glb = w.b.glb ∧ v.b.eng = w.b.eng ∧ v.b.patch = w.b.patch

theorem readSpan_keeps (acc : Acc) (he : acc.env.rd = []) : ∀ (n line : Nat) (w : W), w.b.ras.inj = [] → Kept (readSpan acc n line w).2.2 w
  | 0, _, _, _ => ⟨rfl, rfl, rfl, rfl, rfl⟩
  | n + 1, line, w, h => by
    have h2 := readLine_ok acc line w he h
    obtain ⟨c, md, e⟩ := present1_eq acc 0 line w
    have h3 := readSpan_keeps acc he n (line + 64) (present1 acc 0 line w) (by rw [present1_inj]; exact h)
    simp only [readSpan, h2, e] at h3 ⊢
    exact ⟨h3.1.trans rfl, h3.2.1.trans rfl, h3.2.2.1.trans rfl, h3.2.2.2.1.trans rfl, h3.2.2.2.2.trans rfl⟩

theorem readSpan_bytes (acc : Acc) (he : acc.env.rd = []) : ∀ (n line : Nat) (w : W), w.b.ras.inj = [] →
    (readSpan acc n line w).1 = .ok ∧ (readSpan acc n line w).2.1 = (List.range n).flatMap (fun i => getBytes w (line + 64 * i) 64)
  | 0, _, _, _ => ⟨rfl, rfl⟩
  | n + 1, line, w, h => by
    have h2 := readLine_ok acc line w he h
    obtain ⟨c, md, e⟩ := present1_eq acc 0 line w
    obtain ⟨h3, h4⟩ := readSpan_bytes acc he n (line + 64) (present1 acc 0 line w) (by rw [present1_inj]; exact h)
    rw [e] at h3 h4
    simp only [readSpan, h2, e, h3, h4]
    refine ⟨rfl, ?_⟩
    rw [List.range_succ_eq_map, List.flatMap_cons, List.flatMap_map]
    congr 1
    apply congrArg (fun f => (List.range n).flatMap f)
    funext i
    rw [show line + 64 + 64 * i = line + 64 * (i + 1) from by omega]; rfl

theorem chunks_flat (f : Nat → Byte) : ∀ n, (List.range n).flatMap (fun i => (List.range 64).map (fun j => f (64 * i + j))) = (List.range (64 * n)).map f
  | 0 => rfl
  | n + 1 => by
    rw [List.range_succ (n := n), List.flatMap_append, chunks_flat f n, show 64 * (n + 1) = 64 * n + 64 from by omega, List.range_add, List.map_append,
      List.map_map]
    simp only [List.flatMap_cons, List.flatMap_nil, List.append_nil]; rfl

theorem memGet_range (a : Nat) (g : Nat → Byte) (i : Nat) : ∀ n k, memGet (((List.range' k n).map (fun j => (a + j, g j))).filter (fun x => x.2 != 0)) (a + i)
    = if k ≤ i ∧ i < k + n then g i else 0
  | 0, k => by rw [if_neg (by omega)]; rfl
  | n + 1, k => by
    have ih := memGet_range a g i n (k + 1)
    rw [List.range'_succ, List.map_cons, List.filter_cons]
    by_cases h : g k = 0
    · rw [if_neg (by simp [h]), ih]
      by_cases hk : i = k
      · subst hk; rw [if_neg (by omega), if_pos (by omega), h]
      · by_cases h2 : k + 1 ≤ i ∧ i < k + 1 + n
        · rw [if_pos h2, if_pos (by omega)]
        · rw [if_neg h2, if_neg (by omega)]
    · rw [if_pos (by simpa using h), memGet, ih]
      by_cases hk : i = k
      · subst hk; rw [if_pos rfl, if_pos (by omega)]
      · rw [if_neg (by omega)]
        by_cases hl : i < k
        · rw [if_pos (by omega), if_neg (by omega)]
        · rw [if_neg (by omega)]
          by_cases h2 : k + 1 ≤ i ∧ i < k + 1 + n
          · rw [if_pos h2, if_pos (by omega)]
          · rw [if_neg h2, if_neg (by omega)]

theorem memGet_from (a i : Nat) (l : Bytes) : memGet (memFrom a l) (a + i) = l.getD i 0 := by
  rw [memFrom, List.range_eq_range', memGet_range a (fun j => l.getD j 0) i]
  by_cases h : i < l.length
  · rw [if_pos (by omega)]
  · rw [if_neg (by omega), List.getD_eq_getElem?_getD, List.getElem?_eq_none (by omega)]; rfl

theorem mem_bytes (a n m : Nat) (l : Bytes) (h : l.length = m) (hn : m ≤ 64 * n) (w : W) (hj : w.jr = []) (hb : w.base = memFrom a l) :
    (List.range n).flatMap (fun i => getBytes w (a + 64 * i) 64) = l ++ zeros (64 * n - m) := by
  have hf : ∀ i, getBytes w (a + 64 * i) 64 = (List.range 64).map (fun j => (fun k => l.getD k 0) (64 * i + j)) := by
    intro i
    simp only [getBytes]
    apply congrArg (fun f => (List.range 64).map f)
    funext j
    rw [getByte, hj, hb, show a + 64 * i + j = a + (64 * i + j) from by omega, List.find?_nil, ← memGet_from a (64 * i + j) l]
  simp only [hf]
  rw [chunks_flat (fun k => l.getD k 0) n]
  apply List.ext_getElem
  · rw [List.length_map, List.length_range, List.length_append, zeros, List.length_replicate]; omega
  · intro i h1 h2
    rw [List.getElem_map, List.getElem_range]
    by_cases hi : i < m
    · rw [List.getElem_append_left (by omega), List.getD_eq_getElem?_getD, List.getElem?_eq_getElem (by omega)]; rfl
    · rw [List.getElem_append_right (by omega), List.getD_eq_getElem?_getD, List.getElem?_eq_none (by omega)]
      exact (List.getElem_replicate ..).symm

theorem read_at (acc : Acc) (he : acc.env.rd = []) (a n m : Nat) (l : Bytes) (h : l.length = m) (hn : m ≤ 64 * n) (hz : 64 * n ≠ 0)
    (ha : a % 64 = 0) (w : W) (hj : w.jr = []) (hb : w.base = memFrom a l) (hi : w.b.ras.inj = []) :
    readBytes acc a (64 * n) w = (.ok, l ++ zeros (64 * n - m), (readSpan acc n a w).2.2) := by
  obtain ⟨h1, h2⟩ := readSpan_bytes acc he n a w hi
  have hlen : (l ++ zeros (64 * n - m)).length = 64 * n := by
    rw [List.length_append, zeros, List.length_replicate]; omega
  have hl : lineOf a = a := by simp only [lineOf]; omega
  have hc : (a + 64 * n - 1 - a) / 64 + 1 = n := by omega
  simp only [readBytes, if_neg hz, hl, hc]
  rw [mem_bytes a n m l h hn w hj hb] at h2
  simp only [h1, h2, Nat.sub_self, List.drop_zero]
  rw [List.take_of_length_le (Nat.le_of_eq hlen)]

/-- A PATCH image that verifies, whose format the running Helm may hand over or not. -/
def PatchImage (img : Bytes) (len : Nat) (refused : Bool) : Prop := tableErr {} true img len = none
    ∧ bytesAt (bytesAt img (sigOff img) 5504) 0 96 = zeros 96 ∧ bytesAt (bytesAt img (sigOff img) 5504) 0xC0 1952 = zeros 1952
    ∧ fld img 0x0C 4 = 0 ∧ ((sectBytes img 1).map (fun h => !helmOk h)).getD false = false
    ∧ (libOf img).isSome = true ∧ structOf false img = some []
    ∧ ((sectBytes img 1).isSome && (decide (0 < fld img 0x1A 2) || decide (fld img 0x1C 2 < 0))) = refused

theorem begunC_keeps (b : Blk) (op : Nat) (l : List (Nat × Nat × Nat)) (m : Mem) : (begunC b op l m).jr = [] ∧ (begunC b op l m).base = m
    ∧ (begunC b op l m).b.ras = b.ras ∧ (begunC b op l m).b.sec.fuses = b.sec.fuses ∧ (begunC b op l m).b.sec.keyOk = b.sec.keyOk
    ∧ (begunC b op l m).b.glb = b.glb ∧ (begunC b op l m).build = {} ∧ (begunC b op l m).b.eng = b.eng
    ∧ (begunC b op l m).b.patch = b.patch := ⟨rfl, rfl, rfl, rfl, rfl, rfl, rfl, rfl, rfl⟩

/-- Where the signature checks answer true, such an image is read and accepted. -/
theorem patch_reads (he : ∀ k d g, Config.ecdsaVerify k d g = true) (hm : ∀ k d g, Config.mldsaVerify k d g = true)
    (b : Blk) (n m : Nat) (h : Bytes) (r : Bool) (h1 : critB b 0x83 (aPatch (64 * n)) = true) (hwf : memWf (memFrom 0x100000 h) = true)
    (hl : h.length = m) (hn : m ≤ 64 * n) (hz : 64 * n ≠ 0) (hi : PatchImage (h ++ zeros (64 * n - m)) (64 * n) r)
    (hr : b.ras.inj = []) (hs : b.sec.fuses = fusesV) (hk : b.sec.keyOk = true) (hg : b.glb.svn = 0 ∧ b.glb.hstate = 0)
    (hc : patchCheck (begunC b 0x83 (aPatch (64 * n)) (memFrom 0x100000 h)) (critOf b 0x83 (aPatch (64 * n))) = none)
    (hf : linesReadable (begunC b 0x83 (aPatch (64 * n)) (memFrom 0x100000 h)) 0x100000 (64 * n) = true) :
    ∃ s k, s = stPt b n h ∧ k = critOf b 0x83 (aPatch (64 * n)) ∧ Issued s c0 {} k 0x83 ∧ s.blk.patch = b.patch
      ∧ patchCheck (begun s c0 k) k = none ∧ linesReadable (begun s c0 k) 0x100000 (64 * n) = true
      ∧ ∃ w, readBytes (seAcc {} 1) 0x100000 (64 * n) (begun s c0 k) = (.ok, h ++ zeros (64 * n - m), w)
        ∧ patchErr w (h ++ zeros (64 * n - m)) (64 * n) = none ∧ formatRefused w (h ++ zeros (64 * n - m)) = r
        ∧ w.b.patch = b.patch ∧ w.b.eng = b.eng := by
  refine ⟨_, _, rfl, rfl, issued_crit _ _ _ h1 hwf, rfl, ?_⟩
  rw [stPt, begun_crit _ _ _ h1]
  refine ⟨hc, hf, ?_⟩
  obtain ⟨b1, b2, b3, b4, b5, b6, b7, b8, b9⟩ := begunC_keeps b 0x83 (aPatch (64 * n)) (memFrom 0x100000 h)
  generalize begunC b 0x83 (aPatch (64 * n)) (memFrom 0x100000 h) = v at b1 b2 b3 b4 b5 b6 b7 b8 b9
  have hv : v.b.ras.inj = [] := by rw [b3, hr]
  refine ⟨_, read_at (seAcc {} 1) rfl 0x100000 n m h hl hn hz (by decide) v b1 b2 hv, ?_⟩
  obtain ⟨k1, k2, k3, k4, k5⟩ := readSpan_keeps (seAcc {} 1) rfl n 0x100000 v hv
  generalize (readSpan (seAcc {} 1) n 0x100000 v).2.2 = y at k1 k2 k3 k4 k5
  have hs : y.b.sec.fuses = fusesV := by rw [k2, b4, hs]
  have hk : y.b.sec.keyOk = true := by rw [k2, b5, hk]
  have hg : y.b.glb.svn = 0 ∧ y.b.glb.hstate = 0 := by rw [k3, b6]; exact hg
  have hm2 : max (minSvn y.b.sec) y.b.glb.svn = 0 := by rw [hg.1, minSvn, hs]; rfl
  have hbuild : y.build = {} := by rw [k1, b7]
  generalize h ++ zeros (64 * n - m) = img at hi
  obtain ⟨i1, i2, i3, i4, i5, i6, i7, i8⟩ := hi
  refine ⟨?_, by rw [formatRefused, hg.2, i8], by rw [k5, b9], by rw [k4, b8]⟩
  rw [patchErr, verify_of y true img _ he hm hs hk (by rw [hbuild]; exact i1) i2 i3 _ hm2, i7]
  simp only [i5]
  cases hlib : libOf img with
  | none => rw [hlib] at i6; cases i6
  | some l => rfl

/-- A store that one kernel fills has no place for another. -/
theorem no_place (l : List (Nat × Bytes)) (w : W) (hl : l.map (fun e => (e.1, e.2.isEmpty, fld e.2 6 2)) = [(200, false, 1)])
    (hk : w.b.eng.kslots = [(7, { base := 0, ninstr := 65536 })]) : swapLib l w = none := by
  cases l with
  | nil => cases hl
  | cons x r =>
    obtain ⟨a, g⟩ := x
    simp only [List.map_cons, List.cons.injEq, Prod.mk.injEq, List.map_eq_nil_iff] at hl
    obtain ⟨⟨rfl, hg, hf⟩, rfl⟩ := hl
    have hf2 : (w.b.eng.kslots.filter (fun k => !([(200, g)].any (fun e => e.1 == k.1)))) = [(7, { base := 0, ninstr := 65536 })] := by
      rw [hk]; rfl
    have ha : kAlloc [(0, 65536)] 1 = none := by decide +kernel
    simp only [swapLib, hf2, placeLib, hg, hf, Bool.false_eq_true, if_false, kSpans]
    rw [show (List.filter (fun k : Nat × KSlot => k.1 != 200) [(7, { base := 0, ninstr := 65536 })]).map (fun k => (k.2.base, k.2.ninstr)) = [(0, 65536)] from rfl, ha]

/-- Such images: a LIB section with and without a patch under way; a LIB whose kernel finds no place; a HELM section that takes over from
format 5 only, and one that takes over from format 0. -/
theorem wit_PatchesVerify (he : ∀ k d g, Config.ecdsaVerify k d g = true) (hm : ∀ k d g, Config.mldsaVerify k d g = true) :
    (∀ x ∈ [none, some (patchAt 0)], ∃ s k, s = stPt (blkPt x) 89 headLib ∧ Issued s c0 {} k 0x83 ∧ s.blk.patch = x
      ∧ patchCheck (begun s c0 k) k = none ∧ linesReadable (begun s c0 k) 0x100000 5696 = true
      ∧ ∃ img w, readBytes (seAcc {} 1) 0x100000 5696 (begun s c0 k) = (.ok, img, w) ∧ patchErr w img 5696 = none
        ∧ formatRefused w img = false ∧ w.b.patch = x ∧ sectBytes img 1 = none ∧ (swapLib ((libOf img).getD []) w).isSome = true)
    ∧ (∃ s k, Issued s c0 {} k 0x83 ∧ patchCheck (begun s c0 k) k = none ∧ linesReadable (begun s c0 k) 0x100000 5824 = true
      ∧ ∃ img w, readBytes (seAcc {} 1) 0x100000 5824 (begun s c0 k) = (.ok, img, w) ∧ patchErr w img 5824 = none
        ∧ formatRefused w img = false ∧ w.b.patch = none ∧ swapLib ((libOf img).getD []) w = none)
    ∧ ∀ x ∈ [(5, true), (0, false)], ∃ s k, s = stPt (blkPt none) 91 (headHelm x.1) ∧ Issued s c0 {} k 0x83
      ∧ patchCheck (begun s c0 k) k = none ∧ linesReadable (begun s c0 k) 0x100000 5824 = true
      ∧ ∃ img w, readBytes (seAcc {} 1) 0x100000 5824 (begun s c0 k) = (.ok, img, w) ∧ patchErr w img 5824 = none
        ∧ formatRefused w img = x.2 ∧ w.b.patch = none ∧ (sectBytes img 1).isSome = true ∧ (swapLib ((libOf img).getD []) w).isSome = true := by
  refine ⟨?_, ?_, ?_⟩
  · intro x hx
    have h1 : critB (blkPt x) 0x83 (aPatch (64 * 89)) = true := by
      simp only [List.mem_cons, List.not_mem_nil, or_false] at hx
      rcases hx with rfl | rfl <;> decide +kernel
    obtain ⟨s, k, rfl, -, q1, q2, q3, q4, w, q5, q6, q7, q8, -⟩ := patch_reads he hm (blkPt x) 89 192 headLib false h1 (by decide +kernel)
      (by decide +kernel) (by decide) (by decide) (by unfold PatchImage; decide +kernel) rfl rfl rfl ⟨rfl, rfl⟩
      (by simp only [List.mem_cons, List.not_mem_nil, or_false] at hx
          rcases hx with rfl | rfl <;> decide +kernel)
      (by simp only [List.mem_cons, List.not_mem_nil, or_false] at hx
          rcases hx with rfl | rfl <;> decide +kernel)
    have hlib : libOf (headLib ++ zeros (64 * 89 - 192)) = some [] := by decide +kernel
    exact ⟨_, k, rfl, q1, q2, q3, q4, _, w, q5, q6, q7, q8, by decide +kernel, by rw [hlib]; rfl⟩
  · obtain ⟨s, k, -, -, q1, -, q3, q4, w, q5, q6, q7, q8, q9⟩ := patch_reads he hm
      { blkPt none with eng := { blkP.eng with kslots := [(7, { base := 0, ninstr := 65536 })] } } 91 320 headKern false (by decide +kernel)
      (by decide +kernel) (by decide +kernel) (by decide) (by decide) (by unfold PatchImage; decide +kernel) rfl rfl rfl ⟨rfl, rfl⟩
      (by decide +kernel) (by decide +kernel)
    refine ⟨s, k, q1, q3, q4, _, w, q5, q6, q7, q8, ?_⟩
    exact no_place _ w (by decide +kernel) (by rw [q9])
  · intro x hx
    simp only [List.mem_cons, List.not_mem_nil, or_false] at hx
    rcases hx with rfl | rfl
    · obtain ⟨s, k, rfl, -, q1, -, q3, q4, w, q5, q6, q7, q8, -⟩ := patch_reads he hm (blkPt none) 91 320 (headHelm 5) true (by decide +kernel)
        (by decide +kernel) (by decide +kernel) (by decide) (by decide) (by unfold PatchImage; decide +kernel) rfl rfl rfl ⟨rfl, rfl⟩
        (by decide +kernel) (by decide +kernel)
      have hlib : libOf (headHelm 5 ++ zeros (64 * 91 - 320)) = some [] := by decide +kernel
      exact ⟨_, k, rfl, q1, q3, q4, _, w, q5, q6, q7, q8, by decide +kernel, by rw [hlib]; rfl⟩
    · obtain ⟨s, k, rfl, -, q1, -, q3, q4, w, q5, q6, q7, q8, -⟩ := patch_reads he hm (blkPt none) 91 320 (headHelm 0) false (by decide +kernel)
        (by decide +kernel) (by decide +kernel) (by decide) (by decide) (by unfold PatchImage; decide +kernel) rfl rfl rfl ⟨rfl, rfl⟩
        (by decide +kernel) (by decide +kernel)
      have hlib : libOf (headHelm 0 ++ zeros (64 * 91 - 320)) = some [] := by decide +kernel
      exact ⟨_, k, rfl, q1, q3, q4, _, w, q5, q6, q7, q8, by decide +kernel, by rw [hlib]; rfl⟩

/-! ### Witnesses: faults, resets, clocks -/

def aArm (ms n : Nat) : List (Nat × Nat × Nat) := [(0x10, 4, ms), (0x14, 2, n), (0x16, 1, 1), (0x18, 8, 0x10001)]
/-- A block that is armed for detector 3. -/
def blkArm : Blk := { blk0 with ras := { armed := true, remain := 4, injMask := 8 } }

theorem wit_FaultsAndInjection :
    (∀ x ∈ [(5, 2), (0, 0)], Issued (withC blk0 0x86 (aArm x.1 x.2)) c0 {} (critOf blk0 0x86 (aArm x.1 x.2)) 0x86
      ∧ (critOf blk0 0x86 (aArm x.1 x.2)).part = 0 ∧ arg (critOf blk0 0x86 (aArm x.1 x.2)) 0x10 4 = x.1)
    ∧ (stOf blkArm).blk.ras.armed = true ∧ (stOf blk0).blk.glb.state ≠ .reset
    ∧ ((2 : Nat) ≤ bits (0x0000000000010005 : Word).toNat 2 1
      ∧ ((0x0000000000000001 : Word).getLsbD 0 = true ∧ bits (0x0000000000000001 : Word).toNat 31 16 = 0)
      ∧ instLacking (openW (stOf blk0)) 3 (bits (0x00FF000000010001 : Word).toNat 55 48) 0 = true)
    ∧ (bits (0x0005000000010001 : Word).toNat 2 1 < 2 ∧ instLacking (openW (stOf blk0)) 3 (bits (0x0005000000010001 : Word).toNat 55 48) 0 = false
      ∧ (0x0005000000010001 : Word).getLsbD 0 = true ∧ bits (0x0005000000010001 : Word).toNat 31 16 ≠ 0
      ∧ injPermitted (openW (stOf blk0)) 3 = false ∧ injPermitted (openW (stOf blkArm)) 3 = true ∧ (0x0005000000010000 : Word).getLsbD 0 = false)
    ∧ ((stOf blk0).blk.glb.mainReset = false ∧ (stOf blk0).blk.ras.inj = [] ∧ (stOf blk0).blk.glb.helmStopped = false
      ∧ (stOf blk0).blk.ras.bgctl.getLsbD 2 = false)
    ∧ (∀ u ∈ [UnitId.slice 31, .se 63, .pr 7, .relight 7, .seal 3, .lantern, .helm, .frontEnd [0], .pool],
        unitExists (openW (stOf blk0)) u = true)
    ∧ (∀ x ∈ [(0, 31), (4, 7), (5, 7), (9, 3)], (machineUnit x.1 x.2).isSome = true
        ∧ (machineUnit x.1 x.2).all (fun u => unitExists (openW (stOf blk0)) u && unitInst u == x.2) = true) := by
  refine ⟨?_, by decide +kernel, by decide +kernel, by decide +kernel, by decide +kernel, by decide +kernel, by decide +kernel, by decide +kernel⟩
  intro x hx
  simp only [List.mem_cons, List.not_mem_nil, or_false] at hx
  rcases hx with rfl | rfl <;> exact ⟨issued_crit _ _ _ (by decide +kernel), rfl, by decide +kernel⟩

/-- A partition other than 0; a window that is closed; detectors and units that the block lacks, its reset; a machine without a unit;
a Helm that has stopped; a scrub that is switched off. -/
theorem wit_FaultsElsewhere :
    (∀ x ∈ [(5, 2), (0, 0)], Issued (withC blk0 0x86 (aArm x.1 x.2) [] 1) c0 {} (critOf blk0 0x86 (aArm x.1 x.2) 1) 0x86
      ∧ (critOf blk0 0x86 (aArm x.1 x.2) 1).part ≠ 0 ∧ arg (critOf blk0 0x86 (aArm x.1 x.2) 1) 0x10 4 = x.1)
    ∧ ((stOf blk0).blk.ras.armed = false ∧ 0x11 < 0x12 ∧ (stOf {}).blk.glb.state = .reset)
    ∧ ((stOf {}).blk.glb.mainReset = true ∧ unitExists (openW (stOf blk0)) (.slice 32) = false ∧ (3 ≠ 1 ∧ 3 ≠ 2)
      ∧ machineExists (openW (stOf blk0)) 12 0 = false ∧ machineExists (openW (stOf blk0)) 11 64 = false)
    ∧ ((stOf blk0).blk.ras.inj = [] ∧ 63 < (stOf blk0).build.nse ∧ (seOf (stK (se0 .running) 0x7E 0) 0).run.isSome = true
      ∧ (stK (se0 .running) 0x7E 0).blk.glb.mainReset = false ∧ (stK (se0 .running) 0x7E 0).blk.ras.inj = [] ∧ (seOf (stOf blk0) 0).run.isSome = false)
    ∧ (stOf { blk0 with glb := { blk0.glb with helmStopped := true } }).blk.glb.helmStopped = true
    ∧ (stOf { blk0 with ras := { bgctl := 4 } }).blk.ras.bgctl.getLsbD 2 = true
    ∧ ((stOf { blk0 with glb := { blk0.glb with helmRestarts := [0, 0] } }).blk.glb.helmRestarts.filter
        (fun u => decide (nowUs (openW (stOf blk0)) ≤ u + 1000000))).length = 2 := by
  refine ⟨?_, by decide +kernel, by decide +kernel, by decide +kernel, by decide +kernel, by decide +kernel, by decide +kernel⟩
  intro x hx
  simp only [List.mem_cons, List.not_mem_nil, or_false] at hx
  rcases hx with rfl | rfl <;> exact ⟨issued_crit _ _ _ (by decide +kernel), by decide, by decide +kernel⟩

/-- A block whose main reset is asserted, and one whose self-test runs. -/
def blkRst (latch : Bool) : Blk := { blk0 with glb := { mainReset := true }, sec := { blk0.sec with snuffLatch := latch } }

theorem wit_ResetsAndSelfTest : (stOf blk0).blk.glb.mainReset = false
    ∧ (∀ x ∈ [(true, BlockState.snuffed), (false, .dark)], (stOf (blkRst x.1)).blk.glb.mainReset = true
        ∧ x.2 = (if (stOf (blkRst x.1)).blk.sec.snuffLatch then .snuffed else .dark) ∧ (stOf (blkRst x.1)).blk.ras.dbg = false)
    ∧ (stOf { blk0 with glb := { state := .dark, mainReset := false, testing := true } }).blk.glb.testing = true
    ∧ (stOf { blk0 with glb := { state := .dark, mainReset := false, testing := true } }).blk.glb.state = .dark
    ∧ (stOf { blkRst false with ras := { dbg := true } }).blk.ras.dbg = true ∧ (stOf blk0).blk.glb.testing = false
    ∧ ((0x0400000000000000 : Word) &&& 0xFC0FFFFFFFFFFFFF) &&& 0xF400000000000000 ≠ 0
    ∧ ((5 : Word) &&& BitVec.ofNat 64 (2 ^ (stOf blk0).build.nse - 1)).getLsbD 2 = true := by decide +kernel

/-- A block of 16 memory ports that samples into slots at a base. -/
def stSamp (base : Word) (n : Nat) : State := { stOf { blkG with tlm := { blkG.tlm with sampBase := base, sample := n } } with build := { nmp := 16 } }
/-- The same with a sample of an earlier period that still waits, and with the line of the slot in use. -/
def stSampOld : State := { stSamp 0xA00001 1 with blk := { (stSamp 0xA00001 1).blk with tlm := { (stSamp 0xA00001 1).blk.tlm with todo := [(0xA00000, [0])] } } }
def busyLine (a : Nat) (b : Blk) : Blk :=
  { b with slices := [(portOf {} a, { haz := [{ line := a, q := [{ job := .fwd 7, write := true, started := true }] }] })] }
def stSampBusy : State := { stSamp 0xA00001 1 with blk := busyLine 0xA04000 (stSamp 0xA00001 1).blk }
def kSnap : Cmd := cmdOf 0x90 [(0x10, 8, 0x100000), (0x18, 1, 16)]

theorem wit_ClocksAndTelemetry :
    ((stOf blk0).blk.glb.mainReset = false ∧ (stOf blk0).blk.crp.tCore = (stOf blk0).blk.crp.tAon)
    ∧ (∀ u ∈ [UnitId.se 3, .slice 31, .relight 7, .pr 2, .seal 1], unitExists (openW (stOf blk0)) u = true ∧ unitIdle (openW (stOf blk0)) u = true
        ∧ u ∉ (stOf blk0).blk.crp.clockGated ∧ (stOf blk0).blk.crp.cgDis = false)
    ∧ (∀ b ∈ [true, false], ∀ u ∈ [UnitId.se 3, .relight 7, .slice 31],
        (stOf { blk0 with crp := { blk0.crp with cgDis := true, sePgDis := b, rlPgDis := b } }).blk.crp.cgDis = true
        ∧ (stOf { blk0 with crp := { blk0.crp with cgDis := true, sePgDis := b, rlPgDis := b } }).blk.crp.sePgDis = b
        ∧ (stOf { blk0 with crp := { blk0.crp with cgDis := true, sePgDis := b, rlPgDis := b } }).blk.crp.rlPgDis = b
        ∧ unitIdle (openW (stOf { blk0 with crp := { blk0.crp with cgDis := true, sePgDis := b, rlPgDis := b } })) u = true)
    ∧ (unitExists (openW (stOf blk0)) (.slice 32) = false ∧ unitIdle (openW (stOf blk0)) .helm = false
      ∧ ((seOf (stK (se0 .running) 0x7E 0) 0).run).isSome = true ∧ (stOf {}).blk.glb.mainReset = true)
    ∧ (unitIdle (openW (stOf { blk0 with crp := { blk0.crp with clockGated := [.se 3] } })) (.se 3) = true
      ∧ UnitId.se 3 ∈ (stOf { blk0 with crp := { blk0.crp with clockGated := [.se 3] } }).blk.crp.clockGated
      ∧ (stOf { blk0 with crp := { blk0.crp with clockGated := [.se 3] } }).blk.crp.sePgDis = false)
    ∧ ((seOf (stOf blk0) 3).run = none ∧ (∀ o ∈ (stOf blk0).blk.fetches, o.queued = true → holdsEngine o 2 = false)
      ∧ ∃ o, (stOp blkG { opRl .rebuild 0 0 1 2 with queued := true, engine := some 2 }).blk.fetches.find? (fun o => o.queued && holdsEngine o 2) = some o)
    ∧ (Issued (with1 blkG kSnap) c0 {} kSnap 0x90 ∧ snapshotCheck (begun (with1 blkG kSnap) c0 kSnap) kSnap = none
      ∧ linesFree (begun (with1 blkG kSnap) c0 kSnap) (arg kSnap 0x10 8) (snapshot (begun (with1 blkG kSnap) c0 kSnap) (arg kSnap 0x18 1) kSnap.part 0).length = true
      ∧ linesFree (begun (with1 (busyLine 0x100000 blkG) kSnap) c0 kSnap) 0x100000 64 = false
      ∧ (Runs (with1 blkG { kSnap with phase := .running }) c0 { kSnap with phase := .running }
        ∧ (writeBytes (seAcc { wr := [(0x100000, .denied)] } 1) 0x100000
            (snapshot (openW (with1 blkG { kSnap with phase := .running })) 16 0 0) (openW (with1 blkG { kSnap with phase := .running }))).1 = .denied)
      ∧ ∃ w, writeBytes (seAcc {} 1) (arg kSnap 0x10 8) (snapshot (begun (with1 blkG kSnap) c0 kSnap) (arg kSnap 0x18 1) kSnap.part 0)
          (begun (with1 blkG kSnap) c0 kSnap) = (.ok, w))
    ∧ (∀ x ∈ [(0x400000, 0, false, true), (0x400001, 0, true, true), (0xA00001, 1, true, false)],
        (stSamp (BitVec.ofNat 64 x.1) x.2.1).blk.glb.mainReset = false ∧ memWf (stSamp (BitVec.ofNat 64 x.1) x.2.1).mem = true
        ∧ (stSamp (BitVec.ofNat 64 x.1) x.2.1).blk.tlm.sampBase.getLsbD 0 = x.2.2.1
        ∧ (snapshot (openW (stSamp (BitVec.ofNat 64 x.1) x.2.1)) 0x17 0xFF x.2.1).length ≤ 16384
        ∧ slotBad (openW (stSamp (BitVec.ofNat 64 x.1) x.2.1)) (x.1 / 16384 * 16384 + 16384 * x.2.1) = x.2.2.2
        ∧ linesFree (openW (stSamp (BitVec.ofNat 64 x.1) x.2.1)) (x.1 / 16384 * 16384 + 16384 * x.2.1)
            (snapshot (openW (stSamp (BitVec.ofNat 64 x.1) x.2.1)) 0x17 0xFF x.2.1).length = true)
    ∧ (stSampOld.blk.tlm.todo ≠ [] ∧ stSampOld.blk.tlm.sampBase.getLsbD 0 = true ∧ slotBad (openW stSampOld) 0xA04000 = false
      ∧ stSampBusy.blk.tlm.todo = [] ∧ slotBad (openW stSampBusy) 0xA04000 = false ∧ linesFree (openW stSampBusy) 0xA04000 64 = false) := by
  refine ⟨by decide +kernel, by decide +kernel, by decide +kernel, by decide +kernel, by decide +kernel,
    ⟨by decide +kernel, by decide +kernel, ⟨_, rfl⟩⟩,
    ⟨issued_of _ _ _ _ _ (by decide +kernel), by decide +kernel, by decide +kernel, by decide +kernel,
      ⟨⟨by decide +kernel, by decide, by decide +kernel, rfl, rfl⟩, by decide +kernel⟩, ok1_of _ (by decide +kernel)⟩, by decide +kernel, by decide +kernel⟩

/-! ### Witnesses: register writes, partitions, fabric commands, failed checks -/

/-- A definition of partition 1 that takes what partition 0 leaves: SEs 32 to 63, contexts 2048 on, queue pairs 4096 on. -/
def aPart : List (Nat × Nat × Nat) :=
  [(0x10, 1, 1), (0x12, 2, 100), (0x14, 2, 16), (0x16, 2, 16), (0x18, 8, 0xFFFFFFFF00000000), (0x20, 2, 2048), (0x22, 2, 2048),
   (0x24, 2, 4096), (0x26, 2, 4096), (0x28, 2, 16), (0x30, 4, 64)]
def blkHalf : Blk :=
  { blk0 with parts := [(0, { seMask := 0xFFFFFFFF, ctxFirst := 1, ctxCount := 2047, qpCount := 4096, cmdShare := 2048, groupMax := 128
                              regionMax := 8192, poolKib := 8192, sliceUs := 100 })] }
/-- A fabric command 77 of the peer with coordinate 1: a NOP of partition 0, context 1. -/
def rxFab : Rx := rxOf 0 7 (fill 144 [(0, 8, 77), (0xA, 2, 1), (0x10, 1, 1)])
def kFabIn : Cmd := { kNop with id := { q := fabricQ, n := 0 }, cls := 1, msgid := 77, src := 1 }

theorem wit_RegisterWrites :
    ((stOf blk0).blk.glb.state ≠ .reset ∧ portsOpen (openW (stOf blk0)) = true ∧ (stOf { blk0 with glb := {} }).blk.glb.state = .reset
      ∧ portsOpen (openW (stOf { blk0 with glb := { blk0.glb with state := .dark } })) = false
      ∧ (∀ b ∈ [true, false], (stOf { blk0 with lnk := { en := b } }).blk.lnk.en = b
        ∧ portsOpen (openW (stOf { blk0 with lnk := { en := b } })) = true))
    ∧ writeReg {} 0x10010 0 (openW (stOf blk0)) = .ignored
    ∧ ((bits (0 : Word).toNat 9 0 = 0 ∧ 1000 < bits (1001 : Word).toNat 9 0)
      ∧ (bits (1 : Word).toNat 9 0 ≠ 0 ∧ bits (1000 : Word).toNat 9 0 ≤ 1000) ∧ bits (0x10000 : Word).toNat 15 0 = 0
      ∧ (bits (0x003F00000001 : Word).toNat 47 32 < 64 ∧ bits (0x004000000000 : Word).toNat 15 0 = 0)
      ∧ (64 ≤ bits (0x004000000001 : Word).toNat 47 32 ∧ bits (0x004000000001 : Word).toNat 15 0 ≠ 0))
    ∧ (Issued (withC blkHalf 0x84 aPart) c0 {} (critOf blkHalf 0x84 aPart) 0x84 ∧ (withC blkHalf 0x84 aPart).blk.patch = none
      ∧ partitionCheck (begun (withC blkHalf 0x84 aPart) c0 (critOf blkHalf 0x84 aPart)) (critOf blkHalf 0x84 aPart) = none
      ∧ (∀ e ∈ (withC blkHalf 0x84 aPart).blk.eng.ses, e.2.run = none ∧ e.2.moveTo = none)
      ∧ (∃ T, T = tset blkHalf.parts (arg (critOf blkHalf 0x84 aPart) 0x10 1 % 16) (partOfArgs (critOf blkHalf 0x84 aPart))
        ∧ (T.map (·.1)).Pairwise (· < ·) ∧ T.all (fun x => decide (x.1 < 16)) = true
        ∧ T.all (fun x => T.all (fun y => x.1 == y.1 || x.2.seMask &&& y.2.seMask == 0)) = true))
    ∧ (rxFab.pk.hdr.opcode = 7 ∧ ∀ l ∈ [[], [kFabIn]], ∃ pk w, receive rxFab (openW (stOf { blkG with cmds := l })) = (some pk, w)
        ∧ decide (fld pk.payload 0 8 = 77 ∧ pk.hdr.src = 1 ∧ w.b.fabRsps = [] ∧ w.b.cmds = l) = true) := by
  have h1 : critB blkHalf 0x84 aPart = true := by decide +kernel
  refine ⟨by decide +kernel, rfl, by decide +kernel, ⟨issued_crit _ _ _ h1, rfl, ?_⟩, rfl, ?_⟩
  · rw [begun_crit _ _ _ h1]
    exact ⟨by decide +kernel, by decide +kernel, ⟨_, rfl, by decide +kernel, by decide +kernel, by decide +kernel⟩⟩
  · intro l hl
    simp only [List.mem_cons, List.not_mem_nil, or_false] at hl
    rcases hl with rfl | rfl
    · exact recv_of _ (fun pk w => decide (fld pk.payload 0 8 = 77 ∧ pk.hdr.src = 1 ∧ w.b.fabRsps = [] ∧ w.b.cmds = [])) (by decide +kernel)
    · exact recv_of _ (fun pk w => decide (fld pk.payload 0 8 = 77 ∧ pk.hdr.src = 1 ∧ w.b.fabRsps = [] ∧ w.b.cmds = [kFabIn])) (by decide +kernel)

/-- A latched pair with another register read between; the faults of a read; a PARTITION_SET held by a patch; a repeated fabric command. -/
theorem wit_RegistersElsewhere :
    (latchOf 0x50010 = some (0, 0x50010, [8]) ∧ latchOf 0x110058 = some (3, 0x110058, [8, 16, 24]) ∧ (stOf blk0).blk.glb.state ≠ .reset
      ∧ tfind (readAccess .none 0x110058 (readAccess .none 0x50010 (stOf blk0)).2).2.blk.latches 0
        = tfind (readAccess .none 0x50010 (stOf blk0)).2.blk.latches 0)
    ∧ ((readAccess .none 0x10030 (stOf { blk0 with crp := { blk0.crp with peakMw := 5 } })).2.blk.crp.peakMw = 0
      ∧ (readAccess .bothCopies 0x10030 (stOf blk0)).1 = { data := 0, err := true } ∧ (stOf {}).blk.glb.state = .reset)
    ∧ (findCmd (openW (with1 { blk0 with patch := some (patchAt 0) } (critOf blkHalf 0x84 aPart))) c0 = some (critOf blkHalf 0x84 aPart)
      ∧ (critOf blkHalf 0x84 aPart).phase = .fetched)
    ∧ ∃ pk w, receive rxFab (openW (stOf { blkG with fabRsps := [{ msgid := 77, src := 1, pk := rxFab.pk }] })) = (some pk, w)
      ∧ decide ((w.b.fabRsps.find? (fun r => r.msgid == fld pk.payload 0 8 && r.src == pk.hdr.src)).isSome = true) = true := by
  refine ⟨by decide +kernel, by decide +kernel, ⟨by simp [findCmd, openW, with1, stOf]; rfl, rfl⟩, recv_of _
    (fun pk w => decide ((w.b.fabRsps.find? (fun r => r.msgid == fld pk.payload 0 8 && r.src == pk.hdr.src)).isSome = true)) (by decide +kernel)⟩

/-- The check of a row that is not critical. -/
def chkOf (op : Nat) : W → Cmd → Check :=
  match op with
  | 0x20 => watchOpenCheck | 0x30 => accumClearCheck | 0x31 => accumWriteCheck | 0x33 => reduceCheck | 0x34 => gatherCheck
  | 0x62 => relightCheck | 0x64 => degradedCheck | 0x70 => fun w k => copyCheck w k true | 0x71 => fun w k => copyCheck w k false
  | 0x90 => snapshotCheck | 0x11 => retireCheck | 0x12 => soundCheck | 0x63 => restripeCheck | 0x10 => regionCheck
  | 0x41 => kernelLoadCheck | 0x82 => fun _ k => deny (k.part != 0) 0xB2 | 0x83 => patchCheck | _ => partitionCheck

/-- A command of each row on a block without regions and groups, where its own check fails. -/
theorem wit_FailedChecksEndCommands :
    (∀ x ∈ [(0x20, [(0x10, 6, 1), (0x1A, 1, 1)]), (0x30, []), (0x31, [(0x30, 8, 1)]), (0x33, [(0x14, 2, 1)]), (0x34, [(0x14, 2, 1), (0x16, 2, 0xFFFF)]),
        (0x12, [(0x12, 1, 1)]), (0x64, [(0x20, 8, 64)]), (0x70, [(0x18, 8, 64), (0x20, 8, 64)]), (0x71, [(0x20, 8, 64)]), (0x90, [(0x18, 1, 16)])],
      issuedB (with1 blk0 (cmdOf x.1 x.2)) c0 {} (cmdOf x.1 x.2) x.1 = true
      ∧ (chkOf x.1 (begun (with1 blk0 (cmdOf x.1 x.2)) c0 (cmdOf x.1 x.2)) (cmdOf x.1 x.2)).isSome = true)
    ∧ (∀ x ∈ [(0x10, 0, [(0x18, 4, 1), (0x1C, 1, 1)]), (0x11, 0, []), (0x62, 0, []), (0x41, 0, [(0x20, 4, 8)]), (0x63, 0, [(0x16, 1, 1)]), (0x82, 1, []),
        (0x83, 1, [(0x18, 4, 64)]), (0x84, 1, [(0x12, 2, 100)])],
      Issued (withC blk0 x.1 x.2.2 [] x.2.1) c0 {} (critOf blk0 x.1 x.2.2 x.2.1) x.1 ∧ (withC blk0 x.1 x.2.2 [] x.2.1).blk.patch = none
      ∧ (chkOf x.1 (begun (withC blk0 x.1 x.2.2 [] x.2.1) c0 (critOf blk0 x.1 x.2.2 x.2.1)) (critOf blk0 x.1 x.2.2 x.2.1)).isSome = true) := by
  refine ⟨by decide +kernel, ?_⟩
  intro x hx
  have h1 : critB blk0 x.1 x.2.2 x.2.1 = true := by
    simp only [List.mem_cons, List.not_mem_nil, or_false] at hx
    rcases hx with rfl | rfl | rfl | rfl | rfl | rfl | rfl | rfl <;> decide +kernel
  refine ⟨issued_crit _ _ _ h1, rfl, ?_⟩
  rw [begun_crit _ _ _ h1]
  simp only [List.mem_cons, List.not_mem_nil, or_false] at hx
  rcases hx with rfl | rfl | rfl | rfl | rfl | rfl | rfl | rfl <;> decide +kernel

/-! ### Terms that WellFormed refuses, one for each check -/

def rq256 : MpReq := { rq 0x1000 0 with data := zeros 256 }
def eBad : Env := { rd := [(65, .ok)] }
def pkBig : Packet := { (rxOf 0 6 []).pk with payload := zeros 4097 }

theorem test_wf_ports : (Instr.mpRead 32 (rq 0 0)).wf = false ∧ (Instr.mpRead 31 (rq 0 0)).wf = true ∧ (Instr.mpWrite 32 rq256).wf = false
    ∧ (Instr.quiesce 32).wf = false ∧ (Instr.lpLinkUp 8 true).wf = false ∧ (Instr.lpTxOff 8 0).wf = false := by decide +kernel
theorem test_wf_beats : (Instr.mpRead 0 rq256).wf = false ∧ (Instr.mpWrite 0 (rq 0 0)).wf = false ∧ (Instr.mpWrite 0 rq256).wf = true
    ∧ (Instr.mpWriteMasked 0 (rq 0 0)).wf = false ∧ (Instr.mpAtomic 0 (rq 0 0)).wf = false := by decide +kernel
theorem test_wf_answers : (Instr.mdResponse 0 0 []).wf = false ∧ (Instr.mdResponse 0 0 (List.replicate 5 .ok)).wf = false
    ∧ (Instr.mdResponse 0 4096 [.ok]).wf = false ∧ (Instr.mdResponse 0 4095 [.ok]).wf = true := by decide
theorem test_wf_lines : (Instr.mergeFlushTimeout 0 65).wf = false ∧ (Instr.mergeFlushTimeout 0 (2 ^ 48)).wf = false
    ∧ (Instr.nop c0 eBad).wf = false ∧ (Instr.nop c0 { wr := [(2 ^ 48, .ok)] }).wf = false := by decide +kernel
theorem test_wf_queues : (Instr.doorbell 8192 0).wf = false ∧ (Instr.commandFetch 8192 {}).wf = false ∧ (Instr.nop { q := 8193, n := 0 } {}).wf = false
    ∧ (Instr.nop { q := 8192, n := 0 } {}).wf = true ∧ (Instr.qpEnable 8192 0).wf = false := by decide
theorem test_wf_tables : (Instr.ctxEnable 4096).wf = false ∧ (Instr.adoptResend 256).wf = false ∧ (Instr.parityScrubStart 16384).wf = false
    ∧ (Instr.chunkDispatch 16 {}).wf = false ∧ (Instr.unitReady 0 16 0).wf = false ∧ (Instr.fetchDeadlineExpiry 0 16 {}).wf = false := by decide
theorem test_wf_engines : (Instr.vadd 64).wf = false ∧ (Instr.seDrain 64).wf = false ∧ (Instr.vadd 63).wf = true := by decide
theorem test_wf_packets : (Instr.ack { rxOf 0 6 [] with port := 8 } {}).wf = false ∧ (Instr.ack { port := 0, pk := pkBig } {}).wf = false
    ∧ (Instr.seqLossTimeout 1 6 none 0 {}).wf = false ∧ (Instr.seqLossTimeout 1 0 (some 65536) 0 {}).wf = false
    ∧ (Instr.seqLossTimeout 1 0 none (2 ^ 24) {}).wf = false := by decide +kernel
theorem test_wf_units : (Instr.unitReset (.slice 32) 1 6 0 {}).wf = false ∧ (Instr.unitReset (.se 64) 1 1 0 {}).wf = false
    ∧ (Instr.unitReset (.pr 8) 1 9 0 {}).wf = false ∧ (Instr.unitGate (.relight 8)).wf = false ∧ (Instr.unitGate (.seal 4)).wf = false
    ∧ (Instr.unitReset (.frontEnd [8192]) 2 7 0 {}).wf = false ∧ (Instr.unitReset .pool 3 7 0 {}).wf = false
    ∧ (Instr.unitReset .pool 1 256 0 {}).wf = false ∧ (Instr.unitReset .pool 1 4 (2 ^ 32) {}).wf = false := by decide
theorem test_wf_inputs : (Instr.tamperTrip .tamper 4 {}).wf = false ∧ (Instr.tamperTrip .vtrip 8 {}).wf = false ∧ (Instr.monitorWarn .cwarn 8 {}).wf = false
    ∧ (Instr.ssSnuffFrame (List.replicate 257 0) 0 {}).wf = false
    ∧ (Instr.sramScrub [{ array := 256, inst := 0, word := 0, double := false }] {}).wf = false
    ∧ (Instr.sramScrub [{ array := 1, inst := 256, word := 0, double := false }] {}).wf = false
    ∧ (Instr.sramScrub [{ array := 1, inst := 0, word := 2 ^ 32, double := false }] {}).wf = false
    ∧ (Instr.watchdogTrip 16 0 {}).wf = false ∧ (Instr.watchdogTrip 0 256 {}).wf = false := by decide +kernel
theorem test_wf_registers : (Instr.registerWrite 4 0 {}).wf = false ∧ (Instr.registerWrite (2 ^ 25) 0 {}).wf = false
    ∧ (Instr.registerWrite 0x10 0 {}).wf = true ∧ (Instr.injectWrite 18 0 {}).wf = false ∧ (Instr.injectWrite 17 0 {}).wf = true := by decide

/-! ### The spec's own numbers -/

/-- The interleave example under R34. -/
theorem test_portOf : portOf {} 0x12345600 = 22 := by decide
/-- The example under R130, and the row values of the worked example of chapter 5. -/
theorem test_gfmul : gfmul 0x0F 0x96 = 0x01 ∧ coef 2 0 1 = 0xF4 ∧ coef 2 1 1 = 0x8E ∧ gfinv 0xF4 = 0x03 := by decide +kernel
/-- Stripe 23 of that example: roles, fragments and holders. -/
theorem test_stripe : roleOf 10 2 3 23 = (false, 0) ∧ roleOf 10 2 6 23 = (true, 1) ∧ dataStripe 10 8 2 6 17 = 23 ∧ parityStripe 10 2 4 5 = 23
    ∧ dataFrag 10 8 23 1 = 17 ∧ parityFrag 10 2 23 1 = 5 ∧ holderOf 10 23 0 = 3 ∧ holderOf 10 23 1 = 4 := by decide +kernel
/-- Its parity bytes. -/
theorem test_parity : (parityLine 2 0 ((List.range 8).zip [[0x01], [0x02], [0x00], [0x10], [0x03], [0x00], [0x04], [0x08]])).getD 0 0 = 0x45
    ∧ (parityLine 2 1 ((List.range 8).zip [[0x01], [0x02], [0x00], [0x10], [0x03], [0x00], [0x04], [0x08]])).getD 0 0 = 0x6D := by decide +kernel
/-- Its decode after the loss of members 6 and 4, which recovers 0x07. -/
theorem test_decode : ((decodeData 8 2 ([(true, 0, [0x01]), (true, 2, [0x00]), (true, 3, [0x10]), (true, 4, [0x03]), (true, 5, [0x00]), (true, 6, [0x04])
      , (true, 7, [0x08]), (false, 0, [0x46])])).map (fun l => l.getD 1 [])) = some [0x07] := by decide +kernel
/-- CRG-128 with key 0 and counter 0 (R317). -/
theorem test_crg : crg128 ⟨0, 0, 0, 0⟩ ⟨0, 0, 0, 0⟩ = ⟨0x9FD66D31, 0xB5915A91, 0x9322E573, 0xCBCBBE15⟩
    ∧ (crg128 ⟨0, 0, 0, 0⟩ ⟨0, 0, 0, 0⟩).low64 = 0xB5915A919FD66D31 := by decide +kernel
/-- gfmul64 (R317). -/
theorem test_gfmul64 : gfmul64 0x8000000000000000 2 = 0x1B ∧ gfmul64 3 0x8000000000000001 = 0x8000000000000018 := by decide +kernel
/-- Narrowing (R317). -/
theorem test_narrow : narrow bf16 0x3F808000 = 0x3F80 ∧ narrow bf16 0x3F818000 = 0x3F82 ∧ narrow bf16 0x7F7FF000 = 0x7F80
    ∧ narrow bf16 0x7FA00001 = 0x7FC0 ∧ narrow f16 0x477FF000 = 0x7C00 ∧ narrow f16 0x33800000 = 1 := by decide +kernel
/-- Correctly rounded functions (R317). -/
theorem test_functions : fRcp 0x40400000 = 0x3EAAAAAB ∧ fRcp 1 = 0x7F800000 ∧ fRsq 0x40000000 = 0x3F3504F3 ∧ fRsq 0x80000000 = 0xFF800000
    ∧ fSqrt 0x40000000 = 0x3FB504F3 := by decide +kernel
theorem test_exp_log : fExp2 0x3F000000 = 0x3FB504F3 ∧ fExp2 0xC3160000 = 0 ∧ fExp2 0x43000000 = 0x7F800000 ∧ fLog2 0x41200000 = 0x40549A78
    ∧ fLog2 0xBF800000 = 0x7FC00000 := by decide +kernel
/-- Stochastic rounding (R317). -/
theorem test_stochastic : narrowSr bf16 0x3F80C000 0x9FD66D31 = 0x3F81 ∧ narrowSr bf16 0x3F80C000 0xCBCBBE15 = 0x3F80
    ∧ narrowSr bf16 0x3F804000 0x9FD66D31 = 0x3F80 ∧ narrowSr bf16 0x3F80E000 0xCBCBBE15 = 0x3F81 := by decide +kernel
/-- Decoding contributions (R317). -/
theorem test_inputs : enc32 (decodeF e4m3 0x7E) = 0x43E00000 ∧ enc32 (decodeF e4m3 0x01) = 0x3B000000 ∧ decodeF e4m3 0x7F = .nan
    ∧ enc32 (decodeF e5m2 0x7B) = 0x47600000 := by decide +kernel
/-- The four contributions of the worked example of chapter 8, and its readout. -/
theorem test_datum : (convert (val32 0x3F400000) 0 (-24) 32 4).add = 0x00C00000 ∧ (convert (val32 0xBFC00000) 0 (-24) 32 4).add = 0xFE800000
    ∧ convert (val32 0x33400000) 0 (-24) 32 4 = { add := 1, exp := some (-25) } ∧ convert (val32 0x40A00000) 0 (-24) 32 4 = { add := 0x05000000, exp := some 2 }
    ∧ readOut f32 71303169 (-24) = (0x40880000, false) ∧ anchorRule 2 4 32 1 = -23 := by decide +kernel
/-- The CRC-64 check value of R212. -/
theorem test_crc64 : crc64 (ascii "123456789") = 0x995DC9BBDF1939FA := by decide +kernel

/-! ### Single commands -/

/-- A doorbell moves the tail; an empty queue idles. -/
theorem test_doorbell : step { stOf blk0 with pending := [.doorbell 0 5] } = exec (.doorbell 0 5) (stOf blk0)
    ∧ step (stOf blk0) = .next (stOf blk0) := ⟨rfl, rfl⟩
/-- A strobe of 500 ns counts into GATED_NS of a power-gated SE, and into no other SE's. -/
theorem test_gated_ns : (match exec (.tbStrobe 500) (stOf { blk0 with crp := { blk0.crp with gateStat := 4, tCore := 0 } }) with
    | .next t => decide (tget t.blk.cnt 0x8040A0 0 = 500 ∧ tget t.blk.cnt 0x804060 0 = 0) | _ => false) = true := by decide +kernel
/-- An operation whose Relight engine is reset restarts once on another one, with its members asked anew (R30, R417). -/
theorem test_engine_reset : (match exec (.unitReset (.relight 0) 1 0x0B 0 {})
      (stOp (blkR (grpSpare .degraded)) { opRl (.relight 4 1) 1 0 1 2 with engine := some 0 }) with
    | .next t => decide (t.blk.fetches.map (fun o => (o.engine, o.resetOn, o.answers.length)) = [(some 1, some 0, 0)]) | _ => false) = true := by
  decide +kernel
/-- In DARK the windows behind SEC read their reset values (R468). -/
theorem test_dark_reads : (let s := stOf { blk0 with glb := { blk0.glb with state := .dark }, lnk := { periodUs := 20 }, crp := { tbPeriod := 2 } }
    (readReg s 0x70018, readReg s 0x10010, readReg s 0x60000, readReg { s with blk := blk0 } 0x60000) = (10, 2, 0, 0xFFFFFFFFFFFFFFFF)) := by
  decide +kernel
/-- A write of a reserved encoding leaves its register. -/
theorem test_reserved : (match exec (.registerWrite 0x10010 0 {}) (stOf blk0) with
    | .next t => decide (t.blk.crp = blk0.crp ∧ t.blk.tlm.elNext = 1) | _ => false) = true := by decide +kernel

end Sys2Proof.Tests
end

section
/-! PROOF. A host request that breaks R38 is answered ERROR on every line (R38, R40, R64). -/

namespace Sys2Proof.Machine

open Sys2Proof.Safety

/-! ### Rows that present a host request -/

theorem exec_hostRequest {i : Instr} {p op : Nat} {r : MpReq} (s : State)
    (hi : (i, op) ∈ [(Instr.mpRead p r, 0), (.mpWrite p r, 1), (.mpWriteMasked p r, 2), (.mpAtomic p r, 3)]) :
    exec i s = run (acceptHost p op r) s := by
  simp only [List.mem_cons, Prod.mk.injEq, List.not_mem_nil, or_false] at hi
  obtain ⟨rfl, rfl⟩ | ⟨rfl, rfl⟩ | ⟨rfl, rfl⟩ | ⟨rfl, rfl⟩ := hi <;> rfl

/-- An open port with no request waiting leaves what `takeRequest` answers, when the request is taken. -/
theorem acceptHost_of_taken {p op : Nat} {r : MpReq} {w v : W} (hopen : portsOpen w = true) (hp : p < w.build.nmp)
    (hchan : (getSlice w p).chan = []) (hv : takeRequest p op r w = some v) : acceptHost p op r w = v := by
  simp [acceptHost, hopen, hchan, hv, Nat.not_le.mpr hp]

/-! ### Bookkeeping that leaves the traffic of a port alone -/

/-- Between `w` and `v` no byte was written, nothing was answered upstream, and the requests outstanding on md_ port `p`
stayed the same. -/
structure SameTraffic (p : Nat) (w v : W) : Prop where
  jr : v.jr = w.jr
  mpRsps : v.b.mpRsps = w.b.mpRsps
  md : (getSlice v p).md = (getSlice w p).md

theorem SameTraffic.trans {p : Nat} {u v w : W} (h : SameTraffic p u v) (k : SameTraffic p v w) : SameTraffic p u w :=
  ⟨k.jr.trans h.jr, k.mpRsps.trans h.mpRsps, k.md.trans h.md⟩

/-- Counting leaves the traffic alone. -/
theorem sameTraffic_cntMp (p q off n : Nat) (w : W) : SameTraffic p w (cntMp q off n w) := ⟨rfl, rfl, rfl⟩

theorem getSlice_setMpsErr_same (p bitNo line ctx : Nat) (w : W) :
    getSlice (setMpsErr p bitNo line ctx w) p =
      { getSlice w p with
        err := (getSlice w p).err ||| BitVec.ofNat 8 (1 <<< bitNo)
        errAddr := BitVec.ofNat 64 (bitNo <<< 60 ||| (ctx % 4096) <<< 48 ||| lineOf (line % 2 ^ 48)) } :=
  tget_tset_same _ _ _ _

/-- Setting a bit of MPS_ERR leaves the traffic alone. -/
theorem sameTraffic_setMpsErr (p bitNo line ctx : Nat) (w : W) : SameTraffic p w (setMpsErr p bitNo line ctx w) :=
  ⟨rfl, rfl, by rw [getSlice_setMpsErr_same]⟩

/-- The bit that is set in MPS_ERR reads 1. -/
theorem err_setMpsErr {bitNo : Nat} (hb : bitNo < 8) (p line ctx : Nat) (w : W) :
    (getSlice (setMpsErr p bitNo line ctx w) p).err.getLsbD bitNo = true := by
  simp only [getSlice_setMpsErr_same, BitVec.getLsbD_or, BitVec.getLsbD_ofNat]
  simp [hb, Nat.testBit_shiftLeft]

/-! ### A request answered at once -/

/-- Fresh bytes move the counter of free values and nothing else. -/
theorem freshBytes_eq (n : Nat) (w : W) : ∃ d k, freshBytes n w = (d, { w with b := { w.b with free := k } }) := by
  induction n generalizing w with
  | zero => exact ⟨[], w.b.free, rfl⟩
  | succ n ih =>
    obtain ⟨d, k, h⟩ := ih { w with b.free := w.b.free + 1 }
    exact ⟨Config.freeByte w.b.free :: d, k, by rw [freshBytes, h]⟩

/-- An answer at once adds one response with its code on every line. -/
theorem answerAll_eq (p op : Nat) (r : MpReq) (c : Rsp) (w : W) :
    ∃ d k, answerAll p r op c w = { w with b := { w.b with
      free := k
      mpRsps := { port := p, tag := r.tag.toNat, codes := List.replicate (r.len.toNat + 1) c, data := d } :: w.b.mpRsps } } := by
  by_cases hop : op = 0 ∨ op = 3
  · obtain ⟨d, k, h⟩ := freshBytes_eq (64 * (r.len.toNat + 1)) w
    exact ⟨d, k, by simp [answerAll, hop, h]⟩
  · exact ⟨[], w.b.free, by simp [answerAll, hop]⟩

/-! ### Requests that break R38 -/

/-- The request crosses a 256 B block, is an ATOMIC of more than one line, or has a non-zero bit in address bits [5:0]. -/
def BreaksR38 (op : Nat) (r : MpReq) : Prop :=
  256 < r.addr.toNat % 256 + 64 * (r.len.toNat + 1) ∨ (op = 3 ∧ r.len ≠ 0) ∨ r.addr.toNat % 64 ≠ 0

/-- The test that `takeRequest` makes is R38. -/
theorem breaksR38_iff (op : Nat) (r : MpReq) : BreaksR38 op r ↔
    (r.addr.toNat % 64 != 0 || decide (256 < r.addr.toNat % 256 + 64 * (r.len.toNat + 1))
      || (op == 3 && r.len.toNat + 1 != 1)) = true := by
  have hlen : r.len ≠ 0 ↔ r.len.toNat ≠ 0 := by simp [← BitVec.toNat_inj]
  simp only [BreaksR38, hlen, Bool.or_eq_true, Bool.and_eq_true, bne_iff_ne, beq_iff_eq, decide_eq_true_eq]
  omega

/-- A request that breaks R38 is taken and answered ERROR with ALIGN set; what comes before, its counters and a
TAG_REUSE, leaves the traffic alone. -/
theorem takeRequest_of_breaksR38 {p op : Nat} {r : MpReq} {w : W} (hq : (getSlice w p).quiesce = false)
    (hc : (getSlice w p).noClock = false) (hr : BreaksR38 op r) :
    ∃ v, SameTraffic p w v
      ∧ takeRequest p op r w = some (answerAll p r op .error (setMpsErr p 6 r.addr.toNat r.ctx.toNat v)) := by
  rw [breaksR38_iff] at hr
  have hcnt : SameTraffic p w (cntMp p 0x10 1 (cntMp p (if op = 0 then 0x00 else 0x08) (r.len.toNat + 1) w)) :=
    (sameTraffic_cntMp ..).trans (sameTraffic_cntMp ..)
  cases hreuse : (getSlice w p).reqs.any (fun q => q.tag == r.tag.toNat) with
  | false => exact ⟨_, hcnt, by simp only [takeRequest, hq, hc, hr, hreuse]; rfl⟩
  | true =>
    exact ⟨_, hcnt.trans (sameTraffic_setMpsErr p 7 r.addr.toNat r.ctx.toNat _),
      by simp only [takeRequest, hq, hc, hr, hreuse]; rfl⟩

/-- Settles O24: R38 is looked at before anything is forwarded, and the answer adds to the trace of responses only. -/
theorem brokenRequestsAnswerError : Obligations.BrokenRequestsAnswerError := by
  intro s p op i r hi hopen hp hq hc hchan hr
  obtain ⟨v, hv, htake⟩ := takeRequest_of_breaksR38 (w := openW s) hq hc hr
  obtain ⟨d, k, hans⟩ := answerAll_eq p op r .error (setMpsErr p 6 r.addr.toNat r.ctx.toNat v)
  have hsame : SameTraffic p (openW s) (setMpsErr p 6 r.addr.toNat r.ctx.toNat v) :=
    hv.trans (sameTraffic_setMpsErr ..)
  have hexec := exec_hostRequest s hi
  rw [run_next, acceptHost_of_taken hopen hp hchan htake, hans] at hexec
  refine ⟨_, hexec, ?mem, hsame.md, err_setMpsErr (by decide) p _ _ v, d, ?answer⟩
  case mem => rw [closeW_mem, hsame.jr]; rfl
  case answer => rw [closeW_blk, hsame.mpRsps]; rfl

end Sys2Proof.Machine
end

section
/-! PROOF. A critical command that fails check 2 completes AUTH_FAIL (R388): check 2, the rows that make it, and the
completion. -/

namespace Sys2Proof.Machine

open Sys2Proof.Safety

/-! ### Check 2 -/

/-- A command fails check 2 with an INFO: 1 for a tag that differs from TAG, 2 for a counter that fails alone (R388, R389). -/
def FailsCheck2 (sec : Sec) (k : Cmd) (info : Nat) : Prop :=
  padTo 16 (cmdTag sec k.slot k.ctx k.part k.cls) ≠ bytesAt k.slot 0x50 16 ∧ info = 1
    ∨ padTo 16 (cmdTag sec k.slot k.ctx k.part k.cls) = bytesAt k.slot 0x50 16 ∧ info = 2
      ∧ (if opOf k = 0x81 then arg k 0x40 8 ≠ rsnOf sec k.part k.cls else arg k 0x40 8 ≤ lastOf sec k.part k.cls)

/-- AUTH_FAIL with an INFO, and LAST and RSN as RESULT. -/
def authFailOutc (sec : Sec) (k : Cmd) (info : Nat) : Outc :=
  { status := .authFail, info := info, result := counters sec k.part k.cls }

/-- Check 2 answers AUTH_FAIL for a command that fails it, and the failure is one for the alarm levels. -/
theorem checkTag_of_failsCheck2 {k : Cmd} {w : W} {info : Nat} (hinj : w.b.ras.inj = []) (hf : FailsCheck2 w.b.sec k info) :
    checkTag k w = (some (authFailOutc w.b.sec k info), authFailure (opOf k) w) := by
  have hhit := injHit_none w 0x11 0 hinj
  obtain ⟨htag, rfl⟩ | ⟨htag, rfl, hctr⟩ := hf
  · simp [checkTag, hhit, htag, authFailOutc]
  · by_cases hop : opOf k = 0x81
    · rw [if_pos hop] at hctr
      simp [checkTag, hhit, htag, hop, hctr, authFailOutc]
    · rw [if_neg hop] at hctr
      simp [checkTag, hhit, htag, hop, hctr, authFailOutc]

/-- Of a critical command, in a block that is not SNUFFED, nothing is looked at before check 2, and nothing after a check 2 that
fails. -/
theorem checksHead_of_checkTag_fails {k : Cmd} {w v : W} {cls : CmdClass} {o : Outc} (hcrit : opInfo (opOf k) = some (true, cls))
    (hstate : w.b.glb.state ≠ .snuffed) (htag : checkTag k w = (some o, v)) : checksHead k w = (some o, v) := by
  simp [checksHead, hcrit, hstate, htag]

/-! ### The rows of critical commands -/

/-- A command that has started from a transaction: its phase, and its wait counted (R448). -/
def started (c : CmdId) (k : Cmd) (v : W) : W := modCmd c (fun x => { x with phase := .running }) (countStart k v)

/-- A command row on a command that fails one of checks 1 to 4 when it may start: it completes with that outcome. -/
theorem cmdRow_of_checksHead_fails {w v : W} {c : CmdId} {k : Cmd} {sel : Cmd → Bool} {o : Outc} (env : Env)
    (start goOn : Cmd → W → W) (hk : findCmd w c = some k) (hctx : c.q ≠ fabricQ → ctxRuns (getCtx w k.ctx) = true)
    (hout : k.outc = none) (hphase : k.phase = .fetched) (hmay : mayStart w k = true) (hsel : sel k = true)
    (hfail : checksHead k w = (some o, v)) :
    cmdRow c sel env start goOn w = complete env false c o (started c k v) := by
  have hid : k.id = c := by simpa using List.find?_some hk
  have hrun : (k.id.q != fabricQ && !ctxRuns (getCtx w k.ctx)) = false := by
    by_cases hq : c.q = fabricQ
    · simp [hid, hq]
    · simp [hctx hq]
  have hfetched : (k.phase == CmdPhase.running) = false := by rw [hphase]; rfl
  simp only [cmdRow, hk, hsel, hrun, hout, hfetched, hmay, hfail, started, Bool.not_true, Bool.or_self,
    Bool.false_eq_true, if_false]

/-- A row that reads a member list goes on once the list and the placement map can be read (R149). -/
theorem listReads_of_readable {s : State} {c : CmdId} {k : Cmd} (f : W → W) (hk : findCmd (openW s) c = some k)
    (hread : ListsReadable s k) : listReads c f (openW s) = f (openW s) := by
  obtain ⟨hlist, hmap⟩ := hread
  simp [listReads, hk, onReads, hlist, hmap]

/-- The rows of the critical commands with their opcodes, and what each asks of its command's arguments. -/
def criticalRows (c : CmdId) (env : Env) (k : Cmd) : List (Instr × Nat × Bool) :=
  [(.regionDefine c env, 0x10, true), (.regionRetire c env, 0x11, true), (.kernelLoad c env, 0x41, true),
    (.memberFence c env, 0x60, true), (.memberAdoptSurvivor c env, 0x61, arg k 0x2D 1 != 1),
    (.memberAdoptSpare c env, 0x61, arg k 0x2D 1 == 1), (.relightStart c env, 0x62, true), (.restripe c env, 0x63, true),
    (.keyInstallInstall c env, 0x80, keyOp 0 k), (.keyInstallActivate c env, 0x80, keyOp 1 k),
    (.keyInstallErase c env, 0x80, keyOp 2 k), (.counterResync c env, 0x81, true), (.snuff c env, 0x82, true),
    (.imagePatch c env, 0x83, true), (.partitionSet c env, 0x84, true), (.groupDefine c env, 0x85, arg k 0x11 1 != 0),
    (.groupRelease c env, 0x85, arg k 0x11 1 == 0), (.injectArm c env, 0x86, arg k 0x10 4 != 0),
    (.injectDisarm c env, 0x86, arg k 0x10 4 == 0)]

theorem opInfo_of_mem_criticalRows {c : CmdId} {env : Env} {k : Cmd} {i : Instr} (hi : (i, opOf k, true) ∈ criticalRows c env k) :
    opInfo (opOf k) = some (true, .serial) := by
  have hcrit : ∀ op ∈ (criticalRows c env k).map (fun r => r.2.1), opInfo op = some (true, .serial) := by
    simp only [criticalRows, List.map_cons, List.map_nil, List.forall_mem_cons, List.not_mem_nil, false_imp_iff,
      implies_true, and_true]
    and_intros <;> rfl
  exact hcrit _ (List.mem_map_of_mem (f := fun r => r.2.1) hi)

/-- A command answers what a command row for `k` leaves. -/
def AnswersRow (i : Instr) (s : State) (c : CmdId) (env : Env) (k : Cmd) : Prop :=
  ∃ sel start goOn, sel k = true ∧ Leaves i s (cmdRow c sel env start goOn (openW s))

/-- The row of a critical command is a command row for it, of a group command once its lists can be read and of a PARTITION_SET
while no patch runs. -/
theorem answersRow_of_mem_criticalRows {s : State} {c : CmdId} {env : Env} {k : Cmd} {i : Instr}
    (hi : (i, opOf k, true) ∈ criticalRows c env k) (hk : findCmd (openW s) c = some k)
    (hlists : i ∈ [Instr.groupDefine c env, .memberAdoptSurvivor c env, .memberAdoptSpare c env] → ListsReadable s k)
    (hpatch : i = .partitionSet c env → s.blk.patch = none) : AnswersRow i s c env k := by
  have hop : ∀ {op}, opOf k = op → isOp op k = true := beq_iff_eq.mpr
  have hread : ∀ f, i ∈ [Instr.groupDefine c env, .memberAdoptSurvivor c env, .memberAdoptSpare c env] →
      run (listReads c f) s = .next (closeW s (f (openW s))) := fun f hmem => by
    rw [run_next, listReads_of_readable f hk (hlists hmem)]
  have hset : i = .partitionSet c env → ∀ f : W → W,
      run (fun w => if setHolds w c then w else f w) s = .next (closeW s (f (openW s))) := fun h f => by
    simp [run_next, setHolds, hpatch h]
  simp only [criticalRows, List.mem_cons, Prod.mk.injEq, List.not_mem_nil, or_false] at hi
  obtain ⟨rfl, h, -⟩ | ⟨rfl, h, -⟩ | ⟨rfl, h, -⟩ | ⟨rfl, h, -⟩ | ⟨rfl, h, harg⟩ | ⟨rfl, h, harg⟩ | ⟨rfl, h, -⟩ | ⟨rfl, h, -⟩
    | ⟨rfl, -, h⟩ | ⟨rfl, -, h⟩ | ⟨rfl, -, h⟩ | ⟨rfl, h, -⟩ | ⟨rfl, h, -⟩ | ⟨rfl, h, -⟩ | ⟨rfl, h, -⟩ | ⟨rfl, h, harg⟩
    | ⟨rfl, h, harg⟩ | ⟨rfl, h, harg⟩ | ⟨rfl, h, harg⟩ := hi
  · exact ⟨_, _, _, hop h, rfl⟩
  · exact ⟨_, _, _, hop h, rfl⟩
  · exact ⟨_, _, _, hop h, rfl⟩
  · exact ⟨_, _, _, hop h, rfl⟩
  · exact ⟨_, _, _, by simp [hop h, ← harg], hread _ (by simp)⟩
  · exact ⟨_, _, _, by simp [hop h, ← harg], hread _ (by simp)⟩
  · exact ⟨_, _, _, hop h, rfl⟩
  · exact ⟨_, _, _, hop h, rfl⟩
  · exact ⟨_, _, _, h.symm, rfl⟩
  · exact ⟨_, _, _, h.symm, rfl⟩
  · exact ⟨_, _, _, h.symm, rfl⟩
  · exact ⟨_, _, _, hop h, rfl⟩
  · exact ⟨_, _, _, hop h, rfl⟩
  · exact ⟨_, _, _, hop h, rfl⟩
  · exact ⟨_, _, _, hop h, hset rfl _⟩
  · exact ⟨_, _, _, by simp [hop h, ← harg], hread _ (by simp)⟩
  · exact ⟨_, _, _, by simp [hop h, ← harg], rfl⟩
  · exact ⟨_, _, _, by rw [isArm, hop h, ← harg]; rfl, rfl⟩
  · exact ⟨_, _, _, by rw [isArm, hop h, bne, ← harg]; rfl, rfl⟩

/-! ### What an authentication failure changes (R397, R398) -/

/-- Between `w` and `v` the alarm state, the block state and the event log may differ, and nothing else. -/
def AlarmsOnly (w v : W) : Prop := ∃ sec glb tlm, v = { w with b := { w.b with sec := sec, glb := glb, tlm := tlm } }

theorem AlarmsOnly.trans {u v w : W} (h : AlarmsOnly u v) (h' : AlarmsOnly v w) : AlarmsOnly u w := by
  obtain ⟨_, _, _, rfl⟩ := h
  obtain ⟨_, _, _, rfl⟩ := h'
  exact ⟨_, _, _, rfl⟩

theorem alarmsOnly_alarmActs (level idx : Nat) (w : W) : AlarmsOnly w (alarmActs level idx w) := ⟨_, w.b.glb, _, rfl⟩

theorem alarmsOnly_alarm2 (cause : Nat) (w : W) : AlarmsOnly w (alarm2 cause w) := by
  unfold alarm2
  split
  · exact ⟨_, _, _, rfl⟩
  · exact ⟨w.b.sec, w.b.glb, _, rfl⟩

/-- Level 2 that follows a failure or does not. -/
theorem AlarmsOnly.escalate {w v : W} (burst : Bool) (h : AlarmsOnly w v) : AlarmsOnly w (if burst then alarm2 1 v else v) := by
  cases burst
  · exact h
  · exact h.trans (alarmsOnly_alarm2 1 v)

theorem alarmsOnly_authFailure (idx : Nat) (w : W) : AlarmsOnly w (authFailure idx w) := by
  have hlevel1 : ∀ total times,
      AlarmsOnly w (alarm1 idx { w with b.sec.authTotal := total, b.sec.failTimes := times }) :=
    fun _ _ => ⟨_, w.b.glb, _, rfl⟩
  exact (hlevel1 _ _).escalate _

/-! ### The completion -/

theorem findCmd_started {v : W} {c : CmdId} {k : Cmd} (hk : findCmd v c = some k) :
    findCmd (started c k v) c = some { k with phase := .running } := by
  simp only [findCmd] at hk
  simp only [findCmd, started, modCmd, countStart_cmds]
  rw [find_mapIf _ _ _ (by intro x hx; exact hx), hk]
  rfl

/-- The start of a command of a queue pair changes its wait statistics and its phase. -/
theorem started_eq {c : CmdId} {k : Cmd} (v : W) (hid : k.id = c) (hq : c.q ≠ fabricQ) :
    started c k v = { v with b := { v.b with
      qps := tset v.b.qps c.q (waitedQp (getQp v c.q) (nowUs v - k.fetchedUs))
      cmds := mapIf (fun x => x.id == c) (fun x => { x with phase := .running }) v.b.cmds } } := by
  rw [started, countStart, hid, if_neg hq]; rfl

/-- The queue pair of a command that starts after an authentication failure: its wait is counted. -/
theorem getQp_started {s : State} {c : CmdId} {k : Cmd} {v : W} (hv : AlarmsOnly (openW s) v) (hid : k.id = c) (hq : c.q ≠ fabricQ) :
    getQp (started c k v) c.q = waitedQp (qpOf s c.q) (nowUs (openW s) - k.fetchedUs) := by
  obtain ⟨sec, glb, tlm, rfl⟩ := hv
  rw [started_eq _ hid hq]
  exact tget_tset_same _ _ _ _

/-- What a completion looks at beside the command and its queue pair is as it was. -/
theorem started_frame {s : State} {c : CmdId} {k : Cmd} {v : W} (hv : AlarmsOnly (openW s) v) (hid : k.id = c) (hq : c.q ≠ fabricQ) :
    (started c k v).build = s.build ∧ (started c k v).base = s.mem ∧ (started c k v).jr = []
      ∧ (started c k v).b.ctxs = s.blk.ctxs ∧ (started c k v).b.ras = s.blk.ras
      ∧ (started c k v).b.slices = s.blk.slices ∧ (started c k v).b.fetches = s.blk.fetches := by
  obtain ⟨sec, glb, tlm, rfl⟩ := hv
  rw [started_eq _ hid hq]
  exact ⟨rfl, rfl, rfl, rfl, rfl, rfl, rfl⟩

/-- A command of a queue pair that starts, meets an authentication failure and completes undisturbed has finished. -/
theorem finished_of_alarmsOnly {s : State} {c : CmdId} {env : Env} {k : Cmd} {v : W} (o : Outc)
    (hk : findCmd (openW s) c = some k) (hq : c.q ≠ fabricQ) (hctx : ctxRuns (ctxOf s k.ctx) = true) (hout : k.outc = none)
    (hcalm : Calm s env) (hrep : Reports s c k) (hv : AlarmsOnly (openW s) v) :
    Finished s (closeW s (complete env false c o (started c k v))) c k o (started c k v) := by
  have hid : k.id = c := by simpa using List.find?_some hk
  have hfind : findCmd (started c k v) c = some { k with phase := .running } := by
    obtain ⟨sec, glb, tlm, rfl⟩ := hv
    exact findCmd_started hk
  have hqp := getQp_started hv hid hq
  obtain ⟨hbuild, hbase, hjr, hctxs, hras, hslices, hfetches⟩ := started_frame hv hid hq
  have hup : (ctxOf s k.ctx).state ≠ .teardown := fun h => by
    rw [ctxRuns, h] at hctx; contradiction
  obtain ⟨-, -, hlines, hnofetch⟩ := id hrep
  obtain ⟨-, -, hinj, -⟩ := id hcalm
  refine finished_of_complete env s c k _ o _ hfind rfl hq hrep hcalm hout ?ctx ?lines hbase hjr (hras ▸ hinj) ?qp
  case ctx => rw [getCtx, hctxs]; exact hup
  case lines =>
    rw [linesFree_congr (openW s) _ _ _ hbuild hslices hnofetch (hfetches.trans hnofetch), hqp]
    exact hlines
  case qp => rw [hqp]; exact ⟨rfl, rfl, rfl, rfl⟩

/-- Settles O50: checks 1 to 4 begin with check 2 here, so the row completes AUTH_FAIL over the block as its alarm leaves it. -/
theorem failedTagsAnswerAuthFail : Obligations.FailedTagsAnswerAuthFail := by
  rintro s c env k i info o w hi hk hctx hout hphase hmay hstate hinj hlists hpatch hfail rfl rfl
  obtain ⟨sel, start, goOn, hsel, hrow⟩ := answersRow_of_mem_criticalRows hi hk hlists hpatch
  have hhead := checksHead_of_checkTag_fails (opInfo_of_mem_criticalRows hi) hstate
    (checkTag_of_failsCheck2 (w := openW s) hinj hfail)
  rw [cmdRow_of_checksHead_fails env start goOn hk hctx hout hphase hmay hsel hhead] at hrow
  exact ⟨hrow, fun hq hcalm hrep =>
    ⟨_, hrow, finished_of_alarmsOnly _ hk hq (hctx hq) hout hcalm hrep (alarmsOnly_authFailure _ _)⟩⟩

end Sys2Proof.Machine
end

section
/-! PROOF. Every command answers a next state, and every step keeps host memory canonical: each row is a meaning run on a
transaction, or, at the end of a hand-over, such a meaning followed by the messages that waited. -/

namespace Sys2Proof.Machine

open Sys2Proof.Safety

/-! ### States that keep what no meaning can touch -/

/-- `t` has the build and the queue of `s`, and canonical memory where `s` has. -/
structure Kept (s t : State) : Prop where
  build : t.build = s.build
  pending : t.pending = s.pending
  mem : memCanonical s → memCanonical t

theorem Kept.refl (s : State) : Kept s s := ⟨rfl, rfl, id⟩

theorem Kept.trans {s t u : State} (h : Kept s t) (h' : Kept t u) : Kept s u :=
  ⟨h'.build.trans h.build, h'.pending.trans h.pending, h'.mem ∘ h.mem⟩

/-- Replacing the block keeps the rest. -/
theorem kept_blk (s : State) (b : Blk) : Kept s { s with blk := b } := ⟨rfl, rfl, id⟩

/-- Closing a transaction keeps the canonical form of memory: a journal is written byte by byte. -/
theorem kept_closeW (s : State) (w : W) : Kept s (closeW s w) :=
  ⟨rfl, rfl, fun h => memWf_commitJournal s.mem w.jr h⟩

/-- An outcome is a next state that keeps what no meaning can touch. -/
def Answers (s : State) (o : Host.Outcome State Fault Refusal) : Prop := ∃ t, o = .next t ∧ Kept s t

theorem answers_run (f : W → W) (s : State) : Answers s (run f s) := ⟨_, rfl, kept_closeW s _⟩

/-! ### The messages that waited for the Helm (R374) -/

theorem kept_afterRow {s : State} {o : Host.Outcome State Fault Refusal} (h : Answers s o) : Kept s (afterRow s o) := by
  obtain ⟨t, rfl, ht⟩ := h
  exact ht

theorem helmRows_answer : ∀ r ∈ helmRows, ∀ rx env s, Answers s (r rx env s) := by
  simp only [helmRows, List.forall_mem_cons, List.not_mem_nil, false_imp_iff, implies_true, and_true]
  and_intros <;> exact fun _ _ _ => answers_run _ _

theorem kept_foldl_afterRow (rows : List (Rx → Env → State → Host.Outcome State Fault Refusal)) (rx : Rx) (env : Env)
    (hrows : ∀ r ∈ rows, ∀ s, Answers s (r rx env s)) (s : State) :
    Kept s (rows.foldl (fun s r => afterRow s (r rx env s)) s) := by
  induction rows generalizing s with
  | nil => exact Kept.refl s
  | cons r rows ih =>
    have hfirst : Kept s (afterRow s (r rx env s)) := kept_afterRow (hrows r (.head _) s)
    exact hfirst.trans (ih (fun r hr => hrows r (.tail _ hr)) _)

theorem kept_takeMsg (env : Env) (rx : Rx) (s : State) : Kept s (takeMsg env rx s) :=
  ((kept_blk s _).trans (kept_foldl_afterRow helmRows rx env (fun r hr => helmRows_answer r hr rx env) _)).trans (kept_blk _ _)

theorem kept_takeMsgs (env : Env) (l : List Rx) (s : State) : Kept s (takeMsgs env l s) := by
  induction l generalizing s with
  | nil => exact Kept.refl s
  | cons x l ih => exact ((kept_blk s _).trans (kept_takeMsg env x _)).trans (ih _)

theorem answers_handOverRow (f : W → W) (env : Env) (s : State) : Answers s (handOverRow f env s) :=
  ⟨_, rfl, (kept_closeW s _).trans (kept_takeMsgs env _ _)⟩

/-! ### Every command -/

/-- Every row of the table runs a meaning, two of them with the messages that waited behind it. -/
theorem exec_answers (c : Instr) (s : State) : Answers s (exec c s) := by
  delta exec
  cases c
  case helmHandoverReady env => exact answers_handOverRow _ env s
  case helmHandoverTimeout env => exact answers_handOverRow _ env s
  all_goals dsimp only
  all_goals exact answers_run _ s

theorem step_cons (c : Instr) (s : State) (rest : List Instr) :
    step { s with pending := c :: rest } = exec c { s with pending := rest } := rfl

theorem step_nil {s : State} (h : s.pending = []) : step s = .next s := by rw [step, h]

/-- Settles O1, by the definition of a step. -/
theorem stepRunsFront : Obligations.StepRunsFront := ⟨step_cons, fun _ => step_nil⟩

/-- Settles O2, by `exec_answers`: each row of the model is a run of a transaction, which answers. -/
theorem everyCommandAnswers : Obligations.EveryCommandAnswers := fun c s => by
  obtain ⟨t, ht, hkept⟩ := exec_answers c s
  exact ⟨t, ht, hkept.build, hkept.pending⟩

/-- Settles O3: a step idles or runs the command in front, and either keeps the canonical form. -/
theorem memoryStaysCanonical : Obligations.MemoryStaysCanonical := by
  intro s t hs hstep
  cases hp : s.pending with
  | nil =>
    rw [step_nil hp] at hstep
    cases hstep
    exact hs
  | cons c rest =>
    obtain ⟨u, hu, hkept⟩ := exec_answers c { s with pending := rest }
    have hnext : step s = .next u := by rw [step, hp]; exact hu
    rw [hnext] at hstep
    cases hstep
    exact hkept.mem hs

end Sys2Proof.Machine
end

section
/-! PROOF. Facts that several statements need: fields of byte runs, whole lines, and reads that nothing disturbs. -/

namespace Sys2Proof.Machine

open Sys2Proof.Safety

/-! ### Runs of bytes -/

theorem padTo_of_length {n : Nat} {b : Bytes} (h : b.length = n) : padTo n b = b := by
  simp [padTo, zeros, ← h]

/-- Cutting one line into lines gives that line. -/
theorem toLines_one {b : Bytes} (h : b.length = 64) : toLines b 1 = [b] := by
  simp [toLines, padTo_of_length h]

/-- A field of one byte. -/
theorem fld_one {b : Bytes} {off : Nat} (h : off < b.length) : fld b off 1 = (b.getD off 0).toNat := by
  rw [fld, List.drop_eq_getElem_cons h, List.take_succ_cons, List.take_zero]
  simp [leNat, List.getElem?_eq_getElem h]

theorem fld_getBytes_one (w : W) (a : Nat) {n off : Nat} (h : off < n) :
    fld (getBytes w a n) off 1 = (getByte w (a + off)).toNat := by
  rw [fld_one (by rw [getBytes_length]; exact h), getBytes_getD _ _ _ _ h]

/-- A byte of host memory, as a transaction that has written nothing sees it. -/
theorem getByte_openW (s : State) (a : Nat) : getByte (openW s) a = byteAt s a := rfl

/-! ### Reads that nothing disturbs -/

theorem injHit_present1 (x : Acc) (op line : Nat) (w : W) (d i : Nat) : injHit (present1 x op line w) d i = injHit w d i := rfl

/-- One line read as a span. -/
theorem readSpan_one_ok (x : Acc) (a : Nat) (w : W) (he : x.env.rd = []) (hi : w.b.ras.inj = []) :
    readSpan x 1 a w = (.ok, getBytes w a 64, present1 x 0 a w) := by
  simp [readSpan, readLine_ok x a w he hi, worse]

/-- The front end takes an entry whose parity nothing disturbs. -/
theorem frontParity_fine {env : Env} {w : W} (hpar : env.par = 0) (hi : w.b.ras.inj = []) : frontParity env w = (0, w) := by
  simp [frontParity, injHit_none w 2 0 hi, hpar]

end Sys2Proof.Machine
end

section
/-! PROOF. A fetch takes the next slot of a ring (R112). -/

namespace Sys2Proof.Machine

open Sys2Proof.Safety

/-- The command that a fetched slot becomes (R109, R120, R121). -/
def fetchedCmd (w : W) (q : Nat) (slot : Bytes) : Cmd :=
  { id := { q := q, n := (getQp w q).numBase + (getQp w q).fetched }, ctx := (getQp w q).ctx, part := (partOfQp? w q).getD 0
    slot := slot, fetchedUs := nowUs w, awaits := (w.b.cmds.filter (fun e => e.id.q == q)).map (·.id.n)
    runNo := (getCtx w (getQp w q).ctx).runsFetched, order := w.b.eng.nextOrder }

/-- The contexts once a KERNEL_RUN without RESUME is counted in its own (R174). -/
def countedRuns (w : W) (k : Cmd) : Tbl Ctx :=
  if opOf k = 0x40 && !bit (arg k 0x12 1) 0 then
    tset w.b.ctxs k.ctx { getCtx w k.ctx with runsFetched := ((getCtx w k.ctx).runsFetched + 1) % 65536 }
  else w.b.ctxs

/-- A KERNEL_RUN without RESUME is counted in its context, another command is not. -/
def countRun (k : Cmd) (w : W) : W :=
  if opOf k = 0x40 && !bit (arg k 0x12 1) 0 then modCtx k.ctx (fun x => { x with runsFetched := (x.runsFetched + 1) % 65536 }) w
  else w

theorem countRun_eq (k : Cmd) (w : W) : countRun k w = { w with b := { w.b with ctxs := countedRuns w k } } := by
  unfold countRun countedRuns
  split <;> rfl

/-- The queue pair once a command of it is counted. -/
def fetchedQp (k : Qp) : Qp := { k with fetched := k.fetched + 1, half := [] }

/-- A command joins those in flight, and its queue pair counts it. -/
def pushCmd (k : Cmd) (w : W) : W :=
  modQp k.id.q fetchedQp
    { w with b := { w.b with cmds := w.b.cmds ++ [k], eng := { w.b.eng with nextOrder := w.b.eng.nextOrder + 1 } } }

theorem enterCmd_eq (env : Env) (q : Nat) (slot : Bytes) (w : W) :
    enterCmd env q slot w =
      let k := fetchedCmd w q slot
      let v := pushCmd k (countRun k w)
      if (opInfo (opOf k)).isNone && mayStart v k then complete env false k.id { status := .unsupported } (countStart k v) else v :=
  rfl

/-- A slot of an assigned opcode enters the front end. -/
theorem enterCmd_assigned (env : Env) (q : Nat) (slot : Bytes) (w : W) (h : (opInfo (fld slot 0 1)).isSome) :
    enterCmd env q slot w =
      pushCmd (fetchedCmd w q slot) { w with b := { w.b with ctxs := countedRuns w (fetchedCmd w q slot) } } := by
  have hnone : (opInfo (opOf (fetchedCmd w q slot))).isNone = false := Option.isNone_eq_false_iff.mpr h
  simp only [enterCmd_eq, countRun_eq, hnone, Bool.false_and, Bool.false_eq_true, if_false]

/-- The queue pair once its head has moved on by one slot. -/
def pastSlot (k : Qp) : Qp := { k with sqHead := (k.sqHead + 1) % 2 ^ k.sqLog2 }

theorem fetchedCmd_past (w : W) (q : Nat) (slot : Bytes) :
    fetchedCmd (setQp q (pastSlot (getQp w q)) w) q slot = fetchedCmd w q slot := by
  simp only [fetchedCmd, getQp_setQp]
  rfl

/-- A slot of an assigned opcode enters the front end once the head has moved on. -/
theorem enterCmd_past (env : Env) (q : Nat) (slot : Bytes) (w : W) (h : (opInfo (fld slot 0 1)).isSome) :
    enterCmd env q slot (setQp q (pastSlot (getQp w q)) w) = setQp q (fetchedQp (pastSlot (getQp w q)))
      { w with b := { w.b with cmds := w.b.cmds ++ [fetchedCmd w q slot]
                               eng := { w.b.eng with nextOrder := w.b.eng.nextOrder + 1 }
                               ctxs := countedRuns w (fetchedCmd w q slot) } } := by
  rw [enterCmd_assigned env q slot _ h, fetchedCmd_past]
  exact modQp_setQp q fetchedQp (pastSlot (getQp w q))
    { w with b := { w.b with cmds := w.b.cmds ++ [fetchedCmd w q slot]
                             eng := { w.b.eng with nextOrder := w.b.eng.nextOrder + 1 }
                             ctxs := countedRuns w (fetchedCmd w q slot) } }

/-- One slot with credit, where no first slot is kept: a critical one is kept, another enters the front end. -/
theorem takeSlots_one (env : Env) (q : Nat) (slot : Bytes) (w : W) {crit : Bool} {cls : CmdClass} (hc : hasCredit w q = true)
    (hh : (getQp w q).half = []) (hop : opInfo (fld slot 0 1) = some (crit, cls)) :
    takeSlots env q [slot] w = if crit then setQp q { pastSlot (getQp w q) with half := slot } w
      else enterCmd env q slot (setQp q (pastSlot (getQp w q)) w) := by
  have hmod : ∀ f : Qp → Qp, modQp q f w = setQp q (f (getQp w q)) w := fun _ => rfl
  cases crit <;> simp [takeSlots, hc, hh, hop, hmod, modQp_setQp, pastSlot]

/-- One slot is ready. -/
theorem readySlots_one {k : Qp} (hhead : k.sqHead < 2 ^ k.sqLog2) (hone : subMod k.sqTail k.sqHead (2 ^ k.sqLog2) = 1) :
    readySlots k = 1 := by
  have := Nat.mod_lt k.sqHead (show 0 < 4 by decide)
  rw [readySlots, hone]
  omega

/-- The transaction behind the read of a fetch: the turn is noted, the request presented. -/
def fetchRead (env : Env) (q : Nat) (w : W) : W :=
  present1 (seAcc env (getQp w q).ctx) 0 ((getQp w q).sqBase + 64 * (getQp w q).sqHead)
    { w with b := { w.b with fetchPart := (partOfQp? w q).getD 0, fetchQps := tset w.b.fetchQps ((partOfQp? w q).getD 0) q } }

/-- A fetch changes, beside what its slot becomes, the turn and what a request leaves. -/
theorem fetchRead_eq (env : Env) (q : Nat) (w : W) : ∃ n md, fetchRead env q w = { w with b := { w.b with
    cnt := n, mdOut := md, fetchPart := (partOfQp? w q).getD 0
    fetchQps := tset w.b.fetchQps ((partOfQp? w q).getD 0) q } } := ⟨_, _, rfl⟩

/-- COMMAND_FETCH of one slot that nothing disturbs: the slot is taken over the read. -/
theorem commandFetch_one {s : State} {q : Nat} {env : Env} (hcalm : Calm s env) (hpar : env.par = 0)
    (hfront : frontRuns (openW s) = true) (hturn : nextFetch (openW s) = some q)
    (hhead : (qpOf s q).sqHead < 2 ^ (qpOf s q).sqLog2)
    (hone : subMod (qpOf s q).sqTail (qpOf s q).sqHead (2 ^ (qpOf s q).sqLog2) = 1)
    (hfree : linesFree (openW s) ((qpOf s q).sqBase + 64 * (qpOf s q).sqHead) 64 = true) :
    Leaves (.commandFetch q env) s (takeSlots env q
      [getBytes (openW s) ((qpOf s q).sqBase + 64 * (qpOf s q).sqHead) 64] (fetchRead env q (openW s))) := by
  obtain ⟨hrd, -, hinj, -⟩ := hcalm
  have hslots : readySlots (getQp (openW s) q) = 1 := readySlots_one hhead hone
  have hfree' : linesFree (openW s) ((getQp (openW s) q).sqBase + 64 * (getQp (openW s) q).sqHead) 64 = true := hfree
  have hread := readSpan_one_ok (seAcc env (getQp (openW s) q).ctx)
    ((getQp (openW s) q).sqBase + 64 * (getQp (openW s) q).sqHead)
    { openW s with b := { s.blk with fetchPart := (partOfQp? (openW s) q).getD 0
                                     fetchQps := tset s.blk.fetchQps ((partOfQp? (openW s) q).getD 0) q } } hrd hinj
  have hpair := frontParity_fine (w := fetchRead env q (openW s)) hpar hinj
  show execCommandFetch q env s = _
  simp only [execCommandFetch, run_next, hfront, hturn, hslots, hfree', Nat.mul_one, openW_b, hread, bne_self_eq_false, Bool.not_true,
    Bool.or_self, Bool.false_eq_true, if_false, toLines_one (getBytes_length _ _ _)]
  rw [fetchRead] at hpair ⊢
  simp only [openW_b] at hpair ⊢
  simp only [hpair]
  rfl

/-- A queue pair whose turn it is not is left as it is. -/
theorem commandFetch_other {s : State} {q : Nat} (env : Env) (h : nextFetch (openW s) ≠ some q) :
    Blocks (.commandFetch q env) s s.blk := by
  show execCommandFetch q env s = _
  simp [execCommandFetch, run_next, h, closeW_of_jr_nil s (openW s) rfl]


theorem fetchedQp_pastSlot {k : Qp} (h : k.half = []) :
    fetchedQp (pastSlot k) = { k with sqHead := (k.sqHead + 1) % 2 ^ k.sqLog2, fetched := k.fetched + 1 } := by
  cases k; cases h; rfl

/-- A KERNEL_RUN without RESUME, by two bytes of its slot. -/
theorem kernelRunByte_iff (a b : Byte) : (decide (a = 0x40) && !b.getLsbD 0) = true ↔ (decide (a.toNat = 0x40) && !bit b.toNat 0) = true := by
  have h : a = 0x40 ↔ a.toNat = 0x40 := BitVec.toNat_inj.symm
  simp only [h, bit, BitVec.getLsbD]

/-- Settles O6, by what a fetch of one slot does (`commandFetch_one`) and what it leaves when it is another's turn. -/
theorem commandFetchTakesASlot : Obligations.CommandFetchTakesASlot := by
  refine ⟨?_, fun s q env h => commandFetch_other env h⟩
  intro s q p env crit cls hcalm hpar hfront hturn hp hhalf hcredit hhead hone hfree hop
  subst hp
  have hbyte : ∀ off, off < 64 → fld (getBytes (openW s) ((qpOf s q).sqBase + 64 * (qpOf s q).sqHead) 64) off 1
      = (byteAt s ((qpOf s q).sqBase + 64 * (qpOf s q).sqHead + off)).toNat := fun off h => fld_getBytes_one (openW s) _ h
  have hcode := hbyte 0 (by decide)
  rw [Nat.add_zero] at hcode
  have hinfo := (congrArg opInfo hcode).trans hop
  obtain ⟨n, md, hread⟩ := fetchRead_eq env q (openW s)
  have htake := takeSlots_one env q _ (fetchRead env q (openW s)) (by rw [hread]; exact hcredit)
    (by rw [hread]; exact hhalf) hinfo
  refine ⟨_, commandFetch_one hcalm hpar hfront hturn hhead hone hfree, ?_⟩
  rw [htake, hread]
  cases crit with
  | true => exact ⟨rfl, rfl, nofun, fun _ => ⟨rfl, rfl, rfl, rfl⟩⟩
  | false =>
    rw [if_neg (by decide), enterCmd_past _ _ _ _ (by rw [hinfo]; rfl)]
    refine ⟨rfl, rfl, fun _ => ⟨?qps, rfl, rfl, ?ctxs⟩, nofun⟩
    case qps => exact congrArg (tset s.blk.qps q) (fetchedQp_pastSlot hhalf)
    case ctxs =>
      refine ite_congr (propext ?_) (fun _ => rfl) fun _ => rfl
      rw [kernelRunByte_iff, ← hbyte 0x12 (by decide), ← hcode]
      rfl

end Sys2Proof.Machine
end

section
/-! PROOF. Commands that start: the row of a command that starts now, and a command whose own check fails (R116). -/

namespace Sys2Proof.Machine

open Sys2Proof.Safety

/-! ### The row of a command that starts -/

theorem id_of_findCmd {w : W} {c : CmdId} {k : Cmd} (h : findCmd w c = some k) : k.id = c := by
  simpa using List.find?_some h

theorem id_of_starts {s : State} {c : CmdId} {k : Cmd} (h : Starts s c k) : k.id = c := id_of_findCmd h.1

theorem notFabric_of_starts {s : State} {c : CmdId} {k : Cmd} (h : Starts s c k) : c.q ≠ fabricQ := h.2.1

theorem isOp_of {op : Nat} {k : Cmd} (h : opOf k = op) : isOp op k = true := beq_iff_eq.mpr h

/-- A row leaves what its meaning makes of the opened transaction. -/
theorem leaves_of {i : Instr} {s : State} {f : W → W} {w : W} (hrow : exec i s = run f s) (h : f (openW s) = w) : Leaves i s w := by
  rw [Leaves, hrow, run_next, h]

/-- A row whose meaning writes no memory replaces the block alone. -/
theorem blocks_of {i : Instr} {s : State} {f : W → W} {w : W} (hrow : exec i s = run f s) (h : f (openW s) = w) (hjr : w.jr = []) :
    Blocks i s w.b := by
  rw [Blocks, hrow, run_next, h, closeW_of_jr_nil s w hjr]

/-- A row whose meaning does nothing changes nothing. -/
theorem idle_of {i : Instr} {s : State} {f : W → W} (hrow : exec i s = run f s) (h : f (openW s) = openW s) : Blocks i s s.blk :=
  blocks_of hrow h rfl

/-- A row leaves what the start of its command leaves. -/
theorem leaves_start {i : Instr} {s : State} {c : CmdId} {k : Cmd} {sel : Cmd → Bool} {env : Env} {start goOn : Cmd → W → W}
    (hrow : exec i s = run (cmdRow c sel env start goOn) s) (hs : Starts s c k) (hsel : sel k = true) :
    Leaves i s (start k (begun s c k)) := by
  rw [Leaves, hrow, run_next, cmdRow_starts s c k sel env start goOn hs hsel]

/-- A row leaves what its command, that runs already, leaves when it goes on. -/
theorem leaves_goOn {i : Instr} {s : State} {c : CmdId} {k : Cmd} {sel : Cmd → Bool} {env : Env} {start goOn : Cmd → W → W}
    (hrow : exec i s = run (cmdRow c sel env start goOn) s) (hs : Runs s c k) (hsel : sel k = true) :
    Leaves i s (goOn k (openW s)) := by
  rw [Leaves, hrow, run_next, cmdRow_runs s c k sel env start goOn hs hsel]

/-- A command that starts and passes its own check does what the row says. -/
theorem leaves_checked {i : Instr} {s : State} {c : CmdId} {k : Cmd} {sel : Cmd → Bool} {env : Env} {chk : W → Cmd → Check}
    {go goOn : Cmd → W → W}
    (hrow : exec i s = run (cmdRow c sel env (fun k w => checked env k (chk w k) (go k) w) goOn) s)
    (hs : Starts s c k) (hsel : sel k = true) (hpass : chk (begun s c k) k = none) : Leaves i s (go k (begun s c k)) := by
  have h := leaves_start hrow hs hsel
  simpa only [checked, hpass] using h

/-- A command that starts and fails its own check completes with that check's outcome. -/
theorem leaves_checked_fails {i : Instr} {s : State} {c : CmdId} {k : Cmd} {sel : Cmd → Bool} {env : Env} {chk : W → Cmd → Check}
    {go goOn : Cmd → W → W} {o : Outc}
    (hrow : exec i s = run (cmdRow c sel env (fun k w => checked env k (chk w k) (go k) w) goOn) s)
    (hs : Starts s c k) (hsel : sel k = true) (hfail : chk (begun s c k) k = some o) :
    Leaves i s (complete env false c o (begun s c k)) := by
  have h := leaves_start hrow hs hsel
  simpa only [checked, hfail, id_of_starts hs] using h

/-! ### What the start of a command leaves as it was -/

theorem begun_base (s : State) (c : CmdId) (k : Cmd) (hs : Starts s c k) (hi : s.blk.ras.inj = []) : (begun s c k).base = s.mem := by
  obtain ⟨l, r, h⟩ := begun_eq s c k hs hi; rw [h]; rfl
theorem begun_jr (s : State) (c : CmdId) (k : Cmd) (hs : Starts s c k) (hi : s.blk.ras.inj = []) : (begun s c k).jr = [] := by
  obtain ⟨l, r, h⟩ := begun_eq s c k hs hi; rw [h]; rfl
theorem begun_build (s : State) (c : CmdId) (k : Cmd) (hs : Starts s c k) (hi : s.blk.ras.inj = []) : (begun s c k).build = s.build := by
  obtain ⟨l, r, h⟩ := begun_eq s c k hs hi; rw [h]; rfl

/-- A command that completes with nothing done but its start has finished over that. -/
theorem finished_begun {s : State} {c : CmdId} {env : Env} {k : Cmd} (o : Outc) (hs : Starts s c k) (hc : Calm s env)
    (hr : Reports s c k) : Finished s (closeW s (complete env false c o (begun s c k))) c k o (begun s c k) := by
  obtain ⟨-, -, hi, -⟩ := id hc
  obtain ⟨-, -, -, hf⟩ := id hr
  obtain ⟨l, r, h⟩ := begun_eq s c k hs hi
  rw [h]
  exact finished_of_start env s c k o _ hs hc hr (by rw [h]) (by rw [h]) rfl rfl rfl rfl rfl hf hi

/-- A command that completes with nothing done but its start. -/
theorem leads_finished_begun {i : Instr} {s : State} {c : CmdId} {env : Env} {k : Cmd} {o : Outc} (hs : Starts s c k)
    (hc : Calm s env) (hr : Reports s c k) (h : Leaves i s (complete env false c o (begun s c k))) :
    Leads i s (fun t => Finished s t c k o (begun s c k)) :=
  ⟨_, h, finished_begun o hs hc hr⟩

/-! ### Failed checks -/

/-- SNUFF of a queue pair looks at the partition alone. -/
theorem leaves_snuff_denied {s : State} {c : CmdId} {env : Env} {k : Cmd} {o : Outc} (hs : Starts s c k) (hop : opOf k = 0x82)
    (hfail : deny (k.part != 0) 0xB2 = some o) : Leaves (.snuff c env) s (complete env false c o (begun s c k)) := by
  have h : Leaves (.snuff c env) s _ := leaves_start (i := .snuff c env) rfl hs (isOp_of hop)
  have hq : (c.q == fabricQ) = false := beq_false_of_ne (notFabric_of_starts hs)
  simpa only [checked, id_of_starts hs, hq, Bool.not_false, Bool.true_and, hfail] using h

/-- While no patch runs PARTITION_SET is a command row as the others. -/
theorem exec_partitionSet {s : State} {c : CmdId} {env : Env} (hpatch : s.blk.patch = none) :
    exec (.partitionSet c env) s = run (cmdRow c (isOp 0x84) env (fun k w => checked env k (partitionCheck w k) (partitionStart env k) w)
      (partitionGo env)) s := by
  show execPartitionSet c env s = _
  simp [execPartitionSet, run_next, setHolds, hpatch]

/-- Settles O60: each row makes its own check first when its command starts. -/
theorem failedChecksEndCommands : Obligations.FailedChecksEndCommands := by
  intro s c env k i chk o hs hc hr hi hpatch hfail
  refine leads_finished_begun hs hc hr ?_
  simp only [List.mem_cons, Prod.mk.injEq, List.not_mem_nil, or_false] at hi
  obtain ⟨rfl, h, rfl⟩ | ⟨rfl, h, rfl⟩ | ⟨rfl, h, rfl⟩ | ⟨rfl, h, rfl⟩ | ⟨rfl, h, rfl⟩ | ⟨rfl, h, rfl⟩ | ⟨rfl, h, rfl⟩
    | ⟨rfl, h, rfl⟩ | ⟨rfl, h, rfl⟩ | ⟨rfl, h, rfl⟩ | ⟨rfl, h, rfl⟩ | ⟨rfl, h, rfl⟩ | ⟨rfl, h, rfl⟩ | ⟨rfl, h, rfl⟩
    | ⟨rfl, h, rfl⟩ | ⟨rfl, h, rfl⟩ | ⟨rfl, h, rfl⟩ | ⟨rfl, h, rfl⟩ := hi
  case inr.inr.inr.inr.inr.inr.inr.inr.inr.inr.inr.inr.inr.inr.inl => exact leaves_snuff_denied hs h hfail
  case inr.inr.inr.inr.inr.inr.inr.inr.inr.inr.inr.inr.inr.inr.inr.inr.inl =>
    exact leaves_checked_fails (exec_partitionSet (hpatch h)) hs (isOp_of h) hfail
  all_goals exact leaves_checked_fails rfl hs (isOp_of h) hfail

end Sys2Proof.Machine
end

section
/-! PROOF. REGION_DEFINE, WATCH_OPEN and WINDOW_OPEN (R145, R193 to R197, R205 to R207). -/

namespace Sys2Proof.Machine

open Sys2Proof.Safety

/-! ### What the start of a command leaves as it was -/

/-- A command that starts leaves everything but the counters of its partition and class, its queue pair and itself. -/
structure StartKeeps (s : State) (w : W) : Prop where
  build : w.build = s.build
  base : w.base = s.mem
  jr : w.jr = []
  blk : w.b = { s.blk with sec := w.b.sec, qps := w.b.qps, cmds := w.b.cmds }

theorem begun_keeps {s : State} {c : CmdId} {k : Cmd} (hs : Starts s c k) (hi : s.blk.ras.inj = []) :
    StartKeeps s (begun s c k) := by
  obtain ⟨l, r, h⟩ := begun_eq s c k hs hi
  rw [h]
  exact ⟨rfl, rfl, rfl, rfl⟩

theorem StartKeeps.slices {s : State} {w : W} (h : StartKeeps s w) : w.b.slices = s.blk.slices := by rw [h.blk]
theorem StartKeeps.fetches {s : State} {w : W} (h : StartKeeps s w) : w.b.fetches = s.blk.fetches := by rw [h.blk]
theorem StartKeeps.ras {s : State} {w : W} (h : StartKeeps s w) : w.b.ras = s.blk.ras := by rw [h.blk]
theorem StartKeeps.crp {s : State} {w : W} (h : StartKeeps s w) : w.b.crp = s.blk.crp := by rw [h.blk]
theorem StartKeeps.ctxs {s : State} {w : W} (h : StartKeeps s w) : w.b.ctxs = s.blk.ctxs := by rw [h.blk]

theorem StartKeeps.getRgn {s : State} {w : W} (h : StartKeeps s w) (i : Nat) : getRgn w i = rgnOf s i := by
  rw [Machine.getRgn, h.blk]; rfl

theorem StartKeeps.getCtx {s : State} {w : W} (h : StartKeeps s w) (x : Nat) : getCtx w x = ctxOf s x := by
  rw [Machine.getCtx, h.blk]; rfl

theorem StartKeeps.getGrp {s : State} {w : W} (h : StartKeeps s w) (g : Nat) : getGrp w g = groupOf s g := by
  rw [Machine.getGrp, h.blk]; rfl

theorem StartKeeps.getWatch {s : State} {w : W} (h : StartKeeps s w) (x : Nat) : getWatch w x = (ctxOf s x).watch := by
  rw [Machine.getWatch, h.getCtx]

theorem getCtx_setCtx (x : Nat) (y : Ctx) (w : W) : getCtx (setCtx x y w) x = y := tget_tset_same _ _ _ _

/-- A command that completes from the transaction of its start, with an effect that leaves what a completion looks at, has
finished: as `finished_of_start`, of its context the state alone. -/
theorem finished_over {env : Env} {s : State} {c : CmdId} {k : Cmd} {w : W} (o : Outc) (hs : Starts s c k) (hc : Calm s env)
    (hr : Reports s c k) (hcmd : w.b.cmds = (begun s c k).b.cmds) (hqps : w.b.qps = (begun s c k).b.qps) (hb : w.base = s.mem)
    (hj : w.jr = []) (hbd : w.build = s.build) (hsl : w.b.slices = s.blk.slices)
    (hx : (getCtx w k.ctx).state = (ctxOf s k.ctx).state) (hf : w.b.fetches = s.blk.fetches) (hi : w.b.ras.inj = s.blk.ras.inj) :
    Finished s (closeW s (complete env false c o w)) c k o w := by
  obtain ⟨-, -, hinj, -⟩ := id hc
  obtain ⟨-, -, hlines, hfetch⟩ := id hr
  obtain ⟨-, hq, hctx, hout, -⟩ := id hs
  have hfind : findCmd w c = some { k with phase := .running } := by
    have h := begun_find s c k hs hinj
    rwa [findCmd, ← hcmd] at h
  have hqp : getQp w c.q = getQp (begun s c k) c.q := by rw [getQp, hqps]; rfl
  have hbq := begun_qp s c k hs hinj
  have hup : (getCtx w k.ctx).state ≠ .teardown := by
    rw [hx]; intro h; rw [ctxRuns, h] at hctx; contradiction
  have hfree : linesFree w (entryAt (getQp w c.q)) 32 = true := by
    obtain ⟨hbase, htail, -, -⟩ := id hbq
    have he : entryAt (getQp w c.q) = entryAt (qpOf s c.q) := by rw [hqp, entryAt, hbase, htail]; rfl
    rw [he, linesFree_congr (openW s) w _ _ hbd hsl hfetch (hf.trans hfetch)]
    exact hlines
  exact finished_of_complete env s c k _ o w hfind rfl hq hr hc hout hup hfree hb hj (hi.trans hinj) (by rw [hqp]; exact hbq)

/-! ### REGION_DEFINE -/

/-- Settles O13: the row's start finishes over the entry filled. -/
theorem regionDefineFillsAnEntry : Obligations.RegionDefineFillsAnEntry := by
  rintro s c env k i kind r ⟨hs, hc, hr, hop⟩ hpass hi hkind hreg
  obtain ⟨-, -, hinj, -⟩ := id hc
  have hk := begun_keeps hs hinj
  have hgo : Leaves (.regionDefine c env) s (regionDefine env k (begun s c k)) :=
    leaves_checked (i := .regionDefine c env) rfl hs (isOp_of hop) hpass
  have hdef : regionDefine env k (begun s c k) = complete env false c { result := toLe 2 i }
      (if codedKind kind then
        modRgn (arg k 0x1E 2) (fun p => { p with partner := some i }) (setRgn i r (begun s c k)) else setRgn i r (begun s c k)) := by
    simp only [regionDefine, hk.getRgn, ← hkind, ← hi, done, id_of_starts hs, hreg]
  have hfin : ∀ rgns, Finished s (closeW s (complete env false c { result := toLe 2 i }
      { begun s c k with b := { (begun s c k).b with rgns := rgns } })) c k { result := toLe 2 i }
      { begun s c k with b := { (begun s c k).b with rgns := rgns } } := fun rgns => by
    exact finished_over _ hs hc hr rfl rfl hk.base hk.jr hk.build hk.slices (congrArg Ctx.state (hk.getCtx k.ctx)) hk.fetches
      (congrArg Ras.inj hk.ras)
  refine ⟨fun hplain => ⟨_, hgo, ?_⟩, fun hcoded hne => ⟨_, hgo, ?_⟩⟩
  · rw [hdef, hplain]
    exact hfin _
  · have hpartner : getRgn (setRgn i r (begun s c k)) (arg k 0x1E 2) = rgnOf s (arg k 0x1E 2) :=
      (tget_tset_other _ _ _ _ _ hne.symm).trans (hk.getRgn _)
    rw [hdef, hcoded, if_pos rfl, modRgn, hpartner]
    exact hfin _

/-! ### WATCH_OPEN -/

/-- The Watch record that a WATCH_OPEN opens in a context (R193, R194, R197). -/
def openedWatch (w : W) (k : Cmd) (x : Watch) : Watch :=
  { phase := .opened, w := arg k 0x10 6
    a := (match x.lastAbandoned with | some (v, a) => if v = arg k 0x10 6 then a + 1 else 0 | none => 0)
    lastClosed := x.lastClosed, lastAbandoned := x.lastAbandoned, verdict := x.verdict, recSeq := x.recSeq
    rounds := arg k 0x1A 1, flags := arg k 0x1B 1, wdom := arg k 0x16 2, record := arg k 0x18 2, peers := domPeers w (arg k 0x16 2)
    tOpen := w.b.crp.tCore, sweepBad := x.sweepBad, runBase := k.runNo
    sawDegraded := ((domGroups w (arg k 0x16 2)).filter (fun g => g.2.state == .degraded)).map (·.1)
    sawRelighting := ((domGroups w (arg k 0x16 2)).filter (fun g => g.2.state == .relighting)).map (·.1) }

theorem watchOpenGo_eq (env : Env) (k : Cmd) (w : W) : watchOpenGo env k w =
    done env k.id .ok 0 (toLe 1 (openedWatch w k (getWatch w k.ctx)).a)
      (setCtx k.ctx { getCtx w k.ctx with watch := openedWatch w k (getWatch w k.ctx) }
        { w with b := { w.b with wdoms := tset w.b.wdoms (arg k 0x16 2) k.ctx } }) := by
  have hget : getWatch (modWatch k.ctx (openedWatch w k) w) k.ctx = openedWatch w k (getWatch w k.ctx) :=
    congrArg Ctx.watch (tget_tset_same _ _ _ _)
  show done env k.id .ok 0 (toLe 1 (getWatch (modWatch k.ctx (openedWatch w k) w) k.ctx).a) _ = _
  rw [hget]; rfl

/-- Settles O17: the row's start finishes over the Watch opened. -/
theorem watchOpens : Obligations.WatchOpens := by
  rintro s c env k a ⟨hs, hc, hr, hop⟩ hpass ha
  obtain ⟨-, -, hinj, -⟩ := id hc
  have hk := begun_keeps hs hinj
  have hgo : Leaves (.watchOpen c env) s (watchOpenGo env k (begun s c k)) :=
    leaves_checked (i := .watchOpen c env) rfl hs (isOp_of hop) hpass
  have hdoms : (begun s c k).b.wdoms = s.blk.wdoms := by rw [hk.blk]
  have htime : (begun s c k).b.crp.tCore = s.blk.crp.tCore := by rw [hk.crp]
  have hnum : (openedWatch (begun s c k) k (ctxOf s k.ctx).watch).a = a := ha.symm
  rw [watchOpenGo_eq, hk.getWatch, hk.getCtx, id_of_starts hs, hnum, hdoms] at hgo
  refine ⟨_, hgo, openedWatch (begun s c k) k (ctxOf s k.ctx).watch, rfl, rfl, hnum, rfl, rfl, rfl, rfl, htime, rfl, rfl, rfl, rfl,
    rfl, rfl, rfl, rfl, rfl, ?_⟩
  exact finished_over _ hs hc hr rfl rfl hk.base hk.jr hk.build hk.slices
    (by rw [getCtx_setCtx]) hk.fetches (congrArg Ras.inj hk.ras)

end Sys2Proof.Machine
end

section
/-! PROOF. WINDOW_OPEN and encoding (R205 to R207). -/

namespace Sys2Proof.Machine

open Sys2Proof.Safety

theorem setCtx_setCtx (x : Nat) (y z : Ctx) (w : W) : setCtx x y (setCtx x z w) = setCtx x y w := by simp [setCtx]

theorem modCtx_setCtx (x : Nat) (f : Ctx → Ctx) (y : Ctx) (w : W) : modCtx x f (setCtx x y w) = setCtx x (f y) w := by
  rw [modCtx, getCtx_setCtx, setCtx_setCtx]

/-- Two transactions with the same regions have the same WINDOW regions of a context. -/
theorem windowRgns_congr {v w : W} (h : v.b.rgns = w.b.rgns) (x : Nat) : windowRgns v x = windowRgns w x := by
  simp only [windowRgns, rgnsOfCtx, definedRgns, h]

theorem StartKeeps.rgns {s : State} {w : W} (h : StartKeeps s w) : w.b.rgns = s.blk.rgns := by rw [h.blk]

/-- The context of a WINDOW_OPEN that enters WINDOW at once (R206). -/
def windowCtx (t : Nat) (x : Ctx) : Ctx :=
  { x with watch := { x.watch with phase := .window, winCmd := none, noRoll := true, tWindow := t } }

/-- The context of a WINDOW_OPEN that encodes first (R205). -/
def encodingCtx (c : CmdId) (x : Ctx) : Ctx := { x with watch := { x.watch with phase := .encoding, winCmd := some c } }

/-- Without encoding, or without a WINDOW region of a group, WINDOW_OPEN enters WINDOW at once. -/
theorem windowStart_now {env : Env} {k : Cmd} {w : W}
    (h : bit (getWatch w k.ctx).flags 0 = false ∨ windowRgns w k.ctx = []) :
    windowStart env k w = complete env false k.id {} (setCtx k.ctx (windowCtx w.b.crp.tCore (getCtx w k.ctx)) w) := by
  have hcond : (!bit (getWatch w k.ctx).flags 0 || (windowRgns w k.ctx).isEmpty) = true := by
    obtain h | h := h <;> simp [h]
  simp only [windowStart, hcond, if_true, enterWindow, done, modWatch]
  rw [show modCtx k.ctx (fun c => { c with watch := { c.watch with noRoll := true } }) w
        = setCtx k.ctx { getCtx w k.ctx with watch := { (getCtx w k.ctx).watch with noRoll := true } } w from rfl, modCtx_setCtx]
  rfl

/-- With encoding over WINDOW regions of groups it starts ENCODING on each. -/
theorem windowStart_encodes {env : Env} {k : Cmd} {w : W} (hflag : bit (getWatch w k.ctx).flags 0 = true)
    (hrgns : windowRgns w k.ctx ≠ []) :
    windowStart env k w = beginEncode env k.ctx ((windowRgns w k.ctx).foldl (fun w r => startEncode env k.ctx k.id r.1 w)
      (setCtx k.ctx (encodingCtx k.id (getCtx w k.ctx)) w)) := by
  have hcond : (!bit (getWatch w k.ctx).flags 0 || (windowRgns w k.ctx).isEmpty) = false := by simp [hflag, hrgns]
  simp only [windowStart, hcond, Bool.false_eq_true, if_false]
  rfl

/-- WINDOW_OPEN in POLLED passes its check. -/
theorem leaves_windowOpen {s : State} {c : CmdId} {env : Env} {k : Cmd} (hs : Starts s c k) (hop : opOf k = 0x22)
    (hphase : (getWatch (begun s c k) k.ctx).phase = .polled) :
    Leaves (.windowOpen c env) s (windowStart env k (begun s c k)) :=
  leaves_checked (i := .windowOpen c env)
    (chk := fun w k => if (getWatch w k.ctx).phase == .skip then fail .nonfinite 0 else inPhase w k [.polled]) rfl hs (isOp_of hop)
    (by simp [hphase, inPhase])

/-- In another phase it completes with its status. -/
theorem leads_windowOpen_fails {s : State} {c : CmdId} {env : Env} {k : Cmd} {o : Outc} (hs : Starts s c k) (hc : Calm s env)
    (hr : Reports s c k) (hop : opOf k = 0x22)
    (hfail : (if (getWatch (begun s c k) k.ctx).phase == .skip then fail .nonfinite 0 else inPhase (begun s c k) k [.polled]) = some o) :
    Leads (.windowOpen c env) s (fun t => Finished s t c k o (begun s c k)) :=
  leads_finished_begun hs hc hr (leaves_checked_fails (i := .windowOpen c env)
    (chk := fun w k => if (getWatch w k.ctx).phase == .skip then fail .nonfinite 0 else inPhase w k [.polled]) rfl hs (isOp_of hop) hfail)

/-- Encodings of a Watch that does not encode have no end. -/
theorem encodeEnd_other {env : Env} {x : Nat} {w : W} (h : (getWatch w x).phase ≠ .encoding) : encodeEnd env x w = w := by
  unfold encodeEnd
  split
  · contradiction
  · rfl

theorem getWatch_openW (s : State) (x : Nat) : getWatch (openW s) x = (ctxOf s x).watch := rfl

/-- The meaning of ENCODING_COMPLETE. -/
def encodingCompleteW (x : Nat) (env : Env) (w : W) : W :=
  encodeEnd env x (if (getWatch w x).phase == .encoding then endEncodes x w else w)

/-- The meaning of ENCODING_TIMEOUT. -/
def encodingTimeoutW (x : Nat) (env : Env) (w : W) : W :=
  if (getWatch w x).phase == .encoding && (encodesOf w x).any (fun s => !allDescs w s || (s.endSent && !allEnds w s)) then
    failEncode env x { status := .timeout } w else w

/-- Settles O19: phase by phase, with the window region's lists unchanged by the start. -/
theorem windowOpens : Obligations.WindowOpens := by
  refine ⟨?polled, ?other, ?runs, ?complete, ?timeout⟩
  case polled =>
    rintro s c env k ⟨hs, hc, hr, hop⟩ hphase
    obtain ⟨-, -, hinj, -⟩ := id hc
    have hk := begun_keeps hs hinj
    have hgo := leaves_windowOpen (env := env) hs hop (by rw [hk.getWatch]; exact hphase)
    have hrgns : windowRgns (begun s c k) k.ctx = windowRgns (openW s) k.ctx := windowRgns_congr hk.rgns _
    refine ⟨fun hnow => ?_, fun hflag hsome => ?_⟩
    · rw [windowStart_now (by rw [hk.getWatch, hrgns]; exact hnow), hk.getCtx, hk.crp, id_of_starts hs] at hgo
      exact ⟨_, hgo, finished_over _ hs hc hr rfl rfl hk.base hk.jr hk.build hk.slices
        (by rw [getCtx_setCtx]; rfl) hk.fetches (congrArg Ras.inj hk.ras)⟩
    · rw [windowStart_encodes (by rw [hk.getWatch]; exact hflag) (by rw [hrgns]; exact hsome), hrgns, hk.getCtx, id_of_starts hs] at hgo
      exact hgo
  case other =>
    rintro s c env k ⟨hs, hc, hr, hop⟩
    obtain ⟨-, -, hinj, -⟩ := id hc
    have hk := begun_keeps hs hinj
    refine ⟨fun hskip => leads_windowOpen_fails hs hc hr hop ?_, fun hother => leads_windowOpen_fails hs hc hr hop ?_⟩
    · simp [hk.getWatch, hskip, fail]
    · simp only [List.mem_cons, List.not_mem_nil, or_false, not_or] at hother
      simp [hk.getWatch, inPhase, fail, hother]
  case runs =>
    intro s c env k hs hop hphase
    have hgo : Leaves (.windowOpen c env) s _ := leaves_goOn (i := .windowOpen c env) rfl hs (isOp_of hop)
    have hph : ((getWatch (openW s) k.ctx).phase == .encoding) = true := beq_iff_eq.mpr hphase
    simpa only [hph, if_true] using hgo
  case complete =>
    intro s x env
    refine ⟨fun hphase => leaves_of (f := encodingCompleteW x env) rfl ?_, fun hphase =>
      ⟨idle_of (f := encodingCompleteW x env) rfl ?_, idle_of (f := encodingTimeoutW x env) rfl ?_⟩⟩
    all_goals rw [← getWatch_openW] at hphase
    · rw [encodingCompleteW, if_pos (beq_iff_eq.mpr hphase)]
    · rw [encodingCompleteW, if_neg (by simpa using hphase), encodeEnd_other hphase]
    · rw [encodingTimeoutW, if_neg fun h => hphase (beq_iff_eq.mp (Bool.and_eq_true_iff.mp h).1)]
  case timeout =>
    intro s x env hphase hmissing
    rw [← getWatch_openW] at hphase
    refine leaves_of (f := encodingTimeoutW x env) rfl ?_
    rw [encodingTimeoutW, if_pos]
    simpa [hphase] using hmissing

end Sys2Proof.Machine
end

section
/-! PROOF. The PDE delta pool (R177, R178): the spans that allocation answers, and DELTA packets at their holder. -/

namespace Sys2Proof.Machine

open Sys2Proof.Safety

/-- A span that allocation could answer: aligned, within the pool, clear of the spans in use. -/
def SpanFits (used : List (Nat × Nat)) (n : Nat) (sp : Nat × Nat) : Prop :=
  sp.2 = n ∧ sp.1 % n = 0 ∧ sp.1 + n ≤ 98304 ∧ ∀ u ∈ used, sp.1 + n ≤ u.1 ∨ u.1 + u.2 ≤ sp.1

/-- The least of the starts that fit is one of them. -/
theorem foldl_least_mem (n : Nat) (l : List Nat) (m : Option (Nat × Nat)) (sp : Nat × Nat)
    (h : l.foldl (fun (m : Option (Nat × Nat)) a =>
      match m with
      | some s => if a < s.1 then some (a, n) else m
      | none => some (a, n)) m = some sp) : m = some sp ∨ ∃ a ∈ l, sp = (a, n) := by
  induction l generalizing m with
  | nil => exact .inl h
  | cons a l ih =>
    obtain hm | ⟨b, hb, hsp⟩ := ih _ h
    · cases m with
      | none => exact .inr ⟨a, .head _, (Option.some.inj hm).symm⟩
      | some s =>
        dsimp only at hm
        split at hm
        · exact .inr ⟨a, .head _, (Option.some.inj hm).symm⟩
        · exact .inl hm
    · exact .inr ⟨b, .tail _ hb, hsp⟩

/-- Allocation answers a span that fits. -/
theorem spanFits_of_allocSpan {used : List (Nat × Nat)} {n : Nat} {sp : Nat × Nat} (h : allocSpan used n = some sp) :
    SpanFits used n sp := by
  obtain h | ⟨a, ha, rfl⟩ := foldl_least_mem n _ none sp h
  · contradiction
  · obtain ⟨hstart, hok⟩ := List.mem_filter.mp ha
    rw [Bool.and_eq_true, decide_eq_true_eq] at hok
    obtain ⟨hin, hfree⟩ := hok
    refine ⟨rfl, ?_, hin, ?_⟩
    · obtain rfl | hmem := List.mem_cons.mp hstart
      · exact Nat.zero_mod n
      · obtain ⟨u, -, rfl⟩ := List.mem_map.mp hmem
        exact Nat.mul_mod_left _ n
    · simpa [spanFree] using hfree

/-- The class of a size holds it, and no smaller class does. -/
theorem classBlocks_least {size n : Nat} (h : classBlocks size = some n) :
    size ≤ 256 * n ∧ n ∈ [1, 4, 16, 64] ∧ ∀ m ∈ [1, 4, 16, 64], size ≤ 256 * m → n ≤ m := by
  unfold classBlocks at h
  simp only [List.forall_mem_cons, List.not_mem_nil, false_imp_iff, implies_true, and_true]
  repeat' split at h
  all_goals cases h <;> exact ⟨by omega, by simp, by omega⟩

/-- Settles O34, by what a span that allocation answers satisfies, and by the least class that holds a size. -/
theorem poolSpansFit : Obligations.PoolSpansFit :=
  ⟨fun _ _ _ _ h => spanFits_of_allocSpan h, fun _ _ h => classBlocks_least h⟩

/-! ### A DELTA packet at its holder (R177, R183) -/

/-- A packet of a unit the pool does not hold takes an entry of its own in the smallest class, where quotas and room allow. -/
theorem placePacket_fresh {env : Env} {a : Arrival} {w : W} {n : Nat} {sp : Nat × Nat}
    (hnew : w.b.pool.all (fun e => !(e.unit == a.unit)) = true) (hclass : classBlocks a.pkt.size = some n)
    (hspan : allocSpan (usedSpans w) n = some sp) (hquota : withinQuota w a.partner a.coord n = true) :
    placePacket env a w = (.placed, newEntry a (some sp) none w) := by
  have hmine : w.b.pool.filter (fun e => e.g == a.g && e.src == a.src && e.unit == a.unit && e.frag == a.frag && e.span.isSome
      && !(e.applied && !e.onApply)) = [] := by
    refine List.filter_eq_nil_iff.mpr fun e he => ?_
    have hne : (e.unit == a.unit) = false := by simpa using List.all_eq_true.mp hnew e he
    simp [hne]
  simp only [placePacket, hmine, List.getLast?_nil, hclass, hspan, hquota, if_true]

/-- A DELTA with no packet stalled before it, as the row takes it. -/
def deltaAlone (env : Env) (rx : Rx) (w : W) : W :=
  match deltaIn env rx w with
  | (.placed, w) => afterDelta env w
  | (x, w) => stall rx (x == .full) w

/-- A DELTA behind a stalled packet of its port (R74). -/
def deltaBehind (rx : Rx) (w : W) : W :=
  if noRoom w rx then setLnkErr 7 rx.port 1 (cntLp rx.port 0xF0 1 w) else stall rx false w

theorem leaves_deltaAlone {s : State} {rx : Rx} {env : Env} (hop : rx.pk.hdr.opcode = 0x10)
    (hstalled : (lpOf s rx.port).stalled = []) : Leaves (.delta rx env) s (deltaAlone env rx (openW s)) := by
  have hst : (getLp (openW s) rx.port).stalled = [] := hstalled
  show execDelta rx env s = _
  simp only [execDelta, run_next, hop, hst, bne_self_eq_false, List.isEmpty_nil, Bool.not_true, Bool.false_and, Bool.false_eq_true,
    if_false]
  rfl

theorem leaves_deltaBehind {s : State} {rx : Rx} {env : Env} (hop : rx.pk.hdr.opcode = 0x10)
    (hstalled : (lpOf s rx.port).stalled ≠ []) (hserv : inService (openW s) = true) (hen : s.blk.lnk.en = true) :
    Leaves (.delta rx env) s (deltaBehind rx (openW s)) := by
  have hst : (getLp (openW s) rx.port).stalled.isEmpty = false := List.isEmpty_eq_false_iff.mpr hstalled
  have hlen : (openW s).b.lnk.en = true := hen
  show execDelta rx env s = _
  simp only [execDelta, run_next, hop, hst, hserv, hlen, bne_self_eq_false, Bool.not_false, Bool.and_true, Bool.false_eq_true,
    if_true, if_false]
  rfl

/-- Settles O33, by the three ways a DELTA packet can go: alone, behind another, and into the pool. -/
theorem deltasAreHeld : Obligations.DeltasAreHeld := by
  refine ⟨?alone, ?behind, ?placed⟩
  case alone =>
    intro s rx env pk w v hop hstalled hrx
    have hgo := leaves_deltaAlone (env := env) hop hstalled
    refine ⟨fun h => ?_, fun h => ?_, fun h => ?_⟩
    all_goals rw [deltaAlone, deltaIn, hrx] at hgo; dsimp only at hgo; rw [h] at hgo
    all_goals exact hgo
  case behind =>
    intro s rx env hop hstalled hserv hen
    have hgo := leaves_deltaBehind (env := env) hop hstalled hserv hen
    refine ⟨fun hroom => ?_, fun hroom => ?_⟩
    all_goals rw [deltaBehind, hroom] at hgo
    all_goals exact hgo
  case placed =>
    intro env a w n sp hnew hclass hspan hquota
    exact ⟨placePacket_fresh hnew hclass hspan hquota, rfl⟩

end Sys2Proof.Machine
end

section
/-! PROOF. State engines at an instruction (R267 to R277): scalar, control, vector and local-store instructions. -/

namespace Sys2Proof.Machine

open Sys2Proof.Safety

/-! ### An SE at an instruction, and the next one -/

/-- An instruction of its opcode acts for an SE that stands at it. -/
theorem seRow_stands {s : State} {e op : Nat} {r : Run} {x : Se} {i : Ins} (act : Run → Se → Ins → W → W)
    (h : Stands s e op r x i) : seRow e op act (openW s) = act r x i (openW s) := by
  obtain ⟨rfl, hrun, hend, hstate, hgate, rfl, hop⟩ := h
  have hse : getSe (openW s) e = seOf s e := rfl
  have hst : ((seOf s e).state != .running && (seOf s e).state != .commit) = false := by
    obtain h | h := hstate <;> simp [h]
  simp only [seRow, hse, hrun, hend, Option.isSome_none, Bool.false_eq_true, if_false, hst, hgate, Bool.or_self, hop, bne_self_eq_false]

/-- An SE that is not at the last instruction stands at one with another behind it. -/
theorem stands_of_at {s : State} {e op : Nat} {r : Run} {x : Se} {i : Ins} (h : At s e op r x i) :
    Stands s e op r x i ∧ x.pc + 1 < (tget s.blk.eng.kslots x.slot {}).ninstr := by
  obtain ⟨hx, hrun, hend, hstate, hgate, hi, hop, hlast⟩ := h
  exact ⟨⟨hx, hrun, hend, hstate, hgate, hi, hop⟩, hlast⟩

theorem se_of_at {s : State} {e op : Nat} {r : Run} {x : Se} {i : Ins} (h : At s e op r x i) : x = seOf s e := h.1

/-- The row of the instruction leaves what the instruction does. -/
theorem leaves_at {c : Instr} {s : State} {e op : Nat} {r : Run} {x : Se} {i : Ins} {act : Run → Se → Ins → W → W} {w : W}
    (hrow : exec c s = run (seRow e op act) s) (h : At s e op r x i) (hact : act r x i (openW s) = w) : Leaves c s w :=
  leaves_of hrow ((seRow_stands act (stands_of_at h).1).trans hact)

/-- An SE that goes to an instruction of its kernel has retired one. -/
theorem goTo_retired {s : State} {e pc : Nat} {y : Se} (h : pc < (tget s.blk.eng.kslots y.slot {}).ninstr) :
    goTo e pc (setSe e y (openW s)) = { openW s with b := retired s e y pc } := by
  have hse : getSe (cntSe e 0x18 1 (setSe e y (openW s))) e = y := tget_tset_same _ _ _ _
  have hks : (cntSe e 0x18 1 (setSe e y (openW s))).b.eng.kslots = s.blk.eng.kslots := rfl
  simp only [goTo, hse, hks, if_neg (Nat.not_le.mpr h)]
  simp [setSe, cntSe, cntAdd, retired, withSe, tset_tset]

/-- The same of an SE left as it is. -/
theorem goTo_retired_same {s : State} {e pc : Nat} (h : pc < (tget s.blk.eng.kslots (seOf s e).slot {}).ninstr) :
    goTo e pc (openW s) = { openW s with b := retired s e (seOf s e) pc } := by
  have hse : getSe (cntSe e 0x18 1 (openW s)) e = seOf s e := rfl
  have hks : (cntSe e 0x18 1 (openW s)).b.eng.kslots = s.blk.eng.kslots := rfl
  simp only [goTo, hse, hks, if_neg (Nat.not_le.mpr h)]
  rfl

/-- Past the last instruction the chunk faults. -/
theorem goTo_fault {s : State} {e pc : Nat} (h : (tget s.blk.eng.kslots (seOf s e).slot {}).ninstr ≤ pc) :
    goTo e pc (openW s) = kernelFault 0x74 false e (cntSe e 0x18 1 (openW s)) := if_pos h

theorem goNext_retired {s : State} {e : Nat} {y : Se} (h : y.pc + 1 < (tget s.blk.eng.kslots y.slot {}).ninstr) :
    goNext e (setSe e y (openW s)) = { openW s with b := retired s e y (y.pc + 1) } := by
  rw [goNext, show getSe (setSe e y (openW s)) e = y from tget_tset_same _ _ _ _]
  exact goTo_retired h

/-- An instruction that goes on with the SE as given retires. -/
theorem retires_of {c : Instr} {s : State} {e op : Nat} {r : Run} {x y : Se} {i : Ins} {act : Run → Se → Ins → W → W}
    (hrow : exec c s = run (seRow e op act) s) (h : At s e op r x i) (hact : act r x i (openW s) = goNext e (setSe e y (openW s)))
    (hpc : y.pc = x.pc) (hslot : y.slot = x.slot) : Retires c s e y := by
  obtain ⟨hstands, hlast⟩ := stands_of_at h
  refine blocks_of (w := { openW s with b := retired s e y (y.pc + 1) }) hrow ?_ rfl
  rw [seRow_stands act hstands, hact]
  exact goNext_retired (by rw [hpc, hslot]; exact hlast)

/-- An instruction that only goes on retires. -/
theorem retires_same {c : Instr} {s : State} {e op : Nat} {r : Run} {x : Se} {i : Ins} {act : Run → Se → Ins → W → W}
    (hrow : exec c s = run (seRow e op act) s) (h : At s e op r x i) (hact : act r x i (openW s) = goNext e (openW s)) :
    Retires c s e x := by
  obtain ⟨hstands, hlast⟩ := stands_of_at h
  obtain rfl := se_of_at h
  refine blocks_of (w := { openW s with b := retired s e (seOf s e) ((seOf s e).pc + 1) }) hrow ?_ rfl
  rw [seRow_stands act hstands, hact]
  exact goTo_retired_same hlast

theorem retires_scalar {c : Instr} {s : State} {e op : Nat} {r : Run} {x : Se} {i : Ins} {f : Se → Ins → Word}
    (h : At s e op r x i) (hrow : exec c s = run (scalarRow e op f) s) : Retires c s e (setS i.d (f x i) x) :=
  retires_of (op := op) hrow h rfl rfl rfl

/-- Without an armed injection the residue check finds nothing. -/
theorem residueCheck_sound {s : State} {e : Nat} {y : Se} (h : Sound s e) : residueCheck e (setSe e y (openW s)) = setSe e y (openW s) := by
  have hhit : injHit (setSe e y (openW s)) 3 e = false := h
  rw [residueCheck, hhit, if_neg Bool.false_ne_true]

theorem retires_vector {c : Instr} {s : State} {e op : Nat} {r : Run} {x : Se} {i : Ins} {f : Se → Ins → List (BitVec 32)}
    (hsound : Sound s e) (h : At s e op r x i) (hrow : exec c s = run (vectorRow e op f) s) :
    Retires c s e (setV i.d (f x i) x) :=
  retires_of (op := op) hrow h (congrArg (goNext e) (residueCheck_sound hsound)) rfl rfl

/-! ### Scalar and control instructions (R275) -/

/-- The condition of SCMP, read off the values of its operands. -/
theorem scmp_eq (md : Nat) (a b : Word) : scmp md a b =
    (if md = 0 then decide (a = b) else if md = 1 then decide (a ≠ b) else if md = 2 then decide (a.toInt < b.toInt)
     else if md = 3 then decide (a.toNat < b.toNat) else if md = 4 then decide (b.toInt ≤ a.toInt)
     else decide (b.toNat ≤ a.toNat)) := by
  match md with
  | 0 => rfl
  | 1 =>
    simp only [scmp, bne, ne_eq, decide_not]
    rfl
  | 2 => rfl
  | 3 => rfl
  | 4 => simp [scmp, BitVec.slt, ← decide_not]
  | n + 5 => simp [scmp, BitVec.ult, ← decide_not]

/-- A loop counter less one is 0 where the counter is 1. -/
theorem sub_one_eq_zero_iff (a : Word) : a - 1 = 0 ↔ a = 1 := by
  constructor <;> intro h <;> bv_omega

/-- A branch goes where it is taken to, and to the next instruction otherwise. -/
theorem blocks_branch {c : Instr} {s : State} {e op : Nat} {r : Run} {x : Se} {i : Ins} {takes : Se → Ins → Bool}
    (h : At s e op r x i) (hrow : exec c s = run (branchRow e op takes) s)
    (hto : i.imm % 4096 < (tget s.blk.eng.kslots x.slot {}).ninstr) :
    Blocks c s (retired s e x (if takes x i then i.imm % 4096 else x.pc + 1)) := by
  obtain ⟨hstands, hlast⟩ := stands_of_at h
  obtain rfl := se_of_at h
  refine blocks_of (w := { openW s with b := retired s e (seOf s e) _ }) hrow ((seRow_stands _ hstands).trans ?_) rfl
  dsimp only
  split
  · exact goTo_retired_same hto
  · exact goTo_retired_same hlast

/-- What LOOP does. -/
def loopAct (e : Nat) (_ : Run) (x : Se) (i : Ins) (w : W) : W :=
  if sreg x i.a - 1 == 0 then goNext e (setSe e (setS i.a (sreg x i.a - 1) x) w)
  else goTo e (i.imm % 4096) (setSe e (setS i.a (sreg x i.a - 1) x) w)

/-- Settles O46: each instruction retires with its result (`retires_scalar`) or goes to an instruction (`blocks_branch`). -/
theorem scalarAndControlInstructions : Obligations.ScalarAndControlInstructions := by
  refine ⟨?past, ?scalar, ?control⟩
  case past =>
    intro s e r x i
    refine ⟨fun h hlast => ?_, fun h hlast => ?_⟩
    all_goals
      obtain rfl := id h.1
    · exact leaves_of (f := seRow e 0x7E (fun _ _ _ w => goNext e w)) rfl ((seRow_stands _ h).trans (goTo_fault hlast))
    · exact leaves_of (f := branchRow e 0x10 (fun _ _ => true)) rfl ((seRow_stands _ h).trans (goTo_fault hlast))
  case scalar =>
    rintro s e r x i k rfl
    and_intros
    · exact fun h => retires_scalar (f := fun _ i => simm i) h rfl
    · exact fun h => retires_scalar (f := fun x i => BitVec.ofNat 32 i.imm ++ (sreg x i.d).setWidth 32) h rfl
    · exact fun h => retires_scalar (f := fun x i => sreg x i.a + sreg x i.b) h rfl
    · exact fun h => retires_scalar (f := fun x i => sreg x i.a + simm i) h rfl
    · exact fun h => retires_scalar (f := fun x i => sreg x i.a - sreg x i.b) h rfl
    · exact fun h => retires_scalar (f := fun x i => sreg x i.a * sreg x i.b) h rfl
    · exact fun h => retires_scalar (f := fun x i => sreg x i.a &&& sreg x i.b) h rfl
    · exact fun h => retires_scalar (f := fun x i => sreg x i.a ||| sreg x i.b) h rfl
    · exact fun h => retires_scalar (f := fun x i => sreg x i.a ^^^ sreg x i.b) h rfl
    · exact fun h => retires_scalar (f := fun x i => sreg x i.a <<< (i.imm % 64)) h rfl
    · exact fun h => retires_scalar (f := fun x i => sreg x i.a >>> (i.imm % 64)) h rfl
    · exact fun h => retires_scalar (f := fun x i => (sreg x i.a).sshiftRight (i.imm % 64)) h rfl
    · rintro h b rfl
      rw [← scmp_eq]
      exact retires_scalar (f := fun x i => if scmp i.md (sreg x i.a) (sreg x i.b) then 1 else 0) h rfl
  case control =>
    rintro s e r x i to_ rfl hto
    and_intros
    · exact fun h => blocks_branch (takes := fun _ _ => true) h rfl hto
    · intro h
      have hgo := blocks_branch (c := .bz e) (takes := fun x i => sreg x i.a == 0) h rfl hto
      simpa only [beq_iff_eq] using hgo
    · intro h
      have hgo := blocks_branch (c := .bnz e) (takes := fun x i => sreg x i.a != 0) h rfl hto
      simpa only [bne_iff_ne, ne_eq, ite_not] using hgo
    · intro h
      obtain ⟨hstands, hlast⟩ := stands_of_at h
      refine blocks_of (w := { openW s with b := retired s e (setS i.a (sreg x i.a - 1) x) _ }) (f := seRow e 0x13 (loopAct e)) rfl
        ((seRow_stands _ hstands).trans ?_) rfl
      simp only [loopAct, beq_iff_eq, sub_one_eq_zero_iff]
      split
      · exact goNext_retired (y := setS i.a (sreg x i.a - 1) x) hlast
      · exact goTo_retired (y := setS i.a (sreg x i.a - 1) x) hto
    · exact fun h => retires_same (op := 0x7E) (act := fun _ _ _ w => goNext e w) rfl h rfl

/-! ### Vector instructions (R275, R289, R291) -/

/-- What VEXT does. -/
def vextAct (e : Nat) (_ : Run) (x : Se) (i : Ins) (w : W) : W :=
  goNext e (residueCheck e (setSe e (setS i.d (((vreg x i.a).getD (i.imm % 128) 0).setWidth 64) x) w))

/-- The lanes RAND writes (R291, R307 to R310). -/
def randLanes (r : Run) (x : Se) (i : Ins) : List (BitVec 32) :=
  (List.range 128).map (fun l =>
    (crg128 { x0 := BitVec.ofNat 32 (fld r.params 0x30 4), x1 := BitVec.ofNat 32 (fld r.params 0x34 4)
              x2 := BitVec.ofNat 32 (fld r.params 0x38 4), x3 := BitVec.ofNat 32 (fld r.params 0x3C 4) }
      (crgCounter ((sreg x i.a).toNat + l) (r.regions.getD (i.imm % 8) 0) (sreg x i.b).toNat (i.imm >>> 16))).at i.md)

/-- What RAND does. -/
def randAct (e : Nat) (r : Run) (x : Se) (i : Ins) (w : W) : W :=
  goNext e (residueCheck e (setSe e (setV i.d (randLanes r x i) x) w))

/-- A fused multiply-add whose signs two bits of a number give. -/
theorem fFma_bits (a b c : BitVec 32) (n j l : Nat) : fFma a b c (bit n j) (bit n l) =
    enc32 (addV (if n.testBit j then negV (mulV (val32 a) (val32 b)) else mulV (val32 a) (val32 b))
      (if n.testBit l then negV (val32 c) else val32 c)) := rfl

/-- The lanes VFMA writes. -/
def vfmaLanes (x : Se) (i : Ins) : List (BitVec 32) :=
  (((vreg x i.a).zip (vreg x i.b)).zip (vreg x i.c)).map (fun p => fFma p.1.1 p.1.2 p.2 (bit i.md 0) (bit i.md 1))

/-- The lanes VSEL writes. -/
def vselLanes (x : Se) (i : Ins) : List (BitVec 32) :=
  (((vreg x i.a).zip (vreg x i.b)).zip (vreg x i.c)).map (fun p => if p.2 != 0 then p.1.1 else p.1.2)

/-- Settles O47: each instruction retires with its lanes (`retires_vector`). -/
theorem vectorInstructions : Obligations.VectorInstructions := by
  rintro s e r x i a b c hsound rfl rfl rfl
  and_intros
  · exact fun h => retires_vector (f := fun x i => lanes2 fAdd (vreg x i.a) (vreg x i.b)) hsound h rfl
  · exact fun h => retires_vector (f := fun x i => lanes2 fSub (vreg x i.a) (vreg x i.b)) hsound h rfl
  · exact fun h => retires_vector (f := fun x i => lanes2 fMul (vreg x i.a) (vreg x i.b)) hsound h rfl
  · intro h
    have hgo := retires_vector (c := .vfma e) (f := vfmaLanes) hsound h rfl
    simpa only [vfmaLanes, fFma_bits] using hgo
  · exact fun h => retires_vector (f := fun x i => lanes2 fMin (vreg x i.a) (vreg x i.b)) hsound h rfl
  · exact fun h => retires_vector (f := fun x i => lanes2 fMax (vreg x i.a) (vreg x i.b)) hsound h rfl
  · exact fun h => retires_vector (f := fun x i => (vreg x i.a).map fRcp) hsound h rfl
  · exact fun h => retires_vector (f := fun x i => (vreg x i.a).map fRsq) hsound h rfl
  · exact fun h => retires_vector (f := fun x i => (vreg x i.a).map fSqrt) hsound h rfl
  · exact fun h => retires_vector (f := fun x i => (vreg x i.a).map fExp2) hsound h rfl
  · exact fun h => retires_vector (f := fun x i => (vreg x i.a).map fLog2) hsound h rfl
  · exact fun h => retires_vector
        (f := fun x i => lanes2 (fun a b => if fCmp i.md a b then 0xFFFFFFFF else 0) (vreg x i.a) (vreg x i.b))
        hsound h rfl
  · intro h
    have hgo := retires_vector (c := .vsel e) (f := vselLanes) hsound h rfl
    simpa only [vselLanes, bne_iff_ne, ne_eq, ite_not] using hgo
  · exact fun h => retires_vector (f := fun x i => lanes2 (· &&& ·) (vreg x i.a) (vreg x i.b)) hsound h rfl
  · exact fun h => retires_vector (f := fun x i => lanes2 (· ||| ·) (vreg x i.a) (vreg x i.b)) hsound h rfl
  · exact fun h => retires_vector (f := fun x i => lanes2 (· ^^^ ·) (vreg x i.a) (vreg x i.b)) hsound h rfl
  · exact fun h => retires_vector (f := fun x i => (vreg x i.a).map (fun (v : BitVec 32) => v <<< (i.imm % 32))) hsound h rfl
  · exact fun h => retires_vector (f := fun x i => (vreg x i.a).map (fun (v : BitVec 32) => v >>> (i.imm % 32))) hsound h rfl
  · exact fun h => retires_vector (f := fun x i => lanes2 (· + ·) (vreg x i.a) (vreg x i.b)) hsound h rfl
  · exact fun h => retires_vector (f := fun x i => (vreg x i.a).map (if i.md = 0 then fOfInt else fToInt)) hsound h rfl
  · exact fun h => retires_vector (f := fun x i => List.replicate 128 ((sreg x i.a).setWidth 32)) hsound h rfl
  · exact fun h => retires_of (op := 0x3A) (act := vextAct e) rfl h (congrArg (goNext e) (residueCheck_sound hsound)) rfl rfl
  · exact fun h => retires_vector
        (f := fun x i => (List.range 128).map (fun l => (sreg x i.a).setWidth 32 + BitVec.ofNat 32 l))
        hsound h rfl
  · exact fun h => retires_of (op := 0x51) (act := randAct e) rfl h (congrArg (goNext e) (residueCheck_sound hsound)) rfl rfl

/-! ### Loads from and stores to the local store (R270, R275, R277) -/

/-- A byte of the local store behind a write of a run of bytes. -/
theorem lsByte_lsPut (d : Bytes) : ∀ (a b : Nat) (x : Se),
    lsByte (lsPut a d x) b = if a ≤ b ∧ b < a + d.length then d.getD (b - a) 0 else lsByte x b := by
  induction d with
  | nil => intro a b x; rw [if_neg (by simp)]; rfl
  | cons v d ih =>
    intro a b x
    rw [lsPut, ih]
    by_cases hlt : b < a
    · rw [if_neg (by omega), if_neg (by omega), lsByte, tget_tset_other _ _ _ _ _ (by omega)]; rfl
    · by_cases heq : b = a
      · subst heq
        rw [if_neg (by omega), if_pos (by simp), lsByte, tget_tset_same, Nat.sub_self]; rfl
      · rw [List.length_cons]
        by_cases hin : b < a + 1 + d.length
        · rw [if_pos ⟨by omega, hin⟩, if_pos ⟨by omega, by omega⟩, show b - a = b - (a + 1) + 1 by omega]; rfl
        · rw [if_neg (by omega), if_neg (by omega), lsByte, tget_tset_other _ _ _ _ _ heq]; rfl

/-- A write to the local store changes the local store only. -/
theorem lsPut_eq (d : Bytes) : ∀ (a : Nat) (x : Se), lsPut a d x = { x with store := (lsPut a d x).store } := by
  induction d with
  | nil => intro a x; rfl
  | cons v d ih => intro a x; rw [lsPut, ih]

theorem vecBytes_length (v : List (BitVec 32)) : (vecBytes v).length = 4 * v.length := by
  simp [vecBytes, List.length_flatMap, toLe_length, List.map_const', List.sum_replicate_nat, Nat.mul_comm]

/-- The lanes that LDV reads: 32-bit elements as they are, 16-bit ones widened. -/
def ldvLanes (st : Nat × Nat × Nat × Nat × Nat) (el : Nat) (x : Se) : List (BitVec 32) :=
  let wide := st.2.1 = 4 || st.2.2.1 = 0
  let a := 256 * st.2.2.2.1 + el * (if wide then 4 else 2)
  if wide then bytesVec (lsGet x a 512)
  else let b := lsGet x a 256; (List.range 128).map (fun l => widen (streamFmt st.2.2.1) (fld b (2 * l) 2))

theorem ldvLanes_eq (st : Nat × Nat × Nat × Nat × Nat) (el : Nat) (x : Se) : ldvLanes st el x =
    if st.2.1 = 4 ∨ st.2.2.1 = 0 then bytesVec (lsGet x (256 * st.2.2.2.1 + el * 4) 512)
    else (List.range 128).map (fun l => widen (streamFmt st.2.2.1) (fld (lsGet x (256 * st.2.2.2.1 + el * 2) 256) (2 * l) 2)) := by
  by_cases h : st.2.1 = 4 ∨ st.2.2.1 = 0 <;> simp [ldvLanes, h]

/-- What LDV does. -/
def ldvAct (e : Nat) (r : Run) (x : Se) (i : Ins) (w : W) : W :=
  if !elemOk x (sreg x i.b) then kernelFault 0x72 false e w
  else if !stripLoaded w r x ((sreg x i.b).toNat / 128) then loadStep e w
  else match streamNo w r (i.imm % 8) with
    | none => w
    | some st => goNext e (setSe e (setV i.d (ldvLanes st (sreg x i.b).toNat x) x) w)

/-- The address operand of LDL and STL. -/
def lsAddr (x : Se) (i : Ins) : Nat := (sreg x i.b + BitVec.ofNat 64 i.imm).toNat

/-- What LDL does. -/
def ldlAct (e : Nat) (r : Run) (x : Se) (i : Ins) (w : W) : W :=
  if !lsOk w r (lsAddr x i) false then kernelFault 0x71 false e w
  else if !lsLoaded w r x (lsAddr x i) then loadStep e w
  else goNext e (setSe e (setV i.d (bytesVec (lsGet x (lsAddr x i) 512)) x) w)

/-- What STL does. -/
def stlAct (e : Nat) (r : Run) (x : Se) (i : Ins) (w : W) : W :=
  if !lsOk w r (lsAddr x i) true then kernelFault 0x71 false e w
  else goNext e (setSe e (lsPut (lsAddr x i) (vecBytes (vreg x i.a)) x) w)

/-- What WAITL does. -/
def waitlAct (e : Nat) (r : Run) (x : Se) (i : Ins) (w : W) : W :=
  if !elemOk x (sreg x i.a) then kernelFault 0x72 false e w
  else if !stripLoaded w r x ((sreg x i.a).toNat / 128) then loadStep e w else goNext e w

theorem exec_ldv (e : Nat) (s : State) : exec (.ldv e) s = run (seRow e 0x40 (ldvAct e)) s := rfl
theorem exec_ldl (e : Nat) (s : State) : exec (.ldl e) s = run (seRow e 0x41 (ldlAct e)) s := rfl
theorem exec_stl (e : Nat) (s : State) : exec (.stl e) s = run (seRow e 0x42 (stlAct e)) s := rfl
theorem exec_waitl (e : Nat) (s : State) : exec (.waitl e) s = run (seRow e 0x43 (waitlAct e)) s := rfl

/-- Settles O48: each instruction retires with what it reads, or goes on loading; a store is read back byte by byte. -/
theorem localStoreInstructions : Obligations.LocalStoreInstructions := by
  intro s e r x i
  refine ⟨?ldv, ?ldvFault, ?areas, ?waitl, ?waitlFault, ?waitlWaits, ?ldvWaits⟩
  case ldv =>
    intro h hel hloaded st hst
    rw [← ldvLanes_eq]
    exact retires_of (exec_ldv e s) h (by simp [ldvAct, hel, hloaded, hst]) rfl rfl
  case ldvFault => exact fun h hel => leaves_at (exec_ldv e s) h (by simp [ldvAct, hel])
  case ldvWaits => exact fun h hel hloaded => leaves_at (exec_ldv e s) h (by simp [ldvAct, hel, hloaded])
  case waitl => exact fun h hel hloaded => retires_same (exec_waitl e s) h (by simp [waitlAct, hel, hloaded])
  case waitlFault => exact fun h hel => leaves_at (exec_waitl e s) h (by simp [waitlAct, hel])
  case waitlWaits => exact fun h hel hloaded => leaves_at (exec_waitl e s) h (by simp [waitlAct, hel, hloaded])
  case areas =>
    intro a ha
    replace ha : a = lsAddr x i := ha
    subst ha
    refine ⟨?ldl, ?ldlFault, ?stl, ?ldlWaits, ?stlFault⟩
    case ldl => exact fun h hok hloaded => retires_of (exec_ldl e s) h (by simp [ldlAct, hok, hloaded]) rfl rfl
    case ldlFault => exact fun h hok => leaves_at (exec_ldl e s) h (by simp [ldlAct, hok])
    case ldlWaits => exact fun h hok hloaded => leaves_at (exec_ldl e s) h (by simp [ldlAct, hok, hloaded])
    case stlFault => exact fun h hok => leaves_at (exec_stl e s) h (by simp [stlAct, hok])
    case stl =>
      intro h hok hlen
      have hput := lsPut_eq (vecBytes (vreg x i.a)) (lsAddr x i) x
      have hbytes : (vecBytes (vreg x i.a)).length = 512 := by rw [vecBytes_length, hlen]
      have hgo : Retires (.stl e) s e (lsPut (lsAddr x i) (vecBytes (vreg x i.a)) x) :=
        retires_of (exec_stl e s) h (by simp [stlAct, hok]) (by rw [hput]) (by rw [hput])
      refine ⟨_, hgo, _, hput, rfl, by rw [hput], fun j hj => ?_, fun j hj => ?_⟩
      · rw [lsByte_lsPut, if_pos ⟨by omega, by omega⟩, Nat.add_sub_cancel_left]
      · rw [lsByte_lsPut, if_neg (by omega)]

end Sys2Proof.Machine
end

section
/-! PROOF. Kernels (R272, R273, R283 to R288): KERNEL_LOAD, KERNEL_RUN, dispatch and the time limits. -/

namespace Sys2Proof.Machine

open Sys2Proof.Safety

/-! ### Reads that nothing disturbs present requests only -/

/-- Two transactions differ in the CNT counters and the list of requests presented at most. -/
structure Presents (v w : W) : Prop where
  build : w.build = v.build
  base : w.base = v.base
  jr : w.jr = v.jr
  blk : w.b = { v.b with cnt := w.b.cnt, mdOut := w.b.mdOut }

theorem Presents.refl (w : W) : Presents w w := ⟨rfl, rfl, rfl, rfl⟩

theorem Presents.trans {u v w : W} (h : Presents u v) (h' : Presents v w) : Presents u w := by
  refine ⟨h'.build.trans h.build, h'.base.trans h.base, h'.jr.trans h.jr, ?_⟩
  rw [h'.blk, h.blk]

theorem presents_present1 (x : Acc) (op line : Nat) (w : W) : Presents w (present1 x op line w) := by
  obtain ⟨n, md, h⟩ := present1_eq x op line w
  rw [h]
  exact ⟨rfl, rfl, rfl, rfl⟩

theorem presents_readSpan (acc : Acc) (he : acc.env.rd = []) : ∀ (n line : Nat) (w : W), w.b.ras.inj = [] →
    Presents w (readSpan acc n line w).2.2
  | 0, _, w, _ => Presents.refl w
  | n + 1, line, w, hinj => by
    simp only [readSpan, readLine_ok acc line w he hinj]
    exact (presents_present1 acc 0 line w).trans (presents_readSpan acc he n _ _ (by rw [present1_inj]; exact hinj))

theorem presents_readBytes {acc : Acc} {a n : Nat} {w : W} (he : acc.env.rd = []) (hinj : w.b.ras.inj = []) :
    Presents w (readBytes acc a n w).2.2 := by
  unfold readBytes
  split
  · exact Presents.refl w
  · exact presents_readSpan acc he ((a + n - 1 - lineOf a) / 64 + 1) (lineOf a) w hinj

/-- A command completed after reads alone, with an effect that leaves what a completion looks at, has finished. -/
theorem finished_after_reads {env : Env} {s : State} {c : CmdId} {k : Cmd} {v w : W} (o : Outc) (hs : Starts s c k) (hc : Calm s env)
    (hr : Reports s c k) (hv : Presents (begun s c k) v) (hbase : w.base = v.base) (hjr : w.jr = v.jr) (hbuild : w.build = v.build)
    (heng : w.b = { v.b with eng := w.b.eng }) : Finished s (closeW s (complete env false c o w)) c k o w := by
  obtain ⟨-, -, hinj, -⟩ := id hc
  have hk := begun_keeps hs hinj
  have hb : w.b = { (begun s c k).b with cnt := v.b.cnt, mdOut := v.b.mdOut, eng := w.b.eng } := by rw [heng, hv.blk]
  refine finished_over o hs hc hr (by rw [hb]) (by rw [hb]) (hbase.trans (hv.base.trans hk.base)) (hjr.trans (hv.jr.trans hk.jr))
    (hbuild.trans (hv.build.trans hk.build)) (by rw [hb]; exact hk.slices) ?_ (by rw [hb]; exact hk.fetches)
    (by rw [hb]; exact congrArg Ras.inj hk.ras)
  have hctx : getCtx w k.ctx = getCtx (begun s c k) k.ctx := by rw [getCtx, hb]; rfl
  rw [hctx, hk.getCtx]

/-! ### KERNEL_LOAD (R272, R273) -/

/-- The row of a KERNEL_LOAD that starts and passes its checks. -/
theorem leaves_kernelLoad {s : State} {c : CmdId} {env : Env} {k : Cmd} (hs : Starts s c k) (hop : opOf k = 0x41)
    (hpass : kernelLoadCheck (begun s c k) k = none) : Leaves (.kernelLoad c env) s (kernelLoadGo env k (begun s c k)) :=
  leaves_checked (i := .kernelLoad c env) (chk := kernelLoadCheck) rfl hs (isOp_of hop) hpass

/-- What KERNEL_LOAD does with an image that memory answered OK. -/
def kernelImage (env : Env) (k : Cmd) (img : Bytes) (w : W) : W :=
  match imageBad img with
  | some o => done env k.id .denied 0x68 (toLe 4 o) w
  | none => match kAlloc (kSpans w (arg k 0x10 1)) (fld img 6 2) with
    | none => done env k.id .quota 7 [] w
    | some b => done env k.id .ok 0 [] (placeKernel (arg k 0x10 1) k.part img b w)

theorem kernelLoadGo_reads {env : Env} {k : Cmd} {w v : W} {img : Bytes} (hlen : arg k 0x20 4 ≠ 0)
    (hplain : inPlain w k.ctx (arg k 0x18 8) (arg k 0x20 4) = true)
    (hlines : linesReadable w (arg k 0x18 8) (arg k 0x20 4) = true)
    (hread : readBytes (seAcc env k.ctx) (arg k 0x18 8) (arg k 0x20 4) w = (.ok, img, v)) :
    kernelLoadGo env k w = kernelImage env k img v := by
  simp only [kernelLoadGo, if_neg hlen, hplain, onReads, hlines, hread, Bool.not_true, Bool.false_eq_true, if_false, if_true,
    bne_self_eq_false, kernelImage] <;> rfl

/-! ### KERNEL_RUN (R283 to R285) -/

/-- The run that a KERNEL_RUN without RESUME starts, with its parameter block. -/
def newRun (w : W) (k : Cmd) (params : Bytes) : Run :=
  { cmd := k.id, ctx := k.ctx, part := k.part, slot := arg k 0x10 1
    regions := (List.range (arg k 0x11 1)).map (fun j => arg k (0x30 + 2 * j) 2 % 0x4000)
    first := arg k 0x18 8, count := arg k 0x20 8, next := arg k 0x18 8
    ordinal := subMod k.runNo (getWatch w k.ctx).runBase 65536, watch := openWatch w k.ctx, params := params
    resume := false, order := k.order }

/-- The transaction with a run added. -/
def addRun (r : Run) (w : W) : W := { w with b.eng.runs := w.b.eng.runs ++ [r] }

theorem kernelRunStart_fresh {env : Env} {k : Cmd} {w : W} (he : env.rd = []) (hinj : w.b.ras.inj = [])
    (hlines : linesReadable w (arg k 0x28 8) 64 = true) (hresume : bit (arg k 0x12 1) 0 = false) (hcount : arg k 0x20 8 ≠ 0) :
    kernelRunStart env k w =
      (fun v => finishRun env k.id (addRun (noteGroups v (newRun v k (getBytes w (arg k 0x28 8) 64))) v))
        (present1 (seAcc env k.ctx) 0 (arg k 0x28 8) w) := by
  have hread := readLine_ok (seAcc env k.ctx) (arg k 0x28 8) w he hinj
  simp only [kernelRunStart, onReads, hlines, if_true, hread, bne_self_eq_false, Bool.false_eq_true, if_false, hresume, hcount]
  rfl

theorem mem_of_tfind {α : Type} {t : Tbl α} {i : Nat} {x : α} (h : tfind t i = some x) : (i, x) ∈ t := by
  induction t with
  | nil => contradiction
  | cons e t ih =>
    obtain ⟨j, y⟩ := e
    rw [tfind] at h
    split at h
    · cases h; subst_vars; exact .head _
    · exact .tail _ (ih h)

/-- A group of a table without BROKEN groups is not BROKEN. -/
theorem getGrp_not_broken {w : W} (h : ∀ g ∈ w.b.grps, g.2.state ≠ .broken) (g : Nat) : (getGrp w g).state ≠ .broken := by
  rw [getGrp, tget]
  cases hf : tfind w.b.grps g with
  | none => exact nofun
  | some x => exact h _ (mem_of_tfind hf)

/-- Where no group is BROKEN a run is not stopped by its groups. -/
theorem noteGroups_stopped {w : W} (h : ∀ g ∈ w.b.grps, g.2.state ≠ .broken) (r : Run) : (noteGroups w r).stopped = r.stopped := by
  have hany : (runGroups w r).any (fun g => (getGrp w g).state == .broken) = false :=
    List.any_eq_false.mpr fun g _ => by simp [getGrp_not_broken h g]
  simp only [noteGroups, hany, Bool.or_false]

theorem slideNext_fresh {w : W} {r : Run} (htaken : r.taken = []) (hresume : r.resume = false) (k n : Nat) :
    slideNext w r k n = n := by
  cases k with
  | zero => rfl
  | succ k => simp [slideNext, htaken, runSkips, hresume]

/-- A run that has just been added does not finish. -/
theorem finishRun_unfinished {env : Env} {w : W} {r : Run} (hnew : findRun w r.cmd = none) (hgrps : ∀ g ∈ w.b.grps, g.2.state ≠ .broken)
    (htaken : r.taken = []) (hresume : r.resume = false) (hstopped : r.stopped = false) (hnext : r.next < r.first + r.count) :
    finishRun env r.cmd (addRun r w) = addRun r w := by
  have hfind : findRun (addRun r w) r.cmd = some r := by
    rw [findRun, addRun, List.find?_append]
    simp [show w.b.eng.runs.find? (fun x => x.cmd == r.cmd) = none from hnew]
  have hst : (slideRun (addRun r w) (noteGroups (addRun r w) r)).stopped = false :=
    (noteGroups_stopped (w := addRun r w) hgrps r).trans hstopped
  have hnx : (slideRun (addRun r w) (noteGroups (addRun r w) r)).next = r.next := by
    have hres : (noteGroups (addRun r w) r).resume = false := hresume
    simp only [slideRun, hres, Bool.false_eq_true, if_false]
    exact slideNext_fresh (r := noteGroups (addRun r w) r) htaken hresume _ _
  have hopen : decide ((slideRun (addRun r w) (noteGroups (addRun r w) r)).first
      + (slideRun (addRun r w) (noteGroups (addRun r w) r)).count ≤ (slideRun (addRun r w) (noteGroups (addRun r w) r)).next) = false := by
    rw [hnx]; exact decide_eq_false (Nat.not_le.mpr hnext)
  simp only [finishRun, hfind, hst, hopen, Bool.or_self, Bool.and_false, Bool.false_eq_true, if_false]

/-- A command that already runs is not held by a patch. -/
theorem patchHolds_of_runs {s : State} {c : CmdId} {k : Cmd} (h : Runs s c k) : patchHolds (openW s) c = false := by
  obtain ⟨hfind, -, -, -, hphase⟩ := h
  unfold patchHolds
  rw [hfind]
  split
  case h_1 k' p hk hp => cases hk; simp [hphase]
  case h_2 => rfl

/-- KERNEL_RUN that no patch holds is a command row as the others. -/
theorem exec_kernelRun {s : State} {c : CmdId} {env : Env} (h : patchHolds (openW s) c = false) :
    exec (.kernelRun c env) s = run (cmdRow c (isOp 0x40) env (fun k w => checked env k (kernelRunCheck w k) (kernelRunStart env k) w)
      (kernelRunGo env)) s := by
  show execKernelRun c env s = _
  rw [execKernelRun, run_next, run_next, h, if_neg Bool.false_ne_true]

/-! ### Dispatch and the time limits (R286, R288) -/

/-- A fold whose steps all leave the start as it is. -/
theorem foldl_idle {α β : Type} {f : β → α → β} {w : β} {l : List α} (h : ∀ a ∈ l, f w a = w) : l.foldl f w = w := by
  induction l with
  | nil => rfl
  | cons a l ih => rw [List.foldl_cons, h a (.head _), ih fun b hb => h b (.tail _ hb)]

/-- The row of a dispatch serves the SEs of the partition in ascending order. -/
def dispatchW (p : Nat) (env : Env) (w : W) : W :=
  ((List.range w.build.nse).filter (fun e => partOfSe? w e == some p)).foldl (fun w e => serveSe env p e w) w

/-- An SE that is not idle, or drains, or waits for service is not served. -/
theorem serveSe_idle {env : Env} {p e : Nat} {w : W} (h : (getSe w e).state ≠ .idle ∨ (getSe w e).drain = true ∨ inService w = false) :
    serveSe env p e w = w := by
  unfold serveSe
  rw [if_pos]
  obtain h | h | h := h <;> simp [h]

theorem serveSe_ready {env : Env} {p e n : Nat} {w : W} {r : Run} (hstate : (getSe w e).state = .idle)
    (hdrain : (getSe w e).drain = false) (hserv : inService w = true) (hslice : (getSe w e).sliceOut = false)
    (hctx : (getSe w e).ctx ∈ readyCtxs w p) (hrun : readyRun w p (getSe w e).ctx = some (r, n))
    (hlines : ∀ l ∈ startLines w r, linesReadable w l 64 = true) : serveSe env p e w = startChunk env e r n w := by
  have hne : (readyCtxs w p).isEmpty = false := List.isEmpty_eq_false_iff.mpr (List.ne_nil_of_mem hctx)
  have hin : (readyCtxs w p).contains (getSe w e).ctx = true := by simpa using hctx
  have hfind : (startLines w r).find? (fun l => !linesReadable w l 64) = none := by
    refine List.find?_eq_none.mpr fun l hl => ?_
    simp [hlines l hl]
  simp only [serveSe, hstate, hdrain, hserv, hslice, hne, hin, bne_self_eq_false, Bool.not_true, Bool.or_self, Bool.false_eq_true,
    if_false, hrun, hfind]

/-- A time limit faults a chunk whose commit phase has not ended. -/
theorem timeFault_chunk {e code : Nat} {commitOnly : Bool} {w : W} (hrun : (getSe w e).run.isSome = true)
    (hend : (getSe w e).ending = none) (hstate : (getSe w e).state = .commit ∨ (commitOnly = false ∧ (getSe w e).state = .running)) :
    timeFault e code commitOnly w = kernelFault code false e w := by
  unfold timeFault
  rw [if_pos]
  obtain h | ⟨rfl, h⟩ := hstate <;> simp [hrun, hend, h]

/-- Of any other SE it may only end a commit phase that is over. -/
theorem timeFault_other {e code : Nat} {commitOnly : Bool} {w : W}
    (h : (getSe w e).run = none ∨ (getSe w e).ending.isSome = true ∨ (commitOnly = true ∧ (getSe w e).state ≠ .commit)) :
    timeFault e code commitOnly w = finishCommit e w := by
  unfold timeFault
  rw [if_neg]
  obtain h | h | ⟨rfl, h⟩ := h
  · simp [h]
  · obtain ⟨b, hb⟩ := Option.isSome_iff_exists.mp h
    simp [hb]
  · simp [h]

theorem finishCommit_none {e : Nat} {w : W} (h : (getSe w e).ending = none) : finishCommit e w = w := by
  simp only [finishCommit, h]

/-- Settles O45: row by row; the reads of an image and of a parameter block present requests alone. -/
theorem kernelsLoadAndRun : Obligations.KernelsLoadAndRun := by
  refine ⟨?load, ?loadStarts, ?goesOn, ?held, ?runStarts, ?run, ?dispatch, ?dispatchIdle, ?slice, ?limit, ?limitIdle⟩
  case load =>
    rintro s c env k ⟨hs, hc, hr, hop⟩ hpass
    obtain ⟨hrd, -, hinj, -⟩ := id hc
    have hk := begun_keeps hs hinj
    have hgo := leaves_kernelLoad (env := env) hs hop hpass
    refine ⟨fun hlen => ?_, fun img w b hlen hplain hlines hread => ?_⟩
    · have heng : (begun s c k).b.eng = s.blk.eng := by rw [hk.blk]
      rw [kernelLoadGo, if_pos hlen, done, id_of_starts hs] at hgo
      rw [← heng]
      exact ⟨_, hgo, finished_after_reads _ hs hc hr (Presents.refl _) rfl rfl rfl rfl⟩
    · have hv : Presents (begun s c k) w := by
        have h := presents_readBytes (acc := seAcc env k.ctx) (a := arg k 0x18 8) (n := arg k 0x20 4) (w := begun s c k) hrd
          (by rw [hk.ras]; exact hinj)
        rwa [hread] at h
      rw [kernelLoadGo_reads hlen hplain hlines hread, kernelImage, id_of_starts hs] at hgo
      refine ⟨fun hgood hspan => ?_, fun hgood hspan => ?_, fun o hbad => ?_⟩
      · rw [hgood, hspan] at hgo
        exact ⟨_, hgo, finished_after_reads _ hs hc hr hv rfl rfl rfl rfl⟩
      · rw [hgood, hspan] at hgo
        exact ⟨_, hgo, finished_after_reads _ hs hc hr hv rfl rfl rfl rfl⟩
      · rw [hbad] at hgo
        exact ⟨_, hgo, finished_after_reads _ hs hc hr hv rfl rfl rfl rfl⟩
  case loadStarts => exact fun s c env k ⟨hs, _, _, hop⟩ hpass => leaves_kernelLoad hs hop hpass
  case goesOn =>
    intro s c env k hs
    exact ⟨fun hop => leaves_goOn (i := .kernelLoad c env) rfl hs (isOp_of hop),
      fun hop => leaves_goOn (exec_kernelRun (patchHolds_of_runs hs)) hs (isOp_of hop)⟩
  case held =>
    intro s c env hheld
    refine idle_of (f := fun w => if patchHolds w c then w else cmdRow c (isOp 0x40) env
      (fun k w => checked env k (kernelRunCheck w k) (kernelRunStart env k) w) (kernelRunGo env) w) rfl (if_pos hheld)
  case runStarts =>
    exact fun s c env k ⟨hs, _, _, hop⟩ hpass hheld => leaves_checked (exec_kernelRun hheld) hs (isOp_of hop) hpass
  case run =>
    rintro s c env k ⟨hs, hc, hr, hop⟩ hpass hheld hlines hresume hcount hnew hgrps
    obtain ⟨hrd, -, hinj, -⟩ := id hc
    have hk := begun_keeps hs hinj
    have hgo : Leaves (.kernelRun c env) s _ := leaves_checked (exec_kernelRun hheld) hs (isOp_of hop) hpass
    rw [kernelRunStart_fresh hrd (by rw [hk.ras]; exact hinj) hlines hresume hcount] at hgo
    have hv := presents_present1 (seAcc env k.ctx) 0 (arg k 0x28 8) (begun s c k)
    generalize present1 (seAcc env k.ctx) 0 (arg k 0x28 8) (begun s c k) = v at hv hgo
    have hctxs : v.b.ctxs = s.blk.ctxs := by rw [hv.blk]; exact hk.ctxs
    have heng : v.b.eng = s.blk.eng := by rw [hv.blk]; show (begun s c k).b.eng = _; rw [hk.blk]
    have hvg : v.b.grps = s.blk.grps := by rw [hv.blk]; show (begun s c k).b.grps = _; rw [hk.blk]
    have hwatch : getWatch v k.ctx = (ctxOf s k.ctx).watch := by rw [getWatch, getCtx, hctxs]; rfl
    have hbytes : getBytes (begun s c k) (arg k 0x28 8) 64 = getBytes (openW s) (arg k 0x28 8) 64 := by
      simp only [getBytes, getByte, hk.jr, hk.base, openW_jr, openW_base]
    have hid := id_of_starts hs
    have hfin := finishRun_unfinished (env := env) (w := v) (r := noteGroups v (newRun v k (getBytes (begun s c k) (arg k 0x28 8) 64)))
      (by rw [findRun, heng, show (noteGroups v (newRun v k _)).cmd = c from hid]; exact hnew) (by rw [hvg]; exact hgrps)
      rfl rfl ((noteGroups_stopped (by rw [hvg]; exact hgrps) _).trans rfl)
      (show arg k 0x18 8 < arg k 0x18 8 + arg k 0x20 8 by omega)
    dsimp only at hgo
    rw [show k.id = (noteGroups v (newRun v k (getBytes (begun s c k) (arg k 0x28 8) 64))).cmd from rfl, hfin] at hgo
    refine ⟨_, hgo, ?_, noteGroups v (newRun v k (getBytes (begun s c k) (arg k 0x28 8) 64)), ?_, hid, rfl, rfl, rfl, rfl, rfl, rfl, hbytes,
      ?_, ?_, rfl, (noteGroups_stopped (by rw [hvg]; exact hgrps) _).trans rfl, rfl⟩
    · rw [closeW_of_jr_nil s (addRun _ v) (hv.jr.trans hk.jr)]
    · show v.b.eng.runs ++ _ = _
      rw [heng]
    · show subMod k.runNo (getWatch v k.ctx).runBase 65536 = _
      rw [hwatch]
    · show openWatch v k.ctx = _
      simp only [openWatch, hwatch]
      rfl
  case dispatch =>
    intro s p e n env r hses hstate hdrain hslice hserv hctx hrun hlines
    refine leaves_of (f := dispatchW p env) rfl ?_
    have hl : (List.range (openW s).build.nse).filter (fun e => partOfSe? (openW s) e == some p) = [e] := hses
    rw [dispatchW, hl]
    exact serveSe_ready hstate hdrain hserv hslice hctx hrun hlines
  case dispatchIdle =>
    intro s p env hidle
    refine idle_of (f := dispatchW p env) rfl (foldl_idle (l := List.filter _ _) fun e he => serveSe_idle ?_)
    obtain h | h := hidle
    · obtain h | h := h e (by simpa using (List.mem_filter.mp he).2)
      · exact .inl h
      · exact .inr (.inl h)
    · exact .inr (.inr h)
  case slice => exact fun s e => blocks_of (f := modSe e (fun x => { x with sliceOut := true })) rfl rfl rfl
  case limit =>
    intro s e env hrun hend
    refine ⟨fun hstate => ?_, fun hstate => ?_, fun hstate => ?_⟩
    · exact leaves_of (f := timeFault e 0x74 false) rfl (timeFault_chunk hrun hend (hstate.symm.imp_right fun hr => ⟨rfl, hr⟩))
    · exact leaves_of (f := timeFault e 0x73 true) rfl (timeFault_chunk hrun hend (.inl hstate))
    · refine idle_of (f := timeFault e 0x73 true) rfl ((timeFault_other (.inr (.inr ⟨rfl, ?_⟩))).trans (finishCommit_none hend))
      show (seOf s e).state ≠ .commit
      rw [hstate]; exact nofun
  case limitIdle =>
    intro s e env
    refine ⟨fun hrun hend => ⟨?_, ?_⟩, fun hend => ⟨?_, ?_⟩⟩
    · exact idle_of (f := timeFault e 0x74 false) rfl ((timeFault_other (w := openW s) (.inl hrun)).trans (finishCommit_none hend))
    · exact idle_of (f := timeFault e 0x73 true) rfl ((timeFault_other (w := openW s) (.inl hrun)).trans (finishCommit_none hend))
    · exact leaves_of (f := timeFault e 0x74 false) rfl (timeFault_other (.inr (.inl hend)))
    · exact leaves_of (f := timeFault e 0x73 true) rfl (timeFault_other (.inr (.inl hend)))

end Sys2Proof.Machine
end

section
/-! PROOF. The commit phase and the Datum instructions of an SE (R275 to R280, R289, R290). -/

namespace Sys2Proof.Machine

open Sys2Proof.Safety

theorem getRgn_openW (s : State) (i : Nat) : getRgn (openW s) i = rgnOf s i := rfl

theorem modSe_openW (s : State) (e : Nat) (f : Se → Se) : modSe e f (openW s) = setSe e (f (seOf s e)) (openW s) := rfl

theorem modSe_cntSe (s : State) (e off n : Nat) (f : Se → Se) :
    modSe e f (cntSe e off n (openW s)) = setSe e (f (seOf s e)) (cntSe e off n (openW s)) := rfl

/-- An instruction that waits changes nothing. -/
theorem idle_at {c : Instr} {s : State} {e op : Nat} {r : Run} {x : Se} {i : Ins} {act : Run → Se → Ins → W → W}
    (hrow : exec c s = run (seRow e op act) s) (h : At s e op r x i) (hact : act r x i (openW s) = openW s) : Blocks c s s.blk :=
  idle_of hrow ((seRow_stands act (stands_of_at h).1).trans hact)

theorem worse_eq_ok {c d : Rsp} : worse c d = .ok ↔ c = .ok ∧ d = .ok := by cases c <;> cases d <;> decide

/-! ### DADD (R159, R290) -/

/-- The stores of a DADD whose reads were answered: the sum to its element and the tile's new state, counted; where an access fails the run
is poisoned. -/
def daddStores (env : Env) (e ri : Nat) (g : Region) (a : Nat) (c : Rsp) (old new : Tile) (sum : Nat) (w : W) : W :=
  if c != .ok then storeFailed e (lineOf a) none w
  else
    let (c2, w) := writePart (auAcc env g.ctx) a (storeInt g sum) w
    let (c3, w) := if c2 == .ok then writeTile env ri 0 0 old new w else (c2, w)
    if c3 == .ok then countEvent ri 0 new (cntMp (portOf w.build a) 0x60 1 w) else storeFailed e (lineOf a) none w

section
variable {env : Env} {e ri : Nat} {g : Region} {a : Nat} {old new : Tile} {sum : Nat} {w v u : W} {c c2 c3 : Rsp}

theorem daddStores_unread (h : c ≠ .ok) : daddStores env e ri g a c old new sum w = storeFailed e (lineOf a) none w := by
  simp [daddStores, h]

theorem daddStores_unwritten (hw : writePart (auAcc env g.ctx) a (storeInt g sum) w = (c2, v)) (h : c2 ≠ .ok) :
    daddStores env e ri g a .ok old new sum w = storeFailed e (lineOf a) none v := by
  simp [daddStores, hw, h]

theorem daddStores_tile_unwritten (hw : writePart (auAcc env g.ctx) a (storeInt g sum) w = (.ok, v))
    (ht : writeTile env ri 0 0 old new v = (c3, u)) (h : c3 ≠ .ok) :
    daddStores env e ri g a .ok old new sum w = storeFailed e (lineOf a) none u := by
  simp [daddStores, hw, ht, h]

theorem daddStores_ok (hw : writePart (auAcc env g.ctx) a (storeInt g sum) w = (.ok, v))
    (ht : writeTile env ri 0 0 old new v = (.ok, u)) :
    daddStores env e ri g a .ok old new sum w = countEvent ri 0 new (cntMp (portOf u.build a) 0x60 1 u) := by
  simp [daddStores, hw, ht]

end

section
variable {s : State} {e : Nat} {r : Run} {x : Se} {i : Ins} {env : Env} {st : Nat × Nat × Nat × Nat × Nat} (h : At s e 0x4B r x i)
  (hstate : x.state = .commit) (hst : streamNo (openW s) r (i.imm % 8) = some st)
include h hstate hst

/-- An element that no Datum of the first tile holds faults. -/
theorem dadd_faults (hel : 4096 ≤ (sreg x i.a).toNat ∨ elemsOf (getRgn (openW s) st.2.2.2.2) ≤ (sreg x i.a).toNat) :
    Leaves (.dadd e env) s (kernelFault 0x72 false e (openW s)) := by
  refine leaves_at (c := .dadd e env) (op := 0x4B) rfl h ?_
  have hout : (decide (4096 ≤ (sreg x i.a).toNat) || decide (elemsOf (getRgn (openW s) st.2.2.2.2) ≤ (sreg x i.a).toNat)) = true := by
    simpa using hel
  simp only [hstate, hst, hout, bne_self_eq_false, Bool.false_eq_true, if_false, if_true]

variable (hin : (decide (4096 ≤ (sreg x i.a).toNat) || decide (elemsOf (getRgn (openW s) st.2.2.2.2) ≤ (sreg x i.a).toNat)) = false)
include hin

theorem dadd_busy (hbusy : auBusy (openW s) st.2.2.2.2 = true) : Blocks (.dadd e env) s s.blk := by
  refine idle_at (c := .dadd e env) (op := 0x4B) rfl h ?_
  simp only [hstate, hst, hin, hbusy, bne_self_eq_false, Bool.false_eq_true, if_false, if_true]

variable (hbusy : auBusy (openW s) st.2.2.2.2 = false)
include hbusy

theorem dadd_flushes_state (hlines : linesFree (openW s) (stateAt (getRgn (openW s) st.2.2.2.2) 0 0) 64 = false) :
    Leaves (.dadd e env) s (flushLines (stateAt (getRgn (openW s) st.2.2.2.2) 0 0) 64 (openW s)) := by
  refine leaves_at (c := .dadd e env) (op := 0x4B) rfl h ?_
  simp only [hstate, hst, hin, hbusy, onLines, hlines, bne_self_eq_false, Bool.false_eq_true, if_false]

variable (hlines : linesFree (openW s) (stateAt (getRgn (openW s) st.2.2.2.2) 0 0) 64 = true)
include hlines

theorem dadd_flushes_element (hline : linesFree (openW s) (lineOf (elemAt (getRgn (openW s) st.2.2.2.2) 0 (sreg x i.a).toNat)) 64 = false) :
    Leaves (.dadd e env) s (flushLines (lineOf (elemAt (getRgn (openW s) st.2.2.2.2) 0 (sreg x i.a).toNat)) 64 (openW s)) := by
  refine leaves_at (c := .dadd e env) (op := 0x4B) rfl h ?_
  simp only [hstate, hst, hin, hbusy, onLines, hlines, hline, bne_self_eq_false, Bool.false_eq_true, if_false, if_true]

variable (hline : linesFree (openW s) (lineOf (elemAt (getRgn (openW s) st.2.2.2.2) 0 (sreg x i.a).toNat)) 64 = true)
include hline

/-- A DADD on its lines: what its four accesses answer decides whether it adds. -/
theorem dadd_adds {c0 c1 : Rsp} {old new : Tile} {b : Bytes} {v : Int} {w w1 : W}
    (hr0 : readTile env (getRgn (openW s) st.2.2.2.2) 0 0 (openW s) = (c0, old, w))
    (hr1 : readBytes (auAcc env (getRgn (openW s) st.2.2.2.2).ctx) (elemAt (getRgn (openW s) st.2.2.2.2) 0 (sreg x i.a).toNat) (esOf (getRgn (openW s) st.2.2.2.2)) w
      = (c1, b, w1))
    (hadd : daddTile (getRgn (openW s) st.2.2.2.2) x x.chunk (signed (datumBits (getRgn (openW s) st.2.2.2.2)) (sreg x i.b).toNat) old = (new, v)) :
    Leaves (.dadd e env) s (goNext e (modSe e (fun y => { y with emax := none, qRange := false, qNonfinite := false })
      (daddStores env e st.2.2.2.2 (getRgn (openW s) st.2.2.2.2) (elemAt (getRgn (openW s) st.2.2.2.2) 0 (sreg x i.a).toNat) (worse c0 c1) old new
        ((((loadInt (getRgn (openW s) st.2.2.2.2) b : Nat) : Int) + v) % (2 ^ datumBits (getRgn (openW s) st.2.2.2.2) : Nat)).toNat w1))) := by
  refine leaves_at (c := .dadd e env) (op := 0x4B) rfl h ?_
  simp only [hstate, hst, hin, hbusy, onLines, hlines, hline, bne_self_eq_false, Bool.false_eq_true, if_false, if_true,
    hr0, hr1, hadd]
  rfl

end

/-! ### LDDS (R241, R275, R277) -/

section
variable {s : State} {e : Nat} {r : Run} {x : Se} {i : Ins} {env : Env} {st : Nat × Nat × Nat × Nat × Nat} (h : At s e 0x44 r x i)
  (hstate : x.state = .running) (hst : streamNo (openW s) r (i.imm % 8) = some st)
include h hstate hst

theorem ldds_faults (hel : elemsOf (getRgn (openW s) st.2.2.2.2) ≤ (sreg x i.a).toNat) :
    Leaves (.ldds e env) s (kernelFault 0x72 false e (openW s)) := by
  refine leaves_at (c := .ldds e env) (op := 0x44) rfl h ?_
  simp [hstate, hst, hel]

variable (hel : ¬ elemsOf (getRgn (openW s) st.2.2.2.2) ≤ (sreg x i.a).toNat)
include hel

theorem ldds_busy (hbusy : auBusy (openW s) st.2.2.2.2 = true) : Blocks (.ldds e env) s s.blk := by
  refine idle_at (c := .ldds e env) (op := 0x44) rfl h ?_
  simp [hstate, hst, hel, hbusy]

variable (hbusy : auBusy (openW s) st.2.2.2.2 = false)
include hbusy

theorem ldds_flushes_state (hlines : linesReadable (openW s) (stateAt (getRgn (openW s) st.2.2.2.2) 0 ((sreg x i.a).toNat / 4096)) 64 = false) :
    Leaves (.ldds e env) s (flushLines (stateAt (getRgn (openW s) st.2.2.2.2) 0 ((sreg x i.a).toNat / 4096)) 64 (openW s)) := by
  refine leaves_at (c := .ldds e env) (op := 0x44) rfl h ?_
  simp [hstate, hst, hel, hbusy, onReads, hlines]

variable (hlines : linesReadable (openW s) (stateAt (getRgn (openW s) st.2.2.2.2) 0 ((sreg x i.a).toNat / 4096)) 64 = true)
include hlines

theorem ldds_flushes_element (hline : linesReadable (openW s) (lineOf (elemAt (getRgn (openW s) st.2.2.2.2) 0 (sreg x i.a).toNat)) 64 = false) :
    Leaves (.ldds e env) s (flushLines (lineOf (elemAt (getRgn (openW s) st.2.2.2.2) 0 (sreg x i.a).toNat)) 64 (openW s)) := by
  refine leaves_at (c := .ldds e env) (op := 0x44) rfl h ?_
  simp [hstate, hst, hel, hbusy, onReads, hlines, hline]

variable (hline : linesReadable (openW s) (lineOf (elemAt (getRgn (openW s) st.2.2.2.2) 0 (sreg x i.a).toNat)) 64 = true)
include hline

/-- An LDDS on its lines: what its two reads answer decides whether it writes its register. -/
theorem ldds_reads {c0 c1 : Rsp} {t : Tile} {b : Bytes} {w w1 : W}
    (hr0 : readTileAs (seAcc env x.ctx) (getRgn (openW s) st.2.2.2.2) 0 ((sreg x i.a).toNat / 4096) (openW s) = (c0, t, w))
    (hr1 : readBytes (seAcc env x.ctx) (elemAt (getRgn (openW s) st.2.2.2.2) 0 (sreg x i.a).toNat)
      (esOf (getRgn (openW s) st.2.2.2.2)) w = (c1, b, w1)) :
    Leaves (.ldds e env) s (if worse c0 c1 != .ok then kernelFault 0x76 (worse c0 c1 == .denied) e w1
      else goNext e (modSe e (setS i.d (BitVec.ofNat 64 (readOut f32 (signed (datumBits (getRgn (openW s) st.2.2.2.2))
        (loadInt (getRgn (openW s) st.2.2.2.2) b)) t.anchor).1)) w1)) := by
  refine leaves_at (c := .ldds e env) (op := 0x44) rfl h ?_
  simp only [hstate, hst, hel, hbusy, onReads, hlines, hline, hr0, hr1, if_true, if_false, Bool.false_eq_true, beq_iff_eq, reduceCtorEq]

end

/-! ### CEND (R278, R289) -/

/-- The chunk of a CEND: outside a commit phase it enters one first. -/
def cendEnters (e : Nat) (r : Run) (x : Se) (w : W) : W :=
  if x.state = .commit then w else openChunkUnits e r (setSe e { x with state := .commit } w)

/-- A residue mismatch faults the chunk and drains the SE. -/
def cendFault (e : Nat) (x : Se) (w : W) : W :=
  logEv 0x0683 2 e x.ctx [0, e]
    (modSe e (fun y => { y with resCnt := sat32 y.resCnt, drain := true, err := y.err ||| 9, residue := false }) (runFault e 0x75 false w))

theorem leaves_cend {s : State} {e : Nat} {r : Run} {x : Se} {i : Ins} {env : Env} (h : Stands s e 0x4C r x i) :
    Leaves (.cend e env) s (endCommit e true (if x.residue then cendFault e x (cendEnters e r x (cntSe e 0x18 1 (openW s)))
      else cendEnters e r x (cntSe e 0x18 1 (openW s)))) := by
  obtain rfl := id h.1
  refine leaves_of (i := .cend e env) (f := seRow e 0x4C _) rfl ((seRow_stands _ h).trans ?_)
  simp only [cendEnters, beq_iff_eq, modSe_cntSe]
  rfl

/-- Settles O49: each instruction does what its row says in the phase, at the element and with the lines of the case. -/
theorem commitInstructions : Obligations.CommitInstructions := by
  intro s e r x i env
  refine ⟨?cbegin, ?cst, ?st, ?dadd, ?cend, ?ldds, ?qacc⟩
  case cbegin =>
    intro h
    obtain rfl := se_of_at h
    refine ⟨fun hrun => leaves_at (c := .cbegin e) (op := 0x48) rfl h ?_,
      fun hrun hcods => retires_of (c := .cbegin e) (op := 0x48) rfl h ?_ rfl rfl,
      fun hcommit => leaves_at (c := .cbegin e) (op := 0x48) rfl h ?_⟩
    · rw [hrun]
      rfl
    · have hnone : codStreams (setSe e { seOf s e with state := .commit } (openW s)) r = [] := hcods
      rw [hrun, modSe_openW, openChunkUnits, hnone]
      rfl
    · rw [hcommit]
      rfl
  case cst =>
    intro h
    refine ⟨fun hstate => leaves_at (c := .cst e env) (op := 0x49) rfl h ?_,
      fun hstate hel => leaves_at (c := .cst e env) (op := 0x49) rfl h ?_,
      fun hstate hel hstrip => leaves_at (c := .cst e env) (op := 0x49) rfl h ?_, ?_⟩
    · simp [hstate]
    · simp [hstate, hel]
    · simp [hstate, hel, hstrip]
    · rintro st es ls new a hstate hel hstrip hst rfl rfl rfl rfl
      refine ⟨fun hready => leaves_at (c := .cst e env) (op := 0x49) rfl h ?_,
        fun hready => leaves_at (c := .cst e env) (op := 0x49) rfl h ?_⟩
      · simp only [hstate, hel, hstrip, hst, getRgn_openW, hready, bne_self_eq_false, Bool.not_true, Bool.false_eq_true, if_false]
      · simp only [hstate, hel, hstrip, hst, getRgn_openW, hready, bne_self_eq_false, Bool.not_true, Bool.not_false, Bool.false_eq_true,
          if_true, if_false]
  case st =>
    intro h
    refine ⟨fun hstate => leaves_at (c := .st e env) (op := 0x4A) rfl h ?_,
      fun hstate hel => leaves_at (c := .st e env) (op := 0x4A) rfl h ?_, ?_⟩
    · simp [hstate]
    · simp [hstate, hel]
    · rintro st es new a hstate hel hst rfl rfl rfl
      refine ⟨fun hready => leaves_at (c := .st e env) (op := 0x4A) rfl h ?_,
        fun hready => leaves_at (c := .st e env) (op := 0x4A) rfl h ?_⟩
      · simp only [hstate, hel, hst, getRgn_openW, hready, bne_self_eq_false, Bool.not_true, Bool.false_eq_true, if_false]
      · simp only [hstate, hel, hst, getRgn_openW, hready, bne_self_eq_false, Bool.not_true, Bool.not_false, Bool.false_eq_true,
          if_true, if_false]
  case dadd =>
    intro h
    refine ⟨fun hstate => leaves_at (c := .dadd e env) (op := 0x4B) rfl h (by simp [hstate]), ?_⟩
    rintro st g el hstate hst rfl rfl
    refine ⟨dadd_faults h hstate hst, fun hlow hel => ?_⟩
    have hin : (decide (4096 ≤ (sreg x i.a).toNat) || decide (elemsOf (getRgn (openW s) st.2.2.2.2) ≤ (sreg x i.a).toNat)) = false := by
      simpa using ⟨hlow, hel⟩
    refine ⟨dadd_busy h hstate hst hin, dadd_flushes_state h hstate hst hin, dadd_flushes_element h hstate hst hin, ?_⟩
    rintro clear c0 c1 c2 c3 old b new v w w1 w2 w3 rfl hbusy hlines hline hr0 hr1 hadd hw2 hw3
    have hgo := dadd_adds h hstate hst hin hbusy hlines hline hr0 hr1 hadd
    rw [getRgn_openW] at hgo
    refine ⟨fun hok => ?_, fun hok => ?_, fun hok hc2 => ?_, fun hok hc2 hc3 => ?_⟩
    · obtain ⟨h01, h23⟩ := worse_eq_ok.mp hok
      obtain ⟨rfl, rfl⟩ := worse_eq_ok.mp h23
      rwa [h01, daddStores_ok hw2 hw3] at hgo
    · rwa [daddStores_unread hok] at hgo
    · rwa [hok, daddStores_unwritten hw2 hc2] at hgo
    · subst hc2
      rwa [hok, daddStores_tile_unwritten hw2 hw3 hc3] at hgo
  case cend =>
    rintro h v w rfl rfl
    have hgo := leaves_cend (env := env) h
    refine ⟨fun hres => ?_, fun hres => ?_⟩
    · rwa [hres, if_neg Bool.false_ne_true] at hgo
    · rwa [hres, if_pos rfl] at hgo
  case ldds =>
    intro h
    refine ⟨fun hstate => leaves_at (c := .ldds e env) (op := 0x44) rfl h (by simp [hstate]), ?_⟩
    rintro st g el hstate hst rfl rfl
    refine ⟨ldds_faults h hstate hst, fun hel => ldds_busy h hstate hst (Nat.not_le.mpr hel),
      fun hel => ldds_flushes_state h hstate hst (Nat.not_le.mpr hel), fun hel => ldds_flushes_element h hstate hst (Nat.not_le.mpr hel), ?_⟩
    rintro c0 c1 t b w w1 hel hbusy hlines hline hr0 hr1
    have hgo := ldds_reads h hstate hst (Nat.not_le.mpr hel) hbusy hlines hline hr0 hr1
    refine ⟨fun hok => ?_, fun hbad => ?_⟩
    · rwa [if_neg (by simp [hok])] at hgo
    · rwa [if_pos (by simpa using hbad)] at hgo
  case qacc =>
    rintro h hsound st g cs y hst rfl rfl rfl
    refine retires_of (c := .qacc e) (op := 0x50) rfl h ?_ rfl rfl
    simp only [hst, getRgn_openW]
    rw [residueCheck_sound hsound]
    rfl

end Sys2Proof.Machine
end

section
/-! PROOF. Snuff (R399 to R403). -/

namespace Sys2Proof.Machine

open Sys2Proof.Safety

/-- The security state once the latch is set and the keys are zeroised (R401, R403). -/
def snuffedSec (cause now : Nat) (x : Sec) : Sec :=
  { x with snuffLatch := true, l3Cause := cause, alarmNs := now, pend := true, level := 3, fuses := [], derived := false, last := []
           rsn := [], skeys := [], keyOk := false, zeroised := true, deriving_ := false }

/-- The transaction once Snuff is latched, zeroised and logged. -/
def snuffLatched (cause : Nat) (w : W) : W :=
  logEv 0x0982 2 0 0 [secAlarm (snuffedSec cause w.b.crp.tAon w.b.sec), cause]
    { w with b := { w.b with sec := snuffedSec cause w.b.crp.tAon w.b.sec } }

theorem snuffAll_latched {env : Env} {cause : Nat} {own : Option CmdId} {w : W} (h : w.b.sec.snuffLatch = true) :
    snuffAll env cause own w = w := if_pos h

theorem snuffAll_eq {env : Env} {cause : Nat} {w : W} (h : w.b.sec.snuffLatch = false) :
    snuffAll env cause none w = if w.b.glb.mainReset || !w.b.glb.power then snuffLatched cause w else enterSnuffed env (snuffLatched cause w) := by
  rw [snuffAll, if_neg (by simp [h])]
  rfl

/-! ### A block at rest -/

/-- The transaction with other runs. -/
def withRuns (l : List Run) (w : W) : W := { w with b.eng.runs := l }

theorem withRuns_nil {w : W} (h : w.b.eng.runs = []) : withRuns [] w = w := by rw [← h]; rfl

/-- The last step of ABORTED runs: those go that no chunk and no command holds. -/
def dropEnded (test : Run → Bool) (w : W) : W :=
  withRuns (w.b.eng.runs.filter (fun r => !(test r && r.live.isEmpty && !w.b.cmds.any (fun k => k.id == r.cmd)))) w

theorem abortRuns_eq (test : Run → Bool) (w : W) : abortRuns test w = dropEnded test (w.b.eng.ses.foldl (fun w e =>
    if e.2.state == .running && ((runOf w e.2).map test).getD false then discardSe e.1 w else w)
    (withRuns (mapIf test (fun r => { r with aborted := true, stopped := true }) w.b.eng.runs) w)) := rfl

/-- Without runs nothing is aborted. -/
theorem abortRuns_none {test : Run → Bool} {w : W} (hruns : w.b.eng.runs = []) (hses : w.b.eng.ses = []) : abortRuns test w = w := by
  rw [abortRuns_eq, hruns, hses, List.foldl_nil, mapIf, List.map_nil, withRuns_nil hruns, dropEnded, hruns]
  exact withRuns_nil hruns

theorem endRuns_none {env : Env} {w : W} (hruns : w.b.eng.runs = []) : endRuns env w = w := by
  have h : noteRuns w = w := by
    show withRuns (w.b.eng.runs.map (noteGroups w)) w = w
    rw [hruns]
    exact withRuns_nil hruns
  simp only [endRuns, h, hruns, List.map_nil, List.foldl_nil]

/-- A block without slices and runs leaves SERVICE by its state alone. -/
theorem leaveService_rest {env : Env} {to_ : BlockState} {w : W} (hslices : w.b.slices = []) (hruns : w.b.eng.runs = [])
    (hses : w.b.eng.ses = []) : leaveService env to_ w = setState to_ w := by
  have hmerge : flushMerges (fun _ => true) w = w := by rw [flushMerges, hslices]; rfl
  have habort : abortRuns (fun _ => true) (setState to_ w) = setState to_ w := abortRuns_none hruns hses
  have hend : endRuns env (setState to_ w) = setState to_ w := endRuns_none hruns
  have hkick : kickAll (setState to_ w) = setState to_ w := by
    rw [kickAll, show (setState to_ w).b.slices = [] from hslices]; rfl
  simp only [leaveService, hslices, List.foldl_nil, hmerge, habort, hend, hkick]

/-- What SNUFFED empties of a block at rest. -/
def snuffedRest (w : W) : W :=
  { w with b.lnk.ports := [], b.patch := none, b.lnk.helmQ := [], b.glb.savedFmt := none, b.lnk.vc0 := [] }

/-- A block at rest enters SNUFFED. -/
theorem enterSnuffed_rest {env : Env} {w : W} (hcmds : w.b.cmds = []) (hgrps : w.b.grps = []) (hslices : w.b.slices = [])
    (hruns : w.b.eng.runs = []) (hses : w.b.eng.ses = []) (hports : w.b.lnk.ports = []) :
    enterSnuffed env w = snuffedRest (setState .snuffed w) := by
  have hp : (setState .snuffed w).b.lnk.ports = [] := hports
  have hc : (setState .snuffed w).b.cmds = [] := hcmds
  have hg : (setState .snuffed w).b.grps = [] := hgrps
  simp only [enterSnuffed, leaveService_rest hslices hruns hses, hp, List.map_nil, hc, List.foldl_nil, hg, snuffedRest]

/-! ### The rows (R399, R402) -/

/-- The row of a command of the fabric queue that starts. -/
theorem cmdRow_fabric {s : State} {c : CmdId} {k : Cmd} {sel : Cmd → Bool} (env : Env) (start goOn : Cmd → W → W)
    (hfind : findCmd (openW s) c = some k) (hq : c.q = fabricQ) (hout : k.outc = none) (hphase : k.phase = .fetched)
    (hmay : mayStart (openW s) k = true) (hpass : (checksHead k (openW s)).1 = none) (hsel : sel k = true) :
    cmdRow c sel env start goOn (openW s) = start k (begun s c k) := by
  have hid : k.id = c := id_of_findCmd hfind
  have hne : (CmdPhase.fetched == CmdPhase.running) = false := by decide
  have hfab : (k.id.q != fabricQ) = false := by rw [hid, hq, bne_self_eq_false]
  simp only [cmdRow, hfind, hsel, hfab, hout, hphase, hmay, hpass, hne, Bool.not_true, Bool.false_and, Bool.or_false,
    Bool.false_eq_true, if_false, begun]

/-- The meaning of TAMPER_TRIP. -/
def tamperTripW (kind : MonKind) (b : Nat) (env : Env) (w : W) : W :=
  match tripCause kind with
  | some c => if b < (monBase kind).2 then snuffAll env c none (noteInput kind b (noteFalls env w)) else w
  | none => w

/-- The meaning of MONITOR_WARN. -/
def monitorWarnW (kind : MonKind) (b : Nat) (env : Env) (w : W) : W :=
  match tripCause kind with
  | some _ => w
  | none => if b < (monBase kind).2 then alarm1 b (noteInput kind b (noteFalls env w)) else w

theorem exec_tamperTrip (kind : MonKind) (b : Nat) (env : Env) (s : State) :
    exec (.tamperTrip kind b env) s = run (tamperTripW kind b env) s := rfl

theorem exec_monitorWarn (kind : MonKind) (b : Nat) (env : Env) (s : State) :
    exec (.monitorWarn kind b env) s = run (monitorWarnW kind b env) s := rfl

/-- Settles O52, by what zeroising leaves (`snuffAll_eq`), with the latch that makes it act once. -/
theorem snuffZeroises : Obligations.SnuffZeroises := by
  refine ⟨?cmd, ?fabric, ?trip, ?warn, ?all⟩
  case cmd =>
    rintro s c env k ⟨hs, hc, hr, hop⟩
    refine ⟨fun hpart => ?_, fun hpart => ?_⟩
    · exact leads_finished_begun hs hc hr (leaves_snuff_denied hs hop (by simp [deny, fail, hpart]))
    · have h : Leaves (.snuff c env) s _ := leaves_start (i := .snuff c env) rfl hs (isOp_of hop)
      have hq : (c.q == fabricQ) = false := beq_false_of_ne (notFabric_of_starts hs)
      have hpass : deny (k.part != 0) 0xB2 = none := by simp [deny, hpart]
      simpa only [checked, id_of_starts hs, hq, Bool.not_false, Bool.true_and, hpass, Bool.false_eq_true, if_false] using h
  case fabric =>
    intro s c env k hfind hq hout hphase hmay hpass hop
    refine leaves_of (i := .snuff c env) (f := cmdRow c (isOp 0x82) env _ _) rfl
      ((cmdRow_fabric env _ _ hfind hq hout hphase hmay hpass (isOp_of hop)).trans ?_)
    have hid : k.id = c := id_of_findCmd hfind
    have hfab : (c.q == fabricQ) = true := beq_iff_eq.mpr hq
    have hnone : deny (false && k.part != 0) 0xB2 = none := rfl
    simp only [hid, hfab, Bool.not_true, hnone, checked, if_true]
  case trip =>
    intro s env kind b cause hcause
    refine ⟨fun hb => leaves_of (exec_tamperTrip kind b env s) ?_, fun hb => idle_of (exec_tamperTrip kind b env s) ?_,
      idle_of (exec_monitorWarn kind b env s) ?_⟩
    · simp only [tamperTripW, hcause, if_pos hb]
    · simp only [tamperTripW, hcause, if_neg (Nat.not_lt.mpr hb)]
    · simp only [monitorWarnW, hcause]
  case warn =>
    intro s env kind b hcause
    refine ⟨fun hb => leaves_of (exec_monitorWarn kind b env s) ?_, fun hb => idle_of (exec_monitorWarn kind b env s) ?_,
      idle_of (exec_tamperTrip kind b env s) ?_⟩
    · simp only [monitorWarnW, hcause, if_pos hb]
    · simp only [monitorWarnW, hcause, if_neg (Nat.not_lt.mpr hb)]
    · simp only [tamperTripW, hcause]
  case all =>
    rintro env cause w v rfl
    refine ⟨snuffAll_latched, fun hopen hdown => ?_, fun hopen hup hpower hcmds hgrps hslices hruns hses hports => ?_⟩
    · have hd : (w.b.glb.mainReset || !w.b.glb.power) = true := by obtain h | h := hdown <;> simp [h]
      rw [snuffAll_eq hopen, hd, if_pos rfl]
      exact ⟨rfl, rfl, rfl, rfl⟩
    · have hd : (w.b.glb.mainReset || !w.b.glb.power) = false := by simp [hup, hpower]
      rw [snuffAll_eq hopen, hd, if_neg Bool.false_ne_true,
        enterSnuffed_rest (w := snuffLatched cause w) hcmds hgrps hslices hruns hses hports]
      exact ⟨rfl, hcmds, rfl, rfl, rfl, rfl, rfl, rfl⟩

end Sys2Proof.Machine
end

section
/-! PROOF. The arbiter of a port (R22): a slice that holds BACKGROUND as the class served last serves no HOST request. -/

namespace Sys2Proof.Machine

open Sys2Proof.Safety

/-- A block in PASS whose slice 0 is idle and holds BACKGROUND as the class its arbiter served last: from there the round-robin of R22
passes SE, AU, holder and Relight, and ends before it comes to the hosts. -/
def idleBackground (merge : List Merge) : State :=
  { blk := { (State.reset).blk with glb := { (State.reset).blk.glb with state := .pass }
                                    slices := [(0, { lastCls := .background, merge := merge })] } }

/-- A read of line 0 by a host. -/
def readLine0 : MpReq := { addr := 0, len := 0, tag := 0 }

/-- The read waits at the arbiter: nothing is presented downstream. -/
theorem readLine0_waits : ∀ t, exec (.mpRead 0 readLine0) (idleBackground []) = .next t → (sliceOf t 0).md = [] := by
  rintro t h
  have hrun : exec (.mpRead 0 readLine0) (idleBackground []) = .next (closeW (idleBackground []) (acceptHost 0 0 readLine0 (openW (idleBackground [])))) := rfl
  rw [hrun] at h
  cases h
  decide +kernel

/-- Refutes O22: after a read accepted at a slice whose arbiter served BACKGROUND last, no request stands in the list of those presented
downstream. -/
theorem not_hostRequestsAreForwarded : ¬ Obligations.HostRequestsAreForwarded := by
  rintro ⟨h, -⟩
  obtain ⟨t, hnext, -, hblk⟩ := h (idleBackground []) 0 0 (.mpRead 0 readLine0) readLine0 (.head _) (by decide +kernel) (by decide +kernel) rfl rfl rfl
    rfl rfl rfl rfl rfl rfl (by decide +kernel) (by decide +kernel) (by decide) (by decide +kernel) (by decide)
  have hmd := readLine0_waits t hnext
  rw [sliceOf, hblk] at hmd
  simp [withSlice] at hmd

/-- A merge entry of line 0. -/
def mergeLine0 : Merge := { line := 0, data := [], mask := 1, ctx := 0 }

/-- Its flush waits at the arbiter as the read does. -/
theorem mergeLine0_waits : ∀ t, exec (.mergeFlushTimeout 0 0) (idleBackground [mergeLine0]) = .next t → (sliceOf t 0).md = [] := by
  rintro t h
  have hrun : exec (.mergeFlushTimeout 0 0) (idleBackground [mergeLine0])
      = .next (closeW (idleBackground [mergeLine0]) (kickLine 0 0 3 (flushEntry 0 mergeLine0 (openW (idleBackground [mergeLine0]))))) := by
    rfl
  rw [hrun] at h
  cases h
  decide +kernel

/-- Refutes O25: after the timeout of a merge entry alone on a slice whose arbiter served BACKGROUND last, no request of the flush stands
in the list of those presented downstream. -/
theorem not_mergeEntriesFlush : ¬ Obligations.MergeEntriesFlush := by
  rintro ⟨h, -⟩
  obtain ⟨t, hnext, -, hblk⟩ := h (idleBackground [mergeLine0]) 0 mergeLine0 rfl rfl rfl rfl rfl rfl rfl rfl (by decide +kernel) (by decide +kernel)
    (by decide +kernel)
  have hmd := mergeLine0_waits t hnext
  rw [sliceOf, hblk] at hmd
  simp [withSlice] at hmd

end Sys2Proof.Machine
end

section
/-! PROOF. Answers to forwarded host requests (R39, R40, R55). -/

namespace Sys2Proof.Machine

open Sys2Proof.Safety

/-! ### One slice -/

theorem getSlice_setSlice (p : Nat) (x : Slice) (w : W) : getSlice (setSlice p x w) p = x := tget_tset_same _ _ _ _

theorem setSlice_setSlice (p : Nat) (x y : Slice) (w : W) : setSlice p x (setSlice p y w) = setSlice p x w := by simp [setSlice]

theorem modSlice_setSlice (p : Nat) (f : Slice → Slice) (x : Slice) (w : W) : modSlice p f (setSlice p x w) = setSlice p (f x) w := by
  rw [modSlice, getSlice_setSlice, setSlice_setSlice]

theorem injAccess_none {w : W} (h : w.b.ras.inj = []) (d line : Nat) : injAccess w d line = false := by
  rw [injAccess, injHit_none w d _ h, Bool.false_and]

theorem readInj_none {w : W} (h : w.b.ras.inj = []) (line : Nat) (c : Rsp) : readInj line c w = (c, w) := by
  rw [readInj, injAccess_none h, if_neg Bool.false_ne_true]

theorem writeInj_none {w : W} (h : w.b.ras.inj = []) (line : Nat) (c : Rsp) : writeInj line c w = (c, w) := by
  simp [writeInj, injAccess_none h]

/-- Nothing waits at the arbiter of the slice: serving it changes nothing. -/
theorem serve_idle {p : Nat} {w : W} (h : (getSlice w p).waitq = []) : serve p w = w := by
  rw [serve, waitLines, h]; rfl

/-! ### An answer on one line (R40) -/

/-- What memory takes or gives on a line answered OK: a read's bytes, or a write's effect. -/
def hostMoved (r : HostReq) (j : Nat) (w : W) : Bytes × W :=
  if r.op = 0 then (getBytes w (reqLine r.req j) 64, w) else memTake r.op r.req.aop r.req.data r.req.mask (reqLine r.req j) j w

theorem hostLine_ok {p j : Nat} {r : HostReq} {w : W} (hinj : w.b.ras.inj = []) :
    hostLine p r j .ok w = doneItem p (reqLine r.req j) (.fwd r.tag) (setLine p r.tag j .ok (hostMoved r j w).1 (hostMoved r j w).2) := by
  simp [hostLine, readInj_none hinj, writeInj_none hinj, hostMoved]

theorem hostLine_error {p j : Nat} {r : HostReq} {w : W} (hinj : w.b.ras.inj = []) :
    hostLine p r j .error w = doneItem p (reqLine r.req j) (.fwd r.tag)
      (setLine p r.tag j .error [] (setMpsErr p 0 (reqLine r.req j) r.req.ctx.toNat w)) := by
  simp [hostLine, readInj_none hinj, writeInj_none hinj]

/-- A response goes upstream. -/
def respondWith (x : MpRsp) (w : W) : W := { w with b := { w.b with mpRsps := x :: w.b.mpRsps } }

/-- A slice with its host requests answered, and one with its hazard table empty. -/
def noReqs (x : Slice) : Slice := { x with reqs := [] }
def noHaz (x : Slice) : Slice := { x with haz := [] }

/-- A request whose one line waits for its code. -/
structure OneLine (p : Nat) (r : HostReq) (w : W) : Prop where
  reqs : (getSlice w p).reqs = [r]
  codes : r.codes = [none]
  data : r.data = [[]]
  notAtomic : r.op ≠ 3

/-- The code and data of one line of a request. -/
def lineSet (c : Rsp) (d : Bytes) (r : HostReq) : HostReq := { r with codes := r.codes.set 0 (some c), data := r.data.set 0 d }

/-- The slice once a request of its table has that line. -/
def slotSet (tag : Nat) (c : Rsp) (d : Bytes) (s : Slice) : Slice := { s with reqs := mapIf (fun r => r.tag == tag) (lineSet c d) s.reqs }

theorem respond_oneLine {p : Nat} {r : HostReq} {c : Rsp} {d : Bytes} {w : W} (h : OneLine p r w) :
    respond p r.tag (modSlice p (slotSet r.tag c d) w) =
    respondWith { port := p, tag := r.tag, codes := [c], data := if r.op = 0 then d else [] } (setSlice p (noReqs (getSlice w p)) w) := by
  obtain ⟨hreqs, hcodes, hdata, hop⟩ := h
  have hslot : (slotSet r.tag c d (getSlice w p)).reqs = [lineSet c d r] := by simp [slotSet, hreqs, mapIf]
  have hget : getSlice (modSlice p (slotSet r.tag c d) w) p = slotSet r.tag c d (getSlice w p) := getSlice_setSlice _ _ _
  have hfind : [lineSet c d r].find? (fun x => x.tag == r.tag) = some (lineSet c d r) := by simp [lineSet]
  have hall : (lineSet c d r).codes.all (·.isSome) = true := by simp [lineSet, hcodes]
  have hmap : (lineSet c d r).codes.map (·.getD .error) = [c] := by simp [lineSet, hcodes]
  have hflat : (lineSet c d r).data.flatten = d := by simp [lineSet, hdata]
  have hread : ((lineSet c d r).op = 0 ∨ (lineSet c d r).op = 3) ↔ r.op = 0 := by simp [lineSet, hop]
  have hempty : modSlice p (fun s => { s with reqs := s.reqs.filter (fun x => x.tag != r.tag) }) (modSlice p (slotSet r.tag c d) w)
      = setSlice p (noReqs (getSlice w p)) w := by
    rw [show modSlice p (slotSet r.tag c d) w = setSlice p (slotSet r.tag c d (getSlice w p)) w from rfl, modSlice_setSlice, hslot]
    simp [lineSet, noReqs, slotSet]
  simp only [respond, hget, hslot, hfind, hall, if_true, hmap, hflat, Bool.or_eq_true, decide_eq_true_eq, hread, hempty]
  rfl

/-- The code OK of its one line answers a request. -/
theorem setLine_ok {p : Nat} {r : HostReq} {d : Bytes} {w : W} (h : OneLine p r w) :
    setLine p r.tag 0 .ok d w = respondWith { port := p, tag := r.tag, codes := [.ok], data := if r.op = 0 then d else [] }
      (setSlice p (noReqs (getSlice w p)) w) := respond_oneLine h

/-- Another code answers it with data that is not valid. -/
theorem setLine_error {p : Nat} {r : HostReq} {w : W} (h : OneLine p r w) :
    ∃ d k, setLine p r.tag 0 .error [] w = respondWith { port := p, tag := r.tag, codes := [.error], data := d }
      (setSlice p (noReqs (getSlice w p)) { w with b := { w.b with free := k } }) := by
  obtain ⟨d, k, hfresh⟩ := freshBytes_eq 64 w
  have h' : OneLine p r { w with b := { w.b with free := k } } := ⟨h.reqs, h.codes, h.data, h.notAtomic⟩
  refine ⟨(if r.op = 0 then d else []), k, ?_⟩
  have hne : (Rsp.error == Rsp.ok) = false := by decide
  simp only [setLine, hne, Bool.false_eq_true, if_false, hfresh]
  exact respond_oneLine h'

/-- With its hazard table empty and nothing waiting for room, a slice has nothing to go on with. -/
theorem goOn_nothing {p line n : Nat} {w : W} (hhaz : (getSlice w p).haz = []) (hneed : (getSlice w p).need = [])
    (hchan : (getSlice w p).chan = []) : goOnSlice p (kickLine p line n w) = w := by
  have hat : hazAt w p line = [] := by simp [hazAt, hhaz]
  have hkick : kickLine p line n w = w := by
    cases n with
    | zero => rfl
    | succ n => simp [kickLine, hat, nextItem]
  simp only [hkick, goOnSlice, hneed, List.length_nil, admitNeed, hhaz, List.map_nil, List.foldl_nil, hchan, drainChan]

/-- The last request of a slice's table, with nothing waiting for room, leaves the table empty. -/
theorem doneItem_alone {p line : Nat} {j : HazJob} {i : HazItem} {w : W} (hhaz : (getSlice w p).haz = [{ line := line, q := [i] }])
    (hjob : i.job = j) (hneed : (getSlice w p).need = []) (hchan : (getSlice w p).chan = []) :
    doneItem p line j w = setSlice p (noHaz (getSlice w p)) w := by
  have hat : hazAt w p line = [i] := by simp [hazAt, hhaz]
  have hdrop : dropItem p line j w = setSlice p (noHaz (getSlice w p)) w := by
    simp [dropItem, hat, hjob, setHaz, modSlice, hhaz, noHaz]
  rw [doneItem, hdrop]
  have hget := getSlice_setSlice p (noHaz (getSlice w p)) w
  generalize setSlice p (noHaz (getSlice w p)) w = v at hget
  exact goOn_nothing (by rw [hget]; rfl) (by rw [hget]; exact hneed) (by rw [hget]; exact hchan)

/-- The meaning of MD_RESPONSE. -/
def mdResponseW (p tag : Nat) (codes : List Rsp) (w : W) : W :=
  match (getSlice w p).md.find? (fun m => m.tag == tag) with
  | none => w
  | some m =>
    if codes.length != m.lines then w
    else resumeWork (serve p (mdAnswer p m codes (modSlice p (fun s => { s with md := s.md.filter (fun x => x.tag != tag) }) w)))

theorem exec_mdResponse (p tag : Nat) (codes : List Rsp) (s : State) :
    exec (.mdResponse p tag codes) s = run (mdResponseW p tag codes) s := rfl

/-- A one-line answer to a host goes to its line. -/
theorem mdAnswer_host {p : Nat} {m : MdReq} {r : HostReq} {c : Rsp} {w : W} (hwho : m.who = .host r.tag) (hlines : m.lines = 1)
    (hreqs : (getSlice w p).reqs = [r]) : mdAnswer p m [c] w = hostLine p r 0 c w := by
  simp [mdAnswer, hwho, hlines, hreqs, List.range_one]

/-! ### The answer to a one-line request -/

/-- A slice whose one request is answered. -/
def sliceDone (x : Slice) : Slice := { x with reqs := [], md := [], haz := [] }

/-- A slice with one forwarded request of one line under way, and nothing behind it. -/
structure OneForward (p : Nat) (r : HostReq) (w : W) : Prop where
  one : OneLine p r w
  haz : (getSlice w p).haz = [{ line := lineOf r.req.addr.toNat, q := [{ job := .fwd r.tag, write := r.op != 0, started := true }] }]
  need : (getSlice w p).need = []
  chan : (getSlice w p).chan = []
  waitq : (getSlice w p).waitq = []

theorem reqLine_zero (r : MpReq) : reqLine r 0 = lineOf r.addr.toNat := rfl

theorem resumeWork_idle {w : W} (h : nothingWaits w = true) : resumeWork w = w := if_pos h

/-- Once its one line has its code, the request, its line and its response are done. -/
theorem serve_answered {p line : Nat} {j : HazJob} {i : HazItem} {x : MpRsp} {w v : W}
    (hv : v = respondWith x (setSlice p (noReqs (getSlice w p)) w)) (hhaz : (getSlice w p).haz = [{ line := line, q := [i] }]) (hjob : i.job = j)
    (hneed : (getSlice w p).need = []) (hchan : (getSlice w p).chan = []) (hwait : (getSlice w p).waitq = []) :
    serve p (doneItem p line j v) = respondWith x (setSlice p (noHaz (noReqs (getSlice w p))) w) := by
  have hget : getSlice v p = noReqs (getSlice w p) := by rw [hv]; exact getSlice_setSlice _ _ _
  rw [doneItem_alone (by rw [hget]; exact hhaz) hjob (by rw [hget]; exact hneed) (by rw [hget]; exact hchan), hget]
  have hget' := getSlice_setSlice p (noHaz (noReqs (getSlice w p))) v
  rw [serve_idle (by rw [hget']; exact hwait), hv]
  show respondWith x (setSlice p _ (setSlice p _ w)) = _
  rw [setSlice_setSlice]

/-- OK: what memory took or gave, and the response. -/
theorem hostLine_ok_done {p : Nat} {r : HostReq} {w v : W} {d : Bytes} (hinj : w.b.ras.inj = []) (h : OneForward p r w)
    (hmoved : hostMoved r 0 w = (d, v)) (hv : v.b = w.b) :
    serve p (hostLine p r 0 .ok w) = respondWith { port := p, tag := r.tag, codes := [.ok], data := if r.op = 0 then d else [] }
      (setSlice p (noHaz (noReqs (getSlice w p))) v) := by
  obtain ⟨hone, hhaz, hneed, hchan, hwait⟩ := h
  have hget : getSlice v p = getSlice w p := by rw [getSlice, hv]; rfl
  have hone' : OneLine p r v := ⟨by rw [hget]; exact hone.reqs, hone.codes, hone.data, hone.notAtomic⟩
  rw [hostLine_ok hinj, hmoved, setLine_ok hone']
  have hdone := serve_answered (line := lineOf r.req.addr.toNat) (w := v)
    (x := { port := p, tag := r.tag, codes := [.ok], data := if r.op = 0 then d else [] }) rfl (by rw [hget]; exact hhaz) rfl (by rw [hget]; exact hneed)
    (by rw [hget]; exact hchan) (by rw [hget]; exact hwait)
  rw [hget] at hdone ⊢
  exact hdone

/-- ERROR: MD_ERROR is set and the response carries no valid data. -/
theorem hostLine_error_done {p : Nat} {r : HostReq} {w : W} (hinj : w.b.ras.inj = []) (h : OneForward p r w) :
    ∃ d k, serve p (hostLine p r 0 .error w) = respondWith { port := p, tag := r.tag, codes := [.error], data := d }
      (setSlice p (noHaz (noReqs (getSlice (setMpsErr p 0 (lineOf r.req.addr.toNat) r.req.ctx.toNat w) p)))
        { setMpsErr p 0 (lineOf r.req.addr.toNat) r.req.ctx.toNat w with
          b := { (setMpsErr p 0 (lineOf r.req.addr.toNat) r.req.ctx.toNat w).b with free := k } }) := by
  obtain ⟨hone, hhaz, hneed, hchan, hwait⟩ := h
  have hget := getSlice_setMpsErr_same p 0 (lineOf r.req.addr.toNat) r.req.ctx.toNat w
  rw [hostLine_error hinj, reqLine_zero]
  generalize setMpsErr p 0 (lineOf r.req.addr.toNat) r.req.ctx.toNat w = v at hget ⊢
  have hone' : OneLine p r v := ⟨by rw [hget]; exact hone.reqs, hone.codes, hone.data, hone.notAtomic⟩
  obtain ⟨d, k, hset⟩ := setLine_error hone'
  refine ⟨d, k, ?_⟩
  rw [hset]
  exact serve_answered (w := { v with b := { v.b with free := k } }) rfl
    (show (getSlice v p).haz = _ by rw [hget]; exact hhaz) rfl
    (show (getSlice v p).need = _ by rw [hget]; exact hneed) (show (getSlice v p).chan = _ by rw [hget]; exact hchan)
    (show (getSlice v p).waitq = _ by rw [hget]; exact hwait)

/-- What memory takes or gives leaves the block as it is. -/
theorem hostMoved_b (r : HostReq) (w : W) : (hostMoved r 0 w).2.b = w.b := by
  unfold hostMoved memTake
  split
  · rfl
  · split <;> simp

/-- The bytes that a write answered OK leaves in its line. -/
def writtenLine (r : HostReq) (w : W) : Bytes :=
  if r.op = 1 then bytesAt r.req.data 0 64
  else maskIn (BitVec.ofNat 64 r.req.mask.toNat) (getBytes w (lineOf r.req.addr.toNat) 64) (bytesAt r.req.data 0 64)

theorem hostMoved_read {r : HostReq} {w : W} (h : r.op = 0) : hostMoved r 0 w = (getBytes w (lineOf r.req.addr.toNat) 64, w) := if_pos h

theorem hostMoved_write {r : HostReq} {w : W} (h0 : r.op ≠ 0) (h2 : r.op ≤ 2) :
    hostMoved r 0 w = ([], putBytes w (lineOf r.req.addr.toNat) (writtenLine r w)) := by
  obtain h | h : r.op = 1 ∨ r.op = 2 := by omega
  · simp [hostMoved, writtenLine, h, memTake, reqLine_zero]
  · simp [hostMoved, writtenLine, h, memTake, reqLine_zero]

theorem bytesAt_zero_getD {b : Bytes} {n i : Nat} (h : i < n) : (bytesAt b 0 n).getD i 0 = b.getD i 0 := by
  simp only [bytesAt, List.drop_zero, List.getD_eq_getElem?_getD, List.getElem?_append, List.length_take, List.getElem?_take, h, if_true]
  split
  · rfl
  · rw [List.getElem?_eq_none (l := b) (by omega), List.getElem?_replicate]
    split <;> rfl

theorem maskIn_getD {mask : BitVec 64} {old new : Bytes} {i : Nat} (h : i < 64) :
    (maskIn mask old new).getD i 0 = if mask.getLsbD i then new.getD i 0 else old.getD i 0 := by
  simp [maskIn, h]

theorem writtenLine_length (r : HostReq) (w : W) : (writtenLine r w).length = 64 := by
  unfold writtenLine
  split
  · exact bytesAt_length _ _ _
  · simp [maskIn]

/-- The whole line of a WRITE. -/
theorem writtenLine_whole {r : HostReq} {w : W} {i : Nat} (h : r.op = 1) (hi : i < 64) :
    (writtenLine r w).getD i 0 = r.req.data.getD i 0 := by
  rw [writtenLine, if_pos h, bytesAt_zero_getD hi]

/-- The enabled bytes of a masked write. -/
theorem writtenLine_masked {r : HostReq} {w : W} {i : Nat} (h : r.op = 2) (hi : i < 64) :
    (writtenLine r w).getD i 0 = if r.req.mask.getLsbD i then r.req.data.getD i 0 else getByte w (lineOf r.req.addr.toNat + i) := by
  have hbit : (BitVec.ofNat 64 r.req.mask.toNat).getLsbD i = r.req.mask.getLsbD i := by
    rw [BitVec.getLsbD_ofNat, decide_eq_true hi, Bool.true_and]; rfl
  rw [writtenLine, if_neg (by omega), maskIn_getD hi, hbit, bytesAt_zero_getD hi, getBytes_getD _ _ _ _ hi]

theorem setMpsErr_b (p bitNo line ctx : Nat) (w : W) : (setMpsErr p bitNo line ctx w).b =
    { w.b with slices := (setMpsErr p bitNo line ctx w).b.slices, tlm := (setMpsErr p bitNo line ctx w).b.tlm } := rfl

/-- What waits for lines and ports does not depend on the slices and the log. -/
theorem nothingWaits_congr {v w : W} (h : w.b = { v.b with slices := w.b.slices, mpRsps := w.b.mpRsps, free := w.b.free, tlm := w.b.tlm })
    (htodo : w.b.tlm.todo = v.b.tlm.todo) : nothingWaits w = nothingWaits v := by
  rw [nothingWaits, nothingWaits, htodo, h]

/-- Settles O23, by the one host entry an answer finds (`OneForward`), and the bytes a read or a write then moves. -/
theorem memoryAnswersTheHost : Obligations.MemoryAnswersTheHost := by
  refine ⟨?host, ?other⟩
  case other =>
    intro s p tag codes
    refine ⟨fun hnone => ?_, fun m hm => ⟨fun hlen => ?_, fun hlen => ?_⟩⟩
    · refine idle_of (exec_mdResponse p tag codes s) ?_
      have hfind : (getSlice (openW s) p).md.find? (fun m => m.tag == tag) = none :=
        List.find?_eq_none.mpr fun m hm => by simpa using hnone m hm
      simp only [mdResponseW, hfind]
    · refine idle_of (exec_mdResponse p tag codes s) ?_
      have hfind : (getSlice (openW s) p).md.find? (fun m => m.tag == tag) = some m := hm
      simp [mdResponseW, hfind, hlen]
    · refine leaves_of (exec_mdResponse p tag codes s) ?_
      have hfind : (getSlice (openW s) p).md.find? (fun m => m.tag == tag) = some m := hm
      simp only [mdResponseW, hfind, hlen, bne_self_eq_false, Bool.false_eq_true, if_false]
      rfl
  case host =>
    intro s p m r hmem hinj hidle hwaitq hneed hchan hreqs hmd hhaz hwho hlines hcodes hdata hop
    obtain ⟨w, hw⟩ : ∃ w, w = setSlice p { sliceOf s p with md := [] } (openW s) := ⟨_, rfl⟩
    have hget : getSlice w p = { sliceOf s p with md := [] } := by rw [hw]; exact getSlice_setSlice _ _ _
    have hinjw : w.b.ras.inj = [] := by rw [hw]; exact hinj
    have hone : OneForward p r w :=
      ⟨⟨by rw [hget]; exact hreqs, hcodes, hdata, by omega⟩, by rw [hget]; exact hhaz, by rw [hget]; exact hneed,
        by rw [hget]; exact hchan, by rw [hget]; exact hwaitq⟩
    have hrow : ∀ c, mdResponseW p m.tag [c] (openW s) = resumeWork (serve p (hostLine p r 0 c w)) := by
      intro c
      have hmd' : (getSlice (openW s) p).md = [m] := hmd
      have hmod : modSlice p (fun s => { s with md := s.md.filter (fun x => x.tag != m.tag) }) (openW s) = w := by
        rw [hw, modSlice, hmd']
        simp
        rfl
      have hans := mdAnswer_host (c := c) hwho hlines hone.one.reqs
      simp [mdResponseW, hmd', hlines, hmod, hans]
    refine ⟨?ok, ?error⟩
    case ok =>
      have hdone : ∀ d v, hostMoved r 0 w = (d, v) → v.base = s.mem → Leads (.mdResponse p m.tag [.ok]) s (fun t =>
          t.blk = { withSlice s.blk p (sliceDone (sliceOf s p)) with
            mpRsps := { port := p, tag := r.tag, codes := [.ok], data := if r.op = 0 then d else [] } :: s.blk.mpRsps }
          ∧ t.mem = commitJournal s.mem v.jr ∧ ∀ a, byteAt t a = getByte v a) := by
        intro d v hmoved hbase
        have hv : v.b = w.b := by rw [← hostMoved_b r w, hmoved]
        have hend := hostLine_ok_done hinjw hone hmoved hv
        have hblk : (serve p (hostLine p r 0 .ok w)).b = { withSlice s.blk p (sliceDone (sliceOf s p)) with
            mpRsps := { port := p, tag := r.tag, codes := [.ok], data := if r.op = 0 then d else [] } :: s.blk.mpRsps } := by
          rw [hend, hget]
          show ({ (setSlice p _ v).b with mpRsps := _ :: v.b.mpRsps } : Blk) = _
          rw [setSlice_b, hv, hw, setSlice_b, tset_tset]
          rfl
        have hres : resumeWork (serve p (hostLine p r 0 .ok w)) = serve p (hostLine p r 0 .ok w) :=
          resumeWork_idle (by rw [nothingWaits, hblk]; exact hidle)
        refine ⟨_, leaves_of (exec_mdResponse p m.tag [.ok] s) ((hrow .ok).trans hres), hblk, by rw [hend]; rfl, fun a => ?_⟩
        rw [hend]
        exact memGet_closeW s (respondWith _ (setSlice p _ v)) a hbase hmem
      have hbyte : ∀ a, getByte w a = byteAt s a := by rw [hw]; exact fun _ => rfl
      by_cases h0 : r.op = 0
      · obtain ⟨t, ht, hblk, hmemt, hb⟩ := hdone _ _ (hostMoved_read h0) (by rw [hw]; rfl)
        have hline : getBytes w (lineOf r.req.addr.toNat) 64 = getBytes (openW s) (lineOf r.req.addr.toNat) 64 := by rw [hw]; rfl
        rw [if_pos h0, hline] at hblk
        refine ⟨t, ht, ?_, fun _ => by rw [hmemt, hw]; rfl, fun a _ => by rw [hb, hbyte], fun h => by omega, fun h => by omega⟩
        rw [if_pos h0]
        exact hblk
      · obtain ⟨t, ht, hblk, -, hb⟩ := hdone _ _ (hostMoved_write h0 hop) (by rw [hw, putBytes_base]; rfl)
        rw [if_neg h0] at hblk
        have hout : ∀ a, byteAt t a = if lineOf r.req.addr.toNat ≤ a ∧ a < lineOf r.req.addr.toNat + 64
            then (writtenLine r w).getD (a - lineOf r.req.addr.toNat) 0 else byteAt s a := by
          intro a
          rw [hb, getByte_putBytes, writtenLine_length, hbyte]
        refine ⟨t, ht, ?_, fun h => absurd h h0, fun a ha => by rw [hout, if_neg (by omega)], fun h1 i hi => ?_, fun h2 i hi => ?_⟩
        · rw [if_neg h0]
          exact hblk
        · rw [hout, if_pos (by omega), Nat.add_sub_cancel_left, writtenLine_whole h1 hi]
        · rw [hout, if_pos (by omega), Nat.add_sub_cancel_left, writtenLine_masked h2 hi, hbyte]
    case error =>
      obtain ⟨d, k, hend⟩ := hostLine_error_done hinjw hone
      have herr := getSlice_setMpsErr_same p 0 (lineOf r.req.addr.toNat) r.req.ctx.toNat w
      have hkeep := setMpsErr_b p 0 (lineOf r.req.addr.toNat) r.req.ctx.toNat w
      have htodo : (setMpsErr p 0 (lineOf r.req.addr.toNat) r.req.ctx.toNat w).b.tlm.todo = s.blk.tlm.todo := by rw [hw]; rfl
      have hjr : (setMpsErr p 0 (lineOf r.req.addr.toNat) r.req.ctx.toNat w).jr = [] := by rw [hw]; rfl
      generalize setMpsErr p 0 (lineOf r.req.addr.toNat) r.req.ctx.toNat w = v at hend herr hkeep htodo hjr
      have hvb : v.b = { s.blk with slices := v.b.slices, tlm := v.b.tlm } := by rw [hkeep, hw]; rfl
      have hres : resumeWork (serve p (hostLine p r 0 .error w)) = serve p (hostLine p r 0 .error w) := by
        refine resumeWork_idle (Eq.trans (nothingWaits_congr (v := openW s) ?_ ?_) hidle)
        · rw [hend]
          show ({ v.b with slices := _, mpRsps := _, free := _ } : Blk) = _
          rw [hvb]
          rfl
        · rw [hend]
          exact htodo
      have hsl : sliceOf (closeW s (serve p (hostLine p r 0 .error w))) p = noHaz (noReqs (getSlice v p)) := by
        rw [hend]
        exact tget_tset_same _ _ _ _
      refine ⟨_, leaves_of (exec_mdResponse p m.tag [.error] s) ((hrow .error).trans hres), ?_, ?_, ?_, ?_, ?_, d, ?_⟩
      · rw [hend]
        show commitJournal s.mem v.jr = s.mem
        rw [hjr]; rfl
      · rw [hsl]; rfl
      · rw [hsl, herr, hget]; rfl
      · rw [hsl]; rfl
      · rw [hsl, herr, hget]; rfl
      · rw [hend]
        show _ :: v.b.mpRsps = _
        rw [hvb]

end Sys2Proof.Machine
end

section
/-! PROOF. ACCUM_CLEAR (R239): what clearing tiles writes. -/

namespace Sys2Proof.Machine

open Sys2Proof.Safety

/-! ### Writes that nothing disturbs -/

/-- A write of whole lines that memory answers OK: the bytes, and the requests presented. -/
structure WritesRun (a : Nat) (d : Bytes) (w : W) (x : Rsp × W) : Prop where
  code : x.1 = .ok
  blk : ∃ n m, x.2.b = { w.b with cnt := n, mdOut := m }
  bytes : ∀ i, getByte x.2 i = if a ≤ i ∧ i < a + d.length then d.getD (i - a) 0 else getByte w i

theorem writesRun_writeLine {acc : Acc} {a : Nat} {d : Bytes} {w : W} (he : acc.env.wr = []) (hinj : w.b.ras.inj = []) :
    WritesRun a d w (writeLine acc a d w) := by
  obtain ⟨n, m, hp⟩ := present1_eq acc 1 a w
  rw [writeLine_ok acc a d w he hinj, hp]
  refine ⟨rfl, ⟨n, m, ?_⟩, fun i => ?_⟩
  · exact putBytes_b _ _ _
  · exact getByte_putBytes _ _ _ _

theorem writesRun_writeSpan {acc : Acc} (he : acc.env.wr = []) : ∀ (n a : Nat) (d : Bytes) (w : W), w.b.ras.inj = [] → d.length = 64 * n →
    WritesRun a d w (writeSpan acc n a d w)
  | 0, a, d, w, _, hlen => by
    have hd : d = [] := List.length_eq_zero_iff.mp hlen
    subst hd
    exact ⟨rfl, ⟨_, _, rfl⟩, fun i => by rw [if_neg (by simp)]; rfl⟩
  | n + 1, a, d, w, hinj, hlen => by
    obtain ⟨hcode, ⟨c, m, hblk⟩, hbytes⟩ := writesRun_writeLine (a := a) (d := d.take 64) he hinj
    have hrest := writesRun_writeSpan he n (a + 64) (d.drop 64) (writeLine acc a (d.take 64) w).2 (by rw [hblk]; exact hinj)
      (by rw [List.length_drop]; omega)
    obtain ⟨hcode', ⟨c', m', hblk'⟩, hbytes'⟩ := hrest
    refine ⟨by simp only [writeSpan, hcode, hcode']; rfl, ⟨c', m', by simp only [writeSpan]; rw [hblk', hblk]⟩, fun i => ?_⟩
    simp only [writeSpan]
    rw [hbytes', hbytes, List.length_drop, List.length_take]
    by_cases hlow : i < a + 64
    · by_cases hin : a ≤ i
      · rw [if_neg (by omega), if_pos (by omega), if_pos (by omega)]
        simp only [List.getD_eq_getElem?_getD, List.getElem?_take]
        rw [if_pos (by omega)]
      · rw [if_neg (by omega), if_neg (by omega), if_neg (by omega)]
    · by_cases hin : i < a + d.length
      · rw [if_pos (by omega), if_pos (by omega)]
        simp only [List.getD_eq_getElem?_getD, List.getElem?_drop]
        rw [show 64 + (i - (a + 64)) = i - a by omega]
      · rw [if_neg (by omega), if_neg (by omega), if_neg (by omega)]

theorem writesRun_writeBytes {acc : Acc} {a n : Nat} {d : Bytes} {w : W} (he : acc.env.wr = []) (hinj : w.b.ras.inj = [])
    (hlen : d.length = 64 * n) : WritesRun a d w (writeBytes acc a d w) := by
  rw [writeBytes, show (d.length + 63) / 64 = n by omega]
  exact writesRun_writeSpan he n a d w hinj hlen

/-! ### The layout of a bank (R230) -/

/-- Two entries place their Datums alike. -/
structure SameLayout (r r' : Region) : Prop where
  base : r'.base = r.base
  kind : r'.kind = r.kind
  size : r'.size = r.size
  width : r'.width = r.width

theorem SameLayout.refl (r : Region) : SameLayout r r := ⟨rfl, rfl, rfl, rfl⟩

theorem SameLayout.stateAt {r r' : Region} (h : SameLayout r r') (bank t : Nat) : stateAt r' bank t = stateAt r bank t := by
  obtain ⟨hb, hk, hs, hw⟩ := h
  simp only [Machine.stateAt, bankBase, bankBytes, tilesOf, rgnBytes, esOf, hb, hk, hs, hw]

/-- The first Datum of tile t of bank 0. -/
theorem elemAt_tile (r : Region) (t : Nat) : elemAt r 0 (4096 * t) = r.base + 4096 * esOf r * t := by
  simp only [elemAt, bankBase, Nat.zero_mul, Nat.add_zero]
  rw [Nat.mul_left_comm, Nat.mul_assoc]

/-- The tiles of a bank, integers and state lines, fit it, and the integers end where the state lines begin at the latest. -/
theorem tiles_fit (r : Region) : 4096 * esOf r * tilesOf r + 64 * tilesOf r ≤ bankBytes r := by
  have h := Nat.mul_div_le (bankBytes r) (4096 * esOf r + 64)
  rw [tilesOf]
  rwa [← Nat.add_mul]

theorem stateAt_bank (r : Region) (t : Nat) : stateAt r 0 t = r.base + (bankBytes r - 64 * tilesOf r) + 64 * t := by
  have h := tiles_fit r
  simp only [stateAt, bankBase, Nat.zero_mul, Nat.add_zero]
  omega

/-! ### Zeroing integers -/

theorem zeroTiles_zero (acc : Acc) (he : acc.env.wr = []) (ri : Nat) : ∀ (n t : Nat) (w : W), w.b.ras.inj = [] →
    (zeroTiles acc ri 0 n t w).1 = .ok ∧ (∃ c m, (zeroTiles acc ri 0 n t w).2.b = { w.b with cnt := c, mdOut := m })
      ∧ ∀ i, getByte (zeroTiles acc ri 0 n t w).2 i =
          if elemAt (getRgn w ri) 0 (4096 * t) ≤ i ∧ i < elemAt (getRgn w ri) 0 (4096 * (t + n)) then 0 else getByte w i
  | 0, t, w, _ => ⟨rfl, ⟨_, _, rfl⟩, fun i => by rw [if_neg (by simp only [Nat.add_zero]; omega)]; rfl⟩
  | n + 1, t, w, hinj => by
    obtain ⟨hcode, ⟨c, m, hblk⟩, hbytes⟩ := writesRun_writeBytes (a := elemAt (getRgn w ri) 0 (4096 * t))
      (d := zeros (4096 * esOf (getRgn w ri))) (n := 64 * esOf (getRgn w ri)) (w := w) he hinj (by simp only [zeros, List.length_replicate]; omega)
    have hrgn : getRgn (writeBytes acc (elemAt (getRgn w ri) 0 (4096 * t)) (zeros (4096 * esOf (getRgn w ri))) w).2 ri = getRgn w ri := by
      rw [getRgn, hblk]; rfl
    obtain ⟨hcode', ⟨c', m', hblk'⟩, hbytes'⟩ := zeroTiles_zero acc he ri n (t + 1)
      (writeBytes acc (elemAt (getRgn w ri) 0 (4096 * t)) (zeros (4096 * esOf (getRgn w ri))) w).2 (by rw [hblk]; exact hinj)
    refine ⟨by simp only [zeroTiles, hcode, hcode']; rfl, ⟨c', m', by simp only [zeroTiles]; rw [hblk', hblk]⟩, fun i => ?_⟩
    simp only [zeroTiles]
    rw [hbytes', hbytes, hrgn]
    have hlen : (zeros (4096 * esOf (getRgn w ri))).length = 4096 * esOf (getRgn w ri) := by simp [zeros]
    have hzero : ∀ j, (zeros (4096 * esOf (getRgn w ri))).getD j 0 = 0 := by
      intro j; simp [zeros, List.getD_eq_getElem?_getD, List.getElem?_replicate]; split <;> rfl
    simp only [elemAt_tile, hlen, hzero]
    generalize 4096 * esOf (getRgn w ri) = es
    rw [show es * (t + 1) = es * t + es from Nat.mul_succ es t,
      show es * (t + 1 + n) = es * t + es + es * n by rw [Nat.mul_add, Nat.mul_add, Nat.mul_one],
      show es * (t + (n + 1)) = es * t + es + es * n by rw [Nat.mul_add, Nat.mul_add, Nat.mul_one]; omega]
    by_cases hin : (getRgn w ri).base + es * t ≤ i ∧ i < (getRgn w ri).base + (es * t + es + es * n)
    · rw [if_pos hin]
      split
      · rfl
      · rw [if_pos (by omega)]
    · rw [if_neg (by omega), if_neg (by omega), if_neg hin]

/-! ### Clearing tile state -/

theorem tileBytes_cleared_length (a : Int) : (tileBytes (clearedTile a)).length = 64 := by
  simp [tileBytes, clearedTile, toLeInt, toLe_length, zeros]

/-- Writing a tile-state line that memory answers OK: its bytes, and the flagged tiles of its region counted. -/
theorem writeTile_ok {env : Env} {ri t : Nat} {old : Tile} {a : Int} {w : W} (he : env.wr = []) (hinj : w.b.ras.inj = []) :
    (writeTile env ri 0 t old (clearedTile a) w).1 = .ok
      ∧ (writeTile env ri 0 t old (clearedTile a) w).2.b.ras.inj = []
      ∧ SameLayout (getRgn w ri) (getRgn (writeTile env ri 0 t old (clearedTile a) w).2 ri)
      ∧ ∀ i, getByte (writeTile env ri 0 t old (clearedTile a) w).2 i =
          if stateAt (getRgn w ri) 0 t ≤ i ∧ i < stateAt (getRgn w ri) 0 t + 64
          then (tileBytes (clearedTile a)).getD (i - stateAt (getRgn w ri) 0 t) 0 else getByte w i := by
  obtain ⟨hcode, ⟨c, m, hblk⟩, hbytes⟩ := writesRun_writeLine (acc := auAcc env (getRgn w ri).ctx) (a := stateAt (getRgn w ri) 0 t)
    (d := tileBytes (clearedTile a)) he hinj
  have heq : writeTile env ri 0 t old (clearedTile a) w = (.ok, noteTile ri old (clearedTile a)
      (writeLine (auAcc env (getRgn w ri).ctx) (stateAt (getRgn w ri) 0 t) (tileBytes (clearedTile a)) w).2) := by
    simp only [writeTile, writeTileAs, hcode]
    rfl
  have hrgn : getRgn (writeLine (auAcc env (getRgn w ri).ctx) (stateAt (getRgn w ri) 0 t) (tileBytes (clearedTile a)) w).2 ri
      = getRgn w ri := by rw [getRgn, hblk]; rfl
  rw [heq]
  generalize writeLine (auAcc env (getRgn w ri).ctx) (stateAt (getRgn w ri) 0 t) (tileBytes (clearedTile a)) w = x at *
  have hget : getRgn (noteTile ri old (clearedTile a) x.2) ri = { getRgn x.2 ri with
      rangeTiles := (getRgn (noteTile ri old (clearedTile a) x.2) ri).rangeTiles
      nonfiniteTiles := (getRgn (noteTile ri old (clearedTile a) x.2) ri).nonfiniteTiles } := by
    rw [show getRgn (noteTile ri old (clearedTile a) x.2) ri = _ from tget_tset_same _ _ _ _]
  refine ⟨rfl, ?_, ?_, fun i => ?_⟩
  · show x.2.b.ras.inj = []
    rw [hblk]; exact hinj
  · rw [hget, hrgn]
    exact ⟨rfl, rfl, rfl, rfl⟩
  · rw [← tileBytes_cleared_length a]
    exact hbytes i

/-- A run of bytes read back. -/
theorem getBytes_eq {w : W} {a n : Nat} {d : Bytes} (hlen : d.length = n) (h : ∀ i, i < n → getByte w (a + i) = d.getD i 0) :
    getBytes w a n = d := by
  refine List.ext_getElem (by rw [getBytes_length, hlen]) fun i h1 h2 => ?_
  rw [getBytes_length] at h1
  have hg := getBytes_getD w a n i h1
  rw [h i h1] at hg
  simpa [List.getD_eq_getElem?_getD, getBytes_length, h1, h2] using hg

theorem getBytes_congr {v w : W} {a n : Nat} (h : ∀ i, i < n → getByte v (a + i) = getByte w (a + i)) : getBytes v a n = getBytes w a n :=
  getBytes_eq (getBytes_length _ _ _) fun i hi => by rw [getBytes_getD _ _ _ _ hi, h i hi]

/-- One tile, then the rest. -/
theorem mapTiles_succ {env : Env} {ri n t : Nat} {w v : W} {old : Tile} {c : Rsp} (hold : old = tileOf (getBytes w (stateAt (getRgn w ri) 0 t) 64))
    (hrd : env.rd = []) (hinj : w.b.ras.inj = [])
    (hv : writeTile env ri 0 t old (clearedTile old.anchor) (present1 (auAcc env (getRgn w ri).ctx) 0 (stateAt (getRgn w ri) 0 t) w) = (c, v)) :
    (mapTiles env ri 0 (fun t => some (clearedTile t.anchor)) (n + 1) t w).1
        = worse c (mapTiles env ri 0 (fun t => some (clearedTile t.anchor)) n (t + 1) v).1
      ∧ (mapTiles env ri 0 (fun t => some (clearedTile t.anchor)) (n + 1) t w).2.2
        = (mapTiles env ri 0 (fun t => some (clearedTile t.anchor)) n (t + 1) v).2.2 := by
  have hread := readLine_ok (auAcc env (getRgn w ri).ctx) (stateAt (getRgn w ri) 0 t) w hrd hinj
  simp only [mapTiles, readTile, readTileAs, hread, bne_self_eq_false, Bool.false_eq_true, if_false, ← hold, hv, and_self]

/-- Clearing the state lines of n tiles from one on. -/
theorem mapTiles_cleared (env : Env) (hrd : env.rd = []) (hwr : env.wr = []) (ri : Nat) : ∀ (n t : Nat) (w : W), w.b.ras.inj = [] →
    (mapTiles env ri 0 (fun t => some (clearedTile t.anchor)) n t w).1 = .ok
      ∧ (∀ j, t ≤ j → j < t + n → getBytes (mapTiles env ri 0 (fun t => some (clearedTile t.anchor)) n t w).2.2 (stateAt (getRgn w ri) 0 j) 64
          = tileBytes (clearedTile (tileOf (getBytes w (stateAt (getRgn w ri) 0 j) 64)).anchor))
      ∧ ∀ i, (i < stateAt (getRgn w ri) 0 t ∨ stateAt (getRgn w ri) 0 (t + n) ≤ i) →
          getByte (mapTiles env ri 0 (fun t => some (clearedTile t.anchor)) n t w).2.2 i = getByte w i
  | 0, t, w, _ => ⟨rfl, fun j h1 h2 => by omega, fun i _ => rfl⟩
  | n + 1, t, w, hinj => by
    obtain ⟨old, hold⟩ : ∃ old, old = tileOf (getBytes w (stateAt (getRgn w ri) 0 t) 64) := ⟨_, rfl⟩
    obtain ⟨u, hu⟩ : ∃ u, u = present1 (auAcc env (getRgn w ri).ctx) 0 (stateAt (getRgn w ri) 0 t) w := ⟨_, rfl⟩
    have hrgn : getRgn u ri = getRgn w ri := by rw [hu]; rfl
    have hbyte : ∀ i, getByte u i = getByte w i := fun i => by rw [hu]; rfl
    obtain ⟨hcode, hinj', hlayout, hline⟩ := writeTile_ok (env := env) (ri := ri) (t := t) (old := old) (a := old.anchor) (w := u) hwr
      (by rw [hu, present1_inj]; exact hinj)
    rw [hrgn] at hlayout hline
    obtain ⟨v, hv⟩ : ∃ v, writeTile env ri 0 t old (clearedTile old.anchor) u = (.ok, v) := ⟨_, Prod.ext hcode rfl⟩
    rw [hv] at hinj' hlayout hline
    rw [hu] at hv
    obtain ⟨hsucc, hrest⟩ := mapTiles_succ (n := n) hold hrd hinj hv
    obtain ⟨hcode2, hcleared, hout⟩ := mapTiles_cleared env hrd hwr ri n (t + 1) v hinj'
    simp only [hlayout.stateAt, stateAt_bank] at hcleared hout
    simp only [stateAt_bank] at hline hold ⊢
    rw [hsucc, hcode2, hrest]
    refine ⟨rfl, fun j hlow hhigh => ?_, fun i hi => ?_⟩
    · obtain rfl | hne := Nat.eq_or_lt_of_le hlow
      · rw [← hold]
        refine getBytes_eq (tileBytes_cleared_length _) fun i hi => ?_
        rw [hout _ (.inl (by omega)), hline, if_pos (by omega), Nat.add_sub_cancel_left]
      · rw [hcleared j (by omega) (by omega)]
        refine congrArg (fun b => tileBytes (clearedTile (tileOf b).anchor)) (getBytes_congr fun i hi => ?_)
        rw [hline, if_neg (by omega), hbyte]
    · rw [hout i (by omega), hline, if_neg (by omega), hbyte]

/-- Settles O11: the integers are zeroed first, then each state line, and the two runs of bytes do not meet. -/
theorem clearedTilesAreZero : Obligations.ClearedTilesAreZero := by
  intro env ri first n w w' code hrd hwr hinj hkind hbase hfit hclear
  obtain ⟨v, hv⟩ : ∃ v, v = (zeroTiles (auAcc env (getRgn w ri).ctx) ri 0 n first w).2 := ⟨_, rfl⟩
  obtain ⟨hcode, ⟨c, m, hblk⟩, hzero⟩ := zeroTiles_zero (auAcc env (getRgn w ri).ctx) hwr ri n first w hinj
  rw [← hv] at hblk hzero
  have hrgn : getRgn v ri = getRgn w ri := by rw [getRgn, hblk]; rfl
  obtain ⟨hcode2, hcleared, hout⟩ := mapTiles_cleared env hrd hwr ri n first v (by rw [hblk]; exact hinj)
  have heq : clearTiles env ri first n w = (worse (zeroTiles (auAcc env (getRgn w ri).ctx) ri 0 n first w).1
      (mapTiles env ri 0 (fun t => some (clearedTile t.anchor)) n first v).1,
      (mapTiles env ri 0 (fun t => some (clearedTile t.anchor)) n first v).2.2) := by rw [hv]; rfl
  rw [heq, Prod.mk.injEq, hcode, hcode2] at hclear
  obtain ⟨rfl, rfl⟩ := hclear
  have hroom := tiles_fit (getRgn w ri)
  have hlast : 4096 * esOf (getRgn w ri) * (first + n) ≤ 4096 * esOf (getRgn w ri) * tilesOf (getRgn w ri) := Nat.mul_le_mul_left _ hfit
  have hfirst : 4096 * esOf (getRgn w ri) * first ≤ 4096 * esOf (getRgn w ri) * (first + n) := Nat.mul_le_mul_left _ (Nat.le_add_right _ _)
  rw [hrgn] at hcleared hout
  simp only [stateAt_bank, elemAt_tile] at hcleared hout hzero ⊢
  refine ⟨rfl, fun a hlow hhigh => ?_, fun t hlow hhigh => ?_, fun a ha => ?_⟩
  · rw [hout a (by omega), hzero, if_pos ⟨hlow, hhigh⟩]
  · rw [hcleared t hlow hhigh]
    refine congrArg (fun b => tileBytes (clearedTile (tileOf b).anchor)) (getBytes_congr fun i hi => ?_)
    rw [hzero, if_neg (by omega)]
  · rw [hout a (by omega), hzero, if_neg (by omega)]

end Sys2Proof.Machine
end

section
/-! PROOF. COPY and FILL of a plain line (R122). -/

namespace Sys2Proof.Machine

open Sys2Proof.Safety

/-! ### A completion behind other writes -/

/-- What a completion with an entry leaves: its block, and memory with the entry in it. -/
theorem complete_effect {env : Env} {c : CmdId} {k : Cmd} {o : Outc} {w : W}
    (hk : findCmd w c = some k) (hq : c.q ≠ fabricQ) (hsilent : bit (arg k 1 1) 1 = false) (hout : k.outc = none)
    (hctx : (getCtx w k.ctx).state ≠ .teardown) (hlines : linesFree w (entryAt (getQp w c.q)) 32 = true)
    (hwr : env.wr = []) (hinj : w.b.ras.inj = []) (halign : (getQp w c.q).cqBase % 32 = 0) :
    ∃ v n m, complete env false c o w = v ∧ v.base = w.base
      ∧ v.b = { w.b with cmds := w.b.cmds.filter (fun k => k.id != c)
                         qps := tset w.b.qps c.q (doneQp (getQp w c.q) c.n (isOk o.status) (bit (arg k 1 1) 0)), cnt := n, mdOut := m }
      ∧ ∀ a, getByte v a = if entryAt (getQp w c.q) ≤ a ∧ a < entryAt (getQp w c.q) + 32
          then (completionBytes k o (getQp w c.q).sqHead (getQp w c.q).phase).getD (a - entryAt (getQp w c.q)) 0 else getByte w a := by
  obtain ⟨n, m, h⟩ := complete_entry env c k o w hk hq hsilent hout hctx hlines hwr hinj
  refine ⟨_, n, m, h, by simp, rfl, fun a => ?_⟩
  have hput := getByte_putPart w (entryAt (getQp w c.q)) a (completionBytes k o (getQp w c.q).sqHead (getQp w c.q).phase)
    (by rw [completionBytes_length, entryAt]; omega)
  rw [completionBytes_length] at hput
  exact hput

/-! ### Reads and writes of a command's lines -/

theorem Presents.eq {v w : W} (h : Presents v w) : ∃ n m, w = { v with b := { v.b with cnt := n, mdOut := m } } := by
  obtain ⟨hbuild, hbase, hjr, hblk⟩ := h
  refine ⟨w.b.cnt, w.b.mdOut, ?_⟩
  rw [← hblk, ← hbuild, ← hbase, ← hjr]

/-- A command reads a line of which no decoded copy waits and no degraded read is under way. -/
theorem cmdLine_ok {env : Env} {c : CmdId} {k : Cmd} {line : Nat} {w : W} (hk : findCmd w c = some k) (hpatch : k.patch = [])
    (hfetch : w.b.fetches = []) (hrd : env.rd = []) (hinj : w.b.ras.inj = []) :
    cmdLine env c line w = (.got .ok (getBytes w line 64), present1 (cmdAcc env w c) 0 line w) := by
  have hread := readLine_ok (cmdAcc env w c) line w hrd hinj
  have hnone : (findCmd w c).bind (fun k => tfind k.patch line) = none := by rw [hk]; simp [hpatch, tfind]
  have hidle : cmdFetching w c line = false := by simp [cmdFetching, hfetch]
  simp only [cmdLine, lineAs, hnone, hidle, hread, Bool.false_eq_true, if_false]

/-- A command writes a plain line that is free. -/
theorem cmdPut_plain {env : Env} {c : CmdId} {line : Nat} {d : Bytes} {w : W} (hlines : linesFree w line 64 = true)
    (hmode : lineMode w line = .plain) (hheld : chunkHeld w line = false) (hwr : env.wr = []) (hinj : w.b.ras.inj = []) :
    cmdPut env c line d w = (.put .ok, putBytes (present1 (cmdAcc env w c) 1 line w) line d) := by
  have hwrite := writeLine_ok (cmdAcc env w c) line d w hwr hinj
  simp only [cmdPut, hlines, hmode, hheld, hwrite, Bool.not_true, Bool.and_false, Bool.false_eq_true, if_false]

/-- The bytes a FILL writes to a line. -/
def fillBytes (k : Cmd) : Bytes := (List.replicate 8 (bytesAt k.slot 0x28 8)).flatten

theorem fillBytes_eq (k : Cmd) : fillBytes k = (List.replicate 8 (bytesAt k.slot 0x28 8)).flatten := rfl

theorem fillBytes_length (k : Cmd) : (fillBytes k).length = 64 := by
  simp [fillBytes, bytesAt_length]

/-- A list repeated reads as the list, over and over. -/
theorem getD_flatten_replicate {α : Type} (l : List α) (d : α) : ∀ (n i : Nat), i < n * l.length →
    (List.replicate n l).flatten.getD i d = l.getD (i % l.length) d
  | 0, i, h => absurd h (by omega)
  | n + 1, i, h => by
    rw [List.replicate_succ, List.flatten_cons, List.getD_eq_getElem?_getD]
    by_cases hin : i < l.length
    · rw [List.getElem?_append_left hin, Nat.mod_eq_of_lt hin, List.getD_eq_getElem?_getD]
    · have hle : l.length ≤ i := Nat.le_of_not_lt hin
      rw [Nat.succ_mul] at h
      rw [List.getElem?_append_right hle, ← List.getD_eq_getElem?_getD, getD_flatten_replicate l d n _ (by omega), ← Nat.mod_eq_sub_mod hle]

theorem fillBytes_getD {k : Cmd} {i : Nat} (h : i < 64) : (fillBytes k).getD i 0 = (bytesAt k.slot 0x28 8).getD (i % 8) 0 := by
  have hlen : (bytesAt k.slot 0x28 8).length = 8 := bytesAt_length k.slot 0x28 8
  rw [fillBytes, getD_flatten_replicate _ _ _ _ (by rw [hlen]; exact h), hlen]

/-- A command that has done one line. -/
def movedOne (k : Cmd) : Cmd := { k with prog := 1 }

theorem modCmd_b (c : CmdId) (f : Cmd → Cmd) (w : W) : (modCmd c f w).b = { w.b with cmds := mapIf (fun k => k.id == c) f w.b.cmds } := rfl

/-- What a COPY or FILL of line 0 takes: its source line, or the pattern. -/
def movedBytes (k : Cmd) (copy : Bool) (w : W) : Bytes := if copy then getBytes w (arg k 0x10 8) 64 else fillBytes k

theorem movedBytes_length (k : Cmd) (copy : Bool) (w : W) : (movedBytes k copy w).length = 64 := by
  unfold movedBytes
  split
  · exact getBytes_length _ _ _
  · exact fillBytes_length k

/-- The end of a COPY or FILL whose command opened no unit. -/
theorem copyEnd_plain {env : Env} {c : CmdId} {k : Cmd} {n : Nat} {w : W} (hk : findCmd w c = some k) (hunits : k.units = [])
    (hdegraded : k.degraded = false) (hnone : ∀ u ∈ w.b.units, u.cmd ≠ some c) :
    copyEnd env c .ok n w = complete env false c { result := toLe 8 (64 * n) } w := by
  have hfilter : w.b.units.filter (fun u => u.cmd == some c && !u.closed) = [] :=
    List.filter_eq_nil_iff.mpr fun u hu => by simp [hnone u hu]
  have hclose : closeCmdUnits c w = w := by rw [closeCmdUnits, hfilter]; rfl
  simp [copyEnd, hk, hdegraded, hclose, outcome, unitsDone, hunits]

/-- A COPY or FILL of one plain line whose lines are free. -/
structure MovesLine (env : Env) (k k' : Cmd) (copy : Bool) (w : W) : Prop where
  find : findCmd w k.id = some k'
  fresh : k'.patch = [] ∧ k'.units = [] ∧ k'.degraded = false
  start : k.prog = 0
  one : arg k 0x20 8 = 64
  calm : env.rd = [] ∧ env.wr = [] ∧ w.b.ras.inj = []
  fetches : w.b.fetches = []
  src : copy = true → linesReadable w (arg k 0x10 8) 64 = true
  dst : linesFree w (arg k 0x18 8) 64 = true
  mode : lineMode w (arg k 0x18 8) = .plain
  held : chunkHeld w (arg k 0x18 8) = false
  units : ∀ u ∈ w.b.units, u.cmd ≠ some k.id

/-- The read of the line presents a request at most. -/
theorem copyRead_ok {env : Env} {k k' : Cmd} {copy : Bool} {w : W} (h : MovesLine env k k' copy w) :
    ∃ v, (if !copy then (Got.got Rsp.ok (fillBytes k), w)
        else if !linesReadable w (arg k 0x10 8) 64 then (Got.waits, flushLines (arg k 0x10 8) 64 w)
        else cmdLine env k.id (arg k 0x10 8) w) = (.got .ok (movedBytes k copy w), v) ∧ Presents w v := by
  obtain ⟨hrd, -, hinj⟩ := h.calm
  cases copy with
  | false => exact ⟨w, rfl, Presents.refl w⟩
  | true =>
    have hline := cmdLine_ok (env := env) (line := arg k 0x10 8) h.find h.fresh.1 h.fetches hrd hinj
    refine ⟨present1 (cmdAcc env w k.id) 0 (arg k 0x10 8) w, ?_, presents_present1 _ _ _ _⟩
    simp only [Bool.not_true, Bool.false_eq_true, if_false, h.src rfl, hline]
    rfl

/-- The line is written, and the command completes with RESULT 64. -/
theorem copyGo_line {env : Env} {k k' : Cmd} {copy : Bool} {w : W} (h : MovesLine env k k' copy w) :
    ∃ v n m, copyGo env copy k w = complete env false k.id { result := toLe 8 64 } v ∧ v.base = w.base ∧ v.build = w.build
      ∧ v.b = { w.b with cmds := mapIf (fun x => x.id == k.id) movedOne w.b.cmds, cnt := n, mdOut := m }
      ∧ ∀ a, getByte v a = if arg k 0x18 8 ≤ a ∧ a < arg k 0x18 8 + 64
          then (movedBytes k copy w).getD (a - arg k 0x18 8) 0 else getByte w a := by
  obtain ⟨hrd, hwr, hinj⟩ := h.calm
  obtain ⟨hpatch, hunits, hdegraded⟩ := h.fresh
  obtain ⟨u, hread, hu⟩ := copyRead_ok h
  obtain ⟨n, m, hu⟩ := hu.eq
  have hput : cmdPut env k.id (arg k 0x18 8) (movedBytes k copy w) u
      = (.put .ok, putBytes (present1 (cmdAcc env u k.id) 1 (arg k 0x18 8) u) (arg k 0x18 8) (movedBytes k copy w)) := by
    refine cmdPut_plain ?_ ?_ ?_ hwr ?_
    · rw [hu]; exact h.dst
    · rw [hu]; exact h.mode
    · rw [hu]; exact h.held
    · rw [hu]; exact hinj
  obtain ⟨x, hx⟩ : ∃ x, x = putBytes (present1 (cmdAcc env u k.id) 1 (arg k 0x18 8) u) (arg k 0x18 8) (movedBytes k copy w) := ⟨_, rfl⟩
  rw [← hx] at hput
  obtain ⟨n', m', hp⟩ := present1_eq (cmdAcc env u k.id) 1 (arg k 0x18 8) u
  have hxb : x.b = { w.b with cnt := n', mdOut := m' } := by rw [hx, putBytes_b, hp, hu]
  have hfind : findCmd (modCmd k.id movedOne x) k.id = some (movedOne k') := by
    have hf : w.b.cmds.find? (fun x => x.id == k.id) = some k' := h.find
    rw [findCmd, modCmd, hxb]
    show (mapIf (fun x => x.id == k.id) movedOne w.b.cmds).find? (fun x => x.id == k.id) = _
    rw [find_mapIf (fun x => x.id == k.id) movedOne _ (fun x hx => hx), hf]
    rfl
  have hused : usedLines k.id (arg k 0x10 8) 64 (modCmd k.id movedOne x) = modCmd k.id movedOne x := by
    simp [usedLines, hfind, movedOne, hpatch]
  have hend : copyEnd env k.id .ok 1 (modCmd k.id movedOne x) = complete env false k.id { result := toLe 8 64 }
      (modCmd k.id movedOne x) :=
    copyEnd_plain hfind hunits hdegraded (by show ∀ u ∈ x.b.units, _; rw [hxb]; exact h.units)
  refine ⟨modCmd k.id movedOne x, n', m', ?_, ?_, ?_, ?_, fun a => ?_⟩
  · rw [← hend, copyGo, h.one, h.start]
    show copyLines env k copy 1 0 w = _
    have hstep : copyLines env k copy 1 0 w = copyLines env k copy 0 1 (usedLines k.id (arg k 0x10 8) 64 (modCmd k.id movedOne x)) := by
      rw [copyLines.eq_2]
      simp only [Nat.mul_zero, Nat.add_zero, ← fillBytes_eq, hread, hput]
      rfl
    rw [hstep, hused]
    rfl
  · show x.base = w.base
    rw [hx, putBytes_base, hp, hu]
  · show x.build = w.build
    rw [hx, putBytes_build, hp, hu]
  · rw [modCmd_b, hxb]
  · show getByte x a = _
    rw [hx, getByte_putBytes, movedBytes_length, hp, hu]
    rfl

/-! ### The command -/

theorem doneQp_done (x : Qp) (n : Nat) (good irq : Bool) : (doneQp x n good irq).done = x.done + 1 := by
  simp only [doneQp, irqQp]
  split
  · split <;> rfl
  · rfl

theorem begun_done {s : State} {c : CmdId} {k : Cmd} (hs : Starts s c k) (hi : s.blk.ras.inj = []) :
    (getQp (begun s c k) c.q).done = (qpOf s c.q).done := by
  obtain ⟨l, r, h⟩ := begun_eq s c k hs hi
  have hq : getQp (begun s c k) c.q = waitedQp (qpOf s c.q) (nowUs (openW s) - k.fetchedUs) := by
    rw [h]; exact tget_tset_same _ _ _ _
  rw [hq]; rfl

/-- A COPY or FILL that starts leaves what its one line leaves. -/
theorem leaves_copyOrFill {s : State} {c : CmdId} {env : Env} {k : Cmd} {copy : Bool} (hs : Starts s c k)
    (hop : opOf k = if copy then 0x70 else 0x71) (hpass : copyCheck (begun s c k) k copy = none) :
    Leaves (if copy then .copy c env else .fill c env) s (copyGo env copy k (begun s c k)) := by
  cases copy with
  | true => exact leaves_checked (i := .copy c env) (chk := fun w k => copyCheck w k true) rfl hs (isOp_of hop) hpass
  | false => exact leaves_checked (i := .fill c env) (chk := fun w k => copyCheck w k false) rfl hs (isOp_of hop) hpass

/-- Settles O9: the line is moved by one write, and the completion entry is the only other one. -/
theorem copyAndFillMoveBytes : Obligations.CopyAndFillMoveBytes := by
  rintro s c env k copy ⟨hs, hc, hr, hop⟩ hpass hprog hunits hdegraded hpatch hone - - hsrc hdst hmode hheld hapart hcmds
  obtain ⟨hrd, hwr, hinj, hmem⟩ := id hc
  obtain ⟨hsilent, halign, hlines, hfetch⟩ := id hr
  obtain ⟨-, hq, hctx, hout, -⟩ := id hs
  have hk := begun_keeps hs hinj
  have hid := id_of_starts hs
  have hfind := begun_find s c k hs hinj
  have hmoves : MovesLine env k { k with phase := .running } copy (begun s c k) :=
    { find := hid.symm ▸ hfind, fresh := ⟨hpatch, hunits, hdegraded⟩, start := hprog, one := hone
      calm := ⟨hrd, hwr, by rw [hk.ras]; exact hinj⟩, fetches := hk.fetches.trans hfetch, src := hsrc, dst := hdst, mode := hmode
      held := hheld, units := by rw [hid, hk.blk]; exact hcmds }
  obtain ⟨v, n, m, hgo, hbase, hbuild, hblk, hbytes⟩ := copyGo_line hmoves
  rw [hid] at hgo hblk
  have hvfind : findCmd v c = some (movedOne { k with phase := .running }) := by
    have hf : (begun s c k).b.cmds.find? (fun x => x.id == c) = some { k with phase := .running } := hfind
    rw [findCmd, hblk]
    show (mapIf (fun x => x.id == c) movedOne (begun s c k).b.cmds).find? (fun x => x.id == c) = _
    rw [find_mapIf (fun x => x.id == c) movedOne _ (fun x hx => hx), hf]
    rfl
  have hqp : getQp v c.q = getQp (begun s c k) c.q := by rw [getQp, hblk]; rfl
  obtain ⟨hqbase, hqtail, hqhead, hqphase⟩ := begun_qp s c k hs hinj
  have hentry : entryAt (getQp v c.q) = entryAt (qpOf s c.q) := by rw [hqp, entryAt, hqbase, hqtail]; rfl
  have hup : (getCtx v k.ctx).state ≠ .teardown := by
    have hx : getCtx v k.ctx = ctxOf s k.ctx := by rw [getCtx, hblk]; exact hk.getCtx k.ctx
    rw [hx]; intro h; rw [ctxRuns, h] at hctx; contradiction
  have hfree : linesFree v (entryAt (getQp v c.q)) 32 = true := by
    rw [hentry, linesFree_congr (openW s) v _ _ (hbuild.trans hk.build) (by rw [hblk]; exact hk.slices) hfetch
      (by rw [hblk]; exact hk.fetches.trans hfetch)]
    exact hlines
  obtain ⟨u, n', m', hcomplete, hubase, hublk, hubytes⟩ := complete_effect (o := { result := toLe 8 64 }) hvfind hq hsilent hout hup hfree hwr
    (by rw [hblk]; exact (congrArg Ras.inj hk.ras).trans hinj) (by rw [hqp, hqbase]; exact halign)
  rw [hentry] at hubytes
  have hleaves := leaves_copyOrFill (env := env) hs hop hpass
  rw [hgo, hcomplete] at hleaves
  have hat : ∀ a, byteAt (closeW s u) a = getByte u a := fun a =>
    memGet_closeW s u a (hubase.trans (hbase.trans hk.base)) hmem
  have hbegun : ∀ a, getByte (begun s c k) a = byteAt s a := fun a => by rw [getByte, hk.jr, hk.base]; rfl
  refine ⟨_, hleaves, fun i hi => ?_, fun a ha he => ?_, fun i hi => ?_, fun x hx => ?_, ?_⟩
  · rw [hat, hubytes, if_neg (by omega), hbytes, if_pos (by omega), Nat.add_sub_cancel_left]
    cases copy with
    | true => exact (getBytes_getD _ _ _ _ hi).trans (hbegun _)
    | false => exact fillBytes_getD hi
  · rw [hat, hubytes, if_neg (by omega), hbytes, if_neg (by omega), hbegun]
  · rw [hat, hubytes, if_pos (by omega), Nat.add_sub_cancel_left, hqp, hqhead, hqphase]
    rfl
  · rw [closeW_blk, hublk] at hx
    simpa using (List.mem_filter.mp hx).2
  · rw [qpOf, closeW_blk, hublk]
    dsimp only
    rw [tget_tset_same, doneQp_done, hqp, begun_done hs hinj]

end Sys2Proof.Machine
end

section
/-! PROOF. Bearing seeds, reads and sweeps (R216, R220 to R224). -/

namespace Sys2Proof.Machine

open Sys2Proof.Safety

/-! ### Reads and the start of a sweep -/

/-- A BEARING_READ of a coded region of its own passes its checks. -/
theorem bearingRead_checked {env : Env} {member : Bool} {k : Cmd} {w : W} (hstate : (getRgn w (arg k 0x10 2)).state ≠ .free)
    (hctx : (getRgn w (arg k 0x10 2)).ctx = k.ctx) (hkind : codedKind (getRgn w (arg k 0x10 2)).kind = true)
    (hgrp : member = true → (getRgn w (arg k 0x10 2)).grp.isSome = true) :
    bearingRead env member k w = done env k.id .ok 0
      (if member then toLe 8 (contribution w (getRgn w (arg k 0x10 2)).ctx ((getRgn w (arg k 0x10 2)).grp.getD 0)).1.toNat ++ zeros 8
       else toLe 8 (getRgn w (arg k 0x10 2)).brun.toNat ++ toLe 8 (bstat (getRgn w (arg k 0x10 2)))) w := by
  have hown : ownRgn w k (arg k 0x10 2) [] = none := by simp [ownRgn, hstate, hctx]
  have hnone : (member && (getRgn w (arg k 0x10 2)).grp.isNone) = false := by
    cases member with
    | false => rfl
    | true => simpa using hgrp rfl
  have hpass : firstFail [ownRgn w k (arg k 0x10 2) [],
      deny (!codedKind (getRgn w (arg k 0x10 2)).kind || (member && (getRgn w (arg k 0x10 2)).grp.isNone)) 0x45] = none := by
    simp [hown, hkind, hnone, deny, firstFail]
  simp only [bearingRead, checked, hpass]

/-- A sweep starts for a command on a region whose sweep no other command asked for. -/
theorem sweepGo_starts {env : Env} {adopt : Bool} {k : Cmd} {w : W} (hfree : (getRgn w (arg k 0x10 2)).sweepCmd = none)
    (hok : sweepable w (arg k 0x10 2) = true) : sweepGo env adopt k w = startSweep (arg k 0x10 2) adopt (some k.id)
      { w with b.fetches := w.b.fetches.filter (fun o => o.why != .sweep (arg k 0x10 2)) } := by
  simp [sweepGo, hfree, hok]

/-! ### The lines and the end of a sweep -/

/-- A line that may be read and that memory answers OK enters the sum of its sweep. -/
theorem sweepStep_reads {env : Env} {ri : Nat} {w : W} (hsweeping : (getRgn w ri).sweeping = true) (hok : sweepable w ri = true)
    (hfront : (getRgn w ri).front < rgnBytes (getRgn w ri)) (hfetch : w.b.fetches = [])
    (hlines : linesReadable w ((getRgn w ri).base + (getRgn w ri).front) 64 = true) (hrd : env.rd = []) (hinj : w.b.ras.inj = []) :
    sweepStep env ri w = sweepLine ri (getBytes w ((getRgn w ri).base + (getRgn w ri).front) 64)
      (present1 (bgAcc env) 0 ((getRgn w ri).base + (getRgn w ri).front) w) := by
  have hread := readLine_ok (bgAcc env) ((getRgn w ri).base + (getRgn w ri).front) w hrd hinj
  have hmore : decide (rgnBytes (getRgn w ri) ≤ (getRgn w ri).front) = false := by simpa using hfront
  simp only [sweepStep, hsweeping, hok, hmore, hfetch, List.any_nil, hlines, hread, Bool.not_true, Bool.or_self, Bool.false_eq_true, if_false]

/-- The entry of a region once its own sweep has ended (R222). -/
def sweptRgn (now : Nat) (r : Region) : Region :=
  { r with sweeping := false, adopting := false, sweepCmd := none, matched := r.sweepS == r.brun, bswp := r.sweepS, btime := now
           sweeps := if r.sweepS == r.brun then sat 0xFFFF (r.sweeps + 1) else r.sweeps, bad := r.bad || !(r.sweepS == r.brun) }

/-- The Watch once a sweep of its region has ended. -/
def sweptWatch (same : Bool) (ri : Nat) (k : Watch) : Watch :=
  if same then (if k.phase == .idle then k else { k with sweptOk := insertNat k.sweptOk ri })
  else { k with sweepBad := insertNat k.sweepBad ri }

/-- The end of a sweep that no command asked for. -/
theorem sweepEnd_own {env : Env} {ri : Nat} {w : W} {r : Region} (hr : r = getRgn w ri) (hsweeping : r.sweeping = true)
    (hfront : rgnBytes r ≤ r.front) (hok : sweepable w ri = true) (hcmd : r.sweepCmd = none) (hadopt : r.adopting = false) :
    sweepEnd env ri w = if r.sweepS == r.brun then modWatch r.ctx (sweptWatch true ri) (setRgn ri (sweptRgn w.b.crp.tCore r) w)
      else modWatch r.ctx (sweptWatch false ri) (raiseGirq 0x0500 ri r.ctx [0x600000 + 32 * ri, r.sweepS.toNat, r.brun.toNat]
        (setRgn ri (sweptRgn w.b.crp.tCore r) w)) := by
  subst hr
  have hall : decide ((getRgn w ri).front < rgnBytes (getRgn w ri)) = false := by simpa using hfront
  simp only [sweepEnd, hsweeping, hall, hok, hcmd, hadopt, Bool.not_true, Bool.or_self, Bool.and_false, Bool.false_eq_true, if_false]
  rfl

/-- What the period of a region's sweeps does: a sweep that runs reads its next line, another one starts (R220). -/
def sweepPeriodW (r : Nat) (env : Env) (w : W) : W :=
  if (getRgn w r).sweeping then sweepStep env r w
  else if (getRgn w r).sweepEn && sweepable w r then startSweep r false none w else w

theorem exec_bearingSweepPeriod (r : Nat) (env : Env) (s : State) :
    exec (.bearingSweepPeriod r env) s = run (sweepPeriodW r env) s := rfl

theorem exec_sweepComplete (r : Nat) (env : Env) (s : State) : exec (.sweepComplete r env) s = run (sweepEnd env r) s := rfl

/-- Raising the global interrupt leaves it raised, with its entry in the event log, and changes nothing else. -/
theorem raiseGirq_tlm (code inst ctx : Nat) (args : List Nat) (w : W) :
    ∃ t, t.girq = true ∧ raiseGirq code inst ctx args w = { w with b := { w.b with tlm := t } } := by
  simp only [raiseGirq]
  split
  · case isTrue h => exact ⟨_, h, rfl⟩
  · exact ⟨_, rfl, rfl⟩

/-- Settles O21: row by row; the reads of a sweep present requests alone. -/
theorem bearingsReadAndSwept : Obligations.BearingsReadAndSwept := by
  refine ⟨?seed, ?read, ?start, ?period, ?line, ?end_⟩
  case seed =>
    intro s g hi v hopen
    refine ⟨fun hg hseed => ?_, fun hshut => ?_⟩
    · refine blocks_of (i := .bseedWrite g hi v) (f := fun w => if portsOpen w then seedWrite g hi v w else w)
        (w := modGrp g (fun g => if hi then { g with seedHi := v } else { g with seedLo := v }) (openW s)) rfl ?_ rfl
      have hcond : (decide (g < 256) && seedOpen (openW s) g) = true := by simp [hg, hseed]
      rw [if_pos hopen, seedWrite, if_pos hcond]
    · refine leaves_of (i := .bseedWrite g hi v) (f := fun w => if portsOpen w then seedWrite g hi v w else w) rfl ?_
      rw [if_pos hopen, seedWrite, if_neg]
      obtain h | h := hshut
      · simp [Nat.not_lt.mpr h]
      · simp [h]
  case read =>
    rintro s c env k r ⟨hs, hc, hr, hop⟩ rfl hstate hctx hkind
    obtain ⟨-, -, hinj, -⟩ := id hc
    have hk := begun_keeps hs hinj
    refine ⟨fun hmode => ?_, fun hmode hgrp => ?_⟩
    · have hgo : Leaves (.bearingReadRunning c env) s (bearingRead env false k (begun s c k)) :=
        leaves_start (i := .bearingReadRunning c env) rfl hs (by simp [isOp, hop, hmode])
      rw [bearingRead_checked (by rw [hk.getRgn]; exact hstate) (by rw [hk.getRgn]; exact hctx) (by rw [hk.getRgn]; exact hkind) (fun h => absurd h (by decide)),
        hk.getRgn, done, id_of_starts hs] at hgo
      exact leads_finished_begun hs hc hr hgo
    · have hgo : Leaves (.bearingReadMember c env) s (bearingRead env true k (begun s c k)) :=
        leaves_start (i := .bearingReadMember c env) rfl hs (by simp [isOp, hop, hmode])
      rw [bearingRead_checked (by rw [hk.getRgn]; exact hstate) (by rw [hk.getRgn]; exact hctx) (by rw [hk.getRgn]; exact hkind)
        (fun _ => by rw [hk.getRgn]; exact hgrp), hk.getRgn, done, id_of_starts hs] at hgo
      exact leads_finished_begun hs hc hr hgo
  case start =>
    rintro s c env k ⟨hs, hc, hr, hop⟩ hpass hfree hok
    obtain ⟨-, -, hinj, -⟩ := id hc
    have hk := begun_keeps hs hinj
    have hgo : ∀ adopt, sweepGo env adopt k (begun s c k) = setRgn (arg k 0x10 2)
        { rgnOf s (arg k 0x10 2) with sweeping := true, adopting := adopt, sweepS := 0, front := 0, sweepCmd := some c }
        { begun s c k with b := { (begun s c k).b with fetches := s.blk.fetches.filter (fun o => o.why != .sweep (arg k 0x10 2)) } } := by
      intro adopt
      rw [sweepGo_starts (by rw [hk.getRgn]; exact hfree) hok, id_of_starts hs, hk.fetches, startSweep, modRgn]
      have hget : getRgn { begun s c k with b.fetches := s.blk.fetches.filter (fun o => o.why != .sweep (arg k 0x10 2)) } (arg k 0x10 2)
        = rgnOf s (arg k 0x10 2) := hk.getRgn _
      rw [hget]
    refine ⟨fun hmode => ?_, fun hmode => ?_⟩
    · rw [← hgo false]
      exact leaves_checked (i := .bearingSweepStart c env) (chk := sweepCheck) rfl hs (by simp [isOp, hop, hmode]) hpass
    · rw [← hgo true]
      exact leaves_checked (i := .bearingSweepAdopt c env) (chk := sweepCheck) rfl hs (by simp [isOp, hop, hmode]) hpass
  case period =>
    intro s r env hsweeping hen hok
    refine blocks_of (exec_bearingSweepPeriod r env s) (w := setRgn r
      { rgnOf s r with sweeping := true, adopting := false, sweepS := 0, front := 0, sweepCmd := none } (openW s)) ?_ rfl
    rw [← getRgn_openW] at hsweeping hen
    rw [sweepPeriodW, if_neg (by simp [hsweeping]), if_pos (by simp [hen, hok])]
    rfl
  case line =>
    intro s r env line hsweeping hok hcalm hfront hfetch hline hlines
    obtain ⟨hrd, -, hinj, -⟩ := hcalm
    rw [← getRgn_openW] at hsweeping hfront hline
    subst hline
    have hgo : sweepPeriodW r env (openW s) = sweepLine r (getBytes (openW s) ((rgnOf s r).base + (rgnOf s r).front) 64)
        (present1 (bgAcc env) 0 ((rgnOf s r).base + (rgnOf s r).front) (openW s)) := by
      rw [sweepPeriodW, if_pos hsweeping]
      exact sweepStep_reads hsweeping hok hfront hfetch hlines hrd hinj
    obtain ⟨n, m, hpresent⟩ := (presents_present1 (bgAcc env) 0 ((rgnOf s r).base + (rgnOf s r).front) (openW s)).eq
    rw [hpresent] at hgo
    exact ⟨_, leaves_of (exec_bearingSweepPeriod r env s) hgo, rfl, rfl⟩
  case end_ =>
    intro s r env hsweeping hfront hok hcmd hadopt
    have hgo := leaves_of (exec_sweepComplete r env s) (sweepEnd_own (env := env) (getRgn_openW s r).symm hsweeping hfront hok hcmd hadopt)
    refine ⟨fun hdiffer => ⟨_, hgo, ?_⟩, fun hsame => ⟨_, hgo, ?_⟩⟩
    · have hne : ((rgnOf s r).sweepS == (rgnOf s r).brun) = false := by simpa using hdiffer
      rw [hne]
      obtain ⟨t, hgirq, hraised⟩ := raiseGirq_tlm 0x0500 r (rgnOf s r).ctx [0x600000 + 32 * r, (rgnOf s r).sweepS.toNat, (rgnOf s r).brun.toNat]
        (setRgn r (sweptRgn s.blk.crp.tCore (rgnOf s r)) (openW s))
      rw [if_neg (by simp), show (openW s).b.crp.tCore = s.blk.crp.tCore from rfl, hraised]
      refine ⟨rfl, rfl, hgirq, ?_⟩
      simp [modWatch, modCtx, setCtx, setRgn, sweptRgn, hne]
    · have heq : ((rgnOf s r).sweepS == (rgnOf s r).brun) = true := by simpa using hsame
      rw [if_pos heq]
      refine ⟨rfl, rfl, ?_⟩
      simp [modWatch, modCtx, setCtx, setRgn, sweptRgn, heq]

end Sys2Proof.Machine
end

section
/-! PROOF. What sending a packet changes (R78, R81), and the peers of the Lantern protocol (R91 to R96). -/

namespace Sys2Proof.Machine

open Sys2Proof.Safety

/-! ### Sending a packet -/

/-- A block after packets have been sent: the ports, the sending streams, the packets begun, counters, injections and events, and
the counters of the seal keys where packets may be sealed. -/
def Sends (sealed_ : Bool) (v w : W) : Prop :=
  ∃ p t o n r l x, (sealed_ = false → x = v.b.sec) ∧ w = { v with b := { v.b with
    lnk := { v.b.lnk with ports := p, txStreams := t, out := o }, cnt := n, ras := r, tlm := l, sec := x } }

theorem Sends.refl (b : Bool) (w : W) : Sends b w w := ⟨_, _, _, _, _, _, _, fun _ => rfl, rfl⟩

theorem Sends.trans {b : Bool} {u v w : W} : Sends b u v → Sends b v w → Sends b u w := by
  rintro ⟨_, _, _, _, _, _, _, hx, rfl⟩ ⟨_, _, _, _, _, _, _, hy, rfl⟩
  exact ⟨_, _, _, _, _, _, _, fun h => (hy h).trans (hx h), rfl⟩

theorem sends_modLp (b : Bool) (l : Nat) (f : Lp → Lp) (w : W) : Sends b w (modLp l f w) := ⟨_, _, _, _, _, _, _, fun _ => rfl, rfl⟩

theorem sends_cntLp (b : Bool) (l off n : Nat) (w : W) : Sends b w (cntLp l off n w) := ⟨_, _, _, _, _, _, _, fun _ => rfl, rfl⟩

/-- An injection acts on its own registers and logs its event. -/
theorem injFire_eq (d : Nat) (w : W) : ∃ r l, injFire d w = { w with b := { w.b with ras := r, tlm := l } } := by
  simp only [injFire]
  split
  · split <;> exact ⟨_, _, rfl⟩
  · exact ⟨_, _, rfl⟩

theorem sends_injFire (b : Bool) (d : Nat) (w : W) : Sends b w (injFire d w) := by
  obtain ⟨r, l, h⟩ := injFire_eq d w
  rw [h]
  exact ⟨_, _, _, _, _, _, _, fun _ => rfl, rfl⟩

theorem sends_takeSeq (b : Bool) (dest : Nat) (mcast : Bool) (vc : Nat) (w : W) : Sends b w (takeSeq dest mcast vc w).2 := by
  unfold takeSeq
  dsimp only
  split <;> exact ⟨_, _, _, _, _, _, _, fun _ => rfl, rfl⟩

/-- Sealing a packet takes the next counter of its key, and logs a key near its end. -/
theorem sends_sealPacket {port : Nat} {pk : Packet} {w : W} {x : Packet × W} (h : sealPacket port pk w = some x) : Sends true w x.2 := by
  have hkeys : ∀ (e : Nat) (k : SealKey), Sends true w { w with b := { w.b with sec := { w.b.sec with skeys := tset w.b.sec.skeys e k } } } :=
    fun e k => ⟨_, _, _, _, _, _, _, fun h => absurd h (by decide), rfl⟩
  have hlog : ∀ (v : W) (eng : Nat) (args : List Nat), Sends true v (logOther 9 0 eng 0 args v) :=
    fun v eng args => ⟨_, _, _, _, _, _, _, fun _ => rfl, rfl⟩
  unfold sealPacket at h
  split at h
  · exact absurd h (by simp)
  · split at h
    · exact absurd h (by simp)
    · dsimp only at h
      split at h
      · exact absurd h (by simp)
      · obtain rfl := Option.some.inj h
        dsimp only
        split
        · exact (hkeys _ _).trans (hlog _ _ _)
        · exact hkeys _ _

/-- A packet is on its way. -/
def putOut (port : Nat) (pk : Packet) (w : W) : W := { w with b := { w.b with lnk := { w.b.lnk with out := (port, pk) :: w.b.lnk.out } } }

theorem sends_putOut (b : Bool) (port : Nat) (pk : Packet) (w : W) : Sends b w (putOut port pk w) :=
  ⟨_, _, _, _, _, _, _, fun _ => rfl, rfl⟩

/-- The counters of a packet that begins. -/
def countPacket (port : Nat) (pk : Packet) (w : W) : W :=
  let w := cntLp port (0x60 + 8 * pk.hdr.vc.toNat) 1 (cntLp port (8 * pk.hdr.vc.toNat) (pktUnits pk) w)
  if pk.hdr.opcode == 0x03 then cntLp port (if fld pk.payload 0x10 1 = 0 then 0x100 else 0x108) 1 w else w

theorem sends_countPacket (b : Bool) (port : Nat) (pk : Packet) (w : W) : Sends b w (countPacket port pk w) := by
  have h := (sends_cntLp b port (8 * pk.hdr.vc.toNat) (pktUnits pk) w).trans (sends_cntLp b port (0x60 + 8 * pk.hdr.vc.toNat) 1 _)
  simp only [countPacket]
  split
  · exact h.trans (sends_cntLp b port _ 1 _)
  · exact h

/-- Detector 0x04 spoils the tag of a sealed packet. -/
def spoilTag (port : Nat) (pk : Packet) (w : W) : W := if pk.hdr.flags.getLsbD 0 && injHit w 4 port then injFire 4 w else w

theorem sends_spoilTag (b : Bool) (port : Nat) (pk : Packet) (w : W) : Sends b w (spoilTag port pk w) := by
  unfold spoilTag
  split
  · exact sends_injFire b 4 w
  · exact Sends.refl b w

theorem sends_beginPacket (port : Nat) (pk : Packet) (w : W) : Sends (pk.hdr.flags.getLsbD 0) w (beginPacket port pk w).2 := by
  simp only [beginPacket]
  split
  · exact sends_injFire _ 6 w
  · split
    · exact Sends.refl _ w
    · case h_2 pk' v hsealed =>
      have hv : Sends (pk.hdr.flags.getLsbD 0) w v := by
        cases hflag : pk.hdr.flags.getLsbD 0 with
        | false =>
          simp only [hflag, Bool.false_eq_true, if_false] at hsealed
          obtain ⟨-, rfl⟩ := hsealed
          exact Sends.refl _ w
        | true =>
          simp only [hflag, if_true] at hsealed
          exact sends_sealPacket hsealed
      exact ((hv.trans (sends_spoilTag _ port pk v)).trans (sends_countPacket _ port pk _)).trans (sends_putOut _ port _ _)

theorem sends_transmit (port part : Nat) (pk : Packet) (w : W) : Sends (pk.hdr.flags.getLsbD 0) w (transmit port part pk w) := by
  simp only [transmit]
  split
  · exact Sends.refl _ w
  · split
    · exact sends_modLp _ port _ w
    · split
      · exact sends_beginPacket port pk w
      · exact sends_modLp _ port _ w

/-- A formed packet is sealed as its form says. -/
theorem formPacket_sealed (c : Coord) (f : Form) (w : W) : (formPacket c f w).1.hdr.flags.getLsbD 0 = f.sealed_ := by
  simp only [formPacket]
  cases f.sealed_ <;> cases isPeer w c <;> decide

theorem sends_formPacket (b : Bool) (c : Coord) (f : Form) (w : W) : Sends b w (formPacket c f w).2.2 := by
  simp only [formPacket]
  split
  · exact sends_takeSeq b c.toNat false f.vc w
  · exact Sends.refl b w

theorem sends_sendTo (c : Coord) (f : Form) (w : W) : Sends f.sealed_ w (sendTo c f w).2 := by
  have h := sends_transmit (portTo (formPacket c f w).2.2 c) f.part (formPacket c f w).1 (formPacket c f w).2.2
  rw [formPacket_sealed] at h
  exact (sends_formPacket f.sealed_ c f w).trans h

/-! ### The Lantern protocol -/

/-- A beacon to a peer (R92). -/
def sendBeacon (w : W) (p : Nat × Peer) : W :=
  let w := (sendTo p.2.coord { vc := 0, op := 1, payload := beacon w } w).2
  { w with b.lnk.beacons := w.b.lnk.beacons + 1 }

/-- The entries of the peer table are updated at the end of a period (R96). -/
def updatedPeers (w : W) : W := { w with b.lnk.peers := w.b.lnk.peers.map (fun p => (p.1, updateAff p.2)) }

/-- What the end of a beacon period does (R92, R96). -/
def lanternPeriodW (w : W) : W :=
  if !canSend (updatedPeers w) 0 1 || (updatedPeers w).b.glb.helmStopped then updatedPeers w
  else (updatedPeers w).b.lnk.peers.foldl sendBeacon (updatedPeers w)

theorem exec_lanternPeriod (s : State) : exec .lanternPeriod s = run lanternPeriodW s := rfl

/-- Beacons sent are counted; the peer table stays. -/
structure Beacons (v : W) (n : Nat) (w : W) : Prop where
  jr : w.jr = v.jr
  peers : w.b.lnk.peers = v.b.lnk.peers
  count : w.b.lnk.beacons = v.b.lnk.beacons + n
  blk : w.b = { v.b with lnk := w.b.lnk, cnt := w.b.cnt, ras := w.b.ras, tlm := w.b.tlm }

theorem beacons_sendBeacon (w : W) (p : Nat × Peer) : Beacons w 1 (sendBeacon w p) := by
  obtain ⟨_, _, _, _, _, _, _, hsec, h⟩ := sends_sendTo p.2.coord { vc := 0, op := 1, payload := beacon w } w
  obtain rfl := hsec rfl
  simp only [sendBeacon, h]
  exact ⟨rfl, rfl, rfl, rfl⟩

theorem beacons_foldl (l : List (Nat × Peer)) : ∀ w : W, Beacons w l.length (l.foldl sendBeacon w) := by
  induction l with
  | nil => exact fun w => ⟨rfl, rfl, rfl, rfl⟩
  | cons p l ih =>
    intro w
    have h := beacons_sendBeacon w p
    have h' := ih (sendBeacon w p)
    exact ⟨h'.jr.trans h.jr, h'.peers.trans h.peers, by
      rw [List.foldl_cons, h'.count, h.count, List.length_cons]; omega, by rw [List.foldl_cons, h'.blk, h.blk]⟩

theorem losePeer_eq {env : Env} {c : Coord} {cause i : Nat} {p : Peer} {w : W} (hp : peerOf w c = some (i, p))
    (hstate : p.state = .alive ∨ p.state = .suspect) (hign : cause = 1 → beaconIgnored w i = false) :
    losePeer env c cause w = loseCoord env c cause w := by
  have hno : (p.state == .lost || p.state == .unused) = false := by obtain h | h := hstate <;> simp [h]
  have hfire : (decide (cause = 1) && beaconIgnored w i) = false := by
    by_cases h : cause = 1
    · simp [hign h]
    · simp [h]
  simp only [losePeer, hp, hno, hfire, Bool.false_eq_true, if_false]

/-- What a beacon does once it is accepted (R94, R96). -/
def beaconAct (rx : Rx) (env : Env) (pk : Packet) (w : W) : W :=
  if pk.hdr.opcode != 1 then w else
  let c := pk.hdr.src
  let e : Word := BitVec.ofNat 64 (fld pk.payload 8 8)
  match peerOf w c with
  | none => w
  | some (i, p) =>
    if beaconIgnored w i then w
    else
      let o := match p.observed with | some o => min o rx.port | none => rx.port
      let w := modPeer c (fun p => { p with observed := some o }) w
      if p.state == .lost then w
      else if (p.epoch.map (fun x => x != e)).getD false then loseCoord env c 3 w
      else
      let w := modPeer c (fun p => { p with epoch := some e, counting := true }) w
      if p.state == .suspect then setPeer c .alive .suspect .alive w else w

theorem exec_lantern (rx : Rx) (env : Env) (s : State) : exec (.lantern rx env) s = run (onPacket rx isBeacon (beaconAct rx env)) s := rfl

/-- A packet row acts on the packet that passes its checks. -/
theorem onPacket_receives {rx : Rx} {test : Packet → Bool} {act : Packet → W → W} {w v : W} {pk : Packet}
    (htest : test rx.pk = true) (h : receive rx w = (some pk, v)) : onPacket rx test act w = act pk v := by
  simp only [onPacket, htest, h, Bool.not_true, Bool.false_eq_true, if_false]

/-- What three periods without a beacon do (R94). -/
def lanternSuspectW (c : Coord) (w : W) : W :=
  match peerOf w c with
  | some (_, p) => if p.counting && p.state == .alive then setPeer c .suspect .alive .suspect w else w
  | none => w

/-- What eight periods without a beacon do (R94). -/
def lanternLostW (c : Coord) (env : Env) (w : W) : W :=
  match peerOf w c with
  | some (_, p) => if p.counting then losePeer env c 1 w else w
  | none => w

/-- What a down indication does (R68, R94). -/
def downIndicationW (port : Nat) (c : Coord) (env : Env) (w : W) : W :=
  if w.build.nlp ≤ port then w else losePeer env c 2 (modLp port (fun l => { l with dnSeen := true }) w)

theorem exec_lanternSuspect (c : Coord) (s : State) : exec (.lanternSuspect c) s = run (lanternSuspectW c) s := rfl

theorem exec_lanternLost (c : Coord) (env : Env) (s : State) : exec (.lanternLost c env) s = run (lanternLostW c env) s := rfl

theorem exec_downIndication (port : Nat) (c : Coord) (env : Env) (s : State) :
    exec (.downIndication port c env) s = run (downIndicationW port c env) s := rfl

/-- Settles O29: row by row; the beacons of a period are a fold over the peers. -/
theorem lanternKeepsPeers : Obligations.LanternKeepsPeers := by
  refine ⟨?period, ?move, ?beacon, ?suspect, ?none_, ?lose⟩
  case period =>
    intro s
    refine ⟨fun hsend hhelm => ?_, fun hno => ?_⟩
    · have hgo : lanternPeriodW (openW s) = (updatedPeers (openW s)).b.lnk.peers.foldl sendBeacon (updatedPeers (openW s)) := by
        refine if_neg ?_
        rw [show canSend (updatedPeers (openW s)) 0 1 = true from hsend, show (updatedPeers (openW s)).b.glb.helmStopped = false from hhelm]
        simp
      obtain ⟨hjr, hpeers, hcount, hblk⟩ := beacons_foldl (updatedPeers (openW s)).b.lnk.peers (updatedPeers (openW s))
      refine ⟨_, leaves_of (exec_lanternPeriod s) hgo, ?_, hpeers, ?_, hblk⟩
      · rw [closeW_mem, hjr]
        rfl
      · rw [closeW_blk, hcount]
        simp [updatedPeers]
    · refine blocks_of (exec_lanternPeriod s) (w := updatedPeers (openW s)) (if_pos ?_) rfl
      obtain h | h := hno
      · rw [show canSend (updatedPeers (openW s)) 0 1 = false from h]
        rfl
      · rw [show (updatedPeers (openW s)).b.glb.helmStopped = true from h]
        simp
  case move => exact fun s c => rfl
  case beacon =>
    rintro s rx env pk w v i p e hop hrx hpk hpeer rfl rfl
    have htest : isBeacon rx.pk = true := by simp [isBeacon, hop]
    have hgo := leaves_of (exec_lantern rx env s) (onPacket_receives (act := beaconAct rx env) htest hrx)
    simp only [beaconAct, hpk, hpeer, bne_self_eq_false, Bool.false_eq_true, if_false] at hgo
    refine ⟨fun hign => ?_, fun hign hlost => ?_, fun hign hlost hepoch => ?_, fun old hign hlost hepoch hne => ?_⟩
    · rwa [if_pos hign] at hgo
    · rwa [if_neg (by simp [hign]), if_pos (by simp [hlost])] at hgo
    · have hsame : ¬ (p.epoch.map (fun x => x != BitVec.ofNat 64 (fld pk.payload 8 8))).getD false = true := by
        obtain h | h := hepoch <;> simp [h]
      rw [if_neg (by simp [hign]), if_neg (by simpa using hlost), if_neg hsame] at hgo
      by_cases hsus : p.state = .suspect
      · rw [if_pos (by simpa using hsus)] at hgo
        rwa [if_pos hsus]
      · rw [if_neg (by simpa using hsus)] at hgo
        rwa [if_neg hsus]
    · have hother : (p.epoch.map (fun x => x != BitVec.ofNat 64 (fld pk.payload 8 8))).getD false = true := by
        simpa [hepoch] using hne
      rwa [if_neg (by simp [hign]), if_neg (by simpa using hlost), if_pos hother] at hgo
  case suspect =>
    intro s c i p hpeer hcount halive
    have hgo : lanternSuspectW c (openW s) = setPeer c .suspect .alive .suspect (openW s) := by
      simp only [lanternSuspectW, hpeer, hcount, halive]
      rfl
    exact ⟨_, leaves_of (exec_lanternSuspect c s) hgo, rfl, rfl⟩
  case none_ =>
    intro s c env h
    cases hpeer : peerOf (openW s) c with
    | none => exact ⟨idle_of (exec_lanternSuspect c s) (by simp only [lanternSuspectW, hpeer]),
        idle_of (exec_lanternLost c env s) (by simp only [lanternLostW, hpeer])⟩
    | some x =>
      obtain ⟨i, p⟩ := x
      refine ⟨idle_of (exec_lanternSuspect c s) ?_, idle_of (exec_lanternLost c env s) ?_⟩
      · obtain h | h := h i p hpeer <;> simp [lanternSuspectW, hpeer, h]
      · obtain h | h := h i p hpeer <;> simp [lanternLostW, losePeer, hpeer, h]
  case lose =>
    intro s c env port i p hpeer hstate
    refine ⟨fun hcount hign => leaves_of (exec_lanternLost c env s) ?_, fun hport => ⟨leaves_of (exec_downIndication port c env s) ?_,
      fun hno => absurd hport (by omega)⟩⟩
    · simp only [lanternLostW, hpeer, hcount, if_true]
      exact losePeer_eq hpeer hstate (fun _ => hign)
    · rw [downIndicationW, if_neg (by simpa using hport)]
      exact losePeer_eq (i := i) (p := p) hpeer hstate (fun h => absurd h (by decide))

end Sys2Proof.Machine
end

section
/-! PROOF. Groups: GROUP_DEFINE, its release, and formation (R135 to R137, R327, R328). -/

namespace Sys2Proof.Machine

open Sys2Proof.Safety

/-! ### What leaves the groups alone -/

/-- Two transactions agree on the group table and on memory. -/
structure KeepsGroups (v w : W) : Prop where
  jr : w.jr = v.jr
  grps : w.b.grps = v.b.grps

theorem KeepsGroups.refl (w : W) : KeepsGroups w w := ⟨rfl, rfl⟩

theorem KeepsGroups.trans {u v w : W} (h : KeepsGroups u v) (h' : KeepsGroups v w) : KeepsGroups u w :=
  ⟨h'.jr.trans h.jr, h'.grps.trans h.grps⟩

theorem Presents.keepsGroups {v w : W} (h : Presents v w) : KeepsGroups v w := ⟨h.jr, by rw [h.blk]⟩

theorem Sends.keepsGroups {b : Bool} {v w : W} (h : Sends b v w) : KeepsGroups v w := by
  obtain ⟨_, _, _, _, _, _, _, -, rfl⟩ := h
  exact ⟨rfl, rfl⟩

theorem keepsGroups_foldl {α : Type} {f : W → α → W} (h : ∀ w x, KeepsGroups w (f w x)) (l : List α) :
    ∀ w, KeepsGroups w (l.foldl f w) := by
  induction l with
  | nil => exact KeepsGroups.refl
  | cons x l ih => exact fun w => (h w x).trans (ih (f w x))

/-- A VC0 message is kept until it is acknowledged. -/
def keepMsg (m : Vc0Msg) (id : Nat) (w : W) : W :=
  { w with b := { w.b with lnk := { w.b.lnk with nextMsg := id, vc0 := w.b.lnk.vc0 ++ [m] } } }

theorem keepsGroups_sendMsg (c : Coord) (why : Vc0For) (f : Form) (w : W) : KeepsGroups w (sendMsg c why f w).2 := by
  have hform := (sends_formPacket false c { f with payload := toLe 8 w.b.lnk.nextMsg ++ f.payload } w).keepsGroups
  have hkeep : ∀ m id (v : W), KeepsGroups v (keepMsg m id v) := fun m id v => ⟨rfl, rfl⟩
  exact (hform.trans (hkeep _ _ _)).trans (sends_transmit _ f.part _ _).keepsGroups

theorem keepsGroups_sendJoin (gi m reply : Nat) (w : W) : KeepsGroups w (sendJoin gi m reply w) := keepsGroups_sendMsg _ _ _ w

theorem keepsGroups_addPeer (c : Coord) (w : W) : KeepsGroups w (addPeer c w) := by
  unfold addPeer
  split
  · exact KeepsGroups.refl w
  · split <;> exact ⟨rfl, rfl⟩

/-! ### The member list and the placement check -/

theorem presents_ite {α : Type} {p : Prop} [Decidable p] {w : W} {x y : α × W} (hx : Presents w x.2) (hy : Presents w y.2) :
    Presents w (if p then x else y).2 := by
  split
  · exact hx
  · exact hy

theorem Presents.inj {v w : W} (h : Presents v w) (hinj : v.b.ras.inj = []) : w.b.ras.inj = [] := by rw [h.blk]; exact hinj

theorem presents_mapFind (env : Env) (henv : env.rd = []) (c : Nat) : ∀ (n lo hi : Nat) (below above : Option Nat) (w : W),
    w.b.ras.inj = [] → Presents w (mapFind env c n lo hi below above w).2
  | 0, _, _, _, _, w, _ => Presents.refl w
  | n + 1, lo, hi, below, above, w, hinj => by
    have hread := presents_readBytes (acc := bgAcc env) (a := w.b.pmapBase + 16 * ((lo + hi) / 2)) (n := 16) henv hinj
    have hnext := fun lo hi below above => hread.trans (presents_mapFind env henv c n lo hi below above _ (hread.inj hinj))
    exact presents_ite (Presents.refl w) (presents_ite hread (presents_ite hread (presents_ite (hnext _ _ _ _) (hnext _ _ _ _))))

theorem presents_mapEntries (env : Env) (henv : env.rd = []) : ∀ (l : List (Nat × Coord)) (acc : List Bytes) (w : W), w.b.ras.inj = [] →
    Presents w (mapEntries env l acc w).2
  | [], _, w, _ => Presents.refl w
  | (i, c) :: t, acc, w, hinj => by
    have hfind := presents_mapFind env henv c.toNat 64 0 w.b.pmapCnt none none w hinj
    simp only [mapEntries]
    generalize mapFind env c.toNat 64 0 w.b.pmapCnt none none w = x at hfind ⊢
    obtain ⟨e, v⟩ := x
    cases e with
    | none => exact hfind
    | some e => exact presents_ite hfind (hfind.trans (presents_mapEntries env henv t _ v (hfind.inj hinj)))

theorem presents_placement {env : Env} (henv : env.rd = []) (l : List Coord) {w : W} (hinj : w.b.ras.inj = []) :
    Presents w (placement env l w).2 := by
  have h := presents_mapEntries env henv ((List.range l.length).zip l) [] w hinj
  refine presents_ite (Presents.refl w) ?_
  generalize mapEntries env ((List.range l.length).zip l) [] w = x at h ⊢
  obtain ⟨e, v⟩ := x
  cases e <;> exact h

theorem presents_readMlist {env : Env} (henv : env.rd = []) (k : Cmd) {w : W} (hinj : w.b.ras.inj = []) :
    Presents w (readMlist env k w).2 :=
  presents_ite (Presents.refl w) (presents_readBytes (acc := seAcc env k.ctx) (a := arg k 0x20 8) (n := 64) henv hinj)

theorem presents_listChecks {env : Env} (henv : env.rd = []) (k : Cmd) (adopt : Option (Nat × Nat)) {w : W} (hinj : w.b.ras.inj = []) :
    Presents w (listChecks env k adopt w).2 := by
  have hlist := presents_readMlist henv k hinj
  simp only [listChecks]
  generalize readMlist env k w = x at hlist ⊢
  obtain ⟨l, v⟩ := x
  cases l with
  | none => exact hlist
  | some l =>
    have hplace := hlist.trans (presents_placement henv (l.take (arg k 0x11 1)) (hlist.inj hinj))
    refine presents_ite hlist (presents_ite hlist (presents_ite hlist (presents_ite hlist ?_)))
    dsimp only at hplace ⊢
    generalize placement env (l.take (arg k 0x11 1)) v = y at hplace ⊢
    obtain ⟨res, u⟩ := y
    cases res with
    | some res => exact hplace
    | none => exact presents_ite hplace (presents_ite hplace hplace)

/-! ### GROUP_DEFINE -/

/-- The entry that a GROUP_DEFINE fills from its operands (R137). -/
def formingGroup (k : Cmd) (l : List Coord) : Group :=
  { state := .forming, n := arg k 0x11 1, k := arg k 0x12 1, m := arg k 0x13 1, self := arg k 0x14 1, dgn := arg k 0x16 2
    mcast := arg k 0x18 2, wdom := arg k 0x1A 2, sealReq := bit (arg k 0x15 1) 0
    formMs := if arg k 0x28 4 = 0 then 2000 else arg k 0x28 4
    members := (List.range 16).map (fun i => if i < arg k 0x11 1 then { coord := l.getD i 0, state := .alive } else {})
    ctx := k.ctx, part := k.part }

/-- The streams of the multicast IDs of a new group are gone. -/
def withStreams (t : List TxStream) (r : List RxStream) (w : W) : W :=
  { w with b := { w.b with lnk := { w.b.lnk with txStreams := t, rxStreams := r } } }

theorem keepsGroups_fillGroup (k : Cmd) (l : List Coord) (w : W) :
    KeepsGroups (setGrp (arg k 0x10 1) (formingGroup k l) w) (fillGroup k l .forming .alive w) := by
  have hstreams : ∀ t r (v : W), KeepsGroups v (withStreams t r v) := fun t r v => ⟨rfl, rfl⟩
  simp only [fillGroup, ite_self]
  exact (hstreams _ _ (setGrp (arg k 0x10 1) (formingGroup k l) w)).trans (keepsGroups_foldl (fun v c => keepsGroups_addPeer c v) _ _)

/-- The entry is filled, its command waits in it, and JOINs are sent (R137, R328). -/
def defineGo (k : Cmd) (l : List Coord) (w : W) : W :=
  let w := modGrp (arg k 0x10 1) (fun g => { g with cmds := [k.id] }) (fillGroup k l .forming .alive w)
  (others (getGrp w (arg k 0x10 1))).foldl (fun w m => sendJoin (arg k 0x10 1) m 0 w) w

theorem defineGo_groups (k : Cmd) (l : List Coord) (w : W) : (defineGo k l w).jr = w.jr
    ∧ (defineGo k l w).b.grps = tset w.b.grps (arg k 0x10 1) { formingGroup k l with cmds := [k.id] } := by
  have hfill := keepsGroups_fillGroup k l w
  have hjoins := keepsGroups_foldl (fun v m => keepsGroups_sendJoin (arg k 0x10 1) m 0 v)
    (others (getGrp (modGrp (arg k 0x10 1) (fun g => { g with cmds := [k.id] }) (fillGroup k l .forming .alive w)) (arg k 0x10 1)))
    (modGrp (arg k 0x10 1) (fun g => { g with cmds := [k.id] }) (fillGroup k l .forming .alive w))
  have hget : getGrp (fillGroup k l .forming .alive w) (arg k 0x10 1) = formingGroup k l := by
    rw [getGrp, hfill.grps]
    exact tget_tset_same _ _ _ _
  refine ⟨hjoins.jr.trans hfill.jr, hjoins.grps.trans ?_⟩
  rw [modGrp, hget, setGrp_b, hfill.grps]
  exact tset_tset _ _ _ _

theorem groupDefine_passes {env : Env} {k : Cmd} {l : List Coord} {v w : W} (hbad : groupBad k.slot true = []) (hen : v.b.lnk.en = true)
    (hfree : (getGrp v (arg k 0x10 1)).state = .free) (hlist : listChecks env k none v = (.ok l, w)) :
    groupDefine env k v = defineGo k l w := by
  have hpass : firstFail [fieldRow (groupBad k.slot true), deny (!v.b.lnk.en) 0x20, deny ((getGrp v (arg k 0x10 1)).state != .free) 0x21]
      = none := by simp [hbad, hen, hfree, fieldRow, least, deny, firstFail]
  simp only [groupDefine, checked, hpass, hlist]
  rfl

theorem exec_groupDefine (c : CmdId) (env : Env) (s : State) : exec (.groupDefine c env) s =
    run (listReads c (cmdRow c (fun k => isOp 0x85 k && arg k 0x11 1 != 0) env (groupDefine env) (fun _ w => w))) s := rfl

theorem exec_groupDefine_readable {s : State} {c : CmdId} {env : Env} {k : Cmd} (hk : findCmd (openW s) c = some k)
    (hread : ListsReadable s k) : exec (.groupDefine c env) s =
    run (cmdRow c (fun k => isOp 0x85 k && arg k 0x11 1 != 0) env (groupDefine env) (fun _ w => w)) s := by
  rw [exec_groupDefine, run_next, run_next, listReads_of_readable _ hk hread]

/-! ### The release of a group -/

theorem tfind_map {α : Type} (f : α → α) (t : Tbl α) (i : Nat) : tfind (t.map (fun e => (e.1, f e.2))) i = (tfind t i).map f := by
  induction t with
  | nil => rfl
  | cons e t ih =>
    simp only [List.map_cons, tfind]
    split
    · rfl
    · exact ih

theorem tget_map {α : Type} (f : α → α) (t : Tbl α) (i : Nat) {d : α} (hd : f d = d) :
    tget (t.map (fun e => (e.1, f e.2))) i d = f (tget t i d) := by
  simp only [tget, tfind_map]
  cases tfind t i with
  | none => exact hd.symm
  | some x => rfl

/-- What a slice keeps once the traffic of a group is dropped (R320). -/
def dropSliceTraffic (gi : Nat) (x : Slice) : Slice :=
  { x with openPkts := x.openPkts.filter (fun o => o.g != gi), sendQ := x.sendQ.filter (fun o => o.g != gi)
           backlog := x.backlog.filter (fun y => y.g != gi), hostUnits := x.hostUnits.filter (fun h => h.1 != gi) }

/-- Lines are as free as before once the traffic of a group is dropped from the slices. -/
theorem linesFree_dropTraffic {v w : W} {gi : Nat} (hbuild : w.build = v.build)
    (hslices : w.b.slices = v.b.slices.map (fun s => (s.1, dropSliceTraffic gi s.2))) (hv : v.b.fetches = []) (hw : w.b.fetches = [])
    (a n : Nat) : linesFree w a n = linesFree v a n := by
  have h1 : fetchLines v = [] := by simp [fetchLines, hv]
  have h2 : fetchLines w = [] := by simp [fetchLines, hw]
  have hget : ∀ p, getSlice w p = dropSliceTraffic gi (getSlice v p) := by
    intro p
    rw [getSlice, hslices]
    exact tget_map _ _ _ rfl
  have h3 : ∀ p, portReady w p = portReady v p := by
    intro p
    simp only [portReady, hazUsed, hget, h1, h2, List.filter_nil, List.length_nil]
    rfl
  simp only [linesFree, portsReady, noneFetched, h1, h2, h3, hslices, hbuild, List.all_map]
  rfl

/-- What the release of a group leaves as it was, and what it leaves of its entry. -/
structure GroupFreed (gi : Nat) (v w : W) : Prop where
  build : w.build = v.build
  base : w.base = v.base
  jr : w.jr = v.jr
  cmds : w.b.cmds = v.b.cmds
  qps : w.b.qps = v.b.qps
  ctxs : w.b.ctxs = v.b.ctxs
  ras : w.b.ras = v.b.ras
  slices : w.b.slices = v.b.slices.map (fun s => (s.1, dropSliceTraffic gi s.2))
  fetches : w.b.fetches = v.b.fetches.filter (fun o => o.g != gi)
  entry : getGrp w gi = {}

/-- Freeing a pool entry changes the pool and the STAGING map of a group alone, with no injection armed. -/
theorem freeEntry_eq (e : PoolEntry) {w : W} (hinj : w.b.ras.inj = []) :
    ∃ g p, freeEntry e w = { w with b := { w.b with grps := g, pool := p } } := by
  have hhit : (e.span.isSome && injHit w 13 0) = false := by rw [injHit_none w 13 0 hinj, Bool.and_false]
  simp only [freeEntry, hhit, Bool.false_eq_true, if_false]
  split <;> exact ⟨_, _, rfl⟩

theorem foldl_freeEntry_eq (l : List PoolEntry) : ∀ {w : W}, w.b.ras.inj = [] →
    ∃ g p, l.foldl (fun w e => freeEntry e w) w = { w with b := { w.b with grps := g, pool := p } } := by
  induction l with
  | nil => exact fun _ => ⟨_, _, rfl⟩
  | cons e l ih =>
    intro w hinj
    obtain ⟨g, p, h⟩ := freeEntry_eq e hinj
    obtain ⟨g', p', h'⟩ := ih (w := { w with b := { w.b with grps := g, pool := p } }) hinj
    exact ⟨g', p', by rw [List.foldl_cons, h, h']⟩

theorem prunePeers_eq (w : W) : ∃ l, prunePeers w = { w with b := { w.b with lnk := l } } := by
  have hdrop : ∀ (l : List (Nat × Peer)) (w : W), ∃ x, l.foldl (fun w p => dropStreams p.2.coord w) w = { w with b := { w.b with lnk := x } } := by
    intro l
    induction l with
    | nil => exact fun w => ⟨_, rfl⟩
    | cons p l ih =>
      intro w
      obtain ⟨x, h⟩ := ih (dropStreams p.2.coord w)
      exact ⟨x, by rw [List.foldl_cons, h]; rfl⟩
  obtain ⟨x, h⟩ := hdrop (w.b.lnk.peers.filter (fun p => !namedByGroup w p.2.coord)) w
  simp only [prunePeers, h]
  exact ⟨_, rfl⟩

theorem groupFreed_freeGroup (gi : Nat) {w : W} (hinj : w.b.ras.inj = []) : GroupFreed gi w (freeGroup gi w) := by
  obtain ⟨g, p, hdrop⟩ := foldl_freeEntry_eq (w.b.pool.filter (fun e => e.g == gi)) hinj
  simp only [freeGroup, dropTraffic, hdrop]
  obtain ⟨x, hprune⟩ := prunePeers_eq _
  rw [hprune]
  exact ⟨rfl, rfl, rfl, rfl, rfl, rfl, rfl, rfl, rfl, tget_tset_same _ _ _ _⟩

/-- A command that releases a group completes. -/
theorem finished_release {env : Env} {s : State} {c : CmdId} {k : Cmd} (gi : Nat) (o : Outc) (hs : Starts s c k) (hc : Calm s env)
    (hr : Reports s c k) : Finished s (closeW s (complete env false c o (freeGroup gi (begun s c k)))) c k o (freeGroup gi (begun s c k)) := by
  obtain ⟨-, -, hinj, -⟩ := id hc
  obtain ⟨-, -, hlines, hfetch⟩ := id hr
  obtain ⟨-, hq, hctx, hout, -⟩ := id hs
  have hk := begun_keeps hs hinj
  have hinj' : (begun s c k).b.ras.inj = [] := by rw [hk.ras]; exact hinj
  have hfreed := groupFreed_freeGroup gi hinj'
  have hfind : findCmd (freeGroup gi (begun s c k)) c = some { k with phase := .running } := by
    rw [findCmd, hfreed.cmds]
    exact begun_find s c k hs hinj
  have hqp : getQp (freeGroup gi (begun s c k)) c.q = getQp (begun s c k) c.q := by rw [getQp, hfreed.qps]; rfl
  have hbq := begun_qp s c k hs hinj
  have hstate : (getCtx (freeGroup gi (begun s c k)) k.ctx).state = (ctxOf s k.ctx).state := by
    rw [getCtx, hfreed.ctxs, hk.ctxs]
    rfl
  have hup : (getCtx (freeGroup gi (begun s c k)) k.ctx).state ≠ .teardown := by
    rw [hstate]; intro h; rw [ctxRuns, h] at hctx; contradiction
  have hfetch' : (begun s c k).b.fetches = [] := by rw [hk.fetches]; exact hfetch
  have hfree : linesFree (freeGroup gi (begun s c k)) (entryAt (getQp (freeGroup gi (begun s c k)) c.q)) 32 = true := by
    obtain ⟨hbase, htail, -, -⟩ := id hbq
    have he : entryAt (getQp (freeGroup gi (begun s c k)) c.q) = entryAt (qpOf s c.q) := by rw [hqp, entryAt, hbase, htail]; rfl
    rw [he, linesFree_dropTraffic hfreed.build hfreed.slices hfetch' (by rw [hfreed.fetches, hfetch']; rfl),
      linesFree_congr (openW s) (begun s c k) _ _ hk.build hk.slices hfetch hfetch']
    exact hlines
  exact finished_of_complete env s c k _ o _ hfind rfl hq hr hc hout hup hfree (hfreed.base.trans hk.base) (hfreed.jr.trans hk.jr)
    (by rw [hfreed.ras]; exact hinj') (by rw [hqp]; exact hbq)

theorem groupRelease_passes {env : Env} {k : Cmd} {w : W}
    (hstate : (getGrp w (arg k 0x10 1)).state ∈ [GrpState.whole, .degraded, .broken]) (hpart : (getGrp w (arg k 0x10 1)).part = k.part)
    (hrgns : rgnsOfGrp w (arg k 0x10 1) = []) (hbad : groupBad k.slot false = []) (hen : w.b.lnk.en = true) :
    groupRelease env k w = done env k.id .ok 0 [] (freeGroup (arg k 0x10 1) w) := by
  have hpass : firstFail [ownGrp w k (arg k 0x10 1), fieldRow (groupBad k.slot false), deny (!w.b.lnk.en) 0x20,
      deny ((getGrp w (arg k 0x10 1)).state == .forming || (getGrp w (arg k 0x10 1)).state == .relighting
        || (getGrp w (arg k 0x10 1)).state == .restriping || !(rgnsOfGrp w (arg k 0x10 1)).isEmpty) 0x21] = none := by
    simp only [List.mem_cons, List.not_mem_nil, or_false] at hstate
    obtain h | h | h := hstate <;> simp [ownGrp, h, hpart, hrgns, hbad, hen, fieldRow, least, deny, firstFail]
  simp only [groupRelease, checked, hpass]

/-! ### Formation -/

/-- What the row of a group's formation repeats (R328). -/
def joinResendW (g : Nat) (w : W) : W :=
  let x := getGrp w g
  if x.state == .forming then ((liveOthers x).filter (fun m => !x.joins.contains m)).foldl (fun w m => sendJoin g m 0 w) w else w

/-- What the end of a formation's time does (R137, R328). -/
def formationTimeoutW (g : Nat) (env : Env) (w : W) : W :=
  let x := getGrp w g
  if x.state != .forming then w
  else
    let missing := (others x).filter (fun m => !x.joins.contains m)
    let w := freeGroup g w
    x.cmds.foldl (fun w c => done env c .timeout 0 (toLe 2 (maskOf missing) ++ toLe 2 (maskOf x.mismatched)) w) w

theorem exec_formationJoinResend (g : Nat) (s : State) : exec (.formationJoinResend g) s = run (joinResendW g) s := rfl

theorem exec_formationTimeout (g : Nat) (env : Env) (s : State) : exec (.formationTimeout g env) s = run (formationTimeoutW g env) s := rfl

/-- A FORM row acts on the first copy that is accepted, once it is acknowledged (R85, R326). -/
theorem formRow_accepted {rx : Rx} {kind : Nat} {act : Packet → W → W} {v w : W} {pk : Packet}
    (h : formAccepted v rx kind = some (pk, w)) : formRow rx kind act v = act pk w := by
  simp only [formAccepted, accepted] at h
  simp only [formRow, onKind, onPacket]
  split at h
  · contradiction
  · case h_2 q u hacc =>
    split at hacc
    · case isTrue htest =>
      rw [htest]
      cases hrx : receive rx v with
      | mk p u' =>
        cases p with
        | none => simp [hrx] at hacc
        | some p =>
          simp only [hrx, Option.some.injEq, Prod.mk.injEq] at hacc
          obtain ⟨rfl, rfl⟩ := hacc
          split at h
          · case isTrue hfirst =>
            simp only [Option.some.injEq, Prod.mk.injEq] at h
            obtain ⟨rfl, rfl⟩ := h
            simp only [hfirst, Bool.not_true, Bool.false_eq_true, if_false, if_true]
          · contradiction
    · contradiction

/-- What a JOIN does (R328). -/
def joinAct (env : Env) (pk : Packet) (w : W) : W :=
  match senderOf w pk.hdr with
  | none => w
  | some (gi, g, x) =>
    let m := (memberOf g pk.hdr.src).getD x
    if !(g.state == .forming || g.state == .whole || g.state == .degraded) || slotOut (slotAt g m).state || m == g.self then w
    else if m != x || (formFrom w pk).isNone || bytesAt pk.payload 32 80 != groupBody g then
      logOther 14 0 gi g.ctx [2, 0, m] (modGrp gi (fun g => { g with mismatched := insertNat g.mismatched m }) w)
    else
      let w := modGrp gi (fun g => { g with joins := insertNat g.joins m }) w
      let w := if fld pk.payload 0xA 1 % 2 = 0 then sendJoin gi m 1 w else w
      formGo env gi w

theorem exec_join (rx : Rx) (env : Env) (s : State) : exec (.join rx env) s = run (formRow rx 0 (joinAct env)) s := rfl

/-- Settles O37, by the phases of a formation, each a meaning with its own cases. -/
theorem groupsFormAndGo : Obligations.GroupsFormAndGo := by
  refine ⟨?define, ?unread, ?release, ?resend, ?timeout, ?join⟩
  case define =>
    rintro s c env k l w ⟨hs, hc, hr, hop⟩ hn hread hbad hen hfree hlist
    obtain ⟨hrd, -, hinj, -⟩ := id hc
    have hk := begun_keeps hs hinj
    have hgo : Leaves (.groupDefine c env) s (groupDefine env k (begun s c k)) :=
      leaves_start (exec_groupDefine_readable hs.1 hread) hs (by simp [isOp, hop, hn])
    rw [groupDefine_passes hbad (by rw [hk.blk]; exact hen) (by rw [hk.getGrp]; exact hfree) hlist] at hgo
    obtain ⟨hjr, hgrps⟩ := defineGo_groups k l w
    have hreads := presents_listChecks hrd k none (w := begun s c k) (by rw [hk.ras]; exact hinj)
    rw [hlist] at hreads
    have hgrps' : (defineGo k l w).b.grps = tset s.blk.grps (arg k 0x10 1) { formingGroup k l with cmds := [k.id] } := by
      rw [hgrps, hreads.keepsGroups.grps, hk.blk]
    refine ⟨_, hgo, ?_, ?_, fun g hg => ?_⟩
    · rw [closeW_mem, hjr, hreads.jr, hk.jr]
      rfl
    · rw [groupOf, closeW_blk, hgrps']
      exact tget_tset_same _ _ _ _
    · rw [groupOf, closeW_blk, hgrps']
      exact tget_tset_other _ _ _ _ _ hg
  case unread =>
    rintro s c env k ⟨⟨hfind, -, -, -, hphase, hmay, -⟩, -⟩ hn hlines
    refine leaves_of (exec_groupDefine c env s) ?_
    simp [listReads, hfind, hphase, hmay, onReads, hlines]
  case release =>
    rintro s c env k ⟨hs, hc, hr, hop⟩ hn hen hstate hpart hrgns hbad
    obtain ⟨-, -, hinj, -⟩ := id hc
    have hk := begun_keeps hs hinj
    have hgo : Leaves (.groupRelease c env) s (groupRelease env k (begun s c k)) :=
      leaves_start (i := .groupRelease c env) rfl hs (by simp [isOp, hop, hn])
    have hrgns' : rgnsOfGrp (begun s c k) (arg k 0x10 1) = [] := by
      rw [← hrgns, rgnsOfGrp, rgnsOfGrp, definedRgns, definedRgns, hk.blk]
      rfl
    rw [groupRelease_passes (by rw [hk.getGrp]; exact hstate) (by rw [hk.getGrp]; exact hpart) hrgns' hbad (by rw [hk.blk]; exact hen),
      done, id_of_starts hs] at hgo
    have hfin := finished_release (env := env) (arg k 0x10 1) { status := .ok, info := 0, result := [] } hs hc hr
    refine ⟨_, hgo, hfin, ?_⟩
    obtain ⟨-, -, hblk, -⟩ := hfin
    rw [groupOf, hblk]
    exact (groupFreed_freeGroup _ (by rw [hk.ras]; exact hinj)).entry
  case resend =>
    intro s g env
    refine ⟨fun hforming => leaves_of (exec_formationJoinResend g s) ?_, fun hno =>
      ⟨idle_of (exec_formationJoinResend g s) ?_, idle_of (exec_formationTimeout g env s) ?_⟩⟩
    · have h : (getGrp (openW s) g).state = .forming := hforming
      simp only [joinResendW, h, beq_self_eq_true, if_true]
      rfl
    · have h : (getGrp (openW s) g).state ≠ .forming := hno
      simp [joinResendW, h]
    · have h : (getGrp (openW s) g).state ≠ .forming := hno
      simp [formationTimeoutW, h]
  case timeout =>
    intro s g env c hforming hcmds
    have h : (getGrp (openW s) g).state = .forming := hforming
    have hcmds' : (getGrp (openW s) g).cmds = [c] := hcmds
    refine leaves_of (exec_formationTimeout g env s) ?_
    simp only [formationTimeoutW, h, hcmds', bne_self_eq_false, Bool.false_eq_true, if_false, List.foldl_cons, List.foldl_nil]
    rfl
  case join =>
    rintro s rx env pk w gi g x m hacc hsender rfl
    have hgo : Leaves (.join rx env) s (joinAct env pk w) := leaves_of (exec_join rx env s) (formRow_accepted hacc)
    simp only [joinAct, hsender] at hgo
    generalize (memberOf g pk.hdr.src).getD x = m at hgo ⊢
    refine ⟨fun hno => ?_, fun hstate hout hself => ⟨fun hmis => ?_, fun hm hfrom hbody => ?_⟩⟩
    · rwa [if_pos] at hgo
      obtain h | h | h := hno
      · simp only [List.mem_cons, List.not_mem_nil, or_false, not_or] at h
        simp [h]
      · simp [h]
      · simp [h]
    all_goals
      have htake : ¬ (!(g.state == .forming || g.state == .whole || g.state == .degraded) || slotOut (slotAt g m).state || m == g.self) = true := by
        simp only [List.mem_cons, List.not_mem_nil, or_false] at hstate
        simp only [hout, beq_false_of_ne hself, Bool.or_false, Bool.not_eq_true']
        obtain h | h | h := hstate <;> simp [h]
      rw [if_neg htake] at hgo
    · rwa [if_pos] at hgo
      obtain h | h | h := hmis <;> simp [h]
    · subst hm
      rw [if_neg (by simp [hfrom, hbody])] at hgo
      refine ⟨fun hodd => ?_, fun heven => ?_⟩
      · rwa [if_neg (by omega)] at hgo
      · rwa [if_pos heven] at hgo

end Sys2Proof.Machine
end

section
/-! PROOF. Degraded reads (R48, R56 to R58, R330, R332) and the timers of their operations. -/

namespace Sys2Proof.Machine

open Sys2Proof.Safety

/-! ### Slices with nothing to go on with -/

/-- No slice has a request listed, one that waits for an entry, or one in its channel. -/
def NothingListed (w : W) : Prop := ∀ p, (getSlice w p).haz = [] ∧ (getSlice w p).need = [] ∧ (getSlice w p).chan = []

theorem nothingListed_openW {s : State} (h : ∀ e ∈ s.blk.slices, e.2.haz = [] ∧ e.2.need = [] ∧ e.2.chan = []) : NothingListed (openW s) := by
  intro p
  rw [getSlice, openW_b, tget]
  cases hfind : tfind s.blk.slices p with
  | none => exact ⟨rfl, rfl, rfl⟩
  | some x => exact h (p, x) (mem_of_tfind hfind)

theorem kickAll_nothingListed {w : W} (h : NothingListed w) : kickAll w = w := by
  refine foldl_idle (fun p _ => ?_)
  obtain ⟨hhaz, hneed, hchan⟩ := h p
  have hgo := goOn_nothing (p := p) (line := 0) (n := 0) hhaz hneed hchan
  rw [kickSlice, hhaz]
  exact hgo

/-! ### A degraded read of the block's own line -/

/-- A slice that counted a degraded read (R57, R64). -/
def degradedSlice (a : BitVec 64) (x : Slice) : Slice := { x with cntDegr := x.cntDegr + 1, err := x.err ||| 4, errAddr := a }

/-- The open Watch that a degraded read served counts it (R213). -/
def degradedWatch (k : Watch) : Watch := if k.phase == .idle then k else { k with degr := k.degr + 1 }

/-- What notes of a degraded read leave: of the contexts only a Watch has changed, and the event is logged. -/
structure NotesDegraded (p : Nat) (v w : W) : Prop where
  build : w.build = v.build
  base : w.base = v.base
  jr : w.jr = v.jr
  slice : ∃ a, w.b.slices = tset v.b.slices p (degradedSlice a (getSlice v p))
  blk : w.b = { v.b with slices := w.b.slices, ctxs := w.b.ctxs, cnt := w.b.cnt, tlm := w.b.tlm }
  log : w.b.tlm.elNext = v.b.tlm.elNext + 1
  ctx : ∀ x, { getCtx w x with watch := {} } = { getCtx v x with watch := {} }

theorem getCtx_modWatch_rest (y x : Nat) (f : Watch → Watch) (w : W) :
    { getCtx (modWatch y f w) x with watch := {} } = { getCtx w x with watch := {} } := by
  by_cases h : x = y
  · subst h
    rw [modWatch, modCtx, getCtx_setCtx]
  · have hget : getCtx (modWatch y f w) x = getCtx w x := tget_tset_other _ _ _ _ _ h
    rw [hget]

/-- The slice counts the degraded read. -/
def countDegraded (p : Nat) (w : W) : W := modSlice p (fun s => { s with cntDegr := s.cntDegr + 1 }) w

theorem noteDegraded_def (p line ctx : Nat) (w : W) : noteDegraded p line ctx w = cntGlb 0x18 1 (setMpsErr p 2 line ctx
    (countDegraded p (modWatch (((rgnAt w line).map (·.2.ctx)).getD ctx) degradedWatch w))) := rfl

theorem setMpsErr_slices (p bitNo line ctx : Nat) (w : W) : ∃ a, (setMpsErr p bitNo line ctx w).b.slices =
    tset w.b.slices p { getSlice w p with err := (getSlice w p).err ||| BitVec.ofNat 8 (1 <<< bitNo), errAddr := a } := ⟨_, rfl⟩

theorem notesDegraded_noteDegraded (p line ctx : Nat) (w : W) : NotesDegraded p w (noteDegraded p line ctx w) := by
  rw [noteDegraded_def]
  generalize ((rgnAt w line).map (·.2.ctx)).getD ctx = y
  have hwatch := fun x => getCtx_modWatch_rest y x degradedWatch w
  have hw : (modWatch y degradedWatch w).b = { w.b with ctxs := (modWatch y degradedWatch w).b.ctxs } := rfl
  have hbase : (modWatch y degradedWatch w).base = w.base := rfl
  have hbuild : (modWatch y degradedWatch w).build = w.build := rfl
  have hjr : (modWatch y degradedWatch w).jr = w.jr := rfl
  generalize modWatch y degradedWatch w = v at *
  have hctxs : (cntGlb 0x18 1 (setMpsErr p 2 line ctx (countDegraded p v))).b.ctxs = v.b.ctxs := rfl
  have hlog : (cntGlb 0x18 1 (setMpsErr p 2 line ctx (countDegraded p v))).b.tlm.elNext = v.b.tlm.elNext + 1 := rfl
  refine ⟨hbuild, hbase, hjr, ?_, ?_, ?_, fun x => ?_⟩
  · obtain ⟨a, ha⟩ := setMpsErr_slices p 2 line ctx (countDegraded p v)
    refine ⟨a, ha.trans ?_⟩
    rw [show getSlice (countDegraded p v) p = _ from getSlice_setSlice _ _ _, show getSlice w p = getSlice v p by rw [getSlice, getSlice, hw],
      show w.b.slices = v.b.slices by rw [hw]]
    exact tset_tset _ _ _ _
  · rw [cntGlb, cntAdd_b, setMpsErr_b, countDegraded, modSlice, setSlice_b, hw]
  · rw [hlog, hw]
  · rw [getCtx, hctxs]
    exact hwatch x

/-- A write-back that memory answers OK stores its line. -/
theorem writeBack_ok {env : Env} {line : Nat} {d : Bytes} {w : W} (henv : env.wr = []) (hinj : w.b.ras.inj = []) :
    ∃ n m, writeBack env line d w = putBytes { w with b := { w.b with cnt := n, mdOut := m } } line d := by
  have hwrite := writeLine_ok (relightAcc env (((rgnAt w line).map (·.2.ctx)).getD 0)) line d w henv hinj
  obtain ⟨n, m, h⟩ := present1_eq (relightAcc env (((rgnAt w line).map (·.2.ctx)).getD 0)) 1 line w
  rw [h] at hwrite
  simp only [writeBack, hwrite]
  exact ⟨n, m, rfl⟩

theorem assignEngines_none {n : Nat} {w : W} (h : w.b.fetches = []) : assignEngines n w = w := by
  cases n with
  | zero => rfl
  | succ n => simp [assignEngines, nextFetchOp, h]

/-- With no stream under way and no engine that passed self-test, no operation is given an engine. -/
theorem assignEngines_noEngine {n : Nat} {w : W} (hstreams : w.b.streams = []) (hengines : engineCount w = 0) :
    assignEngines n w = w := by
  have hheld : ∀ o, onHeldEngine w o = false := by
    intro o
    unfold onHeldEngine
    split
    · simp [hstreams]
    · rfl
  have hnone : (List.range 8).filter (fun j => !w.b.glb.stfail1.getLsbD (40 + j)) = [] := List.length_eq_zero_iff.mp hengines
  have hfree : ∀ x, freeEngine w x = none := by
    intro x
    have hleft : (List.range 8).filter (fun j => !w.b.glb.stfail1.getLsbD (40 + j) && !engineUsed w j) = [] :=
      List.filter_eq_nil_iff.mpr fun j hj h => List.filter_eq_nil_iff.mp hnone j hj (Bool.and_eq_true_iff.mp h).1
    simp only [freeEngine, hleft, List.head?_nil, List.find?_nil, ite_self]
  cases n with
  | zero => rfl
  | succ n =>
    have hfind : w.b.fetches.find? (fun o => o.queued && o.engine.isNone && onHeldEngine w o) = none :=
      List.find?_eq_none.mpr fun o _ => by rw [hheld, Bool.and_false]; exact Bool.false_ne_true
    have hwaits : w.b.fetches.filter (fun o => o.queued && o.engine.isNone && (freeEngine w o.resetOn).isSome) = [] :=
      List.filter_eq_nil_iff.mpr fun o _ => by rw [hfree, Option.isSome_none, Bool.and_false]; exact Bool.false_ne_true
    have hnext : nextFetchOp w = none := by
      rw [nextFetchOp, hwaits]
      rfl
    simp only [assignEngines, hfind, hnext]

/-- No operation is left. -/
def noFetches (w : W) : W := { w with b := { w.b with fetches := [] } }

/-- An operation that is found goes from the list of one. -/
theorem dropOp_only {op : Nat} {o : FetchOp} {w : W} (hfind : findOp w op = some o) (h : w.b.fetches = [o]) :
    dropOp op w = noFetches w := by
  have hop : opIs op o = true := by
    rw [findOp] at hfind
    exact List.find?_some hfind
  simp [dropOp, noFetches, h, hop]

/-! ### The rows -/

/-- What an operation with its answers does for its requester (R57). -/
def degradedDoneW (op : Nat) (env : Env) (w : W) : W :=
  match findOp w op with
  | none => w
  | some o =>
    if enginePrio o.why != 0 || !opReady w o || !portsReady w (opAddr w o) 64 then w
    else match ownAnswer env o w with
    | none => w
    | some (c, o, w) =>
      if c != .ok then opDrops env (getGrp w o.g).self op w
      else
      let line := opAddr w o
      let d := (decodedLine w o 0).getD (zeros 64)
      let p := portOf w.build line
      let w := assignEngines 8 (dropOp op w)
      let own := o.target == (getGrp w o.g).self
      let note := fun (w : W) => if own then noteDegraded p line (opRegion w o).ctx w else w
      match o.why with
      | .job p id => writeNew p id d (note w)
      | .host p tag => hostDecoded p tag line d w
      | .se e k t _ =>
        let w := writeBack env line d (note w)
        let w := match (getSe w e).run with | some c => modRun c (fun r => { r with degraded := true }) w | none => w
        kickAll (seLine e k t line .ok d w)
      | .sweep r =>
        let w := writeBack env line d (note w)
        if (getRgn w r).sweeping && (getRgn w r).base + (getRgn w r).front == line then kickAll (sweepLine r d w) else w
      | .cmd c =>
        match findCmd w c with
        | none => kickAll (writeBack env line d (note w))
        | some k =>
          if opOf k = 0x64 then
            let dst := arg k 0x28 8 + 64 * k.prog
            match findCmd (modCmd c (fun k => { k with patch := [(dst, d)] }) w) c with
            | some k' => degradedGo env k' (modCmd c (fun k => { k with patch := [(dst, d)] }) (note w))
            | none => w
          else kickAll (modCmd c (fun k => { k with patch := tset k.patch line d, degraded := true }) (writeBack env line d (note w)))
      | _ => kickAll (writeBack env line d (note w))

theorem exec_degradedReadDone (op : Nat) (env : Env) (s : State) : exec (.degradedReadDone op env) s = run (degradedDoneW op env) s := rfl

/-- What the deadline of a member does (R330). -/
def deadlineW (op m : Nat) (env : Env) (w : W) : W :=
  match findOp w op with
  | some o => if o.chosen.any (fun c => c.1 == m) && !answered o m then opDrops env m op w else w
  | none => w

theorem exec_fetchDeadlineExpiry (op m : Nat) (env : Env) (s : State) : exec (.fetchDeadlineExpiry op m env) s = run (deadlineW op m env) s := rfl

/-- What the retry timer of an operation does (R330). -/
def retryW (op : Nat) (w : W) : W :=
  match findOp w op with
  | some o => if o.waiting then assignEngines 8 (modOp op (fun o => { o with waiting := false, queued := true, engine := none }) w) else w
  | none => w

theorem exec_fetchRetryTimer (op : Nat) (s : State) : exec (.fetchRetryTimer op) s = run (retryW op) s := rfl

/-- An operation of a sweep that has its answers, chose other members and stands alone is done: its line is noted, written back and
entered into the sum. -/
theorem degradedDone_sweep {op r : Nat} {env : Env} {o : FetchOp} {d : Bytes} {w v : W} (hfind : findOp w op = some o) (hwhy : o.why = .sweep r)
    (hready : opReady w o = true) (hports : portsReady w (opAddr w o) 64 = true) (hothers : ∀ x ∈ o.chosen, x.1 ≠ (getGrp w o.g).self)
    (htarget : o.target = (getGrp w o.g).self) (hdecode : decodedLine w o 0 = some d) (hfetch : w.b.fetches = [o])
    (hv : v = noFetches w) :
    degradedDoneW op env w =
      let u := writeBack env (opAddr w o) d (noteDegraded (portOf w.build (opAddr w o)) (opAddr w o) (opRegion v o).ctx v)
      if (getRgn u r).sweeping && (getRgn u r).base + (getRgn u r).front == opAddr w o then kickAll (sweepLine r d u) else u := by
  have hown : o.chosen.any (fun c => c.1 == (getGrp w o.g).self) = false := by
    simpa using hothers
  have hanswer : ownAnswer env o w = some (.ok, o, w) := by simp only [ownAnswer, hown, Bool.not_false, if_true]
  have hassign : assignEngines 8 (dropOp op w) = v := by
    rw [dropOp_only hfind hfetch, ← hv]
    exact assignEngines_none (by rw [hv]; rfl)
  have hself : (getGrp v o.g).self = o.target := by rw [htarget, hv]; rfl
  have hok : (Rsp.ok != Rsp.ok) = false := by decide
  have hprio : (enginePrio (.sweep r) != 0) = false := rfl
  simp only [degradedDoneW, hfind, hwhy, hready, hports, hanswer, hassign, hself, hdecode, hok, hprio, Option.getD_some, Bool.not_true,
    Bool.or_self, Bool.false_eq_true, if_false, beq_self_eq_true, if_true]

/-- A line read keeps the build. -/
theorem readLine_build (a : Acc) (line : Nat) (w : W) : (readLine a line w).2.2.build = w.build := by
  have hinj : ∀ c (v : W), (readInj line c v).2.build = v.build := by
    intro c v
    unfold readInj
    split
    · obtain ⟨_, _, h⟩ := injFire_eq 7 v
      rw [h]
    · rfl
  have hnote : ∀ x : Rsp × W, (noteCode line a.ctx x).2.build = x.2.build := by
    intro x
    unfold noteCode
    split <;> rfl
  rw [readLine, readCode]
  exact (hnote _).trans (hinj _ _)

theorem ownAnswer_build {env : Env} {o x : FetchOp} {c : Rsp} {v w : W} (h : ownAnswer env o v = some (c, x, w)) : w.build = v.build := by
  simp only [ownAnswer] at h
  split at h
  · simp only [Option.some.injEq, Prod.mk.injEq] at h
    rw [h.2.2]
  · split at h
    · contradiction
    · split at h <;>
      · simp only [Option.some.injEq, Prod.mk.injEq] at h
        rw [← h.2.2]
        exact readLine_build _ _ _

/-- The state after a sweep's own line has been decoded. -/
theorem sweepDone_state {s : State} {op r p line : Nat} {env : Env} {o : FetchOp} {d : Bytes} (hc : Calm s env)
    (hfind : findOp (openW s) op = some o) (hwhy : o.why = .sweep r) (hready : opReady (openW s) o = true)
    (hothers : ∀ x ∈ o.chosen, x.1 ≠ (groupOf s o.g).self) (htarget : o.target = (groupOf s o.g).self) (hline : line = opAddr (openW s) o)
    (hp : p = portOf s.build line) (hdecode : decodedLine (openW s) o 0 = some d) (hfetch : s.blk.fetches = [o])
    (hsweeping : (rgnOf s r).sweeping = true) (hfront : (rgnOf s r).base + (rgnOf s r).front = line)
    (hports : portsReady (openW s) line 64 = true) (hslices : ∀ e ∈ s.blk.slices, e.2.haz = [] ∧ e.2.need = [] ∧ e.2.chan = []) :
    ∃ u n m, NotesDegraded p (noFetches (openW s)) u
      ∧ degradedDoneW op env (openW s) = sweepLine r d (putBytes { u with b := { u.b with cnt := n, mdOut := m } } line d) := by
  obtain ⟨-, hwr, hinj, -⟩ := hc
  have hgo := degradedDone_sweep (env := env) hfind hwhy hready (hline ▸ hports) hothers htarget hdecode hfetch rfl
  rw [← hline, openW_build, ← hp] at hgo
  have hnotes := notesDegraded_noteDegraded p line
    (opRegion (noFetches (openW s)) o).ctx (noFetches (openW s))
  generalize noteDegraded p line
    (opRegion (noFetches (openW s)) o).ctx (noFetches (openW s)) = u at hgo hnotes
  obtain ⟨n, m, hback⟩ := writeBack_ok (line := line) (d := d) (w := u) hwr (by rw [hnotes.blk]; exact hinj)
  refine ⟨u, n, m, hnotes, ?_⟩
  rw [hback] at hgo
  have hrgn : ∀ i, getRgn (putBytes { u with b := { u.b with cnt := n, mdOut := m } } line d) i = rgnOf s i := by
    intro i
    rw [getRgn, putBytes_b, hnotes.blk]
    rfl
  have hcond : ((rgnOf s r).sweeping && (rgnOf s r).base + (rgnOf s r).front == line) = true := by
    simp [hsweeping, hfront]
  simp only [hrgn, hcond, if_true] at hgo
  rw [hgo]
  refine kickAll_nothingListed (fun q => ?_)
  have hlisted := nothingListed_openW hslices q
  obtain ⟨a, ha⟩ := hnotes.slice
  have hslice : getSlice (sweepLine r d (putBytes { u with b := { u.b with cnt := n, mdOut := m } } line d)) q = getSlice u q := by
    rw [getSlice, sweepLine, modRgn, setRgn_b, putBytes_b]
    rfl
  rw [hslice, getSlice, ha]
  by_cases hq : q = p
  · subst hq
    rw [tget_tset_same]
    exact hlisted
  · rw [tget_tset_other _ _ _ _ _ hq]
    exact hlisted

/-- The region's stripe line is the same once the command has started. -/
theorem StartKeeps.grpOf {s : State} {w : W} (h : StartKeeps s w) (r : Region) : grpOf w r = grpOf (openW s) r := by
  rw [Machine.grpOf, Machine.grpOf]
  split
  · exact h.getGrp _
  · rfl

/-- A DEGRADED_READ that starts asks for its first line. -/
theorem degradedGo_first {env : Env} {k : Cmd} {w v : W} {x : Option Nat} {st q l : Nat} (hprog : k.prog = 0) (hpatch : k.patch = [])
    (hlen : 64 ≤ arg k 0x20 8) (hfetch : w.b.fetches = [])
    (hstripe : stripeOf (grpOf w (getRgn w (arg k 0x10 2))) (getRgn w (arg k 0x10 2)) (arg k 0x12 1) (arg k 0x18 8) = (st, q, l))
    (hstart : startFetch (.cmd k.id) ((getRgn w (arg k 0x10 2)).grp.getD 0) (arg k 0x10 2) st l 1 (arg k 0x12 1) w = (x, v)) :
    degradedGo env k w = if x.isSome then v else done env k.id .memberLost 0 (toLe 8 0) v := by
  have hmore : ¬ arg k 0x20 8 / 64 ≤ 0 := by omega
  simp only [degradedGo, hprog, hpatch, tfind, Nat.mul_zero, Nat.add_zero, hstripe, hstart, hmore, hfetch, List.any_nil, Bool.false_eq_true,
    if_false]
  cases x <;> rfl

/-- Settles O43, by the parts of a degraded read: its checks, the decoded line written back, and its timers. -/
theorem degradedReadsComplete : Obligations.DegradedReadsComplete := by
  refine ⟨?start, ?runs, ?sweep, ?others, ?idle, ?deadline, ?retry⟩
  case start =>
    rintro s c env k ⟨hs, hc, hr, hop⟩ hpass hprog hpatch hlen st q l x w hstripe hstart
    obtain ⟨-, -, hinj, -⟩ := id hc
    obtain ⟨-, -, -, hfetch⟩ := id hr
    have hk := begun_keeps hs hinj
    have hgo : Leaves (.degradedRead c env) s (degradedGo env k (begun s c k)) :=
      leaves_checked (i := .degradedRead c env) (chk := degradedCheck) rfl hs (isOp_of hop) hpass
    rw [← hk.getRgn, ← hk.grpOf] at hstripe
    rw [← hk.getRgn] at hstart
    rw [degradedGo_first hprog hpatch hlen (by rw [hk.fetches]; exact hfetch) hstripe hstart, done, id_of_starts hs] at hgo
    refine ⟨fun hsome => ?_, fun hnone => ?_⟩
    · rwa [if_pos hsome] at hgo
    · rwa [hnone] at hgo
  case runs =>
    intro s c env k hs hop
    exact leaves_goOn (i := .degradedRead c env) rfl hs (isOp_of hop)
  case sweep =>
    intro s op env o r p line d hc hfind hwhy hready hothers htarget hline hp hdecode hlen hfetch hsweeping hfront hports hslices
    obtain ⟨u, n, m, hnotes, hgo⟩ := sweepDone_state hc hfind hwhy hready hothers htarget hline hp hdecode hfetch hsweeping hfront hports hslices
    obtain ⟨-, -, -, hmem⟩ := hc
    have hleaves := leaves_of (exec_degradedReadDone op env s) hgo
    have hb : u.b = { s.blk with fetches := [], slices := u.b.slices, ctxs := u.b.ctxs, cnt := u.b.cnt, tlm := u.b.tlm } := hnotes.blk
    have hrgn : ∀ v : W, v.b = { u.b with cnt := n, mdOut := m } → (sweepLine r d v).b =
        { s.blk with fetches := [], cnt := n, slices := u.b.slices, ctxs := u.b.ctxs, tlm := u.b.tlm, mdOut := m
                     rgns := tset s.blk.rgns r { rgnOf s r with
                       sweepS := (rgnOf s r).sweepS ^^^ bearingOf (grpOf (openW s) (rgnOf s r)) 8 line d, front := (rgnOf s r).front + 64 } } := by
      intro v hv
      have hget : getRgn v r = rgnOf s r := by rw [getRgn, hv, hb]; rfl
      have hgrp : ∀ x, grpOf v x = grpOf (openW s) x := by
        have hgrps : v.b.grps = s.blk.grps := by rw [hv, hb]
        intro x
        simp only [grpOf, getGrp, hgrps]
        rfl
      rw [sweepLine, modRgn, setRgn_b, hget, hgrp, hfront, hv, hb]
    have hbytes : ∀ a, byteAt (closeW s (sweepLine r d (putBytes { u with b := { u.b with cnt := n, mdOut := m } } line d))) a
        = if line ≤ a ∧ a < line + 64 then d.getD (a - line) 0 else byteAt s a := by
      intro a
      have hbase : (putBytes { u with b := { u.b with cnt := n, mdOut := m } } line d).base = s.mem := by
        rw [putBytes_base]
        exact hnotes.base
      have hget : getByte { u with b := { u.b with cnt := n, mdOut := m } } a = byteAt s a := by
        simp only [getByte, hnotes.jr, hnotes.base]
        rfl
      have hclose := memGet_closeW s (sweepLine r d (putBytes { u with b := { u.b with cnt := n, mdOut := m } } line d)) a hbase hmem
      refine hclose.trans ((getByte_putBytes _ _ _ _).trans ?_)
      rw [hlen, hget]
    have hblk := hrgn (putBytes { u with b := { u.b with cnt := n, mdOut := m } } line d) (putBytes_b _ _ _)
    obtain ⟨a, hslice⟩ := hnotes.slice
    refine ⟨_, hleaves, ?_, ?_, ?_, ?_, fun x => ?_, fun i hi => ?_, fun a ha => ?_⟩
    · rw [closeW_blk, hblk]
    · rw [sliceOf, closeW_blk, hblk]
      show (tget u.b.slices p {}).cntDegr = _
      rw [hslice, tget_tset_same]
      rfl
    · rw [sliceOf, closeW_blk, hblk]
      show (tget u.b.slices p {}).err = _
      rw [hslice, tget_tset_same]
      rfl
    · rw [closeW_blk, hblk]
      exact hnotes.log
    · rw [ctxOf, closeW_blk, hblk]
      exact hnotes.ctx x
    · rw [hbytes, if_pos (by omega), Nat.add_sub_cancel_left]
    · rw [hbytes, if_neg (by omega)]
  case others =>
    intro s op p line env o x c d w v hfind hprio hready hports hanswer hline hp hdecode hv
    have hbuild : w.build = s.build := ownAnswer_build hanswer
    have hno : (enginePrio o.why != 0 || !opReady (openW s) o || !portsReady (openW s) (opAddr (openW s) o) 64) = false := by
      simp [hprio, hready, hports]
    have hgo := leaves_of (exec_degradedReadDone op env s) rfl
    rw [degradedDoneW] at hgo
    simp only [hfind, hno, hanswer, hdecode, ← hline, hbuild, ← hp, ← hv, Bool.false_eq_true, if_false, Option.getD_some] at hgo
    refine ⟨fun hc => ?_, fun q id hc hwhy hown => ?_, fun q tag hc hwhy => ?_⟩
    · rwa [if_pos (by simpa using hc)] at hgo
    · have hself : (x.target == (getGrp v x.g).self) = true := by simpa using hown
      rw [if_neg (by simp [hc])] at hgo
      simpa only [hwhy, hself, if_true] using hgo
    · rw [if_neg (by simp [hc])] at hgo
      simpa only [hwhy] using hgo
  case idle =>
    intro s op env h
    refine idle_of (exec_degradedReadDone op env s) ?_
    rw [degradedDoneW]
    cases hfind : findOp (openW s) op with
    | none => rfl
    | some o =>
      obtain hprio | hready | hports | hnone := h o hfind
      · simp [hprio]
      · simp [hready]
      · simp [hports]
      · simp only [hnone, ite_self]
  case deadline =>
    intro s op m env
    refine ⟨fun o hfind hchosen hlate => leaves_of (exec_fetchDeadlineExpiry op m env s) ?_,
      fun h => idle_of (exec_fetchDeadlineExpiry op m env s) ?_⟩
    · simp [deadlineW, hfind, hchosen, hlate]
    · rw [deadlineW]
      cases hfind : findOp (openW s) op with
      | none => rfl
      | some o => obtain hno | hno := h o hfind <;> simp [hno]
  case retry =>
    intro s op
    refine ⟨fun o hfind hwaits => leaves_of (exec_fetchRetryTimer op s) ?_, fun h => idle_of (exec_fetchRetryTimer op s) ?_,
      fun o hfetch hid hwaits hengines hstreams => blocks_of (exec_fetchRetryTimer op s)
        (w := { openW s with b := { s.blk with fetches := [{ o with waiting := false, queued := true, engine := none }] } }) ?_ rfl⟩
    · simp only [retryW, hfind, hwaits, if_true]
    · rw [retryW]
      cases hfind : findOp (openW s) op with
      | none => rfl
      | some o => simp [h o hfind]
    · have hfind : findOp (openW s) op = some o := by
        simp [findOp, hfetch, opIs, hid]
      have hqueued : modOp op (fun o => { o with waiting := false, queued := true, engine := none }) (openW s)
          = { openW s with b := { s.blk with fetches := [{ o with waiting := false, queued := true, engine := none }] } } := by
        simp [modOp, hfetch, mapIf, opIs, hid]
      simp only [retryW, hfind, hwaits, if_true, hqueued]
      exact assignEngines_noEngine hstreams hengines

end Sys2Proof.Machine
end

section
/-! PROOF. The state at reset, NOP and FENCE (R115, R116, R121). -/

namespace Sys2Proof.Machine

open Sys2Proof.Safety

/-- Settles O4, by evaluation; in RESET no register is read. -/
theorem resetState : Obligations.ResetState := by
  refine ⟨rfl, rfl, rfl, rfl, rfl, rfl, rfl, rfl, rfl, rfl, rfl, rfl, rfl, rfl, rfl, rfl, rfl, rfl, fun a => ?_⟩
  have hreset : (a % 8 != 0 || (openW State.reset).b.glb.state == .reset) = true := Bool.or_true _
  simp only [readReg, hreset, if_true]
  rfl

/-! ### FENCE -/

theorem fenceGo_closed {env : Env} {k : Cmd} {w : W} (h : fenceOpen w k = false) :
    fenceGo env k w = done env k.id .ok 0 (toLe 8 (fenceBad w k)) w := by
  simp only [fenceGo, h, Bool.not_false, if_true]

theorem fenceGo_open {env : Env} {k : Cmd} {w : W} (h : fenceOpen w k = true)
    (hserves : arg k 0x12 1 = 1 → qpServes w (arg k 0x10 2 % 0x2000) = true) : fenceGo env k w = w := by
  have hno : (decide (arg k 0x12 1 = 1) && !qpServes w (arg k 0x10 2 % 0x2000)) = false := by
    by_cases h1 : arg k 0x12 1 = 1
    · simp [hserves h1]
    · simp [h1]
  simp only [fenceGo, h, hno, Bool.not_true, Bool.false_eq_true, if_false]

theorem fenceGo_aborts {env : Env} {k : Cmd} {w : W} (h : fenceOpen w k = true) (h1 : arg k 0x12 1 = 1)
    (hserves : qpServes w (arg k 0x10 2 % 0x2000) = false) : fenceGo env k w = done env k.id .aborted 0 [] w := by
  simp [fenceGo, h, h1, hserves]

/-- The check of a FENCE: its target is a queue pair of its partition (R121). -/
def fenceCheck (w : W) (k : Cmd) : Check :=
  deny (arg k 0x12 1 = 1 && (partOfQp? w (arg k 0x10 2 % 0x2000)).isNone
    || arg k 0x12 1 = 1 && partOfQp? w (arg k 0x10 2 % 0x2000) != some k.part) 4

theorem fenceCheck_passes {w : W} {k : Cmd} (h : arg k 0x12 1 = 1 → partOfQp? w (arg k 0x10 2 % 0x2000) = some k.part) :
    fenceCheck w k = none := by
  by_cases h1 : arg k 0x12 1 = 1
  · simp [fenceCheck, deny, h h1]
  · simp [fenceCheck, deny, h1]

/-- A command that runs and completes with nothing else done has finished over the state as it was. -/
theorem finished_running {env : Env} {s : State} {c : CmdId} {k : Cmd} (o : Outc) (hs : Runs s c k) (hc : Calm s env) (hr : Reports s c k) :
    Finished s (closeW s (complete env false c o (openW s))) c k o (openW s) := by
  obtain ⟨hfind, hq, hctx, hout, -⟩ := hs
  obtain ⟨-, -, hinj, -⟩ := id hc
  obtain ⟨-, -, hlines, -⟩ := id hr
  have hup : (getCtx (openW s) k.ctx).state ≠ .teardown := fun h => by
    rw [ctxRuns, show (ctxOf s k.ctx).state = .teardown from h] at hctx
    contradiction
  exact finished_of_complete env s c k k o (openW s) hfind rfl hq hr hc hout hup hlines rfl rfl hinj ⟨rfl, rfl, rfl, rfl⟩

/-- The row of a command whose opcode no command has. -/
theorem leaves_unassigned {s : State} {c : CmdId} {env : Env} {k : Cmd} (hfind : findCmd (openW s) c = some k)
    (hctx : ctxRuns (ctxOf s k.ctx) = true) (hout : k.outc = none) (hphase : k.phase = .fetched) (hmay : mayStart (openW s) k = true)
    (hop : opInfo (opOf k) = none) : Leaves (.nop c env) s (complete env false c { status := .unsupported } (started c k (openW s))) := by
  have hhead : checksHead k (openW s) = (fail .unsupported 0, openW s) := by rw [checksHead, hop]
  have hnot : (k.id.q != fabricQ && !ctxRuns (getCtx (openW s) k.ctx)) = false := by
    rw [show ctxRuns (getCtx (openW s) k.ctx) = true from hctx, Bool.not_true, Bool.and_false]
  refine leaves_of (i := .nop c env)
    (f := cmdRow c (fun k => opOf k == 1 || (opInfo (opOf k)).isNone) env (fun k w => done env k.id .ok 0 [] w) (fun _ w => w)) rfl ?_
  simp only [cmdRow, hfind, hop, hout, hphase, hmay, hhead, hnot, Option.isNone_none, Bool.or_true, Bool.not_true, Bool.or_self,
    Bool.false_eq_true, if_false]
  rfl

/-- Settles O8, by the cases of the target of a FENCE. -/
theorem nopAndFenceComplete : Obligations.NopAndFenceComplete := by
  refine ⟨?nop, ?unassigned, ?fence, ?runs⟩
  case nop =>
    rintro s c env k ⟨hs, hc, hr, hop⟩
    have hgo := leaves_start (i := .nop c env) (sel := fun k => opOf k == 1 || (opInfo (opOf k)).isNone)
      (start := fun k w => done env k.id .ok 0 [] w) rfl hs (by simp [hop])
    rw [done, id_of_starts hs] at hgo
    exact leads_finished_begun hs hc hr hgo
  case unassigned =>
    intro s c env k hfind hq hctx hout hphase hmay hc hr hop
    exact ⟨_, leaves_unassigned hfind hctx hout hphase hmay hop,
      finished_of_alarmsOnly _ hfind hq hctx hout hc hr ⟨_, _, _, rfl⟩⟩
  case fence =>
    rintro s c env k ⟨hs, hc, hr, hop⟩ htarget
    obtain ⟨-, -, hinj, -⟩ := id hc
    have hk := begun_keeps hs hinj
    have hpart : ∀ q, partOfQp? (begun s c k) q = partOfQp? (openW s) q := fun q => by rw [partOfQp?, hk.blk]; rfl
    have hgo : Leaves (.fence c env) s (fenceGo env k (begun s c k)) :=
      leaves_checked (i := .fence c env) (chk := fenceCheck) rfl hs (isOp_of hop) (fenceCheck_passes (by rw [hpart]; exact htarget))
    refine ⟨fun hclosed => ?_, fun hopen hserves => ?_, fun hopen h1 hserves => ?_⟩
    · rw [fenceGo_closed hclosed, done, id_of_starts hs] at hgo
      exact leads_finished_begun hs hc hr hgo
    · rwa [fenceGo_open hopen hserves] at hgo
    · rw [fenceGo_aborts hopen h1 hserves, done, id_of_starts hs] at hgo
      exact leads_finished_begun hs hc hr hgo
  case runs =>
    intro s c env k hs hc hr hop
    have hgo : Leaves (.fence c env) s (fenceGo env k (openW s)) := leaves_goOn (i := .fence c env) rfl hs (isOp_of hop)
    have hid : k.id = c := id_of_findCmd hs.1
    refine ⟨fun hclosed => ?_, fun hopen hserves => ?_, fun hopen h1 hserves => ?_⟩
    · rw [fenceGo_closed hclosed, done, hid] at hgo
      exact ⟨_, hgo, finished_running _ hs hc hr⟩
    · rwa [fenceGo_open hopen hserves] at hgo
    · rw [fenceGo_aborts hopen h1 hserves, done, hid] at hgo
      exact ⟨_, hgo, finished_running _ hs hc hr⟩

end Sys2Proof.Machine
end

section
/-! PROOF. Doorbells, interrupt hold-off, and the enabling and reset of queue pairs (R107 to R110, R125, R127). -/

namespace Sys2Proof.Machine

open Sys2Proof.Safety

/-! ### Rows of registers -/

theorem exec_doorbell (q : Nat) (v : Word) (s : State) :
    exec (.doorbell q v) s = run (fun w => if q < 8192 && portsOpen w then doorbell q v w else w) s := rfl

theorem exec_qpEnable (q : Nat) (v : Word) (s : State) :
    exec (.qpEnable q v) s = run (fun w => if q < 8192 && portsOpen w then writeQpCtl q (v ||| 1) w else w) s := rfl

/-- What RESET written 1 to a queue pair does (R127). -/
def qpResetW (q : Nat) (w : W) : W :=
  if 8192 ≤ q || !portsOpen w then w
  else if (getQp w q).enable then writeIgnored (0x110000 + 64 * q) 4 w
  else settleCmds {} (resetQp q w)

theorem exec_qpReset (q : Nat) (s : State) : exec (.qpReset q) s = run (qpResetW q) s := rfl

/-- What the end of a hold-off does (R125). -/
def holdoffW (q : Nat) (w : W) : W :=
  if !(getQp w q).holding then w
  else modQp q (fun k =>
    if k.heldIrq then { k with irqPend := true, heldIrq := false, holding := decide (0 < k.holdoffUs) }
    else { k with holding := false }) w

theorem exec_irqHoldoffExpiry (q : Nat) (s : State) : exec (.irqHoldoffExpiry q) s = run (holdoffW q) s := rfl

/-- A command that leaves the transaction as it began answers the state itself. -/
theorem exec_idle {i : Instr} {s : State} {f : W → W} (hrow : exec i s = run f s) (h : f (openW s) = openW s) : exec i s = .next s :=
  idle_of hrow h

theorem leaves_doorbell {s : State} {q : Nat} {v : Word} {w : W} (hq : q < 8192) (hopen : portsOpen (openW s) = true)
    (h : doorbell q v (openW s) = w) : Leaves (.doorbell q v) s w :=
  leaves_of (exec_doorbell q v s) (by simp only [hq, hopen, decide_true, Bool.and_self, if_true, h])

/-! ### Doorbells -/

/-- A doorbell of an enabled queue pair whose context runs, with a legal tail or none. -/
theorem doorbell_tail {q : Nat} {v : Word} {w : W} {k : Qp} (hvalid : v.getLsbD 16 = true ∨ v.getLsbD 48 = true)
    (hen : (getQp w q).enable = true) (hctx : ctxRuns (getCtx w (getQp w q).ctx) = true)
    (hk : k = { getQp w q with sqTail := if v.getLsbD 16 then bits v.toNat 15 0 else (getQp w q).sqTail })
    (htail : v.getLsbD 16 = true → bits v.toNat 15 0 < 2 ^ (getQp w q).sqLog2) :
    doorbell q v w =
      if !v.getLsbD 48 then (if v.getLsbD 16 then setQp q k w else w)
      else if decide (2 ^ k.cqLog2 ≤ bits v.toNat 47 32)
          || decide (subMod k.cqTail k.cqHead (2 ^ k.cqLog2) < subMod (bits v.toNat 47 32) k.cqHead (2 ^ k.cqLog2)) then
        qpFault q 6 (if v.getLsbD 16 then setQp q k w else w)
      else setQp q { k with cqHead := bits v.toNat 47 32 } w := by
  have hsome : (!v.getLsbD 16 && !v.getLsbD 48) = false := by
    obtain h | h := hvalid
    · rw [h, Bool.not_true, Bool.false_and]
    · rw [h, Bool.not_true, Bool.and_false]
  have hlegal : (v.getLsbD 16 && decide (2 ^ (getQp w q).sqLog2 ≤ bits v.toNat 15 0)) = false := by
    cases h : v.getLsbD 16 with
    | false => rfl
    | true => simpa using htail h
  have hgood : (!(getQp w q).enable || !ctxRuns (getCtx w (getQp w q).ctx)) = false := by simp [hen, hctx]
  simp only [doorbell, hsome, hgood, hlegal, Bool.false_eq_true, if_false]
  cases h16 : v.getLsbD 16 with
  | false =>
    have hsame : k = getQp w q := by rw [hk, h16]; rfl
    subst hsame
    rfl
  | true =>
    rw [h16, if_pos rfl] at hk
    subst hk
    simp only [if_true, modQp, getQp_setQp, setQp_setQp]

/-! ### Commands at the reset of a queue pair -/

theorem mapIf_none {α : Type} {p : α → Bool} {f : α → α} {l : List α} (h : ∀ x ∈ l, p x = false) : mapIf p f l = l := by
  rw [mapIf]
  conv => rhs; rw [← List.map_id l]
  exact List.map_congr_left (fun x hx => by simp [h x hx])

/-- No FENCE in flight: a queue pair that stops decides nothing. -/
theorem failFences_none {q : Nat} {w : W} (h : ∀ k ∈ w.b.cmds, opOf k ≠ 2) : failFences q w = w := by
  have hcmds := mapIf_none (f := fun k => { k with outc := some { status := .aborted, now := true } }) (l := w.b.cmds)
    (p := fun k => opOf k == 2 && k.phase == .running && arg k 0x12 1 == 1 && arg k 0x10 2 % 0x2000 == q
      && decide ((getQp w q).done < arg k 0x18 8) && k.outc.isNone) (fun k hk => by simp [h k hk])
  simp only [failFences, hcmds]

/-- With no outcome decided, no command settles. -/
theorem settleCmds_none {env : Env} {w : W} (h : ∀ k ∈ w.b.cmds, k.outc = none) : settleCmds env w = w :=
  foldl_idle (fun k hk => by simp only [h k hk])

/-! ### Writes to QP_CTL -/

/-- A field of a register above bit 0 does not see bit 0. -/
theorem bits_or_one (v : Word) {hi lo : Nat} (h : 0 < lo) : bits (v ||| 1).toNat hi lo = bits v.toNat hi lo := by
  have hone : 1 >>> lo = 0 := by
    rw [Nat.shiftRight_eq_div_pow]
    exact Nat.div_eq_of_lt (Nat.one_lt_two_pow (by omega))
  rw [bits, bits, BitVec.toNat_or, Nat.shiftRight_or_distrib, show (1 : Word).toNat = 1 from rfl, hone, Nat.or_zero]

theorem getLsbD_or_one (v : Word) {i : Nat} (h : 0 < i) : (v ||| 1).getLsbD i = v.getLsbD i := by
  rw [BitVec.getLsbD_or, show (1 : Word) = 1#64 from rfl, BitVec.getLsbD_one,
    show decide (i = 0) = false from decide_eq_false (by omega), Bool.and_false, Bool.or_false]

theorem getLsbD_or_one_zero (v : Word) : (v ||| 1).getLsbD 0 = true := by
  rw [BitVec.getLsbD_or, show (1 : Word) = 1#64 from rfl, BitVec.getLsbD_one]
  simp

/-- The fields that QP_CTL written with ENABLE 1 takes of a queue pair that is enabled (R108, R127). -/
def writtenEnabled (v : Word) (k : Qp) : Qp := { k with irqAll := v.getLsbD 1, holdoffUs := bits v.toNat 63 56 }

theorem writeQpCtl_enabled {q : Nat} {v : Word} {w : W} (hen : (getQp w q).enable = true) : writeQpCtl q (v ||| 1) w =
    setQp q (writtenEnabled v (getQp w q)) w := by
  simp only [writeQpCtl, hen, getLsbD_or_one_zero, getLsbD_or_one v (i := 1) (by omega), bits_or_one v (hi := 63) (lo := 56) (by omega),
    Bool.not_true, Bool.false_and, Bool.false_eq_true, if_false, if_true]
  rfl

theorem modQp_modQp (q : Nat) (f g : Qp → Qp) (w : W) : modQp q g (modQp q f w) = setQp q (g (f (getQp w q))) w := by
  simp only [modQp, getQp_setQp, setQp_setQp]

/-- The fields that QP_CTL written with ENABLE 1 takes of a queue pair that is not enabled (R108). -/
def writtenQp (v : Word) (k : Qp) : Qp :=
  { k with irqAll := v.getLsbD 1, holdoffUs := bits v.toNat 63 56, ctx := bits v.toNat 27 16, sqLog2 := bits v.toNat 36 32
           cqLog2 := bits v.toNat 44 40 }

/-- A LOG2 that is not reserved. -/
def logOk (x : Nat) : Bool := decide (4 ≤ x) && decide (x ≤ 16)

theorem writeQpCtl_disabled {q : Nat} {v : Word} {w : W} (hen : (getQp w q).enable = false) : writeQpCtl q (v ||| 1) w =
    if !(logOk (bits v.toNat 36 32) && logOk (bits v.toNat 44 40)) then writeIgnored (0x110000 + 64 * q) (v ||| 1) w
    else enableQp q (if v.getLsbD 2 then settleCmds {} (resetQp q (setQp q (writtenQp v (getQp w q)) w))
      else setQp q (writtenQp v (getQp w q)) w) := by
  simp only [writeQpCtl, hen, getLsbD_or_one_zero, getLsbD_or_one v (i := 1) (by omega), getLsbD_or_one v (i := 2) (by omega),
    bits_or_one v (hi := 63) (lo := 56) (by omega), bits_or_one v (hi := 36) (lo := 32) (by omega),
    bits_or_one v (hi := 44) (lo := 40) (by omega), bits_or_one v (hi := 27) (lo := 16) (by omega),
    Bool.not_false, Bool.true_and, Bool.false_eq_true, if_false, if_true]
  simp only [modQp_modQp]
  rfl

theorem leaves_qpEnable {s : State} {q : Nat} {v : Word} {w : W} (hq : q < 8192) (hopen : portsOpen (openW s) = true)
    (h : writeQpCtl q (v ||| 1) (openW s) = w) : Leaves (.qpEnable q v) s w :=
  leaves_of (exec_qpEnable q v s) (by simp only [hq, hopen, decide_true, Bool.and_self, if_true, h])

/-- A row that leaves a transaction without a journal entry replaces the block. -/
theorem blocks_of_leaves {i : Instr} {s : State} {w : W} (h : Leaves i s w) (hjr : w.jr = []) : Blocks i s w.b := by
  rw [Leaves, closeW_of_jr_nil s w hjr] at h
  exact h

/-- Settles O5, by the bits a doorbell has valid, and by whether the queue pair is enabled. -/
theorem doorbellsAndQueuePairs : Obligations.DoorbellsAndQueuePairs := by
  refine ⟨?doorbell, ?holdoff, ?reset, ?enable⟩
  case doorbell =>
    intro s q v hq hopen
    refine ⟨fun h16 h48 => exec_idle (exec_doorbell q v s) (by
      simp only [doorbell, h16, h48, Bool.not_false, Bool.and_self, if_true, ite_self]), fun hvalid hno => ?_,
      fun hen hctx k hk => ⟨fun h16 htail => ?_, fun htail => ?_⟩⟩
    · refine leaves_doorbell hq hopen ?_
      have hsome : (!v.getLsbD 16 && !v.getLsbD 48) = false := by
        obtain h | h := hvalid
        · rw [h, Bool.not_true, Bool.false_and]
        · rw [h, Bool.not_true, Bool.and_false]
      have hbad : (!(getQp (openW s) q).enable || !ctxRuns (getCtx (openW s) (getQp (openW s) q).ctx)) = true := by
        obtain h | h := hno
        · rw [show (getQp (openW s) q).enable = false from h]; rfl
        · rw [show ctxRuns (getCtx (openW s) (getQp (openW s) q).ctx) = false from h, Bool.not_false, Bool.or_true]
      simp only [doorbell, hsome, hbad, Bool.false_eq_true, if_false, if_true]
    · refine leaves_doorbell hq hopen ?_
      have hgood : (!(getQp (openW s) q).enable || !ctxRuns (getCtx (openW s) (getQp (openW s) q).ctx)) = false := by
        rw [show (getQp (openW s) q).enable = true from hen, show ctxRuns (getCtx (openW s) (getQp (openW s) q).ctx) = true from hctx]; rfl
      have hbad : decide (2 ^ (getQp (openW s) q).sqLog2 ≤ bits v.toNat 15 0) = true := decide_eq_true htail
      simp only [doorbell, h16, hgood, hbad, Bool.not_true, Bool.false_and, Bool.and_self, Bool.false_eq_true, if_false, if_true]
    · have hgo := fun hvalid => doorbell_tail (w := openW s) hvalid hen hctx hk htail
      refine ⟨fun h48 hhead => leaves_doorbell hq hopen ?_, fun hhead hvalid => ?_⟩
      · rw [hgo (.inr h48), h48, if_neg (by simp), if_pos (by simpa using hhead)]
      · cases h48 : v.getLsbD 48 with
        | false =>
          have h16 : v.getLsbD 16 = true := hvalid.resolve_right (by rw [h48]; decide)
          refine blocks_of_leaves (leaves_doorbell hq hopen (w := setQp q k (openW s)) ?_) rfl
          rw [hgo hvalid, h48, h16]
          rfl
        | true =>
          obtain ⟨hlt, hle⟩ := hhead h48
          refine blocks_of_leaves (leaves_doorbell hq hopen (w := setQp q { k with cqHead := bits v.toNat 47 32 } (openW s)) ?_) rfl
          rw [hgo hvalid, h48, if_neg (by simp), if_neg (by simp; omega)]
  case holdoff =>
    intro s q
    refine ⟨fun h => ?_, fun h => exec_idle (exec_irqHoldoffExpiry q s) ?_⟩
    · have hholds : (getQp (openW s) q).holding = true := h
      refine blocks_of (exec_irqHoldoffExpiry q s) (w := setQp q _ (openW s)) ?_ rfl
      simp only [holdoffW, hholds, Bool.not_true, Bool.false_eq_true, if_false]
      rfl
    · have hno : (getQp (openW s) q).holding = false := h
      simp only [holdoffW, hno, Bool.not_false, if_true]
  case reset =>
    rintro s q x hq hopen rfl
    have hgo : qpResetW q (openW s) = if (getQp (openW s) q).enable then writeIgnored (0x110000 + 64 * q) 4 (openW s)
        else settleCmds {} (resetQp q (openW s)) := by
      rw [qpResetW, if_neg (by simp [hopen]; omega)]
    refine ⟨fun hen => leaves_of (exec_qpReset q s) ?_, fun hen => ?_⟩
    · rw [hgo]
      exact if_pos hen
    · rw [if_neg (by rw [show (getQp (openW s) q).enable = false from hen]; simp)] at hgo
      refine ⟨leaves_of (exec_qpReset q s) hgo, fun hcmds => ?_⟩
      refine blocks_of (exec_qpReset q s) (w := setQp q _ (openW s)) ?_ rfl
      rw [hgo, resetQp, failFences_none (fun k hk => (hcmds k hk).1)]
      exact settleCmds_none (fun k hk => (hcmds k hk).2)
  case enable =>
    intro s q v x hq hopen
    refine ⟨fun hen => blocks_of_leaves (leaves_qpEnable hq hopen (writeQpCtl_enabled hen)) rfl, fun hen => ?_⟩
    have hgo := leaves_qpEnable (s := s) (v := v) hq hopen (writeQpCtl_disabled hen)
    refine ⟨fun hlog => ?_, fun h1 h2 h3 h4 hx => ?_⟩
    · rwa [if_pos (by simp [logOk]; omega)] at hgo
    · have hx' : writtenQp v (getQp (openW s) q) = x := hx.symm
      rw [if_neg (by simp [logOk]; omega), hx'] at hgo
      refine ⟨fun h => ?_, fun h => ?_⟩
      · simpa only [h, if_true] using hgo
      · simp only [h, Bool.false_eq_true, if_false] at hgo
        refine ⟨fun hfine => ?_, fun cause hfails => ?_⟩
        · rw [enableQp, hfine] at hgo
          simp only [modQp, getQp_setQp, setQp_setQp] at hgo
          exact blocks_of_leaves hgo rfl
        · rw [enableQp, hfails] at hgo
          simp only [modQp, getQp_setQp, setQp_setQp] at hgo
          exact ⟨_, hgo, rfl⟩

end Sys2Proof.Machine
end

section
/-! PROOF. Enabling, disabling and resetting a context (R101 to R107). -/

namespace Sys2Proof.Machine

open Sys2Proof.Safety

/-- A register row acts while the window takes writes, on a unit that exists. -/
theorem gated_eq {n m : Nat} {w v u : W} (h : n < m) (hopen : portsOpen w = true) : (if n < m && portsOpen w then v else u) = v := by
  rw [if_pos (by simp [h, hopen])]

theorem exec_ctxEnable (x : Nat) (s : State) :
    exec (.ctxEnable x) s = run (fun w => if x < 4096 && portsOpen w then enableCtx x w else w) s := rfl

theorem exec_ctxReset (x : Nat) (env : Env) (s : State) :
    exec (.ctxReset x env) s = run (fun w => if x < 4096 && portsOpen w then ctxReset env x w else w) s := rfl

theorem exec_ctxDisable (x : Nat) (env : Env) (s : State) :
    exec (.ctxDisable x env) s = run (fun w => if x < 4096 && portsOpen w then disableCtx env x w else w) s := rfl

/-! ### ENABLE and RESET -/

theorem enableCtx_disabled {x : Nat} {w : W} (hx : 0 < x) (hstate : (getCtx w x).state = .disabled) :
    enableCtx x w = if (partOfCtx? w x).isSome then modCtx x (fun c => { c with state := .active, enable := true }) w
      else writeIgnored (0x200000 + 64 * x) 1 w := by
  simp only [enableCtx, hstate, if_neg (Nat.ne_of_gt hx)]

theorem enableCtx_frozen {x : Nat} {w : W} (hx : 0 < x) (hstate : (getCtx w x).state = .frozen) :
    enableCtx x w = modCtx x (fun c => { c with state := .retiring, enable := true }) w := by
  simp only [enableCtx, hstate, if_neg (Nat.ne_of_gt hx)]

theorem enableCtx_ignored {x : Nat} {w : W} (h : x = 0 ∨ (getCtx w x).state ∈ [CtxState.active, .retiring, .teardown]
    ∨ ((getCtx w x).state = .disabled ∧ partOfCtx? w x = none)) : enableCtx x w = writeIgnored (0x200000 + 64 * x) 1 w := by
  by_cases hx : x = 0
  · simp only [enableCtx, if_pos hx]
  · obtain h | h | ⟨hstate, hpart⟩ := h
    · exact absurd h hx
    · simp only [List.mem_cons, List.not_mem_nil, or_false] at h
      obtain h | h | h := h <;> simp only [enableCtx, h, if_neg hx]
    · rw [enableCtx_disabled (Nat.pos_of_ne_zero hx) hstate, hpart]
      rfl

theorem disableCtx_runs {env : Env} {x : Nat} {w : W} (hx : 0 < x) (hruns : ctxRuns (getCtx w x) = true) :
    disableCtx env x w = teardownActs env x (disablePoint x false w) := by
  simp only [disableCtx, hruns, Bool.not_true, Bool.or_false, decide_eq_true_eq, if_neg (Nat.ne_of_gt hx)]

theorem disableCtx_ignored {env : Env} {x : Nat} {w : W} (h : x = 0 ∨ ctxRuns (getCtx w x) = false) :
    disableCtx env x w = writeIgnored (0x200000 + 64 * x) 0 w := by
  rw [disableCtx, if_pos]
  obtain h | h := h <;> simp [h]

theorem ctxReset_runs {env : Env} {x : Nat} {w : W} (hx : 0 < x) (hruns : ctxRuns (getCtx w x) = true) :
    ctxReset env x w = teardownActs env x (disablePoint x true w) := by
  rw [ctxReset, if_pos (by simp [hruns]; omega)]

theorem ctxReset_frozen {env : Env} {x : Nat} {w : W} (hx : 0 < x) (hstate : (getCtx w x).state = .frozen) :
    ctxReset env x w = resetCtx env x w := by
  rw [ctxReset, if_neg (by simp [ctxRuns, hstate]), if_pos (by simp [hstate]; omega)]

theorem ctxReset_ignored {env : Env} {x : Nat} {w : W} (h : x = 0 ∨ (getCtx w x).state ∈ [CtxState.disabled, .teardown]) :
    ctxReset env x w = writeIgnored (0x200000 + 64 * x) 4 w := by
  by_cases hx : x = 0
  · subst hx
    rfl
  · have hstate := h.resolve_left hx
    simp only [List.mem_cons, List.not_mem_nil, or_false] at hstate
    obtain h | h := hstate <;> rw [ctxReset, if_neg (by simp [ctxRuns, h]), if_neg (by simp [h])]

/-- The reset of a context without queue pairs, while no command's outcome waits. -/
theorem resetCtx_alone {env : Env} {x : Nat} {w : W} (hqps : ∀ e ∈ w.b.qps, e.2.ctx ≠ x) (hcmds : ∀ k ∈ w.b.cmds, k.outc = none) :
    resetCtx env x w = modCtx x (fun c => { c with fault := false, faultCause := 0, faultQp := 0, tdLate := false, resetAfter := false }) w := by
  have hnone : w.b.qps.filter (fun q => q.2.ctx == x) = [] := List.filter_eq_nil_iff.mpr (fun e he => by simpa using hqps e he)
  simp only [resetCtx, hnone, List.map_nil, List.foldl_nil, settleCmds_none hcmds]

/-! ### The end of a teardown -/

/-- A context whose teardown has ended (R102, R105). -/
def tornCtx (owns late : Bool) (ns : Nat) (c : Ctx) : Ctx :=
  { c with state := if owns then .frozen else .disabled, tdNs := sat 0xFFFFFFFF ns, tdLate := c.tdLate || late }

/-- What the end of a teardown does. -/
def teardownDoneW (x ns : Nat) (env : Env) (w : W) : W :=
  if (getCtx w x).state != .teardown then w
  else
    let w := teardownActs env x w
    if committing w x || !(ctxCmds w x).isEmpty then w
    else
      let late := w.b.slices.any (fun s => s.2.md.any (fun m => m.who == .late x))
      let owns := !(rgnsOfCtx w x).isEmpty
      let reset := (getCtx w x).resetAfter
      let w := logOther 3 0 0 x [0x200018 + 64 * x, sat 0xFFFFFFFF ns, x] (modCtx x (tornCtx owns late ns) w)
      if reset then resetCtx env x w else w

theorem exec_teardownDone (x ns : Nat) (env : Env) (s : State) : exec (.teardownDone x ns env) s = run (teardownDoneW x ns env) s := rfl

theorem teardownDone_done {x ns : Nat} {env : Env} {w : W} (hstate : (getCtx w x).state = .teardown) (hacts : teardownActs env x w = w)
    (hcommit : committing w x = false) (hcmds : ctxCmds w x = []) (hreset : (getCtx w x).resetAfter = false) :
    ∃ late, teardownDoneW x ns env w = logOther 3 0 0 x [0x200018 + 64 * x, sat 0xFFFFFFFF ns, x]
      (modCtx x (tornCtx (!(rgnsOfCtx w x).isEmpty) late ns) w) := by
  refine ⟨w.b.slices.any (fun s => s.2.md.any (fun m => m.who == .late x)), ?_⟩
  simp only [teardownDoneW, hstate, hacts, hcommit, hcmds, hreset, bne_self_eq_false, List.isEmpty_nil, Bool.not_true, Bool.or_self,
    Bool.false_eq_true, if_false]

/-- Settles O7, by the state of the context. -/
theorem contextEnableDisable : Obligations.ContextEnableDisable := by
  refine ⟨?enable, ?reset, ?torn⟩
  case enable =>
    intro s x hx hopen
    have hgo := fun w (h : enableCtx x (openW s) = w) => leaves_of (exec_ctxEnable x s) ((gated_eq hx hopen).trans h)
    refine ⟨fun h0 hstate hpart => ?_, fun h0 hstate => ?_, fun h => hgo _ (enableCtx_ignored h)⟩
    · refine blocks_of_leaves (hgo _ ((enableCtx_disabled (w := openW s) h0 hstate).trans (if_pos hpart))) rfl
    · exact blocks_of_leaves (hgo _ (enableCtx_frozen h0 hstate)) rfl
  case reset =>
    intro s x env hx hopen
    have hreset := fun w (h : ctxReset env x (openW s) = w) => leaves_of (exec_ctxReset x env s) ((gated_eq hx hopen).trans h)
    have hdisable := fun w (h : disableCtx env x (openW s) = w) => leaves_of (exec_ctxDisable x env s) ((gated_eq hx hopen).trans h)
    refine ⟨fun h0 hstate => ⟨hreset _ (ctxReset_frozen h0 hstate), fun hqps hcmds => ?_⟩,
      fun h0 hruns => ⟨hreset _ (ctxReset_runs h0 hruns), hdisable _ (disableCtx_runs h0 hruns)⟩,
      fun h => hreset _ (ctxReset_ignored h), fun h => hdisable _ (disableCtx_ignored h)⟩
    exact blocks_of_leaves (hreset _ ((ctxReset_frozen (w := openW s) h0 hstate).trans (resetCtx_alone hqps hcmds))) rfl
  case torn =>
    intro s x ns env hstate hacts hcommit hcmds hreset
    obtain ⟨late, hgo⟩ := teardownDone_done (ns := ns) (w := openW s) hstate hacts hcommit hcmds hreset
    refine ⟨_, leaves_of (exec_teardownDone x ns env s) hgo, rfl, ?_, ?_, rfl⟩
    all_goals
      have hctx : ctxOf (closeW s (logOther 3 0 0 x [0x200018 + 64 * x, sat 0xFFFFFFFF ns, x]
          (modCtx x (tornCtx (!(rgnsOfCtx (openW s) x).isEmpty) late ns) (openW s)))) x
          = tornCtx (!(rgnsOfCtx (openW s) x).isEmpty) late ns (ctxOf s x) := tget_tset_same _ _ _ _
      rw [hctx]
    · cases h : (rgnsOfCtx (openW s) x).isEmpty <;> simp [tornCtx]
    · rfl

end Sys2Proof.Machine
end

section
/-! PROOF. Accumulator commands, REGION_RETIRE, Sounding, descriptors and end notices (R147, R152 to R154, R238, R239, R246). -/

namespace Sys2Proof.Machine

open Sys2Proof.Safety

/-! ### ACCUM_CLEAR, ACCUM_WRITE and DATUM_ADVANCE -/

/-- An ACCUM_CLEAR of tiles that are free clears them and completes (R239). -/
theorem accumClearGo_free {env : Env} {k : Cmd} {v w : W} {f n : Nat} {code : Rsp} (hbusy : auBusy v (arg k 0x10 2) = false)
    (hrange : tileRange? (getRgn v (arg k 0x10 2)) (arg k 0x18 8) (arg k 0x20 8) = some (f, n))
    (hfree : ∀ t, t < n → tileFree v (getRgn v (arg k 0x10 2)) 0 (f + t) = true) (hclear : clearTiles env (arg k 0x10 2) f n v = (code, w)) :
    accumClearGo env k v = done env k.id (rspStatus code) 0 [] (if code == .poison then markReplay k.ctx w else w) := by
  have hall : (List.range n).all (fun t => tileFree v (getRgn v (arg k 0x10 2)) 0 (f + t)) = true := by
    rw [List.all_eq_true]
    exact fun t ht => hfree t (List.mem_range.mp ht)
  simp only [accumClearGo, hrange, Option.getD_some, hbusy, hall, hclear, Bool.not_true, Bool.or_self, Bool.false_eq_true, if_false]

/-- A DATUM_ADVANCE that starts begins at the first of its lines. -/
theorem datumGo_first {env : Env} {k : Cmd} {w : W} (hbusy : auBusy w (arg k 0x10 2) = false) (hprog : k.prog = 0) :
    datumGo env k w = datumSteps env k (datumLines w k (getRgn w (arg k 0x10 2)).bank) w := by
  simp only [datumGo, hbusy, hprog, List.drop_zero, Bool.false_eq_true, if_false]

/-- Settles O10: each command passes its checks and goes on with its first step. -/
theorem datumCommandsAct : Obligations.DatumCommandsAct := by
  refine ⟨?clear, ?write, ?advance⟩
  case clear =>
    rintro s c env k ⟨hs, hc, hr, hop⟩ hpass hbusy f n code w hrange hfree hclear
    have hgo : Leaves (.accumClear c env) s (accumClearGo env k (begun s c k)) :=
      leaves_checked (i := .accumClear c env) (chk := accumClearCheck) rfl hs (isOp_of hop) hpass
    rwa [accumClearGo_free hbusy hrange hfree hclear, done, id_of_starts hs] at hgo
  case write =>
    rintro s c env k ⟨hs, hc, hr, hop⟩ hpass
    have hgo : Leaves (.accumWrite c env) s (accumWriteOn env k (begun s c k)) :=
      leaves_checked (i := .accumWrite c env) (chk := accumWriteCheck) rfl hs (isOp_of hop) hpass
    rwa [accumWriteOn] at hgo
  case advance =>
    rintro s c env k ⟨hs, hc, hr, hop⟩ hpass hbusy hprog
    obtain ⟨-, -, hinj, -⟩ := id hc
    have hk := begun_keeps hs hinj
    refine ⟨fun hmode => ?_, fun hmode => ?_, fun hmode => ?_⟩
    · rw [← datumGo_first hbusy hprog]
      exact leaves_checked (i := .datumAdvanceSet c env) (chk := datumCheck) rfl hs (by simp [isOp, hop, hmode]) hpass
    · rw [← datumGo_first hbusy hprog]
      exact leaves_checked (i := .datumAdvanceRecompute c env) (chk := datumCheck) rfl hs (by simp [isOp, hop, hmode]) hpass
    · have hgo := leaves_checked (i := .datumAdvanceMargin c env) (chk := datumCheck) (sel := fun k => isOp 0x35 k && arg k 0x12 1 == 2)
        (go := fun k w => done env k.id .ok 0 (toLe 8 0) (modRgn (arg k 0x10 2) (fun r => { r with margin := arg k 0x13 1 }) w)) rfl hs
        (by simp [isOp, hop, hmode]) hpass
      rw [done, id_of_starts hs, modRgn, hk.getRgn] at hgo
      exact ⟨_, hgo, finished_over _ hs hc hr rfl rfl hk.base hk.jr hk.build hk.slices (by rw [← hk.getCtx]; rfl) hk.fetches
        (by rw [← hk.ras]; rfl)⟩

/-! ### REGION_RETIRE -/

theorem retireCtx_active {x : Nat} {w : W} (h : (getCtx w x).state = .active) : retireCtx x w = w := by
  simp [retireCtx, h]

/-- The entry of an idle region that keeps no parity goes, and its PARITY region has no partner any more (R147). -/
theorem regionRetire_idle {env : Env} {k : Cmd} {v w : W} (hkind : (getRgn v (arg k 0x10 2)).kind ≠ .parity)
    (hsweeping : (getRgn v (arg k 0x10 2)).sweeping = false)
    (hw : w = setRgn (arg k 0x10 2) {} (match (getRgn v (arg k 0x10 2)).partner with
      | some p => modRgn p (fun x => { x with partner := none }) v
      | none => v))
    (hctx : (getCtx w k.ctx).state = .active) (hlisted : NothingListed w) : regionRetire env k v = done env k.id .ok 0 [] w := by
  have hpar : ((getRgn v (arg k 0x10 2)).kind == .parity) = false := beq_false_of_ne hkind
  simp only [regionRetire, hsweeping, hpar, Bool.false_eq_true, if_false]
  cases hp : (getRgn v (arg k 0x10 2)).partner <;>
  · rw [hp] at hw
    dsimp only at hw ⊢
    rw [← hw, retireCtx_active hctx, kickAll_nothingListed hlisted]

/-- Nothing is listed in the slices of a command that has just started. -/
theorem StartKeeps.nothingListed {s : State} {v w : W} (hv : StartKeeps s v) (hw : w.b.slices = v.b.slices)
    (h : ∀ e ∈ s.blk.slices, e.2.haz = [] ∧ e.2.need = [] ∧ e.2.chan = []) : NothingListed w := by
  intro p
  have hp := nothingListed_openW h p
  rw [getSlice, hw, hv.slices]
  exact hp

/-- Settles O14, by whether anything is held back by the region. -/
theorem regionRetireFreesTheEntry : Obligations.RegionRetireFreesTheEntry := by
  refine ⟨?alone, ?coded, ?other⟩
  case alone =>
    rintro s c env k r ⟨hs, hc, hr, hop⟩ hpass rfl hkind hpartner hsweeping hactive hslices
    obtain ⟨-, -, hinj, -⟩ := id hc
    have hk := begun_keeps hs hinj
    have hgo : Leaves (.regionRetire c env) s (regionRetire env k (begun s c k)) :=
      leaves_checked (i := .regionRetire c env) (chk := retireCheck) rfl hs (isOp_of hop) hpass
    have hctx : (getCtx (setRgn (arg k 0x10 2) {} (begun s c k)) k.ctx).state = .active := by
      rw [← hactive, ← hk.getCtx]; rfl
    rw [regionRetire_idle (w := setRgn (arg k 0x10 2) {} (begun s c k)) (by rw [hk.getRgn]; exact hkind) (by rw [hk.getRgn]; exact hsweeping)
      (by rw [hk.getRgn, hpartner]) hctx (hk.nothingListed rfl hslices), done, id_of_starts hs] at hgo
    exact ⟨_, hgo, finished_over _ hs hc hr rfl rfl hk.base hk.jr hk.build hk.slices (by rw [hctx, hactive]) hk.fetches
      (by rw [← hk.ras]; rfl)⟩
  case coded =>
    rintro s c env k r p ⟨hs, hc, hr, hop⟩ hpass rfl hkind hpartner hp hsweeping hactive hslices
    obtain ⟨-, -, hinj, -⟩ := id hc
    have hk := begun_keeps hs hinj
    have hgo : Leaves (.regionRetire c env) s (regionRetire env k (begun s c k)) :=
      leaves_checked (i := .regionRetire c env) (chk := retireCheck) rfl hs (isOp_of hop) hpass
    obtain ⟨w, hw⟩ : ∃ w, w = setRgn (arg k 0x10 2) {} (setRgn p { rgnOf s p with partner := none } (begun s c k)) := ⟨_, rfl⟩
    have hctx : (getCtx w k.ctx).state = .active := by
      rw [← hactive, ← hk.getCtx, hw]; rfl
    rw [regionRetire_idle (w := w) (by rw [hk.getRgn]; exact hkind) (by rw [hk.getRgn]; exact hsweeping)
      (by rw [hk.getRgn, hpartner, hw]; dsimp only; rw [modRgn, hk.getRgn]) hctx (hk.nothingListed (by rw [hw]; rfl) hslices), done,
      id_of_starts hs] at hgo
    subst hw
    exact ⟨_, hgo, finished_over _ hs hc hr rfl rfl hk.base hk.jr hk.build hk.slices (by rw [hctx, hactive]) hk.fetches
      (by rw [← hk.ras]; rfl)⟩
  case other =>
    rintro s c env k ⟨hs, hc, hr, hop⟩ hpass
    exact leaves_checked (i := .regionRetire c env) (chk := retireCheck) rfl hs (isOp_of hop) hpass

/-! ### Sounding -/

/-- What an occurrence of a Sounding's stream does (R152, R154). -/
def soundingStreamW (r : Nat) (env : Env) (w : W) : W :=
  match streamStep env .sound r w with
  | (.failed c f, w) => failSound env r (soundFailure c f) w
  | (_, w) => endStream .sound r w

/-- What the end of a Sounding does (R152, R171). -/
def soundingCompleteW (r : Nat) (env : Env) (w : W) : W :=
  let w := countEnds (endStream .sound r w)
  match findStream w .sound r with
  | none => w
  | some st =>
    if !(st.endSent && allEnds w st) then w
    else
      let w := setBearing r 1 (dropStream .sound r (modRgn r (fun x => { x with state := .sounded }) w))
      outcome env st.cmd { status := .ok, result := toLe 8 st.next } (kickAll w)

/-- What the time of a Sounding does (R154). -/
def soundingTimeoutW (r : Nat) (env : Env) (w : W) : W :=
  match findStream w .sound r with
  | some st => if !allDescs w st || (st.endSent && !allEnds w st) then failSound env r { status := .timeout } w else w
  | none => w

theorem exec_soundingStream (r : Nat) (env : Env) (s : State) : exec (.soundingStream r env) s = run (soundingStreamW r env) s := rfl
theorem exec_soundingComplete (r : Nat) (env : Env) (s : State) : exec (.soundingComplete r env) s = run (soundingCompleteW r env) s := rfl
theorem exec_soundingTimeout (r : Nat) (env : Env) (s : State) : exec (.soundingTimeout r env) s = run (soundingTimeoutW r env) s := rfl

/-- Settles O15: each row is the meaning of its stage of the stream. -/
theorem soundingRuns : Obligations.SoundingRuns := by
  refine ⟨?start, ?stream, ?complete, ?timeout⟩
  case start =>
    rintro s c env k ⟨hs, hc, hr, hop⟩ hpass
    exact leaves_checked (i := .regionSound c env) (chk := soundCheck) rfl hs (isOp_of hop) hpass
  case stream =>
    intro s r env w
    refine ⟨fun code f h => leaves_of (exec_soundingStream r env s) ?_, fun h => leaves_of (exec_soundingStream r env s) ?_⟩ <;>
      simp only [soundingStreamW, h]
  case complete =>
    rintro s r env st w rfl hfind
    refine ⟨fun hno => leaves_of (exec_soundingComplete r env s) ?_, fun hsent hends => leaves_of (exec_soundingComplete r env s) ?_⟩
    · have hnot : (st.endSent && allEnds (countEnds (endStream .sound r (openW s))) st) = false := by
        obtain h | h := hno <;> simp [h]
      simp only [soundingCompleteW, hfind, hnot, Bool.not_false, if_true]
    · simp only [soundingCompleteW, hfind, hsent, hends, Bool.and_self, Bool.not_true, Bool.false_eq_true, if_false]
      rfl
  case timeout =>
    intro s r env st hfind hwaits
    refine leaves_of (exec_soundingTimeout r env s) ?_
    have hlate : (!allDescs (openW s) st || (st.endSent && !allEnds (openW s) st)) = true := by
      obtain h | ⟨h, h'⟩ := hwaits
      · simp [h]
      · simp [h, h']
    simp only [soundingTimeoutW, hfind, hlate, if_true]

/-! ### Descriptors and end notices -/

/-- What an accepted descriptor does (R152, R153). -/
def descAct (env : Env) (pk : Packet) (w : W) : W :=
  match formFrom w pk with
  | none => w
  | some (gi, g, m) =>
    if !senderLive g m then w
    else
      let body := bytesAt pk.payload 32 56
      let base := fld body 0 8
      let w := match (codedByBase w gi base).bind (fun x => x.2.partner) with
        | some pi => discardPartner pi (fun i => i == m) w
        | none => w
      let d : DescHeld := { g := gi, src := m, base := base, sepoch := fld pk.payload 0xB 1, body := body, seqs := seqFields body 36 }
      let w := { w with b.descs := w.b.descs.filter (fun x => !(x.g == gi && x.src == m && x.base == base)) ++ [d] }
      streamsGo env gi (addCutoffs gi g m body w)

/-- What an accepted end notice does (R152). -/
def endNoticeAct (env : Env) (pk : Packet) (w : W) : W :=
  match formFrom w pk with
  | none => w
  | some (gi, g, m) =>
    if !senderLive g m then w
    else
      let x := fld pk.payload 32 4
      let e : EndHeld := { g := gi, src := m, sepoch := fld pk.payload 0xB 1
                           seq := if x.testBit 31 then some (x % 2 ^ 24) else none }
      streamsGo env gi (countEnds { w with b.ends := w.b.ends ++ [e] })

theorem exec_desc (rx : Rx) (env : Env) (s : State) : exec (.desc rx env) s = run (formRow rx 1 (descAct env)) s := rfl
theorem exec_endNotice (rx : Rx) (env : Env) (s : State) : exec (.endNotice rx env) s = run (formRow rx 2 (endNoticeAct env)) s := rfl

/-- Settles O16: each row acts on the packet its checks accept. -/
theorem descriptorsAndEndNotices : Obligations.DescriptorsAndEndNotices := by
  refine ⟨?desc, ?notice⟩
  case desc =>
    intro s rx env pk w gi g m hacc hfrom hlive
    refine leaves_of (exec_desc rx env s) ((formRow_accepted hacc).trans ?_)
    simp only [descAct, hfrom, hlive, Bool.not_true, Bool.false_eq_true, if_false] <;> rfl
  case notice =>
    intro s rx env pk w gi g m hacc hfrom hlive
    refine leaves_of (exec_endNotice rx env s) ((formRow_accepted hacc).trans ?_)
    simp only [endNoticeAct, hfrom, hlive, Bool.not_true, Bool.false_eq_true, if_false]

end Sys2Proof.Machine
end

section
/-! PROOF. Commands and packets of a Watch (R194 to R211). -/

namespace Sys2Proof.Machine

open Sys2Proof.Safety

/-! ### The commands -/

/-- The phase check of a command that has just started reads the Watch as it was (R195). -/
theorem inPhase_begun {s : State} {c : CmdId} {k : Cmd} (hs : Starts s c k) (hinj : s.blk.ras.inj = []) (l : List Phase) :
    inPhase (begun s c k) k l = if l.contains (ctxOf s k.ctx).watch.phase then none else fail .watchState 0x41 := by
  rw [inPhase, (begun_keeps hs hinj).getWatch]

/-- A command of a Watch that starts in one of its phases. -/
theorem leaves_inPhase {i : Instr} {s : State} {c : CmdId} {k : Cmd} {env : Env} {op : Nat} {l : List Phase} {go goOn : Cmd → W → W}
    (hrow : exec i s = run (thenColl env (cmdRow c (isOp op) env (fun k w => checked env k (inPhase w k l) (go k) w) goOn)) s)
    (hs : Starts s c k) (hinj : s.blk.ras.inj = []) (hop : opOf k = op) (hphase : (ctxOf s k.ctx).watch.phase ∈ l) :
    Leaves i s (collWaiting env (go k (begun s c k))) := by
  have hpass : inPhase (begun s c k) k l = none := by
    rw [inPhase_begun hs hinj, if_pos (List.contains_iff_mem.mpr hphase)]
  rw [Leaves, hrow, run_next, thenColl, cmdRow_starts s c k _ env _ goOn hs (isOp_of hop)]
  simp only [checked, hpass]

/-- A command of a Watch that starts in another phase. -/
theorem leaves_otherPhase {i : Instr} {s : State} {c : CmdId} {k : Cmd} {env : Env} {op : Nat} {l : List Phase} {go goOn : Cmd → W → W}
    (hrow : exec i s = run (thenColl env (cmdRow c (isOp op) env (fun k w => checked env k (inPhase w k l) (go k) w) goOn)) s)
    (hs : Starts s c k) (hinj : s.blk.ras.inj = []) (hop : opOf k = op) (hphase : (ctxOf s k.ctx).watch.phase ∉ l) :
    Leaves i s (collWaiting env (complete env false c { status := .watchState, info := 0x41 } (begun s c k))) := by
  have hfail : inPhase (begun s c k) k l = some { status := .watchState, info := 0x41 } := by
    rw [inPhase_begun hs hinj, if_neg (by simpa using hphase)]
    rfl
  rw [Leaves, hrow, run_next, thenColl, cmdRow_starts s c k _ env _ goOn hs (isOp_of hop)]
  simp only [checked, hfail, id_of_starts hs]

/-- A command of a Watch that runs goes on. -/
theorem leaves_watchGoOn {i : Instr} {s : State} {c : CmdId} {k : Cmd} {env : Env} {op : Nat} {start goOn : Cmd → W → W}
    (hrow : exec i s = run (thenColl env (cmdRow c (isOp op) env start goOn)) s) (hs : Runs s c k) (hop : opOf k = op) :
    Leaves i s (collWaiting env (goOn k (openW s))) := by
  rw [Leaves, hrow, run_next, thenColl, cmdRow_runs s c k _ env start goOn hs (isOp_of hop)]

/-- WATCH_ABANDON of an open Watch that no ending has begun on (R210). -/
theorem abandonGo_begins {env : Env} {k : Cmd} {w : W} (hphase : (getWatch w k.ctx).phase ≠ .idle) (hending : (getWatch w k.ctx).ending = none) :
    abandonGo env k w = endGo env k.ctx (abandonBegin env k.ctx 5 (some k.id) (sendNotice k.ctx 2 w)) := by
  have hidle : ((getWatch w k.ctx).phase == .idle) = false := beq_false_of_ne hphase
  simp only [abandonGo, hidle, hending, Option.isSome_none, Bool.false_eq_true, if_false]

/-! ### The timers -/

theorem exec_pollTimeout (x : Nat) (env : Env) (s : State) :
    exec (.pollTimeout x env) s = run (fun w => if (getWatch w x).phase == .polling then pollFail env x .timeout w else w) s := rfl

theorem exec_closeTimeout (x : Nat) (env : Env) (s : State) :
    exec (.closeTimeout x env) s = run (fun w => if (getWatch w x).phase == .closing then closeFail env x .timeout w else w) s := rfl

theorem pollFail_eq {env : Env} {x : Nat} {st : Status} {w : W} {c : CmdId} (h : (getWatch w x).pollCmd = some c) :
    pollFail env x st w = done env c st 0 [] (modWatch x (fun k => { k with phase := .opened, pollCmd := none }) w) := by
  rw [pollFail, h]

theorem closeFail_eq {env : Env} {x : Nat} {st : Status} {w : W} {c : CmdId} (h : (getWatch w x).closeCmd = some c) :
    closeFail env x st w = done env c st 0 [] (modWatch x (fun k => { k with closeCmd := none }) w) := by
  rw [closeFail, h]

/-- What CLOSE_BARRIER does before the packets of collectives are looked at again (R208). -/
def closeBarrierW (env : Env) (x : Nat) (w : W) : W :=
  let k := getWatch w x
  match k.phase, k.closeCmd with
  | .closing, some c =>
    if k.ending.isSome then w
    else if k.barRun.isSome then closeGo env x w
    else if closeReady w x c then startBarrier env x w else w
  | _, _ => w

theorem exec_closeBarrier (x : Nat) (env : Env) (s : State) : exec (.closeBarrier x env) s = run (thenColl env (closeBarrierW env x)) s := rfl

theorem closeBarrierW_closing {env : Env} {x : Nat} {c : CmdId} {w : W} (hphase : (getWatch w x).phase = .closing)
    (hcmd : (getWatch w x).closeCmd = some c) (hending : (getWatch w x).ending = none) : closeBarrierW env x w =
      if (getWatch w x).barRun.isSome then closeGo env x w else if closeReady w x c then startBarrier env x w else w := by
  simp only [closeBarrierW, hphase, hcmd, hending, Option.isSome_none, Bool.false_eq_true, if_false]

theorem closeBarrierW_other {env : Env} {x : Nat} {w : W} (hphase : (getWatch w x).phase ≠ .closing) : closeBarrierW env x w = w := by
  simp only [closeBarrierW]
  split
  · case h_1 h _ => exact absurd h hphase
  · rfl

/-- Settles O18, by the phase of the Watch. -/
theorem watchPollAndClose : Obligations.WatchPollAndClose := by
  refine ⟨?poll, ?close, ?abandon, ?runs, ?timers, ?barrier⟩
  case poll =>
    rintro s c env k ⟨hs, ⟨-, -, hinj, -⟩, -, hop⟩
    exact ⟨fun h => leaves_inPhase (i := .watchPoll c env) rfl hs hinj hop (by simp [h]),
      fun h => leaves_otherPhase (i := .watchPoll c env) rfl hs hinj hop (by simpa using h)⟩
  case close =>
    rintro s c env k ⟨hs, ⟨-, -, hinj, -⟩, -, hop⟩
    exact ⟨fun h => leaves_inPhase (i := .watchClose c env) rfl hs hinj hop h,
      fun h => leaves_otherPhase (i := .watchClose c env) rfl hs hinj hop h⟩
  case abandon =>
    rintro s c env k ⟨hs, ⟨-, -, hinj, -⟩, -, hop⟩
    refine ⟨fun h hending => ?_, fun h => leaves_otherPhase (i := .watchAbandon c env) rfl hs hinj hop h⟩
    have hk := begun_keeps hs hinj
    have hgo : Leaves (.watchAbandon c env) s (collWaiting env (abandonGo env k (begun s c k))) :=
      leaves_inPhase (i := .watchAbandon c env) (go := abandonGo env) rfl hs hinj hop h
    rwa [abandonGo_begins (by rw [hk.getWatch]; intro hidle; rw [hidle] at h; revert h; decide) (by rw [hk.getWatch]; exact hending),
      id_of_starts hs] at hgo
  case runs =>
    intro s c env k hs
    exact ⟨fun hop => leaves_watchGoOn (i := .watchPoll c env) (goOn := fun k w => pollGo env k.ctx w) rfl hs hop,
      fun hop => leaves_watchGoOn (i := .watchClose c env) (goOn := fun k w => closeGo env k.ctx w) rfl hs hop,
      fun hop => leaves_watchGoOn (i := .watchAbandon c env) (goOn := abandonGo env) rfl hs hop⟩
  case timers =>
    intro s x env c
    refine ⟨fun hphase hcmd => leaves_of (exec_pollTimeout x env s) ?_, fun hphase => idle_of (exec_pollTimeout x env s) ?_,
      fun hphase hcmd => leaves_of (exec_closeTimeout x env s) ?_, fun hphase => idle_of (exec_closeTimeout x env s) ?_⟩
    · rw [getWatch_openW, hphase]
      exact (if_pos rfl).trans (pollFail_eq hcmd)
    · exact if_neg (by rw [getWatch_openW]; simpa using hphase)
    · rw [getWatch_openW, hphase]
      exact (if_pos rfl).trans (closeFail_eq hcmd)
    · exact if_neg (by rw [getWatch_openW]; simpa using hphase)
  case barrier =>
    intro s x env c hcmd hending
    have hleave := fun w (h : closeBarrierW env x (openW s) = w) =>
      leaves_of (exec_closeBarrier x env s) (show thenColl env (closeBarrierW env x) (openW s) = collWaiting env w by rw [thenColl, h])
    refine ⟨fun hphase hrun => hleave _ ?_, fun hphase hrun hready => hleave _ ?_, fun hphase => hleave _ (closeBarrierW_other hphase)⟩
    · exact (closeBarrierW_closing (w := openW s) hphase hcmd hending).trans (if_pos hrun)
    · refine (closeBarrierW_closing (w := openW s) hphase hcmd hending).trans ?_
      rw [getWatch_openW, hrun, hready]
      rfl

/-! ### The packets -/

/-- A packet row for an opcode and a kind acts on the packet that passes its checks. -/
theorem onKind_accepted {rx : Rx} {op : Nat} {kind : Bytes → Bool} {act : Packet → W → W} {v w : W} {pk : Packet}
    (h : accepted v rx op kind = some (pk, w)) : onKind rx op kind act v = act pk w := by
  simp only [accepted] at h
  split at h
  · case isTrue htest =>
    cases hrx : receive rx v with
    | mk p u =>
      cases p with
      | none => simp [hrx] at h
      | some p =>
        simp only [hrx, Option.some.injEq, Prod.mk.injEq] at h
        obtain ⟨rfl, rfl⟩ := h
        exact onPacket_receives htest hrx
  · contradiction

theorem leaves_watchPacket {i : Instr} {s : State} {env : Env} {rx : Rx} {op : Nat} {kind : Bytes → Bool} {act : Packet → W → W} {w : W}
    {pk : Packet} (hrow : exec i s = run (thenColl env (onKind rx op kind act)) s) (h : accepted (openW s) rx op kind = some (pk, w)) :
    Leaves i s (collWaiting env (act pk w)) :=
  leaves_of hrow (by rw [thenColl, onKind_accepted h])

/-- What a group Bearing does: the first contribution of a member counts (R201, R219). -/
def groupBearingAct (env : Env) (pk : Packet) (w : W) : W :=
  onInstance pk (fun x w => closeGo env x (modWatch x (fun k =>
    if k.contribs.any (fun c => c.dgn == pk.hdr.group.toNat && c.member == pk.hdr.member.toNat % 16) then k
    else { k with contribs := k.contribs ++ [{ dgn := pk.hdr.group.toNat, member := pk.hdr.member.toNat % 16
                                               value := BitVec.ofNat 64 (fld pk.payload 0x20 8) }] }) w)) w

/-- Settles O20: each row acts on the packet its checks accept. -/
theorem watchPackets : Obligations.WatchPackets :=
  ⟨fun _ rx env _ _ h => leaves_watchPacket (i := .poll rx env)
      (act := fun pk w => onInstance pk (fun x w => pollGo env x (holdRound x false pk w)) w) rfl h,
    fun _ rx env _ _ h => leaves_watchPacket (i := .barrier rx env)
      (act := fun pk w => onInstance pk (fun x w => closeGo env x (holdRound x true pk w)) w) rfl h,
    fun _ rx env _ _ h => leaves_watchPacket (i := .groupBearing rx env) (act := groupBearingAct env) rfl h,
    fun _ rx env _ _ h => leaves_watchPacket (i := .abandonNotice rx env) (act := onNotice env 2) rfl h,
    fun _ rx env _ _ h => leaves_watchPacket (i := .tornNotice rx env) (act := onNotice env 3) rfl h⟩

end Sys2Proof.Machine
end

section
/-! PROOF. Quiescing a slice, SERVE, and draining a state engine (R356, R357, R375, R376, R434). -/

namespace Sys2Proof.Machine

open Sys2Proof.Safety

/-! ### Quiescing a slice -/

theorem exec_quiesce (p : Nat) (s : State) :
    exec (.quiesce p) s = run (fun w => if p < w.build.nmp && allWritable w then quiesceOn p w else w) s := rfl

theorem exec_quiesceExpired (p : Nat) (clock : Bool) (s : State) : exec (.quiesceExpired p clock) s =
    run (fun w => if (getSlice w p).quiesce then quiesceOff p clock (logEv 0x0101 0 p 0 [0, p] w) else w) s := rfl

theorem exec_quiesceCleared (p : Nat) (clock : Bool) (s : State) :
    exec (.quiesceCleared p clock) s = run (fun w => if p < w.build.nmp && allWritable w then quiesceOff p clock w else w) s := rfl

/-- What the clock of a memory port does when it toggles again (R434). -/
def clockResumedW (p : Nat) (w : W) : W :=
  if (getSlice w p).noClock then wakeSlices (modSlice p (fun s => { s with noClock := false }) (noteClock p true w)) else w

theorem exec_memClockResumed (p : Nat) (s : State) : exec (.memClockResumed p) s = run (clockResumedW p) s := rfl

/-- Nothing of a slice's HOST units is open. -/
theorem closeHostUnits_none {p : Nat} {test : CUnit → Bool} {w : W} (h : (getSlice w p).hostUnits = []) : closeHostUnits p test w = w := by
  rw [closeHostUnits, h]
  rfl

/-- A slice that quiesces. -/
def quiescing (x : Slice) : Slice := { x with quiesce := true }

/-- QUIESCE written 1 to a slice with nothing to flush or to close (R376). -/
theorem quiesceOn_idle {p : Nat} {w : W} (hno : (getSlice w p).quiesce = false) (hmerge : (getSlice w p).merge = [])
    (hunits : (getSlice w (pathOf w p)).hostUnits = []) : quiesceOn p w = setSlice p (quiescing (getSlice w p)) w := by
  have hunits' : (getSlice (setSlice p (quiescing (getSlice w p)) w) (pathOf w p)).hostUnits = [] := by
    by_cases h : pathOf w p = p
    · rw [h, getSlice_setSlice]
      rw [h] at hunits
      exact hunits
    · rw [show getSlice (setSlice p (quiescing (getSlice w p)) w) (pathOf w p) = getSlice w (pathOf w p) from
        tget_tset_other _ _ _ _ _ h]
      exact hunits
  have hmerge' : (getSlice (setSlice p (quiescing (getSlice w p)) w) p).merge = [] := by
    rw [getSlice_setSlice]
    exact hmerge
  have hflush : quiesceOn p w = closeHostUnits (pathOf w p) (fun _ => true)
      ((getSlice (setSlice p (quiescing (getSlice w p)) w) p).merge.foldl (fun w m =>
        kickLine p m.line ((hazAt (flushEntry p m w) p m.line).length + 2) (flushEntry p m w)) (setSlice p (quiescing (getSlice w p)) w)) := by
    rw [quiesceOn, if_neg (by rw [hno]; decide)]
    dsimp only
    rw [show modSlice p (fun s => { s with quiesce := true }) w = setSlice p (quiescing (getSlice w p)) w from rfl, hmerge']
    rfl
  rw [hflush, hmerge']
  exact closeHostUnits_none hunits'

/-- A quiesced slice whose clock has not toggled stays without clock (R434). -/
def stoppedSlice (x : Slice) : Slice := { x with quiesce := false, noClock := true }

theorem quiesceOff_stays {p : Nat} {w : W} (hq : (getSlice w p).quiesce = true) (hquiet : isQuiesced (getSlice w p) = true) :
    quiesceOff p false w = logEv 0x0A01 1 p 0 [0, p] (noteClock p false (setSlice p (stoppedSlice (getSlice w p)) w)) := by
  simp only [quiesceOff, hq, hquiet, Bool.not_true, Bool.not_false, Bool.and_self, Bool.false_eq_true, if_false, if_true]
  rfl

/-- Settles O26, by whether the slice is quiesced and its clock stopped. -/
theorem slicesQuiesce : Obligations.SlicesQuiesce := by
  refine ⟨?on, ?off, ?clock⟩
  case on =>
    intro s p hopen hp
    have hgate : (decide (p < (openW s).build.nmp) && allWritable (openW s)) = true := by
      rw [allWritable, hopen, Bool.and_true]
      exact decide_eq_true hp
    have hgo : Leaves (.quiesce p) s (quiesceOn p (openW s)) := leaves_of (exec_quiesce p s) (if_pos hgate)
    refine ⟨fun h => idle_of (exec_quiesce p s) ((if_pos hgate).trans (if_pos h)), fun h => ⟨hgo, fun hmerge hunits => ?_⟩⟩
    rw [quiesceOn_idle (w := openW s) h hmerge hunits] at hgo
    exact blocks_of_leaves hgo rfl
  case off =>
    intro s p clock
    refine ⟨fun h => idle_of (exec_quiesceExpired p clock s) (if_neg ?_), fun h => ⟨leaves_of (exec_quiesceExpired p clock s) (if_pos h),
      fun hopen hp => ?_⟩⟩
    · rw [show (getSlice (openW s) p).quiesce = false from h]
      decide
    · have hgate : (decide (p < (openW s).build.nmp) && allWritable (openW s)) = true := by
        rw [allWritable, hopen, Bool.and_true]
        exact decide_eq_true hp
      refine ⟨leaves_of (exec_quiesceCleared p clock s) (if_pos hgate), fun hquiet => ?_⟩
      have hgo := leaves_of (exec_quiesceCleared p false s) ((if_pos hgate).trans (quiesceOff_stays (w := openW s) h hquiet))
      have hslice : sliceOf (closeW s (logEv 0x0A01 1 p 0 [0, p] (noteClock p false (setSlice p (stoppedSlice (getSlice (openW s) p)) (openW s))))) p
          = stoppedSlice (sliceOf s p) := tget_tset_same _ _ _ _
      exact ⟨_, hgo, rfl, by rw [hslice]; rfl, by rw [hslice]; rfl, rfl⟩
  case clock =>
    intro s p
    refine ⟨fun h => idle_of (exec_memClockResumed p s) (if_neg ?_), fun h => leaves_of (exec_memClockResumed p s) (if_pos h)⟩
    rw [show (getSlice (openW s) p).noClock = false from h]
    decide

/-! ### SERVE -/

theorem exec_serveOn (s : State) : exec .serveOn s = run (fun w => if writable w then writeServe {} true w else w) s := rfl
theorem exec_serveOff (env : Env) (s : State) : exec (.serveOff env) s = run (fun w => if writable w then writeServe env false w else w) s := rfl

theorem writable_of {w : W} (h : w.b.glb.state ≠ .reset) : writable w = true := by simpa [writable] using h

/-- No slice has anything to flush, to close or to go on with. -/
def SlicesIdle (w : W) : Prop := NothingListed w ∧ ∀ e ∈ w.b.slices, e.2.merge = [] ∧ (getSlice w e.1).hostUnits = []

/-- A block with idle slices and without runs leaves SERVICE by its state alone. -/
theorem leaveService_idle {env : Env} {to_ : BlockState} {w : W} (hslices : SlicesIdle w) (hruns : w.b.eng.runs = [])
    (hses : w.b.eng.ses = []) : leaveService env to_ w = setState to_ w := by
  obtain ⟨hlisted, hquiet⟩ := hslices
  have hclose : w.b.slices.foldl (fun w s => closeHostUnits s.1 (fun _ => true) w) w = w :=
    foldl_idle (fun e he => closeHostUnits_none (hquiet e he).2)
  have hmerge : flushMerges (fun _ => true) w = w :=
    foldl_idle (fun e he => by rw [(hquiet e he).1]; rfl)
  have habort : abortRuns (fun _ => true) (setState to_ w) = setState to_ w := abortRuns_none hruns hses
  have hend : endRuns env (setState to_ w) = setState to_ w := endRuns_none hruns
  have hkick : kickAll (setState to_ w) = setState to_ w := kickAll_nothingListed hlisted
  simp only [leaveService, hclose, hmerge, habort, hend, hkick]

/-- SERVE written 1 where its conditions hold (R357). -/
theorem writeServe_on {env : Env} {w : W} (h : mayServe w = true) : writeServe env true w =
    logOther 0x0C 0 0 0 [0x10, 1, stateCode .service] (setState .service { w with b := { w.b with glb := { w.b.glb with serve := true } } }) := by
  rw [writeServe, if_pos rfl, if_pos h]
  rfl

/-- Settles O27, by the conditions of the write; leaving service finds nothing listed in idle slices. -/
theorem servingStartsAndStops : Obligations.ServingStartsAndStops := by
  refine ⟨?on, ?ignored, ?off⟩
  case on =>
    intro s hstate hhelm hkey hport hlink
    obtain ⟨p, hp, hpass⟩ := hport
    obtain ⟨l, hl, hworks⟩ := hlink
    have hports : (List.range s.build.nmp).any (fun p => !s.blk.glb.stfail1.getLsbD p) = true :=
      List.any_eq_true.mpr ⟨p, List.mem_range.mpr hp, by rw [hpass]; rfl⟩
    have hlinks : (List.range s.build.nlp).any (lpWorks (openW s)) = true := List.any_eq_true.mpr ⟨l, List.mem_range.mpr hl, hworks⟩
    have hmay : mayServe (openW s) = true := by
      simp only [mayServe, openW_b, openW_build, hstate, hhelm, hkey, hports, hlinks, beq_self_eq_true, Bool.and_self]
    exact ⟨_, leaves_of (exec_serveOn s) ((if_pos (writable_of (w := openW s) (by rw [openW_b, hstate]; decide))).trans
      (writeServe_on hmay)), rfl, rfl, rfl, rfl⟩
  case ignored =>
    intro s env hstate
    have hw := writable_of (w := openW s) hstate
    refine ⟨fun hno => leaves_of (exec_serveOn s) ((if_pos hw).trans ?_), fun hno => leaves_of (exec_serveOff env s) ((if_pos hw).trans ?_)⟩
    · simp only [writeServe, hno, Bool.false_eq_true, if_false, if_true]
    · simp only [writeServe, hno, Bool.false_eq_true, if_false]
  case off =>
    rintro s env w hstate hgrps hctxs hw
    have hmay : mayStopServing (openW s) = true := by
      have h1 : s.blk.grps.all (fun g => g.2.state == .free) = true := List.all_eq_true.mpr (fun g hg => by simpa using hgrps g hg)
      have h2 : s.blk.ctxs.all (fun c => c.2.watch.phase == .idle) = true := List.all_eq_true.mpr (fun c hc => by simpa using hctxs c hc)
      simp only [mayStopServing, openW_b, hstate, h1, h2, beq_self_eq_true, Bool.and_self]
    have hgo : Leaves (.serveOff env) s (logOther 0x0C 0 0 0 [0x10, 0, stateCode w.b.glb.state] w) := by
      refine leaves_of (exec_serveOff env s) ((if_pos (writable_of (w := openW s) (by rw [openW_b, hstate]; decide))).trans ?_)
      simp only [writeServe, hmay, Bool.false_eq_true, if_false, if_true, hw]
      rfl
    refine ⟨hgo, fun hruns hses hslices => ?_⟩
    have hidle : SlicesIdle { openW s with b := { s.blk with glb := { s.blk.glb with serve := false } } } := by
      refine ⟨nothingListed_openW (fun e he => ?_), fun e he => ⟨(hslices e he).1, ?_⟩⟩
      · obtain ⟨-, -, hlisted⟩ := hslices e he
        exact hlisted
      · show (tget s.blk.slices e.1 {}).hostUnits = []
        rw [tget]
        cases hfind : tfind s.blk.slices e.1 with
        | none => rfl
        | some x => exact (hslices (e.1, x) (mem_of_tfind hfind)).2.1
    rw [hw, leaveService_idle hidle hruns hses] at hgo
    exact ⟨_, hgo, rfl, rfl, rfl⟩

/-! ### State engines -/

theorem exec_seDrain (e : Nat) (s : State) :
    exec (.seDrain e) s = run (fun w => if e < w.build.nse && allWritable w then writeSeCtl e 1 w else w) s := rfl

theorem exec_seReadmit (e : Nat) (s : State) :
    exec (.seReadmit e) s = run (fun w => if e < w.build.nse && allWritable w then writeSeCtl e 0 w else w) s := rfl

/-- DRAIN written 0 (R375). -/
theorem writeSeCtl_zero (e : Nat) (w : W) : writeSeCtl e 0 w =
    if !(getSe w e).drain || (getSe w e).err.getLsbD 3 || (getSe w e).state == .absent then w
    else setSe e { getSe w e with testing := true, readmit := true } w := by
  rw [writeSeCtl, if_neg (by decide)]

/-- What the end of an SE's self-test does (R375, R417). -/
def selfTestDoneW (e : Nat) (ok : Bool) (w : W) : W :=
  let x := getSe w e
  if !x.testing || x.run.isSome then w
  else if ok then
    let drain := x.drain && !x.readmit
    setSe e { x with testing := false, readmit := false, drain := drain, state := if drain then .drained else .idle } w
  else logOther 6 0 e 0 [0x90000 + 0x40 * e, 1, e] (setSe e { x with testing := false, readmit := false, drain := true, state := .drained } w)

theorem exec_seSelfTestRerunDone (e : Nat) (ok : Bool) (s : State) : exec (.seSelfTestRerunDone e ok) s = run (selfTestDoneW e ok) s := rfl

theorem getSe_openW (s : State) (e : Nat) : getSe (openW s) e = seOf s e := rfl

/-- Settles O28, by the state of the SE. -/
theorem stateEnginesDrain : Obligations.StateEnginesDrain := by
  intro s e hopen he
  have hgate : (decide (e < (openW s).build.nse) && allWritable (openW s)) = true := by
    rw [allWritable, hopen, Bool.and_true]
    exact decide_eq_true he
  refine ⟨?_, fun hdrain hself habsent => ?_, fun hno => ?_, fun htest hrun => ?_, fun hno ok => ?_⟩
  · refine blocks_of (exec_seDrain e s) (w := setSe e { seOf s e with
      drain := true, readmit := false, state := if (seOf s e).state = .idle then .drained else (seOf s e).state } (openW s))
      ((if_pos hgate).trans ?_) rfl
    simp only [writeSeCtl, getSe_openW, beq_iff_eq]
    rfl
  · refine blocks_of (exec_seReadmit e s) (w := setSe e { seOf s e with testing := true, readmit := true } (openW s))
      ((if_pos hgate).trans ?_) rfl
    have hstate : ((seOf s e).state == .absent) = false := beq_false_of_ne habsent
    refine (writeSeCtl_zero e (openW s)).trans (if_neg ?_)
    rw [getSe_openW, hdrain, hself, hstate]
    decide
  · refine idle_of (exec_seReadmit e s) ((if_pos hgate).trans ((writeSeCtl_zero e (openW s)).trans (if_pos ?_)))
    rw [getSe_openW]
    obtain h | h | h := hno <;> simp [h]
  · have hgo : ∀ ok, selfTestDoneW e ok (openW s) = if ok then
          setSe e { seOf s e with testing := false, readmit := false, drain := (seOf s e).drain && !(seOf s e).readmit
                                  state := if (seOf s e).drain && !(seOf s e).readmit then .drained else .idle } (openW s)
        else logOther 6 0 e 0 [0x90000 + 0x40 * e, 1, e]
          (setSe e { seOf s e with testing := false, readmit := false, drain := true, state := .drained } (openW s)) := by
      intro ok
      rw [selfTestDoneW, getSe_openW]
      exact if_neg (by rw [htest, hrun]; decide)
    refine ⟨fun hdrain hre => ?_, fun hor => ?_, ?_⟩
    · refine blocks_of (exec_seSelfTestRerunDone e true s) (w := setSe e { seOf s e with
        testing := false, readmit := false, state := .drained } (openW s)) ((hgo true).trans ?_) rfl
      have hd : ((seOf s e).drain && !(seOf s e).readmit) = true := by rw [hdrain, hre]; rfl
      rw [hd, if_pos rfl]
      generalize seOf s e = x at hdrain ⊢
      cases x with
      | mk =>
        dsimp only at hdrain
        subst hdrain
        rfl
    · refine blocks_of (exec_seSelfTestRerunDone e true s) (w := setSe e { seOf s e with
        testing := false, readmit := false, drain := false, state := .idle } (openW s)) ((hgo true).trans ?_) rfl
      have hd : ((seOf s e).drain && !(seOf s e).readmit) = false := by
        obtain h | h := hor <;> simp [h]
      rw [hd]
      rfl
    · exact ⟨_, leaves_of (exec_seSelfTestRerunDone e false s) (hgo false), rfl, rfl⟩
  · refine idle_of (exec_seSelfTestRerunDone e ok s) (if_pos ?_)
    rw [getSe_openW]
    obtain h | h := hno <;> simp [h]

end Sys2Proof.Machine
end

section
/-! PROOF. The off and up signals, LNK_CTL, lost packets, repeats and ACK (R65, R68, R73, R83, R85, R89). -/

namespace Sys2Proof.Machine

open Sys2Proof.Safety

/-! ### Nothing waits to leave -/

/-- Nothing waits at a port or a PDE, and no FETCH waits to be asked or answered. -/
structure NothingWaits (w : W) : Prop where
  ports : ∀ l, (getLp w l).queue = []
  sends : ∀ p, (getSlice w p).sendQ = [] ∧ (getSlice w p).backlog = []
  jobs : ∀ e ∈ w.b.slices, e.2.jobs = []
  waits : w.b.fetchWaits = []
  asked : ∀ o ∈ w.b.fetches, o.asked = true

theorem tget_of_all {α : Type} {P : α → Prop} {t : Tbl α} {d : α} (h : ∀ e ∈ t, P e.2) (hd : P d) (i : Nat) : P (tget t i d) := by
  rw [tget]
  cases hfind : tfind t i with
  | none => exact hd
  | some x => exact h (i, x) (mem_of_tfind hfind)

theorem nothingWaits_of_unsent {s : State} (h : Unsent s) : NothingWaits (openW s) := by
  obtain ⟨hports, hslices, hwaits, hasked⟩ := h
  exact ⟨tget_of_all (P := fun x : Lp => x.queue = []) hports rfl,
    tget_of_all (P := fun x : Slice => x.sendQ = [] ∧ x.backlog = []) (fun e he => ⟨(hslices e he).1, (hslices e he).2.1⟩) ⟨rfl, rfl⟩,
    fun e he => (hslices e he).2.2, hwaits, hasked⟩

/-- Where nothing waits, the links have nothing to go on with. -/
theorem drainLinks_nothing {w : W} (h : NothingWaits w) : drainLinks w = w := by
  have hports : (List.range w.build.nlp ++ List.range w.build.nlp).foldl (fun w l => drainPort l (getLp w l).queue.length w) w = w :=
    foldl_idle (fun l _ => by rw [h.ports l]; rfl)
  have hsends : drainAll w = w :=
    foldl_idle (fun p _ => by
      obtain ⟨h1, h2⟩ := h.sends p
      simp [h1, h2])
  have hjobs : kickPde w = w := foldl_idle (fun e he => by simp [h.jobs e he])
  have hasked : (w.b.fetchWaits.isEmpty && w.b.fetches.all (·.asked)) = true := by
    rw [h.waits, List.isEmpty_nil, Bool.true_and]
    exact List.all_eq_true.mpr h.asked
  simp only [drainLinks, hports, hsends, hjobs, hasked, if_true]

/-! ### The signals and LNK_CTL -/

theorem exec_lpLinkUp (port : Nat) (up : Bool) (s : State) : exec (.lpLinkUp port up) s =
    run (fun w => if w.build.nlp ≤ port then w else modLp port (fun l => { l with linkUp := up }) w) s := rfl

/-- A port's off signal: bits 7:6 are ignored. -/
def offTo (off : BitVec 8) (l : Lp) : Lp := { l with txOff := off.setWidth 6 }

/-- A port's off signal is taken (R73). -/
def txOffW (port : Nat) (off : BitVec 8) (w : W) : W :=
  if w.build.nlp ≤ port then w else drainLinks (modLp port (offTo off) w)

theorem exec_lpTxOff (port : Nat) (off : BitVec 8) (s : State) : exec (.lpTxOff port off) s = run (txOffW port off) s := rfl

theorem exec_linkEnable (en : Bool) (s : State) : exec (.linkEnable en) s =
    run (fun w => if portsOpen w then writeLnkCtl (BitVec.ofNat 64 (b2n en + 2 * b2n w.b.lnk.mcastEn)) w else w) s := rfl

theorem exec_mcastEnable (en : Bool) (s : State) : exec (.mcastEnable en) s =
    run (fun w => if portsOpen w then writeLnkCtl (BitVec.ofNat 64 (b2n w.b.lnk.en + 2 * b2n en)) w else w) s := rfl

/-- The two enables of LNK_CTL. -/
def withEnables (en mcast : Bool) (w : W) : W := { w with b := { w.b with lnk := { w.b.lnk with en := en, mcastEn := mcast } } }

theorem writeLnkCtl_bits {a m : Bool} {w : W} (h : m = true → w.build.mcastCap = true) :
    writeLnkCtl (BitVec.ofNat 64 (b2n a + 2 * b2n m)) w =
      drainLinks (withEnables (if w.b.glb.stfail1.getLsbD 59 then w.b.lnk.en else a) m w) := by
  have h0 : (BitVec.ofNat 64 (b2n a + 2 * b2n m)).getLsbD 0 = a := by cases a <;> cases m <;> decide
  have h1 : (BitVec.ofNat 64 (b2n a + 2 * b2n m)).getLsbD 1 = m := by cases a <;> cases m <;> decide
  have hcap : (m && !w.build.mcastCap) = false := by
    cases m with
    | false => rfl
    | true => simp [h rfl]
  simp only [writeLnkCtl, h0, h1, hcap, Bool.false_eq_true, if_false]
  cases w.b.glb.stfail1.getLsbD 59 <;> rfl

theorem drainLinks_withEnables {w : W} (h : NothingWaits w) (a m : Bool) : drainLinks (withEnables a m w) = withEnables a m w :=
  drainLinks_nothing ⟨h.ports, h.sends, h.jobs, h.waits, h.asked⟩

/-- Settles O30: where nothing waits to leave the block, a signal or an enable lets nothing go on. -/
theorem linkSignalsAndEnables : Obligations.LinkSignalsAndEnables := by
  refine ⟨?up, ?absent, ?off, ?shut, ?link, ?mcast, ?ignored⟩
  case up =>
    intro s port up hport
    exact blocks_of (exec_lpLinkUp port up s) (w := modLp port (fun l => { l with linkUp := up }) (openW s))
      (if_neg (by rw [openW_build]; omega)) rfl
  case absent =>
    intro s port up off hport
    exact ⟨idle_of (exec_lpLinkUp port up s) (if_pos hport), idle_of (exec_lpTxOff port off s) (if_pos hport)⟩
  case off =>
    rintro s port off b hport rfl
    have hgo : Leaves (.lpTxOff port off) s (drainLinks (modLp port (offTo off) (openW s))) :=
      leaves_of (exec_lpTxOff port off s) (if_neg (by rw [openW_build]; omega))
    refine ⟨hgo, fun hunsent => ?_⟩
    obtain ⟨hports, hsends, hjobs, hwaits, hasked⟩ := nothingWaits_of_unsent hunsent
    have hdrain := drainLinks_nothing (w := modLp port (offTo off) (openW s)) ⟨fun l => ?_, hsends, hjobs, hwaits, hasked⟩
    · rw [hdrain] at hgo
      exact blocks_of_leaves hgo rfl
    · by_cases h : l = port
      · subst h
        exact (congrArg Lp.queue (tget_tset_same s.blk.lnk.ports l _ {})).trans (hports l)
      · exact (congrArg Lp.queue (tget_tset_other s.blk.lnk.ports port l _ {} h)).trans (hports l)
  case shut =>
    intro s en hshut
    exact ⟨idle_of (exec_linkEnable en s) (if_neg (by rw [hshut]; decide)), idle_of (exec_mcastEnable en s) (if_neg (by rw [hshut]; decide))⟩
  case link =>
    rintro s en b hopen hcap rfl
    have hgo := leaves_of (exec_linkEnable en s) ((if_pos hopen).trans (writeLnkCtl_bits (w := openW s) hcap))
    refine ⟨hgo, fun hunsent => ?_⟩
    rw [drainLinks_withEnables (nothingWaits_of_unsent hunsent)] at hgo
    exact blocks_of_leaves hgo rfl
  case mcast =>
    rintro s en b hopen hcap rfl
    have hgo := leaves_of (exec_mcastEnable en s) ((if_pos hopen).trans (writeLnkCtl_bits (w := openW s) hcap))
    rw [ite_self] at hgo
    refine ⟨hgo, fun hunsent => ?_⟩
    rw [drainLinks_withEnables (nothingWaits_of_unsent hunsent)] at hgo
    exact blocks_of_leaves hgo rfl
  case ignored =>
    intro s hopen hcap
    refine leaves_of (exec_mcastEnable true s) ((if_pos hopen).trans (if_pos ?_))
    have h1 : (BitVec.ofNat 64 (b2n s.blk.lnk.en + 2 * b2n true)).getLsbD 1 = true := by cases s.blk.lnk.en <;> decide
    rw [openW_b, h1, openW_build, hcap]
    rfl

/-! ### Packets lost by time -/

theorem exec_seqLossTimeout (src : Coord) (vc : Nat) (mcast : Option Nat) (n : Nat) (env : Env) (s : State) :
    exec (.seqLossTimeout src vc mcast n env) s =
      run (fun w => if isPeer w src && awaited w src vc mcast n then afterDelta env (loseUpTo src vc mcast n w) else w) s := rfl

/-- The loss of the packets of the one stream known. -/
theorem loseUpTo_only {src : Coord} {vc e n : Nat} {mcast : Option Nat} {st : RxStream} {w : W} (hstreams : w.b.lnk.rxStreams = [st])
    (hsrc : st.src = src) (hmcast : st.mcast = mcast) (hvc : st.vc = vc) (hexp : st.exp = some e)
    (hhigh : seqAhead e ((n + 1) % 2 ^ 24) < 2 ^ 23) (hlow : 0 < seqAhead e ((n + 1) % 2 ^ 24)) :
    (loseUpTo src vc mcast n w).b.lnk.rxStreams
        = [{ st with exp := some ((n + 1) % 2 ^ 24), lost := st.lost ++ seqRange e (seqAhead e ((n + 1) % 2 ^ 24)) }]
      ∧ (loseUpTo src vc mcast n w).b.lnk.err = w.b.lnk.err ||| 64 := by
  have his : (st.src == src && st.mcast == mcast && st.vc == vc) = true := by simp [hsrc, hmcast, hvc]
  have hgap : (decide (2 ^ 23 ≤ seqAhead e ((n + 1) % 2 ^ 24)) || decide (seqAhead e ((n + 1) % 2 ^ 24) = 0)) = false := by
    simp only [Bool.or_eq_false_iff, decide_eq_false_iff_not]
    omega
  simp only [loseUpTo, hstreams, List.find?_cons, his, Option.bind_some, hexp, hgap, List.any_cons, Bool.true_or, mapIf, List.map_cons,
    List.map_nil, Bool.false_eq_true, if_false, if_true]
  exact ⟨rfl, rfl⟩

/-! ### Repeats and ACK -/

/-- A repeated COMMIT counts for the END notice of its attempt (R152). -/
def noteCommit (v : W) (seq : Option Nat) (g : Nat) (u : BitVec 64) (i : Nat) (w : W) : W :=
  match findUnit v g u, seq with
  | some x, some n =>
    let is := fun (s : Stream) => s.region == x.region && s.g == x.g && decide (2 ≤ x.kind)
    { w with b := { w.b with streams := mapIf is (fun s => { s with commits := tset s.commits i n }) w.b.streams } }
  | _, _ => w

/-- The form of a VC0 message that is sent again (R85). -/
def repeatForm (m : Vc0Msg) : Form :=
  { vc := 0, op := m.pk.hdr.opcode.toNat, dgn := m.pk.hdr.group.toNat, srcM := m.pk.hdr.member.toNat % 16
    dstM := m.pk.hdr.member.toNat / 16, sealed_ := m.pk.hdr.flags.getLsbD 0, raddr := m.pk.hdr.raddr.toNat
    part := m.part, payload := m.pk.payload }

/-- What the repeat timer of a VC0 message does (R85, R152). -/
def repeatW (id : Nat) (w : W) : W :=
  match w.b.lnk.vc0.find? (fun m => m.msgid == id) with
  | none => w
  | some m =>
    let (seq, w) := sendTo m.dest (repeatForm m) w
    match m.why with
    | .prepare g u i => noteCommit w seq g u i w
    | .apply g u i => noteCommit w seq g u i w
    | .other => w

theorem exec_vc0RepeatTimer (id : Nat) (s : State) : exec (.vc0RepeatTimer id) s = run (repeatW id) s := rfl

/-- What an ACK does (R85, R169, R171). -/
def ackAct (env : Env) (pk : Packet) (w : W) : W :=
  let is := fun (m : Vc0Msg) => m.msgid == fld pk.payload 0 8 && m.dest == pk.hdr.src
  match w.b.lnk.vc0.find? is with
  | none => w
  | some m =>
    let w := { w with b.lnk.vc0 := w.b.lnk.vc0.filter (fun m => !is m) }
    match m.why with
    | .prepare g u i => afterUnits env g (advanceUnits g (modUnit g u (fun x => { x with ackP := insertNat x.ackP i }) w))
    | .apply g u i => afterUnits env g (advanceUnits g (modUnit g u (fun x => { x with ackA := insertNat x.ackA i }) w))
    | .other => w

theorem exec_ack (rx : Rx) (env : Env) (s : State) : exec (.ack rx env) s = run (onKind rx 6 (fun _ => true) (ackAct env)) s := rfl

/-- Settles O31: the packets up to the named one are lost in order, and a repeat is a packet formed anew. -/
theorem lostPacketsAndRepeats : Obligations.LostPacketsAndRepeats := by
  refine ⟨?lost, ?none_, ?again, ?gone, ?unknown, ?acked⟩
  case lost =>
    intro s src vc mcast n env hpeer hwaits
    refine ⟨leaves_of (exec_seqLossTimeout src vc mcast n env s) (if_pos (by rw [hpeer, hwaits]; rfl)),
      fun st e hstreams hsrc hmcast hvc hexp hhigh hlow => loseUpTo_only hstreams hsrc hmcast hvc hexp hhigh hlow⟩
  case none_ =>
    intro s src vc mcast n env hno
    refine idle_of (exec_seqLossTimeout src vc mcast n env s) (if_neg ?_)
    obtain h | h := hno <;> simp [h]
  case again =>
    intro s m id r hfind hr
    obtain ⟨seq, w⟩ := r
    obtain ⟨_, _, _, _, _, _, _, -, hw⟩ : Sends (m.pk.hdr.flags.getLsbD 0) (openW s) w := by
      have h := sends_sendTo m.dest (repeatForm m) (openW s)
      rwa [show sendTo m.dest (repeatForm m) (openW s) = (seq, w) from hr.symm] at h
    have hgo : repeatW id (openW s) = match m.why with
        | .prepare g u i => noteCommit w seq g u i w
        | .apply g u i => noteCommit w seq g u i w
        | .other => w := by
      simp only [repeatW, openW_b, hfind, show sendTo m.dest (repeatForm m) (openW s) = (seq, w) from hr.symm]
    have hnote : ∀ v g u i, noteCommit v seq g u i w = { w with b := { w.b with streams := (noteCommit v seq g u i w).b.streams } } := by
      intro v g u i
      unfold noteCommit
      split <;> rfl
    have hunit : ∀ g u, findUnit w g u = findUnit (openW s) g u := fun g u => by rw [hw]; rfl
    have hstreams : w.b.streams = s.blk.streams := by rw [hw]; rfl
    have hcounts : ∀ g u i x n, findUnit (openW s) g u = some x → seq = some n → (noteCommit w seq g u i w).b.streams
        = s.blk.streams.map (fun y => if y.region == x.region && y.g == x.g && decide (2 ≤ x.kind) then { y with commits := tset y.commits i n } else y) := by
      rintro g u i x n hx rfl
      have hx' : findUnit w g u = some x := (hunit g u).trans hx
      simp only [noteCommit, hx', hstreams]
      rfl
    refine ⟨_, leaves_of (exec_vc0RepeatTimer id s) hgo, ?_⟩
    cases hwhy : m.why with
    | other => exact ⟨by rw [hw]; rfl, by rw [hw]; rfl, rfl, fun _ => hstreams, fun g u i x n h => by obtain h | h := h <;> contradiction⟩
    | prepare g u i =>
      refine ⟨by dsimp only; rw [hnote, hw]; rfl, by dsimp only; rw [hnote, hw]; rfl, by dsimp only; rw [hnote]; rfl,
        fun h => by contradiction, fun g' u' i' x n h hx hn => ?_⟩
      obtain h | h := h
      · obtain ⟨rfl, rfl, rfl⟩ := (Vc0For.prepare.injEq _ _ _ _ _ _).mp h
        exact hcounts g u i x n hx hn
      · contradiction
    | apply g u i =>
      refine ⟨by dsimp only; rw [hnote, hw]; rfl, by dsimp only; rw [hnote, hw]; rfl, by dsimp only; rw [hnote]; rfl,
        fun h => by contradiction, fun g' u' i' x n h hx hn => ?_⟩
      obtain h | h := h
      · contradiction
      · obtain ⟨rfl, rfl, rfl⟩ := (Vc0For.apply.injEq _ _ _ _ _ _).mp h
        exact hcounts g u i x n hx hn
  case gone =>
    intro s id hfind
    refine idle_of (exec_vc0RepeatTimer id s) ?_
    simp only [repeatW, openW_b, hfind]
  case unknown =>
    intro s rx env pk w hacc hfind
    refine leaves_of (exec_ack rx env s) ((onKind_accepted hacc).trans ?_)
    simp only [ackAct, hfind]
  case acked =>
    rintro s rx env pk w v m hacc hfind rfl
    have hgo := leaves_of (exec_ack rx env s) (onKind_accepted hacc)
    simp only [ackAct, hfind] at hgo
    refine ⟨fun hwhy => ?_, fun g u i hwhy => ?_, fun g u i hwhy => ?_⟩ <;>
    · rw [hwhy] at hgo
      exact hgo

end Sys2Proof.Machine
end

section
/-! PROOF. Units at their source (R160, R164, R167). -/

namespace Sys2Proof.Machine

open Sys2Proof.Safety

/-! ### Preparing a unit -/

theorem exec_unitPrepare (g : Nat) (u : BitVec 64) (env : Env) (s : State) :
    exec (.unitPrepare g u env) s = run (fun w => afterUnits env g (tryPrepare g u w)) s := rfl

/-- A closed unit whose deltas have all left its PDE is prepared (R167). -/
theorem tryPrepare_closed {g : Nat} {u : BitVec 64} {x : CUnit} {w : W} (hfind : findUnit w g u = some x) (hclosed : x.closed = true)
    (hprep : x.prepared = false) (hpde : unitInPde w g u = false) : tryPrepare g u w = tryComplete g u (tryApply g u
      ((liveOthers (getGrp w g)).foldl (fun w m => sendCommit x 0 m w)
        (modUnit g u (fun y => { y with prepared := true, waitSet := liveOthers (getGrp w g) }) w))) := by
  have hcond : (x.closed && !x.prepared && !unitInPde w g u) = true := by rw [hclosed, hprep, hpde]; rfl
  simp only [tryPrepare, hfind, hcond, if_true]

theorem tryPrepare_not {g : Nat} {u : BitVec 64} {w : W} (h : unitInPde w g u = true ∨ findUnit w g u = none
    ∨ ∃ x, findUnit w g u = some x ∧ (x.closed = false ∨ x.prepared = true)) : tryPrepare g u w = w := by
  rw [tryPrepare]
  cases hfind : findUnit w g u with
  | none => rfl
  | some x =>
    refine if_neg ?_
    obtain h | h | ⟨y, hy, h⟩ := h
    · simp [h]
    · rw [hfind] at h
      contradiction
    · obtain rfl := Option.some.inj (hfind.symm.trans hy)
      obtain h | h := h <;> simp [h]

/-! ### What the closing of a unit keeps -/

/-- Memory is as it was and no slice has the unit among its open HOST units. -/
structure NotOpen (g : Nat) (u : BitVec 64) (w : W) : Prop where
  jr : w.jr = []
  units : ∀ e ∈ w.b.slices, (g, u) ∉ e.2.hostUnits

theorem NotOpen.congr {g : Nat} {u : BitVec 64} {v w : W} (h : NotOpen g u v) (hjr : w.jr = v.jr) (hslices : w.b.slices = v.b.slices) :
    NotOpen g u w := ⟨hjr.trans h.jr, by rw [hslices]; exact h.units⟩

theorem mem_tset {α : Type} {t : Tbl α} {i : Nat} {x : α} {e : Nat × α} (h : e ∈ tset t i x) : e = (i, x) ∨ e ∈ t := by
  induction t with
  | nil => simpa [tset] using h
  | cons y t ih =>
    obtain ⟨j, z⟩ := y
    rw [tset] at h
    split at h
    · simpa using h
    · split at h
      · obtain h | h := List.mem_cons.mp h
        · exact .inl h
        · exact .inr (.tail _ h)
      · obtain h | h := List.mem_cons.mp h
        · exact .inr (h ▸ .head _)
        · obtain h | h := ih h
          · exact .inl h
          · exact .inr (.tail _ h)

theorem NotOpen.modSlice {g : Nat} {u : BitVec 64} {w : W} (h : NotOpen g u w) (p : Nat) {f : Slice → Slice}
    (hf : ∀ x, (f x).hostUnits = x.hostUnits) : NotOpen g u (modSlice p f w) := by
  refine ⟨h.jr, fun e he => ?_⟩
  obtain rfl | he := mem_tset he
  · dsimp only
    rw [hf]
    exact tget_of_all (P := fun x : Slice => (g, u) ∉ x.hostUnits) h.units (by simp) p
  · exact h.units e he

theorem Sends.jr_slices {b : Bool} {v w : W} (h : Sends b v w) : w.jr = v.jr ∧ w.b.slices = v.b.slices := by
  obtain ⟨_, _, _, _, _, _, _, -, rfl⟩ := h
  exact ⟨rfl, rfl⟩

theorem sends_sendMcast (mid : Nat) (f : Form) (w : W) : Sends true w (sendMcast mid f w).2 := by
  have hseq := sends_takeSeq true mid true f.vc w
  refine hseq.trans ?_
  obtain ⟨p, t, o, n, r, l, x, -, h⟩ := sends_transmit (workingPort (takeSeq mid true f.vc w).2 0) f.part
    { hdr := { dest := BitVec.ofNat 32 mid, src := (takeSeq mid true f.vc w).2.b.lnk.coord, vc := BitVec.ofNat 8 f.vc
               opcode := BitVec.ofNat 8 f.op, group := BitVec.ofNat 16 f.dgn, length := BitVec.ofNat 16 f.payload.length
               member := BitVec.ofNat 8 f.srcM, flags := BitVec.ofNat 8 (b2n f.sealed_ + 2), raddr := BitVec.ofNat 64 f.raddr
               seq := BitVec.ofNat 24 (takeSeq mid true f.vc w).1 }
      payload := f.payload } (takeSeq mid true f.vc w).2
  exact ⟨p, t, o, n, r, l, x, fun h => absurd h (by decide), h⟩

theorem handOn_keeps (p : Nat) (o : OpenPkt) (w : W) : (handOn p o w).jr = w.jr ∧ (handOn p o w).b.slices = w.b.slices := by
  unfold handOn
  split
  · exact ⟨rfl, rfl⟩
  · dsimp only
    split
    · exact (sends_sendTo _ _ (cntMp p 0x40 1 w)).jr_slices
    · exact (sends_sendMcast _ _ (cntMp p 0x40 1 w)).jr_slices

theorem NotOpen.closePkt {g : Nat} {u : BitVec 64} {w : W} (h : NotOpen g u w) (p : Nat) (o : OpenPkt) : NotOpen g u (closePkt p o w) := by
  have hout := h.modSlice p (f := fun s => { s with openPkts := s.openPkts.filter (fun x => x.id != o.id) }) (fun _ => rfl)
  unfold Machine.closePkt
  dsimp only
  split
  · exact hout.modSlice p (fun _ => rfl)
  · obtain ⟨hjr, hslices⟩ := handOn_keeps p o (Machine.modSlice p (fun s => { s with openPkts := s.openPkts.filter (fun x => x.id != o.id) }) w)
    exact hout.congr hjr hslices

theorem NotOpen.foldl {α : Type} {g : Nat} {u : BitVec 64} {f : W → α → W} (hf : ∀ w x, NotOpen g u w → NotOpen g u (f w x)) (l : List α) :
    ∀ {w : W}, NotOpen g u w → NotOpen g u (l.foldl f w) := by
  induction l with
  | nil => exact fun h => h
  | cons x l ih => exact fun h => ih (hf _ x h)

theorem NotOpen.closeUnitOn {g : Nat} {u : BitVec 64} {w : W} (h : NotOpen g u w) (p : Nat) : NotOpen g u (closeUnitOn p g u w) := by
  unfold Machine.closeUnitOn
  split
  · exact h
  · exact NotOpen.foldl (fun w o h => h.closePkt p o) _ h

/-- A unit that closes is an open HOST unit of no slice. -/
theorem notOpen_closeUnit (g : Nat) (u : BitVec 64) {w : W} (hjr : w.jr = []) : NotOpen g u (closeUnit g u w) := by
  have hout : NotOpen g u (modUnit g u (fun x => { x with closed := true })
      { w with b.slices := w.b.slices.map (fun s => (s.1, { s.2 with hostUnits := s.2.hostUnits.filter (fun h => h != (g, u)) })) }) := by
    refine ⟨hjr, fun e he => ?_⟩
    obtain ⟨x, -, rfl⟩ := List.mem_map.mp he
    simp
  exact NotOpen.foldl (fun w p h => h.closeUnitOn p) _ hout

/-! ### A packet that closes -/

/-- The only packet of a slice, that may not go to its port, stands in the send queue. -/
theorem closePkt_only {p : Nat} {o : OpenPkt} {w : W} (hopen : (getSlice w p).openPkts = [o]) (hsend : (getSlice w p).sendQ = [])
    (hmay : mayHandOn w o = false) : closePkt p o w = setSlice p { getSlice w p with openPkts := [], sendQ := [o] } w := by
  have hout : modSlice p (fun s => { s with openPkts := s.openPkts.filter (fun x => x.id != o.id) }) w
      = setSlice p { getSlice w p with openPkts := [] } w := by
    unfold modSlice
    dsimp only
    rw [hopen]
    simp
  have hstill : mayHandOn (setSlice p { getSlice w p with openPkts := [] } w) o = false := hmay
  unfold closePkt
  simp only [hout, hstill, Bool.not_false, Bool.or_true, if_true]
  rw [modSlice, getSlice_setSlice]
  dsimp only
  rw [hsend]
  simp only [setSlice, tset_tset, List.nil_append]

/-- The meaning of HOST_UNIT_TIMEOUT. -/
def hostUnitTimeoutW (p g : Nat) (u : BitVec 64) (w : W) : W := if (getSlice w p).hostUnits.contains (g, u) then closeUnit g u w else w

theorem hostUnitTimeoutW_mem {p g : Nat} {u : BitVec 64} {w : W} (h : (g, u) ∈ (getSlice w p).hostUnits) :
    hostUnitTimeoutW p g u w = closeUnit g u w := if_pos (List.contains_iff_mem.mpr h)

theorem hostUnitTimeoutW_not_mem {p g : Nat} {u : BitVec 64} {w : W} (h : (g, u) ∉ (getSlice w p).hostUnits) :
    hostUnitTimeoutW p g u w = w := if_neg (fun hc => h (List.contains_iff_mem.mp hc))

/-- The meaning of DELTA_PACKET_TIMEOUT. -/
def deltaPacketTimeoutW (p k : Nat) (w : W) : W :=
  match (getSlice w p).openPkts.find? (fun o => o.id == k) with
  | some o => closePkt p o w
  | none => w

theorem deltaPacketTimeoutW_some {p k : Nat} {o : OpenPkt} {w : W} (h : (getSlice w p).openPkts.find? (fun x => x.id == k) = some o) :
    deltaPacketTimeoutW p k w = closePkt p o w := by rw [deltaPacketTimeoutW, h]

theorem deltaPacketTimeoutW_none {p k : Nat} {w : W} (h : (getSlice w p).openPkts.find? (fun x => x.id == k) = none) :
    deltaPacketTimeoutW p k w = w := by rw [deltaPacketTimeoutW, h]

/-- Settles O32, by whether the unit is closed and its deltas have left. -/
theorem unitsCloseAndPrepare : Obligations.UnitsCloseAndPrepare := by
  refine ⟨?closed, ?notReady, ?unit, ?noUnit, ?packet, ?noPacket, ?waits⟩
  case closed =>
    intro s g u env x hfind hclosed hprep hpde
    exact leaves_of (exec_unitPrepare g u env s) (congrArg (afterUnits env g) (tryPrepare_closed hfind hclosed hprep hpde))
  case notReady =>
    intro s g u env h
    exact leaves_of (exec_unitPrepare g u env s) (congrArg (afterUnits env g) (tryPrepare_not h))
  case unit =>
    intro s p g u hin
    have hclosed := notOpen_closeUnit g u (w := openW s) rfl
    have hleaves : Leaves (.hostUnitTimeout p g u) s (closeUnit g u (openW s)) :=
      leaves_of (f := hostUnitTimeoutW p g u) rfl (hostUnitTimeoutW_mem (w := openW s) hin)
    generalize closeUnit g u (openW s) = v at hclosed hleaves ⊢
    refine ⟨closeW s v, hleaves, ?_, rfl, hclosed.units⟩
    rw [closeW_mem, hclosed.jr]
    rfl
  case noUnit =>
    intro s p g u hout
    exact idle_of (f := hostUnitTimeoutW p g u) rfl (hostUnitTimeoutW_not_mem hout)
  case packet =>
    intro s p k o hfind
    exact leaves_of (f := deltaPacketTimeoutW p k) rfl (deltaPacketTimeoutW_some hfind)
  case noPacket =>
    intro s p k hnone
    exact idle_of (f := deltaPacketTimeoutW p k) rfl (deltaPacketTimeoutW_none hnone)
  case waits =>
    intro s p o hopen hsend hmay
    have hfind : (sliceOf s p).openPkts.find? (fun x => x.id == o.id) = some o := by rw [hopen]; simp
    exact blocks_of (f := deltaPacketTimeoutW p o.id) rfl
      ((deltaPacketTimeoutW_some (w := openW s) hfind).trans (closePkt_only (w := openW s) hopen hsend hmay)) rfl

end Sys2Proof.Machine
end

section
/-! PROOF. PREPARE and APPLY at a holder (R168 to R170); the audit and the episodes of pressure (R180, R431). -/

namespace Sys2Proof.Machine

open Sys2Proof.Safety

/-! ### The COMMIT rows -/

/-- The payloads one of the COMMIT rows takes. -/
def commitOf (stage : Nat) (p : Bytes) : Bool := fld p 0x10 1 == stage || (stage == 0 && decide (1 < fld p 0x10 1))

theorem commitOf_zero : commitOf 0 = fun b => fld b 0x10 1 == 0 || decide (1 < fld b 0x10 1) := rfl

theorem commitOf_one : commitOf 1 = fun b => fld b 0x10 1 == 1 := by
  funext b
  simp [commitOf]

/-- A PREPARE as its holder takes it. -/
def onPrepare (env : Env) (p : Prep) (w : W) : W :=
  streamsGo env p.g (countEnds (match findPrep w p.g p.src p.unit with
    | some q => if q.ready then p.copies.foldl (fun w id => sendAck p.hdr id w) w
                else modPrep p.g p.src p.unit (fun q => { q with copies := q.copies ++ p.copies }) w
    | none => tryReady p.g p.src p.unit { w with b.preps := w.b.preps ++ [p] }))

/-- An APPLY of a unit that is prepared, as its holder takes it. -/
def onApplyOf (env : Env) (a p : Prep) (w : W) : W :=
  if !p.ready then w
  else
    let (ok, w) := recordTomb p w
    if !ok then w
    else if applyWaits w p then modPrep p.g p.src p.unit (fun q => { q with applyCopies := q.applyCopies ++ a.copies }) w
    else streamsGo env p.g (countEnds (a.copies.foldl (fun w id => sendAck a.hdr id w) (applyPrep env p w)))

/-- An APPLY as its holder takes it. -/
def onApply (env : Env) (a : Prep) (w : W) : W :=
  match findPrep w a.g a.src a.unit with
  | none => a.copies.foldl (fun w id => sendAck a.hdr id w) w
  | some p => onApplyOf env a p w

theorem exec_prepare (rx : Rx) (env : Env) (s : State) : exec (.prepare rx env) s = run (commitRow rx 0 (fun _ => onPrepare env)) s := rfl

theorem exec_apply (rx : Rx) (env : Env) (s : State) : exec (.apply rx env) s = run (commitRow rx 1 (fun _ => onApply env)) s := rfl

section
variable {rx : Rx} {stage : Nat} {act : Group → Prep → W → W} {v w : W} {pk : Packet} {gi m : Nat} {g : Group}

/-- What a COMMIT row makes of an accepted packet of a known sender. -/
theorem commitRow_accepted (hacc : accepted v rx 3 (commitOf stage) = some (pk, w)) (hsender : senderOf w pk.hdr = some (gi, g, m)) :
    commitRow rx stage act v = (if commitDiscarded w g (prepOf gi m pk) || w.b.applied.contains (gi, m, (prepOf gi m pk).unit)
      then sendAck pk.hdr (fld pk.payload 0 8) w else act g (prepOf gi m pk) w) := by
  refine (onKind_accepted hacc).trans ?_
  dsimp only
  rw [hsender]

/-- A COMMIT of a unit neither discarded nor applied before is acted on. -/
theorem commitRow_acts (hacc : accepted v rx 3 (commitOf stage) = some (pk, w)) (hsender : senderOf w pk.hdr = some (gi, g, m))
    (hkept : commitDiscarded w g (prepOf gi m pk) = false) (hnew : (gi, m, (prepOf gi m pk).unit) ∉ w.b.applied) :
    commitRow rx stage act v = act g (prepOf gi m pk) w := by
  rw [commitRow_accepted hacc hsender]
  refine if_neg ?_
  rw [hkept, Bool.false_or]
  exact fun h => hnew (List.contains_iff_mem.mp h)

/-- A COMMIT of a unit that is discarded, or applied before, is acknowledged. -/
theorem commitRow_acknowledged (hacc : accepted v rx 3 (commitOf stage) = some (pk, w)) (hsender : senderOf w pk.hdr = some (gi, g, m))
    (hdone : commitDiscarded w g (prepOf gi m pk) = true ∨ (gi, m, (prepOf gi m pk).unit) ∈ w.b.applied) :
    commitRow rx stage act v = sendAck pk.hdr (fld pk.payload 0 8) w := by
  rw [commitRow_accepted hacc hsender]
  refine if_pos ?_
  obtain h | h := hdone
  · rw [h, Bool.true_or]
  · rw [List.contains_iff_mem.mpr h, Bool.or_true]

end

theorem onPrepare_new {env : Env} {p : Prep} {w : W} (h : findPrep w p.g p.src p.unit = none) :
    onPrepare env p w = streamsGo env p.g (countEnds (tryReady p.g p.src p.unit { w with b.preps := w.b.preps ++ [p] })) := by
  rw [onPrepare, h]

theorem onPrepare_held {env : Env} {p q : Prep} {w : W} (h : findPrep w p.g p.src p.unit = some q) :
    onPrepare env p w = streamsGo env p.g (countEnds (if q.ready then p.copies.foldl (fun w id => sendAck p.hdr id w) w
      else modPrep p.g p.src p.unit (fun q => { q with copies := q.copies ++ p.copies }) w)) := by
  rw [onPrepare, h]

theorem onApply_none {env : Env} {a : Prep} {w : W} (h : findPrep w a.g a.src a.unit = none) :
    onApply env a w = a.copies.foldl (fun w id => sendAck a.hdr id w) w := by
  rw [onApply, h]

theorem onApply_some {env : Env} {a p : Prep} {w : W} (h : findPrep w a.g a.src a.unit = some p) :
    onApply env a w = onApplyOf env a p w := by
  rw [onApply, h]

theorem onApplyOf_ready {env : Env} {a p : Prep} {w v : W} {ok : Bool} (hready : p.ready = true) (htomb : recordTomb p w = (ok, v)) :
    onApplyOf env a p w = (if !ok then v else if applyWaits v p then
      modPrep p.g p.src p.unit (fun q => { q with applyCopies := q.applyCopies ++ a.copies }) v
      else streamsGo env p.g (countEnds (a.copies.foldl (fun w id => sendAck a.hdr id w) (applyPrep env p v)))) := by
  rw [onApplyOf, hready, htomb]
  rfl

/-- A unit that has all its packets and lines, with no stream named and no copy to acknowledge, is ready. -/
theorem tryReady_full {g src : Nat} {u : BitVec 64} {p : Prep} {w : W} (hfind : findPrep w g src u = some p) (hready : p.ready = false)
    (hseqs : ∀ x ∈ p.seqs, x = none) (hfull : heldLines w g src u + aheadLines w g src u = p.nlines) (hcopies : p.copies = []) :
    tryReady g src u w = modPrep g src u (fun p => { p with ready := true, gapped := [], copies := [] }) w := by
  have hstreams : prepStreams (getGrp w g) p = [] := by
    refine List.filterMap_eq_nil_iff.mpr fun x hx => ?_
    rw [hseqs _ (List.of_mem_zip hx).2]
    rfl
  simp [tryReady, hfind, hready, hstreams, hfull, hcopies]

/-- A unit that is not prepared, is ready, or lacks a packet stays as it is. -/
theorem tryReady_not {g src : Nat} {u : BitVec 64} {w : W} (h : ∀ p, findPrep w g src u = some p → p.ready = true ∨
    ∃ x ∈ prepStreams (getGrp w g) p, reached w p.hdr.src x.1 1 x.2 = false) : tryReady g src u w = w := by
  rw [tryReady]
  cases hfind : findPrep w g src u with
  | none => rfl
  | some p =>
    refine if_pos ?_
    obtain hready | ⟨x, hx, hlacks⟩ := h p hfind
    · rw [hready, Bool.true_or]
    · have hall : (prepStreams (getGrp w g) p).all (fun s => reached w p.hdr.src s.1 1 s.2) = false :=
        List.all_eq_false.mpr ⟨x, hx, by simp [hlacks]⟩
      rw [hall, Bool.not_false, Bool.or_true]

/-- Settles O35, by what the holder has of the unit: nothing, a PREPARE, or all its packets. -/
theorem commitsAtTheHolder : Obligations.CommitsAtTheHolder := by
  refine ⟨?prepare, ?apply, ?acknowledged, ?ready, ?notReady⟩
  case prepare =>
    rintro s rx env pk w gi g m p hacc hsender rfl hkept hnew
    have hrow : Leaves (.prepare rx env) s (onPrepare env (prepOf gi m pk) w) :=
      leaves_of (exec_prepare rx env s) (commitRow_acts hacc hsender hkept hnew)
    refine ⟨fun hfind => ?_, fun q hfind hready => ?_, fun q hfind hready => ?_⟩
    · rw [onPrepare_new hfind] at hrow
      exact hrow
    · rw [onPrepare_held hfind, hready] at hrow
      exact hrow
    · rw [onPrepare_held hfind, hready] at hrow
      exact hrow
  case apply =>
    rintro s rx env pk w v gi g m a p hacc hsender rfl hkept hnew
    rw [← commitOf_one] at hacc
    have hrow : Leaves (.apply rx env) s (onApply env (prepOf gi m pk) w) :=
      leaves_of (exec_apply rx env s) (commitRow_acts hacc hsender hkept hnew)
    refine ⟨fun hfind => ?_, fun hfind hready htomb hwaits => ?_, fun hfind hready htomb hwaits => ?_,
      fun hfind hready htomb => ?_, fun hfind hready => ?_⟩
    · rw [onApply_none hfind] at hrow
      exact hrow
    · rw [onApply_some hfind, onApplyOf_ready hready htomb, hwaits] at hrow
      exact hrow
    · rw [onApply_some hfind, onApplyOf_ready hready htomb, hwaits] at hrow
      exact hrow
    · rw [onApply_some hfind, onApplyOf_ready hready htomb] at hrow
      exact hrow
    · rw [onApply_some hfind, onApplyOf, hready] at hrow
      exact hrow
  case acknowledged =>
    rintro s rx env pk w gi g m a hsender rfl hdone
    refine ⟨fun hacc => ?_, fun hacc => ?_⟩
    · exact leaves_of (exec_prepare rx env s) (commitRow_acknowledged hacc hsender hdone)
    · rw [← commitOf_one] at hacc
      exact leaves_of (exec_apply rx env s) (commitRow_acknowledged hacc hsender hdone)
  case ready =>
    intro s g src u p hfind hready hseqs hfull hcopies
    exact blocks_of (f := tryReady g src u) rfl (tryReady_full hfind hready hseqs hfull hcopies) rfl
  case notReady =>
    intro s g src u h
    exact idle_of (f := tryReady g src u) rfl (tryReady_not h)

end Sys2Proof.Machine
end

section
/-! PROOF. The audit and the episodes of pressure (R180, R182, R183, R431). -/

namespace Sys2Proof.Machine

open Sys2Proof.Safety

/-! ### The audit -/

/-- The audit's record of what each owner of a group holds. -/
def auditGroups (grps : Tbl Group) (w : W) : W :=
  grps.foldl (fun w g => if g.2.state == .free then w else (List.range 16).foldl (fun w i => auditOwner g.1 i w) w) w

/-- The audit of the entries that leaked, and of the owners. -/
def auditPool (w : W) : W :=
  let w := (w.b.pool.filter (entryLeaked w)).foldl (fun w e => setDpErr 2 e.g e.id (freeEntry e w)) w
  auditGroups w.b.grps w

/-- The meaning of POOL_AUDIT where RAS_BGCTL does not stop it. -/
def auditW (w : W) : W := auditPool (w.b.leaks.foldl (fun w l => setDpErr 2 0 l.1 w) { w with b.leaks := [] })

theorem exec_poolAudit (s : State) : exec .poolAudit s = run (fun w => if w.b.ras.bgctl.getLsbD 3 then w else auditW w) s := rfl

theorem leaves_audit {s : State} {w : W} (hon : s.blk.ras.bgctl.getLsbD 3 = false) (h : auditW (openW s) = w) : Leaves .poolAudit s w :=
  leaves_of (exec_poolAudit s) ((if_neg (by rw [show (openW s).b = s.blk from rfl, hon]; decide)).trans h)

theorem leaks_nil {s : State} (h : s.blk.leaks = []) : ({ openW s with b := { (openW s).b with leaks := [] } } : W) = openW s := by
  rw [← h]
  rfl

theorem filter_leaked_nil {w : W} (h : ∀ e ∈ w.b.pool, entryLeaked w e = false) : w.b.pool.filter (entryLeaked w) = [] :=
  List.filter_eq_nil_iff.mpr fun e he => by simp [h e he]

/-- An audit that finds no leak records what each owner holds. -/
theorem auditW_sound {s : State} (hleaks : s.blk.leaks = []) (hpool : ∀ e ∈ s.blk.pool, entryLeaked (openW s) e = false) :
    auditW (openW s) = auditGroups s.blk.grps (openW s) := by
  have hb : (openW s).b.leaks = [] := hleaks
  simp only [auditW, auditPool, hb, List.foldl_nil, leaks_nil hleaks]
  rw [filter_leaked_nil hpool]
  rfl

theorem auditGroups_free {grps : Tbl Group} (h : ∀ g ∈ grps, g.2.state = .free) (w : W) : auditGroups grps w = w := by
  induction grps with
  | nil => rfl
  | cons g grps ih =>
    rw [auditGroups, List.foldl_cons, h g (.head _)]
    exact ih fun x hx => h x (.tail _ hx)

theorem auditGroups_eq (grps : Tbl Group) (w : W) : auditGroups grps w = grps.foldl (fun w g =>
    if g.2.state = .free then w else (List.range 16).foldl (fun w i => auditOwner g.1 i w) w) w := by
  simp only [auditGroups, beq_iff_eq]

theorem setDpErr_eq (bitNo inst idx : Nat) (w : W) : ∃ t, setDpErr bitNo inst idx w
    = { w with b := { w.b with dpErr := w.b.dpErr ||| BitVec.ofNat 9 (1 <<< bitNo), tlm := t } } := ⟨_, rfl⟩

/-- A freed entry that stood alone leaves the pool empty, and only its group is written. -/
theorem freeEntry_alone {e : PoolEntry} {w : W} (hinj : w.b.ras.inj = []) (hpool : w.b.pool = [e]) (hgrps : w.b.grps = []) :
    ∃ grps, freeEntry e w = { w with b := { w.b with grps := grps, pool := [] } } ∧ ∀ g ∈ grps, g.2.state = .free := by
  have hhit : (e.span.isSome && injHit w 13 0) = false := by rw [injHit_none w 13 0 hinj, Bool.and_false]
  simp only [freeEntry, hhit, Bool.false_eq_true, if_false]
  cases e.slot with
  | none => exact ⟨w.b.grps, by simp [hpool], by simp [hgrps]⟩
  | some i =>
    refine ⟨tset w.b.grps e.g { getGrp w e.g with stagUsed := (getGrp w e.g).stagUsed.filter (fun x => x != i) }, ?_, ?_⟩
    · simp [modGrp, setGrp, hpool]
    · intro g hg
      rw [hgrps] at hg
      obtain rfl : g = _ := by simpa [tset] using hg
      simp [getGrp, hgrps, tget, tfind]

/-- The audit of a leak with nothing else in the pool. -/
theorem auditW_leak {s : State} {l : Nat × Nat} (hleaks : s.blk.leaks = [l]) (hgrps : s.blk.grps = []) (hpool : s.blk.pool = []) :
    auditW (openW s) = setDpErr 2 0 l.1 { openW s with b := { s.blk with leaks := [] } } := by
  have hnone : ∀ v : W, v.b.pool = [] → v.b.grps = [] → auditPool v = v := by
    intro v hpool hgrps
    simp only [auditPool, hpool, List.filter_nil, List.foldl_nil, hgrps, auditGroups]
  refine Eq.trans ?_ (hnone (setDpErr 2 0 l.1 { openW s with b := { s.blk with leaks := [] } }) hpool hgrps)
  rw [auditW, show (openW s).b.leaks = [l] from hleaks]
  rfl

/-- The audit of a leaked entry that stands alone. -/
theorem auditW_leaked {s : State} {e : PoolEntry} (hleaks : s.blk.leaks = []) (hpool : s.blk.pool = [e]) (hgrps : s.blk.grps = [])
    (hinj : s.blk.ras.inj = []) (hleaked : entryLeaked (openW s) e = true) :
    ∃ w, auditW (openW s) = w ∧ w.jr = [] ∧ w.b.pool = [] ∧ w.b.dpErr = s.blk.dpErr ||| 4 := by
  obtain ⟨grps, hfreed, hfree⟩ := freeEntry_alone (w := openW s) hinj hpool hgrps
  have hb : (openW s).b.leaks = [] := hleaks
  have hfilter : (openW s).b.pool.filter (entryLeaked (openW s)) = [e] := by
    rw [show (openW s).b.pool = [e] from hpool]
    simp [hleaked]
  refine ⟨setDpErr 2 e.g e.id (freeEntry e (openW s)), ?_, ?_, ?_, ?_⟩
  · simp only [auditW, auditPool, hb, List.foldl_nil, leaks_nil hleaks, hfilter, List.foldl_cons]
    refine auditGroups_free (fun g hg => hfree g ?_) _
    rw [hfreed] at hg
    exact hg
  all_goals rw [hfreed]; rfl

/-! ### Episodes of pressure -/

theorem leads_blk {i : Instr} {s : State} {f : W → W} {b : Blk} {P : State → Prop} (hrow : exec i s = run f s)
    (h : f (openW s) = { openW s with b := b }) (hP : P { s with blk := b }) : Leads i s P :=
  ⟨_, blocks_of hrow h rfl, hP⟩

/-- The meaning of PRESSURE_EPISODE_10MS. -/
def pressureBegins (w : W) : W :=
  if w.b.pressure.active && !w.b.pressure.logged then logPressure false { w with b.pressure.logged := true } else w

/-- The meaning of PRESSURE_REPEAT_LOG. -/
def pressureRepeats (w : W) : W := if w.b.pressure.active && w.b.pressure.logged then logPressure false w else w

/-- The meaning of PRESSURE_EPISODE_END. -/
def pressureEnds (w : W) : W :=
  if w.b.pressure.active && !underPressure w then { (logPressure true w) with b.pressure := {} } else w

theorem exec_pressureEpisode10ms (s : State) : exec .pressureEpisode10ms s = run pressureBegins s := rfl

theorem exec_pressureRepeatLog (s : State) : exec .pressureRepeatLog s = run pressureRepeats s := rfl

theorem exec_pressureEpisodeEnd (s : State) : exec .pressureEpisodeEnd s = run pressureEnds s := rfl

theorem pressureBegins_not {w : W} (h : w.b.pressure.active = false ∨ w.b.pressure.logged = true) : pressureBegins w = w :=
  if_neg (by obtain h | h := h <;> simp [h])

theorem pressureRepeats_not {w : W} (h : w.b.pressure.active = false ∨ w.b.pressure.logged = false) : pressureRepeats w = w :=
  if_neg (by obtain h | h := h <;> simp [h])

theorem pressureEnds_not {w : W} (h : w.b.pressure.active = false ∨ underPressure w = true) : pressureEnds w = w :=
  if_neg (by obtain h | h := h <;> simp [h])

/-- The meaning of STAGE_FULL_RESUME. -/
def stageFullResumeW (port : Nat) (env : Env) (w : W) : W :=
  if (getLp w port).stalled.isEmpty then w else afterDelta env (resume env port (getLp w port).stalled w)

theorem exec_stageFullResume (port : Nat) (env : Env) (s : State) :
    exec (.stageFullResume port env) s = run (stageFullResumeW port env) s := rfl

/-- Settles O36, by whether the audit finds the pool sound, and by the point an episode of pressure has reached. -/
theorem poolAuditAndPressure : Obligations.PoolAuditAndPressure := by
  refine ⟨?stopped, ?nothing, ?leak, ?owners, ?leaked, ?stalled, ?noStall, ?noEpisode, ?otherPoint, ?episode⟩
  case stopped =>
    intro s hoff
    exact leaves_of (exec_poolAudit s) (if_pos hoff)
  case nothing =>
    intro s hon hleaks _ hfree hpool
    exact leaves_audit hon ((auditW_sound hleaks hpool).trans (auditGroups_free hfree _))
  case leak =>
    intro s l hon hleaks hgrps hpool
    exact ⟨_, blocks_of_leaves (leaves_audit hon (auditW_leak hleaks hgrps hpool)) rfl, rfl, rfl, rfl, rfl⟩
  case owners =>
    intro s hon hleaks hpool
    exact leaves_audit hon ((auditW_sound hleaks hpool).trans (auditGroups_eq _ _))
  case leaked =>
    intro s e hon hleaks hpool hgrps hinj hleaked
    obtain ⟨w, hw, hjr, hnone, herr⟩ := auditW_leaked hleaks hpool hgrps hinj hleaked
    exact ⟨_, blocks_of_leaves (leaves_audit hon hw) hjr, rfl, hnone, herr⟩
  case stalled =>
    intro s port env hstalled
    exact leaves_of (exec_stageFullResume port env s) (if_neg (fun h => hstalled (List.isEmpty_iff.mp h)))
  case noStall =>
    intro s port env hnone
    exact idle_of (exec_stageFullResume port env s) (if_pos (List.isEmpty_iff.mpr hnone))
  case noEpisode =>
    intro s hno
    exact ⟨idle_of (exec_pressureEpisode10ms s) (pressureBegins_not (w := openW s) (.inl hno)),
      idle_of (exec_pressureRepeatLog s) (pressureRepeats_not (w := openW s) (.inl hno)),
      idle_of (exec_pressureEpisodeEnd s) (pressureEnds_not (w := openW s) (.inl hno))⟩
  case otherPoint =>
    intro s
    exact ⟨fun h => idle_of (exec_pressureEpisode10ms s) (pressureBegins_not (w := openW s) (.inr h)),
      fun h => idle_of (exec_pressureRepeatLog s) (pressureRepeats_not (w := openW s) (.inr h)),
      fun h => idle_of (exec_pressureEpisodeEnd s) (pressureEnds_not (.inr h))⟩
  case episode =>
    intro s hactive
    refine ⟨fun hnew => ?_, fun hold => ?_, fun hends => ?_⟩
    · exact leads_blk (exec_pressureEpisode10ms s) (if_pos (by simp [hactive, hnew])) ⟨rfl, rfl, rfl⟩
    · exact leads_blk (exec_pressureRepeatLog s) (if_pos (by simp [hactive, hold])) ⟨rfl, rfl, rfl⟩
    · exact leads_blk (exec_pressureEpisodeEnd s) (if_pos (by simp [hactive, hends])) ⟨rfl, rfl, rfl⟩

end Sys2Proof.Machine
end

section
/-! PROOF. Loss notices, settling and fencing (R321 to R324, R333, R334). -/

namespace Sys2Proof.Machine

open Sys2Proof.Safety

/-! ### What a message leaves as it was -/

/-- A block after messages have been sent: the links, counters, injections, events and the counters of the keys alone. -/
def Messages (v w : W) : Prop :=
  ∃ lnk n r l x, w = { v with b := { v.b with lnk := lnk, cnt := n, ras := r, tlm := l, sec := x } }

theorem Messages.refl (w : W) : Messages w w := ⟨_, _, _, _, _, rfl⟩

theorem Messages.trans {u v w : W} : Messages u v → Messages v w → Messages u w := by
  rintro ⟨_, _, _, _, _, rfl⟩ ⟨_, _, _, _, _, rfl⟩
  exact ⟨_, _, _, _, _, rfl⟩

theorem Sends.messages {b : Bool} {v w : W} : Sends b v w → Messages v w := by
  rintro ⟨_, _, _, _, _, _, _, -, rfl⟩
  exact ⟨_, _, _, _, _, rfl⟩

theorem messages_sendMsg (c : Coord) (why : Vc0For) (f : Form) (w : W) : Messages w (sendMsg c why f w).2 := by
  have hform := (sends_formPacket true c { f with payload := toLe 8 w.b.lnk.nextMsg ++ f.payload } w).messages
  exact (hform.trans ⟨_, _, _, _, _, rfl⟩).trans (sends_transmit _ _ _ _).messages

theorem messages_formTo (gi m : Nat) (f : FormMsg) (w : W) : Messages w (formTo gi m f w) := messages_sendMsg _ _ _ _

theorem Messages.foldl {α : Type} {f : W → α → W} (hf : ∀ w x, Messages w (f w x)) (l : List α) :
    ∀ w, Messages w (l.foldl f w) := by
  induction l with
  | nil => exact Messages.refl
  | cons x l ih => exact fun w => (hf w x).trans (ih _)

theorem messages_sendUnits (gi m kind slot mask : Nat) (coord : Coord) (us : List (BitVec 64)) (w : W) :
    Messages w (sendUnits gi m kind slot mask coord us w) := Messages.foldl (fun w _ => messages_formTo gi m _ w) _ w

/-! ### DONE -/

/-- The notice of a member's complete units, where there are any (R323). -/
def doneTo (g : Nat) (us : List CUnit) (w : W) (m : Nat) : W :=
  let mine := (us.filter (fun u => u.waitSet.contains m)).map (·.unit)
  if mine.isEmpty then w else sendUnits g m 5 (getGrp w g).self 0 w.b.lnk.coord mine w

/-- The complete units of a group. -/
def completeIn (g : Nat) (u : CUnit) : Bool := u.g == g && u.complete

/-- The meaning of DONE_NOTICE_TIMER. -/
def doneNotices (g : Nat) (w : W) : W :=
  let v := (others (getGrp w g)).foldl (doneTo g (w.b.units.filter (completeIn g))) w
  { v with b := { v.b with units := v.b.units.filter (fun u => !completeIn g u) } }

theorem exec_doneNoticeTimer (g : Nat) (s : State) : exec (.doneNoticeTimer g) s = run (doneNotices g) s := rfl

theorem messages_doneTo (g : Nat) (us : List CUnit) (w : W) (m : Nat) : Messages w (doneTo g us w m) := by
  unfold doneTo
  dsimp only
  split
  · exact Messages.refl w
  · exact messages_sendUnits _ _ _ _ _ _ _ _

theorem foldl_doneTo_nil (g : Nat) (l : List Nat) (w : W) : l.foldl (doneTo g []) w = w := by
  induction l with
  | nil => rfl
  | cons m l ih => exact ih

/-- The timer drops the complete units; the rest of what it does is to send. -/
theorem doneNotices_units (g : Nat) (w : W) :
    ∃ v, Messages w v ∧ doneNotices g w = { v with b := { v.b with units := w.b.units.filter (fun u => !completeIn g u) } } := by
  have hsent := Messages.foldl (messages_doneTo g (w.b.units.filter (completeIn g))) (others (getGrp w g)) w
  refine ⟨_, hsent, ?_⟩
  obtain ⟨_, _, _, _, _, h⟩ := hsent
  rw [doneNotices, h]

/-- With no complete unit the timer changes nothing. -/
theorem doneNotices_none {g : Nat} {w : W} (h : ∀ u ∈ w.b.units, u.complete = false) : doneNotices g w = w := by
  have hnot : ∀ u ∈ w.b.units, completeIn g u = false := fun u hu => by simp [completeIn, h u hu]
  have hnone : w.b.units.filter (completeIn g) = [] := List.filter_eq_nil_iff.mpr fun u hu => by simp [hnot u hu]
  have hall : w.b.units.filter (fun u => !completeIn g u) = w.b.units := List.filter_eq_self.mpr fun u hu => by simp [hnot u hu]
  rw [doneNotices, hnone, foldl_doneTo_nil]
  dsimp only
  rw [hall]

/-- A tombstone of another set stays. -/
theorem tombDone_other {gi m : Nat} {us : List (BitVec 64)} {t : Tomb} (h : t.g ≠ gi ∨ t.src ≠ m) : tombDone gi m us t = some t := by
  rw [tombDone, if_pos (by simpa using h)]

/-- A tombstone whose units are all complete goes. -/
theorem tombDone_all {gi m : Nat} {us : List (BitVec 64)} {t : Tomb} (hg : t.g = gi) (hsrc : t.src = m)
    (hall : ∀ u ∈ t.unit :: t.units, u ∈ us ∨ u ∈ t.done) : tombDone gi m us t = none := by
  rw [tombDone, if_neg (by simp [hg, hsrc])]
  refine if_pos (List.all_eq_true.mpr fun u hu => List.contains_iff_mem.mpr (List.mem_append.mpr ?_))
  by_cases hold : u ∈ t.done
  · exact .inl hold
  · refine .inr (List.mem_filter.mpr ⟨(hall u hu).resolve_right hold, ?_⟩)
    have hunit := List.mem_cons.mp hu
    simp [hold, hunit]

/-! ### The notices -/

/-- A LOSS notice of a known sender about a slot. -/
def lossFrom (env : Env) (pk : Packet) (w : W) (x : Nat × Group × Nat) : W :=
  let st := if fld pk.payload 0xA 1 = 4 then SlotState.fenced else .lost
  if !senderLive x.2.1 x.2.2 || (slotAt x.2.1 (msgSlot pk)).coord != msgCoord pk || decide (x.2.1.n ≤ msgSlot pk) then w
  else if msgSlot pk == x.2.1.self then excludeSelf env x.1 st 4 w else loseSlot env x.1 (msgSlot pk) st 4 none w

/-- The units a notice lists. -/
def listedUnits (pk : Packet) : List (BitVec 64) :=
  (List.range (fld pk.payload 0x18 4)).map (fun i => BitVec.ofNat 64 (fld pk.payload (32 + 8 * i) 8))

/-- A SETTLE notice of a known sender about a slot. -/
def settleFrom (env : Env) (pk : Packet) (w : W) (x : Nat × Group × Nat) : W :=
  if !senderLive x.2.1 x.2.2 || (slotAt x.2.1 (msgSlot pk)).coord != msgCoord pk || decide (x.2.1.n ≤ msgSlot pk)
      || x.2.1.state == .forming then w
  else afterChange env (settleTry env x.1 (msgSlot pk) (modSettling x.1 (msgSlot pk) (fun s =>
    { s with listed := s.listed ++ listedUnits pk, ends := s.ends ||| fld pk.payload 0x1C 2
             got := if bit (fld pk.payload 0xA 1) 0 then insertNat s.got x.2.2 else s.got }) w))

/-- A DONE notice of a known sender. -/
def doneFrom (pk : Packet) (w : W) (x : Nat × Group × Nat) : W :=
  { w with b := { w.b with tombs := w.b.tombs.filterMap (tombDone x.1 x.2.2 (listedUnits pk)) } }

/-- A FENCED notice of a known sender. -/
def fencedFrom (env : Env) (pk : Packet) (w : W) (x : Nat × Group × Nat) : W :=
  let st := (slotAt x.2.1 x.2.2).state
  if msgSlot pk == x.2.1.self && msgCoord pk == w.b.lnk.coord && (st == .alive || st == .suspect) then excludeSelf env x.1 .fenced 6 w
  else w

/-- What a FORM message of a sender its group knows does; one of another sender does nothing. -/
def fromMember (act : Packet → W → Nat × Group × Nat → W) (pk : Packet) (w : W) : W :=
  match formFrom w pk with
  | none => w
  | some x => act pk w x

theorem exec_loss (rx : Rx) (env : Env) (s : State) : exec (.loss rx env) s = run (formRow rx 3 (fromMember (lossFrom env))) s := by
  refine congrArg (fun f => run (formRow rx _ f) s) (funext fun pk => funext fun w => ?_)
  unfold fromMember
  cases formFrom w pk <;> rfl

theorem exec_settle (rx : Rx) (env : Env) (s : State) : exec (.settle rx env) s = run (formRow rx 4 (fromMember (settleFrom env))) s := by
  refine congrArg (fun f => run (formRow rx _ f) s) (funext fun pk => funext fun w => ?_)
  unfold fromMember
  cases formFrom w pk <;> rfl

theorem exec_done (rx : Rx) (env : Env) (s : State) : exec (.done rx env) s = run (formRow rx 5 (fromMember doneFrom)) s := by
  refine congrArg (fun f => run (formRow rx _ f) s) (funext fun pk => funext fun w => ?_)
  unfold fromMember
  cases formFrom w pk <;> rfl

theorem exec_fenced (rx : Rx) (env : Env) (s : State) : exec (.fenced rx env) s = run (formRow rx 6 (fromMember (fencedFrom env))) s := by
  refine congrArg (fun f => run (formRow rx _ f) s) (funext fun pk => funext fun w => ?_)
  unfold fromMember
  cases formFrom w pk <;> rfl

section
variable {i : Instr} {s : State} {rx : Rx} {kind : Nat} {act : Packet → W → Nat × Group × Nat → W} {pk : Packet} {w : W}

/-- What the row of a FORM message leaves, of a sender its group knows. -/
theorem leaves_fromMember {x : Nat × Group × Nat} (hrow : exec i s = run (formRow rx kind (fromMember act)) s)
    (hacc : formAccepted (openW s) rx kind = some (pk, w)) (hfrom : formFrom w pk = some x) : Leaves i s (act pk w x) := by
  refine leaves_of hrow ((formRow_accepted hacc).trans ?_)
  rw [fromMember, hfrom]

/-- A FORM message of an unknown sender, or that does not fit, has no further effect. -/
theorem leaves_misfit (hrow : exec i s = run (formRow rx kind (fromMember act)) s)
    (hacc : formAccepted (openW s) rx kind = some (pk, w)) (hmisfit : ∀ x, formFrom w pk = some x → act pk w x = w) :
    Leaves i s w := by
  refine leaves_of hrow ((formRow_accepted hacc).trans ?_)
  rw [fromMember]
  cases hfrom : formFrom w pk with
  | none => rfl
  | some x => exact hmisfit x hfrom

end

theorem lossFrom_fits {env : Env} {pk : Packet} {w : W} {x : Nat × Group × Nat} {st : SlotState} (hlive : senderLive x.2.1 x.2.2 = true)
    (hcoord : (slotAt x.2.1 (msgSlot pk)).coord = msgCoord pk) (hn : msgSlot pk < x.2.1.n)
    (hst : st = if fld pk.payload 0xA 1 = 4 then SlotState.fenced else .lost) : lossFrom env pk w x
      = if msgSlot pk == x.2.1.self then excludeSelf env x.1 st 4 w else loseSlot env x.1 (msgSlot pk) st 4 none w := by
  have hfit : (!senderLive x.2.1 x.2.2 || (slotAt x.2.1 (msgSlot pk)).coord != msgCoord pk || decide (x.2.1.n ≤ msgSlot pk)) = false := by
    simp [hlive, hcoord, hn]
  rw [hst, lossFrom, hfit]
  rfl

theorem lossFrom_misfit {env : Env} {pk : Packet} {w : W} {x : Nat × Group × Nat}
    (h : senderLive x.2.1 x.2.2 = false ∨ (slotAt x.2.1 (msgSlot pk)).coord ≠ msgCoord pk ∨ x.2.1.n ≤ msgSlot pk) :
    lossFrom env pk w x = w := if_pos (by simpa [or_assoc] using h)

theorem settleFrom_fits {env : Env} {pk : Packet} {w : W} {x : Nat × Group × Nat} (hlive : senderLive x.2.1 x.2.2 = true)
    (hcoord : (slotAt x.2.1 (msgSlot pk)).coord = msgCoord pk) (hn : msgSlot pk < x.2.1.n) (hformed : x.2.1.state ≠ .forming) :
    settleFrom env pk w x = afterChange env (settleTry env x.1 (msgSlot pk) (modSettling x.1 (msgSlot pk) (fun s =>
      { s with listed := s.listed ++ listedUnits pk, ends := s.ends ||| fld pk.payload 0x1C 2
               got := if bit (fld pk.payload 0xA 1) 0 then insertNat s.got x.2.2 else s.got }) w)) :=
  if_neg (by simp [hlive, hcoord, hn, hformed])

theorem settleFrom_misfit {env : Env} {pk : Packet} {w : W} {x : Nat × Group × Nat}
    (h : senderLive x.2.1 x.2.2 = false ∨ (slotAt x.2.1 (msgSlot pk)).coord ≠ msgCoord pk ∨ x.2.1.n ≤ msgSlot pk) :
    settleFrom env pk w x = w := if_pos (by obtain h | h | h := h <;> simp [h])

theorem fencedFrom_fits {env : Env} {pk : Packet} {w : W} {x : Nat × Group × Nat} (hslot : msgSlot pk = x.2.1.self)
    (hcoord : msgCoord pk = w.b.lnk.coord) (hst : (slotAt x.2.1 x.2.2).state ∈ [SlotState.alive, .suspect]) :
    fencedFrom env pk w x = excludeSelf env x.1 .fenced 6 w := if_pos (by simpa [hslot, hcoord] using hst)

theorem fencedFrom_misfit {env : Env} {pk : Packet} {w : W} {x : Nat × Group × Nat} (h : msgSlot pk ≠ x.2.1.self
    ∨ msgCoord pk ≠ w.b.lnk.coord ∨ (slotAt x.2.1 x.2.2).state ∉ [SlotState.alive, .suspect]) : fencedFrom env pk w x = w :=
  if_neg (by
    obtain h | h | h := h
    · simp [h]
    · simp [h]
    · have hst : ((slotAt x.2.1 x.2.2).state == .alive || (slotAt x.2.1 x.2.2).state == .suspect) = false := by simpa using h
      simp [hst])

/-! ### MEMBER_FENCE -/

/-- MEMBER_FENCE of a slot that may be fenced. -/
def fenceSlot (env : Env) (k : Cmd) (gi j : Nat) (c : Coord) (w : W) : W :=
  let v := if bit (arg k 0x12 1) 0 then
      (sendTo c (grpForm (getGrp w gi) 0 2 j false
        (toLe 8 w.b.lnk.nextMsg ++ formPayload w { kind := 6, slot := j, coord := c })) { w with b.lnk.nextMsg := w.b.lnk.nextMsg + 1 }).2
    else w
  if isSettled (getGrp v gi) j then afterChange env (settleWaits env gi j v) else v

/-- The checks of MEMBER_FENCE. -/
def memberFenceChecks (w : W) (k : Cmd) : Check :=
  let g := getGrp w (arg k 0x10 1)
  let j := arg k 0x11 1
  let st := (slotAt g j).state
  firstFail [deny (g.state == .free) 0x90, ownGrp w k (arg k 0x10 1),
    deny (g.state == .forming || g.state == .broken || j == g.self || decide (g.n ≤ j) || st == .fenced || st == .adopted) 0x90]

/-- MEMBER_FENCE behind its checks. -/
def memberFenceGo (env : Env) (k : Cmd) (w : W) : W :=
  fenceSlot env k (arg k 0x10 1) (arg k 0x11 1) (slotAt (getGrp w (arg k 0x10 1)) (arg k 0x11 1)).coord
    (loseSlot env (arg k 0x10 1) (arg k 0x11 1) .fenced 5 (some 4)
      (modGrp (arg k 0x10 1) (fun g => { g with waitSettle := g.waitSettle ++ [(k.id, arg k 0x11 1, none)] }) w))

theorem memberFence_eq (env : Env) (k : Cmd) (w : W) :
    memberFence env k w = checked env k (memberFenceChecks w k) (memberFenceGo env k) w := by
  unfold memberFence memberFenceGo fenceSlot
  rfl

theorem memberFenceChecks_pass {k : Cmd} {w : W} (hpart : (getGrp w (arg k 0x10 1)).part = k.part)
    (hstate : (getGrp w (arg k 0x10 1)).state ∈ [GrpState.whole, .degraded, .relighting, .restriping])
    (hself : arg k 0x11 1 ≠ (getGrp w (arg k 0x10 1)).self) (hn : arg k 0x11 1 < (getGrp w (arg k 0x10 1)).n)
    (hslot : (slotAt (getGrp w (arg k 0x10 1)) (arg k 0x11 1)).state ∉ [SlotState.fenced, .adopted]) : memberFenceChecks w k = none := by
  simp only [List.mem_cons, List.not_mem_nil, or_false, not_or] at hstate hslot
  obtain h | h | h | h := hstate <;>
    simp [memberFenceChecks, ownGrp, deny, firstFail, h, hpart, hself, Nat.not_le.mpr hn, hslot]

/-- Settles O38: each notice fits the group's slots or not (`leaves_fromMember`, `leaves_misfit`). -/
theorem lossIsToldAndSettled : Obligations.LossIsToldAndSettled := by
  refine ⟨?loss, ?settle, ?done, ?timer, ?fenced, ?misfit, ?fence⟩
  case loss =>
    intro s rx env pk w gi g m st hacc hfrom hlive hcoord hn hst
    have hrow := leaves_fromMember (exec_loss rx env s) hacc hfrom
    rw [lossFrom_fits (x := (gi, g, m)) hlive hcoord hn hst] at hrow
    refine ⟨fun hself => ?_, fun hother => ?_⟩
    · rwa [if_pos (beq_iff_eq.mpr hself)] at hrow
    · rwa [if_neg (fun h => hother (beq_iff_eq.mp h))] at hrow
  case settle =>
    intro s rx env pk w gi g m hacc hfrom hlive hcoord hn hformed
    have hrow := leaves_fromMember (exec_settle rx env s) hacc hfrom
    rwa [settleFrom_fits (x := (gi, g, m)) hlive hcoord hn hformed] at hrow
  case done =>
    intro s rx env pk w gi g m hacc hfrom
    exact ⟨leaves_fromMember (exec_done rx env s) hacc hfrom, fun t us _ => ⟨tombDone_other, tombDone_all⟩⟩
  case timer =>
    intro s g
    obtain ⟨v, ⟨_, _, _, _, _, hv⟩, hunits⟩ := doneNotices_units g (openW s)
    have hjr : (doneNotices g (openW s)).jr = [] := by rw [hunits, hv]; rfl
    refine ⟨_, blocks_of (exec_doneNoticeTimer g s) rfl hjr, rfl, ?_, fun hnone => ?_⟩
    · show (doneNotices g (openW s)).b.units = _
      rw [hunits]
      rfl
    · show (doneNotices g (openW s)).b = _
      rw [doneNotices_none hnone]
      rfl
  case fenced =>
    intro s rx env pk w gi g m hacc hfrom hslot hcoord
    have hrow := leaves_fromMember (exec_fenced rx env s) hacc hfrom
    refine ⟨fun hst => ?_, fun hst => ?_⟩
    · rwa [fencedFrom_fits (x := (gi, g, m)) hslot hcoord hst] at hrow
    · rwa [fencedFrom_misfit (x := (gi, g, m)) (.inr (.inr hst))] at hrow
  case misfit =>
    intro s rx env pk w kind i hrow hacc hmisfit
    simp only [List.mem_cons, Prod.mk.injEq, List.not_mem_nil, or_false] at hrow hmisfit
    obtain ⟨rfl, rfl⟩ | ⟨rfl, rfl⟩ | ⟨rfl, rfl⟩ | ⟨rfl, rfl⟩ := hrow
    · refine leaves_misfit (exec_loss rx env s) hacc fun x hx => ?_
      obtain h | ⟨h, -⟩ | ⟨-, h⟩ := hmisfit
      · rw [h] at hx; contradiction
      · contradiction
      · exact lossFrom_misfit (h x.1 x.2.1 x.2.2 hx)
    · refine leaves_misfit (exec_settle rx env s) hacc fun x hx => ?_
      obtain h | ⟨h, -⟩ | ⟨-, h⟩ := hmisfit
      · rw [h] at hx; contradiction
      · contradiction
      · exact settleFrom_misfit (h x.1 x.2.1 x.2.2 hx)
    · refine leaves_misfit (exec_done rx env s) hacc fun x hx => ?_
      obtain h | ⟨h, -⟩ | ⟨h, -⟩ := hmisfit
      · rw [h] at hx; contradiction
      · contradiction
      · simp at h
    · refine leaves_misfit (exec_fenced rx env s) hacc fun x hx => ?_
      obtain h | ⟨-, h⟩ | ⟨h, -⟩ := hmisfit
      · rw [h] at hx; contradiction
      · obtain h | h := h x.1 x.2.1 x.2.2 hx
        · exact fencedFrom_misfit (.inl h)
        · exact fencedFrom_misfit (.inr (.inl h))
      · simp at h
  case fence =>
    rintro s c env k g j gi ⟨hs, ⟨-, -, hinj, -⟩, -, hop⟩ rfl rfl rfl hpart hstate hself hn hslot w rfl v rfl
    have hkeeps := begun_keeps hs hinj
    have hgrp := hkeeps.getGrp (arg k 0x10 1)
    rw [← hgrp] at hpart hstate hself hn hslot ⊢
    have hrow : Leaves (.memberFence c env) s (memberFence env k (begun s c k)) :=
      leaves_start (i := .memberFence c env) (start := memberFence env) rfl hs (isOp_of hop)
    rw [memberFence_eq, memberFenceChecks_pass hpart hstate hself hn hslot] at hrow
    unfold checked memberFenceGo fenceSlot modGrp at hrow
    exact hrow

end Sys2Proof.Machine
end

section
/-! PROOF. MEMBER_ADOPT at a survivor and at the spare (R335, R336). -/

namespace Sys2Proof.Machine

open Sys2Proof.Safety

/-! ### A survivor -/

theorem exec_memberAdoptSurvivor_readable {s : State} {c : CmdId} {env : Env} {k : Cmd} (hk : findCmd (openW s) c = some k)
    (hread : ListsReadable s k) : exec (.memberAdoptSurvivor c env) s =
    run (cmdRow c (fun k => isOp 0x61 k && arg k 0x2D 1 != 1) env (adoptSurvivorGo env) (fun _ w => w)) s := by
  have hrow : exec (.memberAdoptSurvivor c env) s =
    run (listReads c (cmdRow c (fun k => isOp 0x61 k && arg k 0x2D 1 != 1) env (adoptSurvivorGo env) (fun _ w => w))) s := rfl
  rw [hrow, run_next, run_next, listReads_of_readable _ hk hread]

theorem exec_memberAdoptSpare_readable {s : State} {c : CmdId} {env : Env} {k : Cmd} (hk : findCmd (openW s) c = some k)
    (hread : ListsReadable s k) : exec (.memberAdoptSpare c env) s =
    run (cmdRow c (fun k => isOp 0x61 k && arg k 0x2D 1 == 1) env (adoptSpareGo env) (fun _ w => w)) s := by
  have hrow : exec (.memberAdoptSpare c env) s =
    run (listReads c (cmdRow c (fun k => isOp 0x61 k && arg k 0x2D 1 == 1) env (adoptSpareGo env) (fun _ w => w))) s := rfl
  rw [hrow, run_next, run_next, listReads_of_readable _ hk hread]

/-- Does a member list differ from the entry elsewhere than in the adopted slot? -/
def listDiffers (g : Group) (j : Nat) (l : List Coord) : Bool := (List.range 16).any (fun i => i != j && l.getD i 0 != (slotAt g i).coord)

theorem listDiffers_not {g : Group} {j : Nat} {l : List Coord} (h : ∀ i, i < 16 → i ≠ j → l.getD i 0 = (slotAt g i).coord) :
    listDiffers g j l = false := by
  refine List.any_eq_false.mpr fun i hi => ?_
  by_cases hj : i = j
  · simp [hj]
  · rw [h i (List.mem_range.mp hi) hj]
    simp

/-- A survivor's MEMBER_ADOPT whose checks pass. -/
theorem adoptSurvivorGo_passes {env : Env} {k : Cmd} {u v w : W} {l : List Coord} {gi j : Nat} {g : Group} (hgi : gi = arg k 0x10 1)
    (hj : j = arg k 0x2C 1) (hg : g = getGrp u gi) (hpart : g.part = k.part)
    (hstate : g.state ∈ [GrpState.whole, .degraded, .relighting, .restriping]) (hself : j ≠ g.self) (hn : j < g.n)
    (hout : slotOut (slotAt g j).state = true) (hsame : adoptDiffers k g = false) (hfields : adoptFields k = none)
    (hlist : readMlist env k u = (some l, v)) (hcoords : ∀ i, i < 16 → i ≠ j → l.getD i 0 = (slotAt g i).coord)
    (hchecks : listChecks env k (some (gi, j)) v = (.ok l, w)) : adoptSurvivorGo env k u
      = if isSettled g j then adoptSurvivor env k.id gi j (l.getD j 0) w
        else modGrp gi (fun g => { g with waitSettle := g.waitSettle ++ [(k.id, j, some (l.getD j 0))] }) w := by
  have hpass : firstFail [if g.state == .free then none else ownGrp u k gi, adoptFields k, deny (g.state == .free || g.state == .forming
      || g.state == .broken || j == g.self || decide (g.n ≤ j) || !slotOut (slotAt g j).state || adoptDiffers k g) 0x91] = none := by
    have hown : (getGrp u gi).part = k.part := hg ▸ hpart
    simp only [List.mem_cons, List.not_mem_nil, or_false] at hstate
    obtain h | h | h | h := hstate <;>
      simp [ownGrp, deny, firstFail, ← hg, h, hpart, hself, Nat.not_le.mpr hn, hout, hsame, hfields]
  have hdiffers : ((List.range 16).any fun i => i != j && l.getD i 0 != (slotAt g i).coord) = false := listDiffers_not hcoords
  unfold adoptSurvivorGo
  simp only [← hgi, ← hj, ← hg, hpass, checked, hlist, hdiffers, Bool.false_eq_true, if_false, hchecks]

/-! ### The spare -/

/-- The entry that a spare's MEMBER_ADOPT fills from its operands (R335, R336). -/
def adoptingGroup (k : Cmd) (l : List Coord) : Group :=
  { state := .degraded, n := arg k 0x11 1, k := arg k 0x12 1, m := arg k 0x13 1, self := arg k 0x14 1, dgn := arg k 0x16 2
    mcast := arg k 0x18 2, wdom := arg k 0x1A 2, sealReq := bit (arg k 0x15 1) 0
    formMs := if arg k 0x28 4 = 0 then 2000 else arg k 0x28 4
    members := (List.range 16).map (fun i => if i < arg k 0x11 1 then
      { coord := l.getD i 0, state := if i = arg k 0x14 1 then .adopted else .alive } else {})
    ctx := k.ctx, part := k.part }

theorem keepsGroups_fillSpare (k : Cmd) (l : List Coord) (w : W) :
    KeepsGroups (setGrp (arg k 0x10 1) (adoptingGroup k l) w) (fillGroup k l .degraded .adopted w) := by
  have hstreams : ∀ t r (v : W), KeepsGroups v (withStreams t r v) := fun t r v => ⟨rfl, rfl⟩
  simp only [fillGroup]
  exact (hstreams _ _ (setGrp (arg k 0x10 1) (adoptingGroup k l) w)).trans (keepsGroups_foldl (fun v c => keepsGroups_addPeer c v) _ _)

/-- The entry is filled, its command waits in it, and ADOPTs are sent. -/
def spareStarts (k : Cmd) (l : List Coord) (w : W) : W :=
  let w := startCounting (arg k 0x10 1) (modGrp (arg k 0x10 1) (fun g => { g with adopting := some k.id }) (fillGroup k l .degraded .adopted w))
  (others (getGrp w (arg k 0x10 1))).foldl (fun w m => sendAdopt (arg k 0x10 1) m w) w

theorem Messages.keepsGroups {v w : W} : Messages v w → KeepsGroups v w := by
  rintro ⟨_, _, _, _, _, rfl⟩
  exact ⟨rfl, rfl⟩

theorem spareStarts_groups (k : Cmd) (l : List Coord) (w : W) : (spareStarts k l w).jr = w.jr
    ∧ (spareStarts k l w).b.grps = tset w.b.grps (arg k 0x10 1) { adoptingGroup k l with adopting := some k.id } := by
  have hfill := keepsGroups_fillSpare k l w
  have hget : getGrp (fillGroup k l .degraded .adopted w) (arg k 0x10 1) = adoptingGroup k l := by
    rw [getGrp, hfill.grps]
    exact tget_tset_same _ _ _ _
  have hcount : ∀ gi v, KeepsGroups v (startCounting gi v) := fun gi v => ⟨rfl, rfl⟩
  have htold := (hcount (arg k 0x10 1) (modGrp (arg k 0x10 1) (fun g => { g with adopting := some k.id })
    (fillGroup k l .degraded .adopted w))).trans (Messages.foldl (fun v m => messages_formTo (arg k 0x10 1) m
      { kind := 7, slot := (getGrp v (arg k 0x10 1)).self, coord := v.b.lnk.coord, body := groupBody (getGrp v (arg k 0x10 1)) } v)
    (others (getGrp (startCounting (arg k 0x10 1) (modGrp (arg k 0x10 1) (fun g => { g with adopting := some k.id })
    (fillGroup k l .degraded .adopted w))) (arg k 0x10 1))) _).keepsGroups
  refine ⟨htold.jr.trans hfill.jr, htold.grps.trans ?_⟩
  rw [modGrp, hget, setGrp_b, hfill.grps]
  exact tset_tset _ _ _ _

theorem adoptSpareGo_passes {env : Env} {k : Cmd} {l : List Coord} {v w : W} (hfields : adoptFields k = none)
    (hfree : (getGrp v (arg k 0x10 1)).state = .free) (hlist : listChecks env k none v = (.ok l, w)) :
    adoptSpareGo env k v = spareStarts k l w := by
  have hpass : firstFail [adoptFields k, deny ((getGrp v (arg k 0x10 1)).state != .free) 0x21] = none := by
    simp [hfields, hfree, deny, firstFail]
  simp only [adoptSpareGo, checked, hpass, hlist]
  rfl

/-- The meaning of ADOPT_RESEND. -/
def adoptResendW (g : Nat) (w : W) : W :=
  let x := getGrp w g
  if x.adopting.isSome then
    ((liveOthers x).filter (fun m => !x.adoptAns.any (fun a => a.1 == m))).foldl (fun w m => sendAdopt g m w) w
  else w

theorem exec_adoptResend (g : Nat) (s : State) : exec (.adoptResend g) s = run (adoptResendW g) s := rfl

theorem adoptResendW_not {g : Nat} {w : W} (h : (getGrp w g).adopting = none) : adoptResendW g w = w :=
  if_neg (by rw [h]; decide)

/-- The meaning of ADOPT_TIMEOUT. -/
def adoptTimeoutW (g : Nat) (env : Env) (w : W) : W :=
  match (getGrp w g).adopting with
  | some c => done env c .timeout 0 [] (freeGroup g w)
  | none => w

theorem exec_adoptTimeout (g : Nat) (env : Env) (s : State) : exec (.adoptTimeout g env) s = run (adoptTimeoutW g env) s := rfl

theorem adoptTimeoutW_not {g : Nat} {env : Env} {w : W} (h : (getGrp w g).adopting = none) : adoptTimeoutW g env w = w := by
  rw [adoptTimeoutW, h]

theorem adoptTimeoutW_some {g : Nat} {env : Env} {w : W} {c : CmdId} (h : (getGrp w g).adopting = some c) :
    adoptTimeoutW g env w = complete env false c { status := .timeout } (freeGroup g w) := by
  rw [adoptTimeoutW, h]
  rfl

/-! ### The notices -/

/-- An ADOPT notice of a known sender. -/
def adoptFrom (pk : Packet) (w : W) (x : Nat × Group × Nat) : W :=
  if msgSlot pk == x.2.2 && msgCoord pk == pk.hdr.src && (slotAt x.2.1 x.2.2).state == .adopted then
    formTo x.1 x.2.2 { kind := 8, slot := x.2.2, coord := pk.hdr.src
                       body := x.2.1.members.flatMap (fun s => toLe 1 (slotCode s.state)) } w
  else w

/-- An ADOPTED notice of a known sender. -/
def adoptedFrom (env : Env) (pk : Packet) (w : W) (x : Nat × Group × Nat) : W :=
  if x.2.1.adopting.isSome && msgSlot pk == x.2.1.self && msgCoord pk == w.b.lnk.coord && !x.2.1.adoptAns.any (fun a => a.1 == x.2.2) then
    afterChange env (spareGo env x.1 (modGrp x.1 (fun g => { g with
      adoptAns := g.adoptAns ++ [(x.2.2, (List.range 16).map (fun i => slotOfCode (fld pk.payload (32 + i) 1)))] }) w))
  else w

theorem exec_adopt (rx : Rx) (env : Env) (s : State) : exec (.adopt rx env) s = run (formRow rx 7 (fromMember adoptFrom)) s := by
  refine congrArg (fun f => run (formRow rx _ f) s) (funext fun pk => funext fun w => ?_)
  unfold fromMember
  cases formFrom w pk <;> rfl

theorem exec_adopted (rx : Rx) (env : Env) (s : State) : exec (.adopted rx env) s = run (formRow rx 8 (fromMember (adoptedFrom env))) s := by
  refine congrArg (fun f => run (formRow rx _ f) s) (funext fun pk => funext fun w => ?_)
  unfold fromMember
  cases formFrom w pk <;> rfl

/-- Settles O39, by the side of the adoption, survivor or spare, and whether its notice fits. -/
theorem adoptionRewritesASlot : Obligations.AdoptionRewritesASlot := by
  refine ⟨?survivor, ?spare, ?resend, ?none, ?timeout, ?adopt, ?adopted⟩
  case survivor =>
    rintro s c env k g gi j l w v ⟨hs, ⟨-, -, hinj, -⟩, -, hop⟩ hrole hgi hj rfl hpart hstate hself hn hout hsame hfields hread hlist
      hcoords hchecks
    have hrow : Leaves (.memberAdoptSurvivor c env) s (adoptSurvivorGo env k (begun s c k)) :=
      leaves_start (exec_memberAdoptSurvivor_readable hs.1 hread) hs (by simp [isOp, hop, hrole])
    rw [adoptSurvivorGo_passes hgi hj ((begun_keeps hs hinj).getGrp gi).symm hpart hstate hself hn hout hsame hfields hlist hcoords
      hchecks] at hrow
    exact ⟨fun h => by rwa [if_pos h] at hrow, fun h => by rwa [if_neg (by rw [h]; decide)] at hrow⟩
  case spare =>
    rintro s c env k l w ⟨hs, hc, -, hop⟩ hrole hfree hfields hread hlist
    obtain ⟨hrd, -, hinj, -⟩ := id hc
    have hk := begun_keeps hs hinj
    have hrow : Leaves (.memberAdoptSpare c env) s (adoptSpareGo env k (begun s c k)) :=
      leaves_start (exec_memberAdoptSpare_readable hs.1 hread) hs (by simp [isOp, hop, hrole])
    rw [adoptSpareGo_passes hfields (by rw [hk.getGrp]; exact hfree) hlist] at hrow
    obtain ⟨hjr, hgrps⟩ := spareStarts_groups k l w
    have hreads := presents_listChecks hrd k none (w := begun s c k) (by rw [hk.ras]; exact hinj)
    rw [hlist] at hreads
    refine ⟨_, hrow, ?_, ?_⟩
    · rw [closeW_mem, hjr, hreads.jr, hk.jr]
      rfl
    · rw [groupOf, closeW_blk, hgrps]
      exact tget_tset_same _ _ _ _
  case resend =>
    intro s g hsome
    exact leaves_of (exec_adoptResend g s) (if_pos hsome)
  case none =>
    intro s g env hnone
    exact ⟨idle_of (exec_adoptResend g s) (adoptResendW_not (w := openW s) hnone),
      idle_of (exec_adoptTimeout g env s) (adoptTimeoutW_not (w := openW s) hnone)⟩
  case timeout =>
    intro s g env c hsome
    exact leaves_of (exec_adoptTimeout g env s) (adoptTimeoutW_some (w := openW s) hsome)
  case adopt =>
    intro s rx env pk w gi g m hacc hfrom
    have hrow := leaves_fromMember (exec_adopt rx env s) hacc hfrom
    refine ⟨fun hslot hcoord hst => ?_, fun hmisfit => ?_⟩
    · rwa [adoptFrom, if_pos (by simp [hslot, hcoord, hst])] at hrow
    · rwa [adoptFrom, if_neg (by obtain h | h | h := hmisfit <;> simp [h])] at hrow
  case adopted =>
    intro s rx env pk w gi g m hacc hfrom
    have hrow := leaves_fromMember (exec_adopted rx env s) hacc hfrom
    refine ⟨fun hadopting hslot hcoord hnew => ?_, fun hmisfit => ?_⟩
    · have hnew' : (g.adoptAns.any fun a => a.1 == m) = false := List.any_eq_false.mpr fun a ha => by simp [hnew a ha]
      rwa [adoptedFrom, if_pos (by simp only [hadopting, hslot, hcoord, hnew', beq_self_eq_true, Bool.and_true, Bool.not_false])] at hrow
    · rwa [adoptedFrom, if_neg] at hrow
      obtain h | h | h | ⟨a, ha, h⟩ := hmisfit
      · simp [h]
      · simp [h]
      · simp [h]
      · have hold : (g.adoptAns.any fun a => a.1 == m) = true := List.any_eq_true.mpr ⟨a, ha, by simp [h]⟩
        simp only [hold, Bool.not_true, Bool.and_false, Bool.false_eq_true, not_false_eq_true]

end Sys2Proof.Machine
end

section
/-! PROOF. Relight, at the spare and at the survivors (R338 to R345). -/

namespace Sys2Proof.Machine

open Sys2Proof.Safety

/-! ### RELIGHT_START -/

theorem foldl_ctxs {α : Type} {f : W → α → W} (hf : ∀ w e, ∃ x, f w e = { w with b := { w.b with ctxs := x } }) (l : List α) :
    ∀ w, ∃ x, l.foldl f w = { w with b := { w.b with ctxs := x } } := by
  induction l with
  | nil => exact fun w => ⟨_, rfl⟩
  | cons e l ih =>
    intro w
    obtain ⟨x, h⟩ := hf w e
    obtain ⟨y, h'⟩ := ih (f w e)
    exact ⟨y, by rw [List.foldl_cons, h', h]⟩

/-- Noting a group's state changes the contexts alone. -/
theorem noteState_eq (gi : Nat) (w : W) : ∃ x, noteState gi w = { w with b := { w.b with ctxs := x } } := by
  refine foldl_ctxs (fun v e => ?_) _ w
  split <;> exact ⟨_, rfl⟩

/-- A message takes the next identifier. -/
theorem sendMsg_nextMsg (c : Coord) (why : Vc0For) (f : Form) (w : W) : (sendMsg c why f w).2.b.lnk.nextMsg = w.b.lnk.nextMsg + 1 := by
  simp only [sendMsg]
  obtain ⟨_, _, _, _, _, _, _, -, h⟩ := sends_transmit
    (portTo (keepMsg { msgid := w.b.lnk.nextMsg, dest := c, part := f.part, pk := (formPacket c { f with
      payload := toLe 8 w.b.lnk.nextMsg ++ f.payload } w).1, why := why } (w.b.lnk.nextMsg + 1) (formPacket c { f with
      payload := toLe 8 w.b.lnk.nextMsg ++ f.payload } w).2.2) c) f.part
    (formPacket c { f with payload := toLe 8 w.b.lnk.nextMsg ++ f.payload } w).1
    (keepMsg { msgid := w.b.lnk.nextMsg, dest := c, part := f.part, pk := (formPacket c { f with
      payload := toLe 8 w.b.lnk.nextMsg ++ f.payload } w).1, why := why } (w.b.lnk.nextMsg + 1) (formPacket c { f with
      payload := toLe 8 w.b.lnk.nextMsg ++ f.payload } w).2.2)
  exact congrArg (fun w : W => w.b.lnk.nextMsg) h

theorem foldl_rlMsg_nextMsg (gi kind : Nat) (body : Bytes) (l : List Nat) : ∀ w,
    (l.foldl (fun w m => rlMsg gi kind m body w) w).b.lnk.nextMsg = w.b.lnk.nextMsg + l.length := by
  induction l with
  | nil => exact fun w => rfl
  | cons m l ih =>
    intro w
    rw [List.foldl_cons, ih, rlMsg, formTo, msgMember, sendMsg_nextMsg, List.length_cons]
    omega

theorem messages_rlMsg (gi kind : Nat) (body : Bytes) (l : List Nat) (w : W) :
    Messages w (l.foldl (fun w m => rlMsg gi kind m body w) w) := Messages.foldl (fun w m => messages_formTo gi m _ w) l w

/-- A member is asked whether it takes part when it is held ALIVE or SUSPECT (R339). -/
def askedMembers (g : Group) : List Nat := (others g).filter (fun m => (slotAt g m).state == .alive || (slotAt g m).state == .suspect)

/-- The entry of a group whose Relight begins. -/
def relightBegins (k : Cmd) (g : Group) : Group :=
  { g with state := .relighting, rlSlot := g.self, rlPhase := 1, rlDone := 0, rlFront := (0, 0)
           relight := some { cmd := k.id, fetchUs := if arg k 0x12 2 = 0 then 200 else arg k 0x12 2, waiting := askedMembers g }
           relightBegun := true }

theorem relightGo_keeps (k : Cmd) (w : W) : (relightGo k w).jr = w.jr
    ∧ (relightGo k w).b.grps = tset w.b.grps (arg k 0x10 1) (relightBegins k (getGrp w (arg k 0x10 1)))
    ∧ (relightGo k w).b.lnk.nextMsg = w.b.lnk.nextMsg + (askedMembers (getGrp w (arg k 0x10 1))).length := by
  obtain ⟨x, hnote⟩ := noteState_eq (arg k 0x10 1) (setGrp (arg k 0x10 1) (relightBegins k (getGrp w (arg k 0x10 1))) w)
  have hgo : relightGo k w = (askedMembers (getGrp w (arg k 0x10 1))).foldl (fun w m => rlMsg (arg k 0x10 1) 9 m [] w)
      (noteState (arg k 0x10 1) (setGrp (arg k 0x10 1) (relightBegins k (getGrp w (arg k 0x10 1))) w)) := rfl
  have hsent := messages_rlMsg (arg k 0x10 1) 9 [] (askedMembers (getGrp w (arg k 0x10 1)))
      (noteState (arg k 0x10 1) (setGrp (arg k 0x10 1) (relightBegins k (getGrp w (arg k 0x10 1))) w))
  rw [← hgo] at hsent
  refine ⟨?_, ?_, ?_⟩
  · rw [hsent.keepsGroups.jr, hnote]
    rfl
  · rw [hsent.keepsGroups.grps, hnote]
    rfl
  · rw [hgo, foldl_rlMsg_nextMsg, hnote]
    rfl

/-! ### The state transfer -/

/-- Without an answer in full nothing of a state transfer is stored. -/
theorem stateResume_none {env : Env} {w : W} (h : ∀ x ∈ w.b.grps, ∀ r, x.2.relight = some r → ∀ f ∈ r.fetches, stateFull f = false) :
    stateResume env w = w := by
  rw [stateResume]
  generalize w.b.grps = l at h
  induction l with
  | nil => rfl
  | cons x l ih =>
    rw [List.foldl_cons]
    have hrest := ih fun y hy => h y (.tail _ hy)
    cases hr : x.2.relight with
    | none => exact hrest
    | some rl =>
      have hnone : rl.fetches.filter stateFull = [] := List.filter_eq_nil_iff.mpr fun f hf => by simp [h x (.head _) rl hr f hf]
      dsimp only
      rw [hnone]
      exact hrest

/-- The meaning of RELIGHT_STATE_TRANSFER. -/
def stateTransferW (g : Nat) (env : Env) (w : W) : W :=
  let x := getGrp w g
  match x.relight with
  | none => w
  | some rl =>
    if !rl.waiting.isEmpty || 2 < x.rlPhase then w
    else
      let w := stateResume env w
      let rl := ((getGrp w g).relight).getD rl
      let fs := if x.rlPhase = 1 then
          (match findCmd w rl.cmd with | some k => stateFetches w k.ctx g | none => [])
        else rl.fetches.filter (fun f => !stateFull f)
      let w := modGrp g (fun g => { g with rlPhase := if g.rlPhase ≤ 2 then 2 else g.rlPhase
                                           relight := g.relight.map (fun r => { r with fetches := r.fetches.filter stateFull }) }) w
      if x.rlPhase = 1 && fs.isEmpty then startRebuild env g w else fs.foldl (fun w f => askState g f w) w

theorem exec_relightStateTransfer (g : Nat) (env : Env) (s : State) :
    exec (.relightStateTransfer g env) s = run (stateTransferW g env) s := rfl

theorem stateTransferW_not {g : Nat} {env : Env} {w : W}
    (h : ∀ rl, (getGrp w g).relight = some rl → rl.waiting ≠ [] ∨ 2 < (getGrp w g).rlPhase) : stateTransferW g env w = w := by
  unfold stateTransferW
  dsimp only
  split
  · rfl
  · case h_2 rl hrl =>
    refine if_pos ?_
    obtain hwait | hphase := h rl hrl
    · simp [hwait]
    · simp [hphase]

/-- The relight of a group that is present is one of the table's. -/
theorem mem_of_tget {α : Type} {t : Tbl α} {i : Nat} {d : α} (h : tget t i d ≠ d) : ∃ x ∈ t, x.2 = tget t i d := by
  induction t with
  | nil => exact absurd rfl h
  | cons x t ih =>
    by_cases hx : i = x.1
    · exact ⟨x, .head _, by simp [tget, tfind, hx]⟩
    · have hrest : tget (x :: t) i d = tget t i d := by simp [tget, tfind, hx]
      rw [hrest] at h ⊢
      obtain ⟨y, hy, hval⟩ := ih h
      exact ⟨y, .tail _ hy, hval⟩

theorem stateFull_of_relight {w : W} {g : Nat} {rl : Relight} (hrl : (getGrp w g).relight = some rl)
    (hnone : ∀ x ∈ w.b.grps, ∀ r, x.2.relight = some r → ∀ f ∈ r.fetches, stateFull f = false) : ∀ f ∈ rl.fetches, stateFull f = false := by
  have hne : tget w.b.grps g ({} : Group) ≠ {} := fun h => by
    rw [show getGrp w g = tget w.b.grps g {} from rfl, h] at hrl
    contradiction
  obtain ⟨x, hx, hval⟩ := mem_of_tget hne
  exact hnone x hx rl (by rw [hval]; exact hrl)

/-- The entry of a group whose state transfer runs, with no answer left to take. -/
def transferring (rl : Relight) (g : Group) : Group := { g with rlPhase := 2, relight := some { rl with fetches := [] } }

/-- The state is asked for: what it consists of at first, what is lacking later (R340, log entry 52). -/
theorem stateTransferW_asks {g : Nat} {env : Env} {w : W} {rl : Relight} (hrl : (getGrp w g).relight = some rl) (hwait : rl.waiting = [])
    (hnone : ∀ x ∈ w.b.grps, ∀ r, x.2.relight = some r → ∀ f ∈ r.fetches, stateFull f = false) {l : List StateFetch}
    (hl : ((getGrp w g).rlPhase = 1 ∧ ∃ k, findCmd w rl.cmd = some k ∧ l = stateFetches w k.ctx g)
      ∨ ((getGrp w g).rlPhase = 2 ∧ l = rl.fetches)) :
    stateTransferW g env w = l.foldl (fun w f => askState g f w) (setGrp g (transferring rl (getGrp w g)) w) := by
  have hlacks := stateFull_of_relight hrl hnone
  have hkept : rl.fetches.filter stateFull = [] := List.filter_eq_nil_iff.mpr fun f hf => by simp [hlacks f hf]
  have hall : rl.fetches.filter (fun f => !stateFull f) = rl.fetches := List.filter_eq_self.mpr fun f hf => by simp [hlacks f hf]
  have hphase : (getGrp w g).rlPhase ≤ 2 := by obtain ⟨h, -⟩ | ⟨h, -⟩ := hl <;> omega
  have hmod : modGrp g (fun x => { x with rlPhase := if x.rlPhase ≤ 2 then 2 else x.rlPhase
                                          relight := x.relight.map (fun r => { r with fetches := r.fetches.filter stateFull }) }) w
      = setGrp g (transferring rl (getGrp w g)) w := by
    rw [modGrp, if_pos hphase, hrl, Option.map_some, hkept]
    rfl
  have hgo : (!rl.waiting.isEmpty || decide (2 < (getGrp w g).rlPhase)) = false := by
    rw [hwait]
    simpa using hphase
  unfold stateTransferW
  simp only [hrl, hgo, Bool.false_eq_true, if_false, stateResume_none hnone, Option.getD_some, hmod, hall]
  obtain ⟨h, k, hk, rfl⟩ | ⟨h, rfl⟩ := hl
  · have hsome : (stateFetches w k.ctx g).isEmpty = false := by simp [stateFetches]
    simp only [h, hk, hsome, if_true, Bool.and_false, Bool.false_eq_true, if_false]
  · simp only [h, Nat.reduceEqDiff, if_false, decide_false, Bool.false_and, Bool.false_eq_true]

/-! ### The stripes -/

theorem exec_relightStripeDone (op : Nat) (env : Env) (s : State) : exec (.relightStripeDone op env) s = run (stripeDone env op) s := rfl

/-- A stripe of a Relight, of an operation that is known. -/
theorem stripeDone_of {env : Env} {id ri st a : Nat} {o : FetchOp} {w : W} {role : Bool × Nat} (hfind : findOp w id = some o)
    (hwhy : o.why = .relight ri st) (hrole : role = roleOf (getGrp w o.g).n (getGrp w o.g).m (getGrp w o.g).self st)
    (ha : a = roleAddr (getGrp w o.g) (getRgn w ri) (partnerOf w (getRgn w ri)) role st 0) : stripeDone env id w =
      if !opReady w o || (!role.1 && !heldUpTo w o (getGrp w o.g) role.2) then w
      else if !linesFree w a (64 * o.lines) then flushLines a (64 * o.lines) w
      else if (writeStripe env o ri o.lines w).1 != .ok then
        failRelight env o.g { status := rspStatus (writeStripe env o ri o.lines w).1 } (writeStripe env o ri o.lines w).2
      else relightNext env o.g (passStripe env o.g ri st
        (cntGlb 0x10 1 (assignEngines 8 (dropOp id (writeStripe env o ri o.lines w).2)))) := by
  rw [stripeDone, hfind]
  simp only [hwhy, ← hrole, ← ha]

/-! ### The end of a Relight -/

theorem exec_relightTimeout (g : Nat) (env : Env) (s : State) :
    exec (.relightTimeout g env) s = run (failRelight env g { status := .timeout }) s := rfl

theorem failRelight_none {env : Env} {gi : Nat} {o : Outc} {w : W} (h : (getGrp w gi).relight = none) : failRelight env gi o w = w := by
  rw [failRelight, h]

theorem failRelight_some {env : Env} {gi : Nat} {o : Outc} {w : W} {rl : Relight} (h : (getGrp w gi).relight = some rl) :
    failRelight env gi o w = complete env false rl.cmd o
      (leaveRelighting gi (relightOff gi (rl.accepted.foldl (fun w m => rlMsg gi 12 m [] w) w))) := by
  rw [failRelight, h]

/-! ### The messages -/

/-- RL_BEGIN of a known sender. -/
def rlBeginFrom (pk : Packet) (w : W) (x : Nat × Group × Nat) : W :=
  if msgSlot pk != x.2.2 || (slotAt x.2.1 x.2.2).state != .adopted then w
  else
    let busy := x.2.1.state == .relighting || x.2.1.state == .restriping
      || w.b.streams.any (fun s => s.kind == .restripe && (s.g == x.1 || s.oldG == x.1))
    let code := if x.2.1.state == .broken then 3 else if busy then 1 else if !allSettled x.2.1 then 2 else 0
    let w := formTo x.1 x.2.2 { kind := 10, slot := x.2.2, code := code, coord := pk.hdr.src } w
    if code != 0 then w
    else noteState x.1 (modGrp x.1 (fun g => { g with state := .relighting, rlSlot := x.2.2, rlPhase := 4 }) w)

/-- RL_ANSWER of a known sender. -/
def rlAnswerFrom (env : Env) (pk : Packet) (w : W) (x : Nat × Group × Nat) : W :=
  let code := fld pk.payload 0xA 1
  if msgSlot pk != x.2.1.self || msgCoord pk != w.b.lnk.coord then w
  else match x.2.1.relight with
    | none => if code = 0 then rlMsg x.1 12 x.2.2 [] w else w
    | some rl =>
      if !rl.waiting.contains x.2.2 then w
      else if code = 0 then
        modRelight x.1 (fun r => { r with waiting := r.waiting.filter (fun y => y != x.2.2), accepted := r.accepted ++ [x.2.2] }) w
      else failRelight env x.1 { status := .denied, info := 0x97, result := toLe 1 code } w

/-- RL_END of a known sender. -/
def rlEndFrom (env : Env) (pk : Packet) (w : W) (x : Nat × Group × Nat) : W :=
  if msgSlot pk != x.2.2 || (slotAt x.2.1 x.2.2).state != .adopted then w
  else
    let w := leaveRelighting x.1 (nowAlive x.1 x.2.2 w)
    afterChange env (rebuildLines env x.1 (getGrp w x.1).unknown w)

/-- RL_CANCEL of a known sender. -/
def rlCancelFrom (pk : Packet) (w : W) (x : Nat × Group × Nat) : W :=
  if x.2.1.relight.isNone && x.2.1.rlSlot == x.2.2 && msgSlot pk == x.2.2 then leaveRelighting x.1 w else w

theorem exec_rlBegin (rx : Rx) (env : Env) (s : State) : exec (.rlBegin rx env) s = run (formRow rx 9 (fromMember rlBeginFrom)) s := by
  refine congrArg (fun f => run (formRow rx _ f) s) (funext fun pk => funext fun w => ?_)
  unfold fromMember
  cases formFrom w pk <;> rfl

theorem exec_rlAnswer (rx : Rx) (env : Env) (s : State) :
    exec (.rlAnswer rx env) s = run (formRow rx 10 (fromMember (rlAnswerFrom env))) s := by
  refine congrArg (fun f => run (formRow rx _ f) s) (funext fun pk => funext fun w => ?_)
  unfold fromMember
  cases formFrom w pk <;> rfl

theorem exec_rlEnd (rx : Rx) (env : Env) (s : State) : exec (.rlEnd rx env) s = run (formRow rx 11 (fromMember (rlEndFrom env))) s := by
  refine congrArg (fun f => run (formRow rx _ f) s) (funext fun pk => funext fun w => ?_)
  unfold fromMember
  cases formFrom w pk <;> rfl

theorem exec_rlCancel (rx : Rx) (env : Env) (s : State) : exec (.rlCancel rx env) s = run (formRow rx 12 (fromMember rlCancelFrom)) s := by
  refine congrArg (fun f => run (formRow rx _ f) s) (funext fun pk => funext fun w => ?_)
  unfold fromMember
  cases formFrom w pk <;> rfl

/-- RL_BEGIN of an adopted slot's member is answered with a code (R339). -/
theorem rlBeginFrom_answers {pk : Packet} {w : W} {gi m : Nat} {g : Group} (hslot : msgSlot pk = m) (hst : (slotAt g m).state = .adopted)
    {busy : Bool} (hbusy : busy = (g.state == .relighting || g.state == .restriping
      || w.b.streams.any (fun s => s.kind == .restripe && (s.g == gi || s.oldG == gi)))) {code : Nat}
    (hcode : code = if g.state == .broken then 3 else if busy then 1 else if !allSettled g then 2 else 0) :
    rlBeginFrom pk w (gi, g, m) = if code != 0 then formTo gi m { kind := 10, slot := m, code := code, coord := pk.hdr.src } w
      else noteState gi (modGrp gi (fun g => { g with state := .relighting, rlSlot := m, rlPhase := 4 })
        (formTo gi m { kind := 10, slot := m, code := code, coord := pk.hdr.src } w)) := by
  rw [rlBeginFrom, if_neg (by simp [hslot, hst]), hcode, hbusy]

theorem not_restriping {w : W} (gi : Nat) (h : ∀ x ∈ w.b.streams, x.kind ≠ .restripe) :
    (w.b.streams.any fun s => s.kind == .restripe && (s.g == gi || s.oldG == gi)) = false :=
  List.any_eq_false.mpr fun x hx => by simp [h x hx]

theorem slotAt_nowAlive (gi m : Nat) (g : Group) (w : W) : slotAt (getGrp (nowAlive gi m (setGrp gi g w)) gi) m
    = if m < g.members.length then { slotAt g m with state := .alive } else slotAt g m := by
  have hget : getGrp (nowAlive gi m (setGrp gi g w)) gi = { g with members := g.members.set m { slotAt g m with state := .alive } } := by
    have hg : getGrp (setGrp gi g w) gi = g := tget_tset_same _ _ _ _
    show getGrp (modGrp gi (fun x => { x with members := x.members.set m { slotAt x m with state := .alive } }) (setGrp gi g w)) gi = _
    rw [modGrp, hg]
    exact tget_tset_same _ _ _ _
  rw [hget, slotAt, slotAt]
  split
  · case isTrue h => simp [h]
  · case isFalse h => simp [h]

/-- Settles O40: stage by stage, each with the case in which its message does not fit. -/
theorem relightRuns : Obligations.RelightRuns := by
  refine ⟨?start, ?transfer, ?noTransfer, ?stripe, ?noTimeout, ?timeout, ?begin_, ?noAnswer, ?answer, ?end_⟩
  case start =>
    rintro s c env k g gi ask ⟨hs, ⟨-, -, hinj, -⟩, -, hop⟩ hcheck rfl rfl rfl
    have hk := begun_keeps hs hinj
    have hrow : Leaves (.relightStart c env) s (relightGo k (begun s c k)) :=
      leaves_checked (i := .relightStart c env) (chk := relightCheck) (go := relightGo) rfl hs (isOp_of hop) hcheck
    obtain ⟨hjr, hgrps, hmsg⟩ := relightGo_keeps k (begun s c k)
    rw [hk.getGrp] at hgrps hmsg
    refine ⟨_, hrow, ?_, ?_, ?_⟩
    · rw [closeW_mem, hjr, hk.jr]
      rfl
    · rw [groupOf, closeW_blk, hgrps]
      exact tget_tset_same _ _ _ _
    · rw [closeW_blk, hmsg, hk.blk]
      rfl
  case transfer =>
    rintro s g env rl w hrl hwait hnone rfl
    refine ⟨fun k hphase hk => ?_, fun hphase => ?_⟩
    · exact leaves_of (exec_relightStateTransfer g env s)
        (stateTransferW_asks (w := openW s) hrl hwait hnone (.inl ⟨hphase, k, hk, rfl⟩))
    · exact leaves_of (exec_relightStateTransfer g env s) (stateTransferW_asks (w := openW s) hrl hwait hnone (.inr ⟨hphase, rfl⟩))
  case noTransfer =>
    intro s g env h
    exact idle_of (exec_relightStateTransfer g env s) (stateTransferW_not h)
  case stripe =>
    intro s op env o ri st a role c w hfind hwhy hrole ha
    have hdone := stripeDone_of (env := env) hfind hwhy hrole ha
    refine ⟨fun hready hheld => ?_, fun hnot => ?_⟩
    · have hgo : (!opReady (openW s) o || (!role.1 && !heldUpTo (openW s) o (groupOf s o.g) role.2)) = false := by
        obtain h | h := hheld <;> simp [hready, h]
      rw [if_neg (by rw [Bool.not_eq_true]; exact hgo)] at hdone
      refine ⟨fun hbusy => ?_, fun hfree hwrite => ?_⟩
      · rw [hbusy] at hdone
        exact leaves_of (exec_relightStripeDone op env s) hdone
      · rw [hfree, hwrite] at hdone
        refine ⟨fun hok => ?_, fun hbad => ?_⟩
        · subst hok
          exact leaves_of (exec_relightStripeDone op env s) hdone
        · refine leaves_of (exec_relightStripeDone op env s) (hdone.trans ?_)
          exact (if_neg (by decide)).trans (if_pos (by simpa using hbad))
    · refine idle_of (exec_relightStripeDone op env s) (hdone.trans (if_pos ?_))
      obtain h | ⟨h, hnotHeld⟩ := hnot
      · rw [h]; rfl
      · rw [h, show heldUpTo (openW s) o (getGrp (openW s) o.g) role.2 = false from hnotHeld]
        simp
  case noTimeout =>
    intro s g env hnone
    exact idle_of (exec_relightTimeout g env s) (failRelight_none hnone)
  case timeout =>
    intro s g env rl hrl
    exact leaves_of (exec_relightTimeout g env s) (failRelight_some hrl)
  case begin_ =>
    intro s rx env pk w gi g m hacc hfrom
    have hrow := leaves_fromMember (exec_rlBegin rx env s) hacc hfrom
    refine ⟨fun hmisfit => ?_, fun hslot hst => ⟨fun hbroken => ?_, fun hbusy => ?_, fun hdeg hsettled hno => ?_, fun hdeg hsettled hno => ?_⟩⟩
    · rwa [rlBeginFrom, if_pos (by obtain h | h := hmisfit <;> simp [h])] at hrow
    · rwa [rlBeginFrom_answers hslot hst rfl (code := 3) (by simp [hbroken])] at hrow
    · rwa [rlBeginFrom_answers hslot hst (busy := true) (by obtain h | h := hbusy <;> simp [h]) (code := 1)
        (by obtain h | h := hbusy <;> simp [h])] at hrow
    · rwa [rlBeginFrom_answers hslot hst (busy := false) (by rw [not_restriping gi hno, hdeg]; rfl) (code := 2)
        (by simp [hdeg, hsettled])] at hrow
    · rwa [rlBeginFrom_answers hslot hst (busy := false) (by rw [not_restriping gi hno, hdeg]; rfl) (code := 0)
        (by simp [hdeg, hsettled])] at hrow
  case noAnswer =>
    intro s rx env pk w gi g m hacc hfrom
    have hrow := leaves_fromMember (exec_rlAnswer rx env s) hacc hfrom
    refine ⟨fun hslot hcoord hnone hcode => ?_, fun hmisfit => ?_⟩
    · simpa [rlAnswerFrom, hslot, hcoord, hnone, hcode] using hrow
    · obtain h | h | ⟨hnone, hcode⟩ | ⟨rl, hrl, hm⟩ := hmisfit
      · simpa [rlAnswerFrom, h] using hrow
      · simpa [rlAnswerFrom, h] using hrow
      · simpa [rlAnswerFrom, hnone, hcode] using hrow
      · simpa [rlAnswerFrom, hrl, hm] using hrow
  case answer =>
    intro s rx env pk w gi g m rl hacc hfrom hslot hcoord hrl hm
    have hrow := leaves_fromMember (exec_rlAnswer rx env s) hacc hfrom
    refine ⟨fun hcode => ?_, fun hcode => ?_⟩
    · simpa [rlAnswerFrom, hslot, hcoord, hrl, hm, hcode] using hrow
    · simpa [rlAnswerFrom, hslot, hcoord, hrl, hm, hcode] using hrow
  case end_ =>
    intro s rx env pk w gi g m hfrom
    refine ⟨fun hacc hslot hst v hv => ⟨?_, slotAt_nowAlive gi m g w⟩, fun hacc hmisfit => ?_, fun hacc hslot hnone hrl => ?_,
      fun hacc hmisfit => ?_⟩
    · have hrow := leaves_fromMember (exec_rlEnd rx env s) hacc hfrom
      rw [rlEndFrom, if_neg (by simp [hslot, hst])] at hrow
      rw [hv]
      exact hrow
    · have hrow := leaves_fromMember (exec_rlEnd rx env s) hacc hfrom
      rwa [rlEndFrom, if_pos (by obtain h | h := hmisfit <;> simp [h])] at hrow
    · have hrow := leaves_fromMember (exec_rlCancel rx env s) hacc hfrom
      rwa [rlCancelFrom, if_pos (by simp [hslot, hnone, hrl])] at hrow
    · have hrow := leaves_fromMember (exec_rlCancel rx env s) hacc hfrom
      rwa [rlCancelFrom, if_neg] at hrow
      obtain h | h | h := hmisfit
      · simp [h]
      · simp [Option.isNone_eq_false_iff.mpr h]
      · simp [h]

end Sys2Proof.Machine
end

section
/-! PROOF. Restripe (R350 to R353). -/

namespace Sys2Proof.Machine

open Sys2Proof.Safety

/-- A Restripe with the outcome of a step of its stream. -/
def restripeStreamed (env : Env) (r : Nat) (x : Streamed × W) : W :=
  match x with
  | (.failed c f, w) => dropRestripe env r { status := rspStatus c, result := toLe 8 f } w
  | (_, w) => advanceRestripe env r w

theorem exec_restripeStream (r : Nat) (env : Env) (s : State) :
    exec (.restripeStream r env) s = run (fun w => restripeStreamed env r (streamStep env .restripe r w)) s := rfl

/-- The meaning of RESTRIPE_TIMEOUT. -/
def restripeTimeoutW (r : Nat) (env : Env) (w : W) : W :=
  match findStream w .restripe r with
  | some s => dropRestripe env r { status := .timeout, result := toLe 8 s.next } w
  | none => w

theorem exec_restripeTimeout (r : Nat) (env : Env) (s : State) : exec (.restripeTimeout r env) s = run (restripeTimeoutW r env) s := rfl

/-- Does another Restripe work on a group (log entry 33)? -/
def otherRestripe (w : W) (gi e : Nat) : Bool :=
  w.b.streams.any (fun s => s.kind == .restripe && (s.g == gi || s.oldG == gi) && s.sepoch != e)

/-- The code a member answers RS_BEGIN with (log entry 33). -/
def rsCode (w : W) (gi e : Nat) (g : Group) : Nat :=
  if g.state == .broken then 3 else if g.state == .relighting || g.state == .forming || otherRestripe w gi e then 1
    else if !(outMembers g).isEmpty then 2 else 0

/-- RS_BEGIN of a known sender. -/
def rsBeginFrom (env : Env) (pk : Packet) (w : W) (x : Nat × Group × Nat) : W :=
  let e := fld pk.payload (32 + 6) 1
  let code := rsCode w x.1 e x.2.1
  let w := formTo x.1 x.2.2 { kind := 14, slot := x.2.1.self, code := code, coord := w.b.lnk.coord } w
  if code != 0 then w
  else streamsGo env x.1 (modGrp x.1 (fun g => { g with
    rsSeen := g.rsSeen.filter (fun y => y.1 != x.2.2) ++ [(x.2.2, e, fld pk.payload (32 + 4) 2 != 0xFFFF)] }) w)

/-- RS_ANSWER of a known sender. -/
def rsAnswerFrom (env : Env) (pk : Packet) (w : W) (x : Nat × Group × Nat) : W :=
  match w.b.streams.find? (fun s => s.kind == .restripe && s.waiting.contains (x.1, x.2.2)) with
  | none => w
  | some s =>
    if fld pk.payload 0xA 1 != 0 then dropRestripe env s.region { status := .denied, info := 0x9D } w
    else advanceRestripe env s.region
      (modStream .restripe s.region (fun s => { s with waiting := s.waiting.filter (fun y => y != (x.1, x.2.2)) }) w)

theorem exec_rsBegin (rx : Rx) (env : Env) (s : State) :
    exec (.rsBegin rx env) s = run (formRow rx 13 (fromMember (rsBeginFrom env))) s := by
  refine congrArg (fun f => run (formRow rx _ f) s) (funext fun pk => funext fun w => ?_)
  unfold fromMember
  cases formFrom w pk <;> rfl

theorem exec_rsAnswer (rx : Rx) (env : Env) (s : State) :
    exec (.rsAnswer rx env) s = run (formRow rx 14 (fromMember (rsAnswerFrom env))) s := by
  refine congrArg (fun f => run (formRow rx _ f) s) (funext fun pk => funext fun w => ?_)
  unfold fromMember
  cases formFrom w pk <;> rfl

theorem otherRestripe_none {w : W} (gi e : Nat) (h : ∀ x ∈ w.b.streams, x.kind ≠ .restripe) : otherRestripe w gi e = false :=
  List.any_eq_false.mpr fun x hx => by simp [h x hx]

/-- A refusal of RS_BEGIN is all its answer does. -/
theorem rsBeginFrom_refuses {env : Env} {pk : Packet} {w : W} {gi m code : Nat} {g : Group}
    (hcode : rsCode w gi (fld pk.payload (32 + 6) 1) g = code) (hne : code ≠ 0) :
    rsBeginFrom env pk w (gi, g, m) = formTo gi m { kind := 14, slot := g.self, code := code, coord := w.b.lnk.coord } w := by
  subst hcode
  exact if_pos (by simpa using hne)

/-- An accepted RS_BEGIN is answered and noted. -/
theorem rsBeginFrom_accepts {env : Env} {pk : Packet} {w : W} {gi m : Nat} {g : Group}
    (hcode : rsCode w gi (fld pk.payload (32 + 6) 1) g = 0) : rsBeginFrom env pk w (gi, g, m) =
      streamsGo env gi (modGrp gi (fun x => { x with rsSeen := x.rsSeen.filter (fun y => y.1 != m) ++
        [(m, fld pk.payload 38 1, fld pk.payload 36 2 != 0xFFFF)] })
        (formTo gi m { kind := 14, slot := g.self, code := 0, coord := w.b.lnk.coord } w)) := by
  have hgo := hcode
  unfold rsBeginFrom
  dsimp only
  rw [hgo]
  rfl

/-- Settles O41, by whether a Restripe is under way and whom it waits for. -/
theorem restripeRuns : Obligations.RestripeRuns := by
  refine ⟨?begins, ?goesOn, ?stream, ?noTimeout, ?timeout, ?rsBegin, ?noAnswer, ?answer⟩
  case begins =>
    rintro s c env k ⟨hs, -, -, hop⟩ hcheck
    exact leaves_checked (i := .restripe c env) (chk := restripeCheck) (go := restripeGo env) rfl hs (isOp_of hop) hcheck
  case goesOn =>
    intro s c env k hs hop
    exact leaves_goOn (i := .restripe c env) (goOn := fun k w => advanceRestripe env (arg k 0x10 2) w) rfl hs (isOp_of hop)
  case stream =>
    intro s r env w
    refine ⟨fun code f hstep => ?_, fun hstep => ?_⟩
    · exact leaves_of (exec_restripeStream r env s) (congrArg (restripeStreamed env r) hstep)
    · obtain hstep | hstep := hstep
      · exact leaves_of (exec_restripeStream r env s) (congrArg (restripeStreamed env r) hstep)
      · exact leaves_of (exec_restripeStream r env s) (congrArg (restripeStreamed env r) hstep)
  case noTimeout =>
    intro s r env hnone
    exact idle_of (exec_restripeTimeout r env s) (by rw [restripeTimeoutW, hnone])
  case timeout =>
    intro s r env st hsome
    exact leaves_of (exec_restripeTimeout r env s) (by rw [restripeTimeoutW, hsome])
  case rsBegin =>
    intro s rx env pk w gi g m hacc hfrom
    have hrow := leaves_fromMember (exec_rsBegin rx env s) hacc hfrom
    refine ⟨fun hwhole hall hno => ?_, fun hbroken => ?_, fun hbusy => ?_, fun hstate hout hno => ?_⟩
    · rwa [rsBeginFrom_accepts (by simp [rsCode, hwhole, hall, otherRestripe_none gi _ hno])] at hrow
    · rwa [rsBeginFrom_refuses (code := 3) (by simp [rsCode, hbroken]) (by decide)] at hrow
    · rwa [rsBeginFrom_refuses (code := 1) (by obtain h | h := hbusy <;> simp [rsCode, h]) (by decide)] at hrow
    · simp only [List.mem_cons, List.not_mem_nil, or_false] at hstate
      rwa [rsBeginFrom_refuses (code := 2)
        (by obtain h | h | h := hstate <;> simp [rsCode, h, hout, otherRestripe_none gi _ hno]) (by decide)] at hrow
  case noAnswer =>
    intro s rx env pk w gi g m hacc hfrom hnone
    have hrow := leaves_fromMember (exec_rsAnswer rx env s) hacc hfrom
    rwa [rsAnswerFrom, hnone] at hrow
  case answer =>
    intro s rx env pk w gi g m st hacc hfrom hsome
    have hrow := leaves_fromMember (exec_rsAnswer rx env s) hacc hfrom
    rw [rsAnswerFrom, hsome] at hrow
    refine ⟨fun hcode => ?_, fun hcode => ?_⟩
    · simpa only [hcode, bne_iff_ne, ne_eq, not_false_eq_true, if_true] using hrow
    · simpa only [hcode, bne_self_eq_false, Bool.false_eq_true, if_false] using hrow

end Sys2Proof.Machine
end

section
/-! PROOF. FETCH and FETCH_RSP (R331, R340, R342). -/

namespace Sys2Proof.Machine

open Sys2Proof.Safety

/-! ### FETCH -/

/-- The KIND a FETCH row takes; a reserved KIND goes to the first row. -/
def takesKind (kind k : Nat) : Bool := k == kind || (kind == 0 && decide (6 < k))

/-- The meaning of the rows that take a FETCH of lines. -/
def linesFetched (env : Env) (kind gi m : Nat) (pk : Packet) (w : W) : W :=
  if kind == 0 && decide (6 < fld pk.payload 8 1) then refuseFetch (getGrp w gi) m (fld pk.payload 0 8) 2 false w else acceptFetch env pk w

theorem exec_fetchLine (rx : Rx) (env : Env) (s : State) :
    exec (.fetchLine rx env) s = run (fetchRow rx (takesKind 0) (linesFetched env 0)) s := by
  refine congrArg (fun f => run (fetchRow rx _ f) s) (funext fun gi => funext fun m => funext fun pk => funext fun w => ?_)
  simp only [linesFetched, beq_self_eq_true, Bool.true_and, decide_eq_true_eq]

theorem takesKind_eq {kind : Nat} (h : kind ≠ 0) : takesKind kind = (· == kind) := by
  funext k
  simp [takesKind, h]

theorem linesFetchedfrag {kind : Nat} (h : kind ≠ 0) (env : Env) : linesFetched env kind = fun _ _ pk w => acceptFetch env pk w := by
  funext gi m pk w
  simp [linesFetched, h]

theorem exec_fetchFrag (rx : Rx) (env : Env) (s : State) :
    exec (.fetchFrag rx env) s = run (fetchRow rx (takesKind 1) (linesFetched env 1)) s := by
  rw [takesKind_eq (by decide), linesFetchedfrag (by decide)]
  rfl

theorem exec_fetchRebuild (rx : Rx) (env : Env) (s : State) :
    exec (.fetchRebuild rx env) s = run (fetchRow rx (takesKind 2) (linesFetched env 2)) s := by
  rw [takesKind_eq (by decide), linesFetchedfrag (by decide)]
  rfl

/-- What a FETCH row makes of an accepted packet of a known sender. -/
theorem fetchRow_accepted {rx : Rx} {kind : Nat → Bool} {act : Nat → Nat → Packet → W → W} {v w : W} {pk : Packet} {gi m : Nat} {g : Group}
    (hacc : accepted v rx 0x40 (fun p => kind (fld p 8 1)) = some (pk, w)) (hsender : senderOf w pk.hdr = some (gi, g, m)) :
    fetchRow rx kind act v = act gi m pk w := by
  refine (onKind_accepted hacc).trans ?_
  rw [hsender]

section
variable {i : Instr} {rx : Rx} {env : Env} {kind gi m : Nat} {pk : Packet} {s : State} {w : W} {g : Group}
  (hrow : (i, kind) ∈ [(Instr.fetchLine rx env, 0), (.fetchFrag rx env, 1), (.fetchRebuild rx env, 2)])
  (hacc : accepted (openW s) rx 0x40 (fun p => fld p 8 1 == kind || (kind == 0 && decide (6 < fld p 8 1))) = some (pk, w))
  (hsender : senderOf w pk.hdr = some (gi, g, m))
include hrow hacc hsender

/-- A row that takes a FETCH of lines, of an accepted packet of a known sender. -/
theorem leaves_fetchLines : Leaves i s (linesFetched env kind gi m pk w) := by
  simp only [List.mem_cons, Prod.mk.injEq, List.not_mem_nil, or_false] at hrow
  obtain ⟨rfl, rfl⟩ | ⟨rfl, rfl⟩ | ⟨rfl, rfl⟩ := hrow
  · exact leaves_of (exec_fetchLine rx env s) (fetchRow_accepted (kind := takesKind 0) hacc hsender)
  · exact leaves_of (exec_fetchFrag rx env s) (fetchRow_accepted (kind := takesKind 1) hacc hsender)
  · exact leaves_of (exec_fetchRebuild rx env s) (fetchRow_accepted (kind := takesKind 2) hacc hsender)

/-- A FETCH of lines is served. -/
theorem leaves_acceptFetch (hkind : fld pk.payload 8 1 = kind) : Leaves i s (acceptFetch env pk w) := by
  have hgo := leaves_fetchLines hrow hacc hsender
  rwa [linesFetched, if_neg] at hgo
  rw [hkind]
  cases kind <;> simp

end

/-- The units a FETCH waits for, where it asks for settled lines of a data member (R342). -/
def settledUnits (w : W) (gi ri : Nat) (v : Region) (p : Bytes) : List (Nat × BitVec 64) :=
  if fld p 9 1 = 0 && bit (fld p 0xB 1) 0 then unitsTouching w gi ri (fld p 0x10 6 - v.base) (64 * fld p 0xC 4) else []

theorem acceptFetch_target {env : Env} {pk : Packet} {w : W} {gi m ri : Nat} {g : Group} {v : Region}
    (hsender : senderOf w pk.hdr = some (gi, g, m))
    (htarget : fetchTarget w gi (fld pk.payload 9 1) (fld pk.payload 0x10 6) (fld pk.payload 0xC 4) = some (ri, v)) :
    acceptFetch env pk w = serveFetch env { pk := pk, units := settledUnits w gi ri v pk.payload } w := by
  unfold acceptFetch settledUnits
  simp only [hsender]
  split
  · case isTrue h =>
    obtain ⟨hrole, -⟩ : fld pk.payload 9 1 = 0 ∧ _ := by simpa using h
    rw [hrole] at htarget
    rw [htarget]
  · rfl

theorem serveFetch_target {env : Env} {f : FetchWait} {w : W} {gi m ri : Nat} {g : Group} {v : Region}
    (hsender : senderOf w f.pk.hdr = some (gi, g, m)) (hkind : fld f.pk.payload 8 1 ≠ 5)
    (htarget : fetchTarget w gi (fld f.pk.payload 9 1) (fld f.pk.payload 0x10 6) (fld f.pk.payload 0xC 4) = some (ri, v)) :
    serveFetch env f w = if !fetchServed w ri v (fld f.pk.payload 0xA 1) then refuseFetch g m (fld f.pk.payload 0 8) 2 v.isSealed w
      else if !unitsDone w f.units then { w with b := { w.b with fetchWaits := w.b.fetchWaits ++ [f] } }
      else
        let (done, w) := if fld f.pk.payload 9 1 = 0 then answerData env gi g m v f.pk.payload w
          else answerHolder env g m v f.pk.payload w
        if done then w else { w with b := { w.b with fetchWaits := w.b.fetchWaits ++ [f] } } := by
  simp only [serveFetch, hsender, if_neg hkind, htarget]

/-- A FETCH of lines that are not a fragment's is refused. -/
theorem acceptFetch_noTarget {env : Env} {pk : Packet} {w : W} {gi m : Nat} {g : Group} (hsender : senderOf w pk.hdr = some (gi, g, m))
    (hkind : fld pk.payload 8 1 ≠ 5)
    (htarget : fetchTarget w gi (fld pk.payload 9 1) (fld pk.payload 0x10 6) (fld pk.payload 0xC 4) = none) :
    acceptFetch env pk w = refuseFetch g m (fld pk.payload 0 8) 2 false w := by
  simp only [acceptFetch, serveFetch, hsender, if_neg hkind, htarget]

/-! ### FETCH_RSP -/

/-- A FETCH_RSP of a known sender. -/
def onFetchRsp (env : Env) (gi : Nat) (g : Group) (m : Nat) (p : Bytes) (w : W) : W :=
  match w.b.fetches.find? (fun o => o.g == gi && o.chosen.contains (m, fld p 0 8)) with
  | some o => if fld p 8 1 != 0 then opDrops env m o.id w else askHolders o.id (modOp o.id (addAnswer m p g) w)
  | none => stateRsp env gi m p w

theorem leaves_fetchRsp {rx : Rx} {env : Env} {s : State} {w : W} {pk : Packet} {gi m : Nat} {g : Group}
    (hacc : accepted (openW s) rx 0x50 (fun _ => true) = some (pk, w)) (hsender : senderOf w pk.hdr = some (gi, g, m)) :
    Leaves (.fetchRsp rx env) s (onFetchRsp env gi g m pk.payload w) := by
  have hrow : exec (.fetchRsp rx env) s = run (onKind rx 0x50 (fun _ => true) (fun pk w =>
    match senderOf w pk.hdr with
    | none => w
    | some (gi, g, m) => onFetchRsp env gi g m pk.payload w)) s := rfl
  refine leaves_of hrow ((onKind_accepted hacc).trans ?_)
  rw [hsender]

/-- Settles O42, by the target of the FETCH, and what the member holds. -/
theorem fetchesAreServed : Obligations.FetchesAreServed := by
  refine ⟨?lines, ?refused, ?kinds, ?answer⟩
  case lines =>
    rintro s rx env pk w gi g m i kind ri v f hrow hacc hkind hsender htarget rfl
    have hgo := leaves_acceptFetch hrow hacc hsender hkind
    have hlines : fld pk.payload 8 1 ≠ 5 := by
      rw [hkind]
      simp only [List.mem_cons, Prod.mk.injEq, List.not_mem_nil, or_false] at hrow
      omega
    rw [acceptFetch_target hsender htarget, serveFetch_target hsender hlines htarget] at hgo
    refine ⟨fun hno => ?_, fun hserved => ⟨fun hwait => ?_, fun done x hdone heq => ?_⟩⟩
    · rw [hno] at hgo
      exact hgo
    · have hwait' : unitsDone w (settledUnits w gi ri v pk.payload) = false := hwait
      rw [hserved, hwait'] at hgo
      exact hgo
    · have hdone' : unitsDone w (settledUnits w gi ri v pk.payload) = true := hdone
      rw [hserved, hdone', ← heq] at hgo
      exact hgo
  case refused =>
    intro s rx env pk w gi g m i kind hrow hacc hsender
    refine ⟨fun hkind htarget => ?_, fun hkind hreserved => ?_⟩
    · have hgo := leaves_acceptFetch hrow hacc hsender hkind
      rwa [acceptFetch_noTarget hsender _ htarget] at hgo
      rw [hkind]
      simp only [List.mem_cons, Prod.mk.injEq, List.not_mem_nil, or_false] at hrow
      omega
    · have hgo := leaves_fetchLines hrow hacc hsender
      rwa [linesFetched, if_pos (by simp [hkind, hreserved])] at hgo
  case kinds =>
    intro s rx env pk w gi g m hsender
    refine ⟨fun hacc => ?_, fun hacc => ?_, fun hacc => ?_, fun hacc => ?_⟩
    · exact leaves_of (f := fetchRow rx (· == 3) (fun gi m pk w => answerMap gi m pk.payload w)) rfl
        (fetchRow_accepted (kind := (· == 3)) hacc hsender)
    · exact leaves_of (f := fetchRow rx (· == 4) (fun gi m pk w => answerState gi m pk.payload w)) rfl
        (fetchRow_accepted (kind := (· == 4)) hacc hsender)
    · exact leaves_of (f := fetchRow rx (· == 5) (fun gi m pk w => answerTiles env { pk := pk, units := [] } gi m w)) rfl
        (fetchRow_accepted (kind := (· == 5)) hacc hsender)
    · exact leaves_of (f := fetchRow rx (· == 6) (fun gi m pk w => answerWatch gi m pk.payload w)) rfl
        (fetchRow_accepted (kind := (· == 6)) hacc hsender)
  case answer =>
    intro s rx env pk w gi g m o hacc hsender
    have hgo := leaves_fetchRsp (env := env) hacc hsender
    refine ⟨fun hsome => ⟨fun hok => ?_, fun hbad => ?_⟩, fun hnone => ?_⟩
    · rwa [onFetchRsp, hsome, hok] at hgo
    · rw [onFetchRsp, hsome] at hgo
      dsimp only at hgo
      rwa [if_pos (by simpa using hbad)] at hgo
    · rwa [onFetchRsp, hnone] at hgo

end Sys2Proof.Machine
end

section
/-! PROOF. Parity rebuild and parity scrub (R173, R424). -/

namespace Sys2Proof.Machine

open Sys2Proof.Safety

/-- The role of this member in an operation's stripe. -/
def ownRole (w : W) (o : FetchOp) : Bool × Nat := roleOf (getGrp w o.g).n (getGrp w o.g).m (getGrp w o.g).self o.stripe

/-- The entries that hold deltas for a line. -/
def entriesAt (w : W) (o : FetchOp) (a : Nat) : List PoolEntry :=
  w.b.pool.filter (fun e => e.g == o.g && !e.applied && e.pkts.any (fun k => k.lines.any (fun l => l.1 == a)))

/-- A rebuild that has its answers, with the answer memory gives its write. -/
def rebuildWritten (env : Env) (op : Nat) (o : FetchOp) (a : Nat) (x : Rsp × W) : W :=
  if x.1 != .ok then
    assignEngines 8 (modOp op (fun o => { o with waiting := true, chosen := [], answers := [] })
      (logOther 4 0 (portOf x.2.build a) 0 [0, 0, a] x.2))
  else
    retryFetches env (modGrp o.g (fun g => { g with unknown := g.unknown.filter (fun l => l != a) }) (assignEngines 8 (dropOp op x.2)))

/-- The meaning of PARITY_REBUILD. -/
def parityRebuildW (op : Nat) (env : Env) (w : W) : W :=
  match findOp w op with
  | none => w
  | some o =>
    if o.why != .rebuild || !opReady w o || !heldUpTo w o (getGrp w o.g) (ownRole w o).2 || !linesFree w (opAddr w o) 64 then w
    else rebuildWritten env op o (rebuiltLine w o 0).1
      (writeLine (holderAcc env (opRegion (snapEntries (entriesAt w o (rebuiltLine w o 0).1) w) o).ctx) (rebuiltLine w o 0).1
        (rebuiltLine w o 0).2 (snapEntries (entriesAt w o (rebuiltLine w o 0).1) w))

theorem exec_parityRebuild (op : Nat) (env : Env) (s : State) : exec (.parityRebuild op env) s = run (parityRebuildW op env) s := by
  show execParityRebuild op env s = _
  refine (congrArg (fun f => run f s) (funext fun w => ?_) : run _ s = run _ s)
  unfold parityRebuildW
  cases findOp w op <;> rfl

/-- A fragment that the scrub has compared, and repaired where it differed. -/
def scrubbed (env : Env) (op ri : Nat) (o : FetchOp) (x : Nat × Rsp × W) : W :=
  let w := if x.2.1 == .ok then x.2.2 else logOther 4 0 o.g 0 [0, 0, opAddr x.2.2 o] x.2.2
  let w := if x.1 = 0 then w else setRas 6 o.g o.stripe { w with b.ras.cntScrub := w.b.ras.cntScrub + x.1 }
  scrubGo ri (heldApplies env (assignEngines 8 (dropOp op (modRgn ri (fun r => { r with scrub := r.scrub.map (· + 1) }) w))))

/-- The meaning of PARITY_SCRUB_STRIPE. -/
def parityScrubStripeW (op : Nat) (env : Env) (w : W) : W :=
  match findOp w op with
  | none => w
  | some o => match o.why with
    | .scrub ri =>
      if !opReady w o || !heldUpTo w o (getGrp w o.g) (ownRole w o).2 || !linesFree w (opAddr w o) (64 * o.lines) then w
      else scrubbed env op ri o (scrubLines env o o.lines w)
    | _ => w

theorem exec_parityScrubStripe (op : Nat) (env : Env) (s : State) :
    exec (.parityScrubStripe op env) s = run (parityScrubStripeW op env) s := by
  show execParityScrubStripe op env s = _
  refine (congrArg (fun f => run f s) (funext fun w => ?_) : run _ s = run _ s)
  unfold parityScrubStripeW
  cases hfind : findOp w op with
  | none => rfl
  | some o =>
    dsimp only
    cases o.why <;> rfl

theorem exec_parityScrubStart (r : Nat) (s : State) : exec (.parityScrubStart r) s = run (scrubStart r) s := rfl

/-! ### What a write of the holder keeps -/

/-- A snapshot of entries leaves everything but its event and the number of the next entry. -/
theorem snapEntries_eq (es : List PoolEntry) (w : W) :
    ∃ n e t, snapEntries es w = { w with b := { w.b with nextEntry := n, dpErr := e, tlm := t } } := by
  rw [snapEntries]
  generalize es.filter (fun e => decide (255 ≤ e.refs)) = l
  induction l generalizing w with
  | nil => exact ⟨_, _, _, rfl⟩
  | cons e l ih =>
    obtain ⟨n, x, t, h⟩ := ih (setDpErr 4 e.g w.b.nextEntry { w with b := { w.b with nextEntry := w.b.nextEntry + 1 } })
    exact ⟨n, x, t, by rw [List.foldl_cons, h]; rfl⟩

theorem injFire_build (d : Nat) (w : W) : (injFire d w).build = w.build := by
  obtain ⟨_, _, h⟩ := injFire_eq d w
  rw [h]

theorem writeInj_build (line : Nat) (c : Rsp) (w : W) : (writeInj line c w).2.build = w.build := by
  unfold writeInj
  split
  · exact injFire_build 8 w
  · rfl

theorem noteCode_build (line ctx : Nat) (r : Rsp × W) : (noteCode line ctx r).2.build = r.2.build := by
  unfold noteCode
  split <;> rfl

theorem writeLine_build (x : Acc) (a : Nat) (d : Bytes) (w : W) : (writeLine x a d w).2.build = w.build := by
  have hpresented := (noteCode_build a x.ctx (writeInj a (((x.env.wr.find? (fun e => e.1 == a)).map (·.2)).getD .ok)
    (present1 x 1 a w))).trans (writeInj_build _ _ _)
  simp only [writeLine, writeAs]
  split
  · exact (putBytes_build _ _ _).trans hpresented
  · exact hpresented

/-! ### When an operation is done -/

theorem parityRebuildW_waits {op : Nat} {env : Env} {w : W} (h : ∀ o, findOp w op = some o → opReady w o = false
    ∨ heldUpTo w o (getGrp w o.g) (ownRole w o).2 = false ∨ linesFree w (opAddr w o) 64 = false) : parityRebuildW op env w = w := by
  unfold parityRebuildW
  cases hfind : findOp w op with
  | none => rfl
  | some o =>
    refine if_pos ?_
    obtain h | h | h := h o hfind <;> simp [h]

theorem parityRebuildW_writes {op : Nat} {env : Env} {w : W} {o : FetchOp} {a : Nat} {d : Bytes} (hfind : findOp w op = some o)
    (hwhy : o.why = .rebuild) (hready : opReady w o = true) (hheld : heldUpTo w o (getGrp w o.g) (ownRole w o).2 = true)
    (hline : rebuiltLine w o 0 = (a, d)) (hfree : linesFree w a 64 = true) : parityRebuildW op env w
      = rebuildWritten env op o a (writeLine (holderAcc env (opRegion (snapEntries (entriesAt w o a) w) o).ctx) a d
          (snapEntries (entriesAt w o a) w)) := by
  have ha : opAddr w o = a := congrArg Prod.fst hline
  have hgo : (o.why != .rebuild || !opReady w o || !heldUpTo w o (getGrp w o.g) (ownRole w o).2 || !linesFree w (opAddr w o) 64) = false := by
    rw [ha, hwhy, hready, hheld, hfree]
    rfl
  simp only [parityRebuildW, hfind, hgo, hline, Bool.false_eq_true, if_false]

theorem parityScrubStripeW_waits {op : Nat} {env : Env} {w : W} (h : ∀ o, findOp w op = some o → opReady w o = false
    ∨ heldUpTo w o (getGrp w o.g) (ownRole w o).2 = false ∨ linesFree w (opAddr w o) (64 * o.lines) = false) :
    parityScrubStripeW op env w = w := by
  unfold parityScrubStripeW
  cases hfind : findOp w op with
  | none => rfl
  | some o =>
    dsimp only
    split
    · refine if_pos ?_
      obtain h | h | h := h o hfind <;> simp [h]
    · rfl

theorem parityScrubStripeW_done {op ri : Nat} {env : Env} {w : W} {o : FetchOp} (hfind : findOp w op = some o) (hwhy : o.why = .scrub ri)
    (hready : opReady w o = true) (hheld : heldUpTo w o (getGrp w o.g) (ownRole w o).2 = true)
    (hfree : linesFree w (opAddr w o) (64 * o.lines) = true) :
    parityScrubStripeW op env w = scrubbed env op ri o (scrubLines env o o.lines w) := by
  simp only [parityScrubStripeW, hfind, hwhy, hready, hheld, hfree, Bool.not_true, Bool.or_self, Bool.false_eq_true, if_false]

/-- Settles O44, by whether the operation has its answers and its lines are free. -/
theorem parityIsRebuiltAndScrubbed : Obligations.ParityIsRebuiltAndScrubbed := by
  refine ⟨?written, ?fails, ?waits, ?start, ?begins, ?stripe⟩
  case written =>
    rintro s op env o a d ⟨-, hwr, hinj, -⟩ hfind hwhy hready hheld hline hfree v rfl
    have hdone := parityRebuildW_writes (env := env) hfind hwhy hready hheld hline hfree
    obtain ⟨_, _, _, hsnap⟩ := snapEntries_eq (entriesAt (openW s) o a) (openW s)
    have hinj' : (snapEntries (entriesAt (openW s) o a) (openW s)).b.ras.inj = [] := by rw [hsnap]; exact hinj
    rw [writeLine_ok (holderAcc env (opRegion (snapEntries (entriesAt (openW s) o a) (openW s)) o).ctx) a d _ hwr hinj'] at hdone
    exact leaves_of (exec_parityRebuild op env s) hdone
  case fails =>
    rintro s op env o a d c v w hfind hwhy hready hheld hline hfree rfl hwrite hbad
    have hdone := parityRebuildW_writes (env := env) hfind hwhy hready hheld hline hfree
    have hwritten : writeLine (holderAcc env (opRegion (snapEntries (entriesAt (openW s) o a) (openW s)) o).ctx) a d
        (snapEntries (entriesAt (openW s) o a) (openW s)) = (c, w) := hwrite
    have hbuild : w.build = s.build := by
      obtain ⟨_, _, _, hsnap⟩ := snapEntries_eq (entriesAt (openW s) o a) (openW s)
      have h := writeLine_build (holderAcc env (opRegion (snapEntries (entriesAt (openW s) o a) (openW s)) o).ctx) a d
        (snapEntries (entriesAt (openW s) o a) (openW s))
      rw [hwritten] at h
      exact h.trans (by rw [hsnap]; rfl)
    rw [hwritten, rebuildWritten, if_pos (by simpa using hbad)] at hdone
    dsimp only at hdone
    rw [hbuild] at hdone
    exact leaves_of (exec_parityRebuild op env s) hdone
  case waits =>
    intro s op env h
    refine ⟨fun hone => idle_of (exec_parityRebuild op env s) (parityRebuildW_waits fun o ho => ?_),
      idle_of (exec_parityScrubStripe op env s) (parityScrubStripeW_waits h)⟩
    have hwait := h o ho
    rw [hone o ho] at hwait
    exact hwait
  case start =>
    intro s r
    refine ⟨fun hsome => leaves_of (exec_parityScrubStart r s) (if_pos hsome), fun hno hnone => idle_of (exec_parityScrubStart r s) ?_⟩
    have hnone' : (getRgn (openW s) r).scrub.isSome = false := by rw [show (getRgn (openW s) r).scrub = none from hnone]; rfl
    simp only [scrubStart, hnone', hno, Bool.false_eq_true, if_false, Bool.not_false, if_true]
  case begins =>
    intro s r hyes hnone
    have hnone' : (getRgn (openW s) r).scrub.isSome = false := by rw [show (getRgn (openW s) r).scrub = none from hnone]; rfl
    refine leaves_of (exec_parityScrubStart r s) ?_
    simp only [scrubStart, hnone', hyes, Bool.false_eq_true, if_false, Bool.not_true]
    rfl
  case stripe =>
    rintro s op env o ri bad c x w hfind hwhy hready hheld hfree hlines rfl
    have hdone := parityScrubStripeW_done (env := env) hfind hwhy hready hheld hfree
    rw [hlines] at hdone
    simp only [scrubbed, beq_iff_eq] at hdone
    refine ⟨fun hgood => ?_, fun hbad => ?_⟩
    · rw [if_pos hgood] at hdone
      exact leaves_of (exec_parityScrubStripe op env s) hdone
    · rw [if_neg (by omega)] at hdone
      exact leaves_of (exec_parityScrubStripe op env s) hdone

end Sys2Proof.Machine
end

section
/-! PROOF. KEY_INSTALL and COUNTER_RESYNC (R389, R393). -/

namespace Sys2Proof.Machine

open Sys2Proof.Safety

/-! ### A completion over the transaction of a start -/

theorem finished_alarmed {env : Env} {s : State} {c : CmdId} {k : Cmd} {w : W} (o : Outc) (hs : Starts s c k) (hc : Calm s env)
    (hr : Reports s c k) (hw : AlarmsOnly (begun s c k) w) : Finished s (closeW s (complete env false c o w)) c k o w := by
  obtain ⟨-, -, hinj, -⟩ := id hc
  have hk := begun_keeps hs hinj
  obtain ⟨_, _, _, rfl⟩ := hw
  exact finished_over o hs hc hr rfl rfl hk.base hk.jr hk.build hk.slices (congrArg Ctx.state (hk.getCtx k.ctx)) hk.fetches
    (by rw [hk.ras])

/-- The seal keys replaced. -/
def withKeys (t : Tbl SealKey) (w : W) : W := { w with b := { w.b with sec := { w.b.sec with skeys := t } } }

theorem alarmsOnly_withKeys (t : Tbl SealKey) (w : W) : AlarmsOnly w (withKeys t w) := ⟨_, _, _, rfl⟩

theorem begun_skeys {s : State} {c : CmdId} {k : Cmd} (hs : Starts s c k) (hi : s.blk.ras.inj = []) :
    (begun s c k).b.sec.skeys = s.blk.sec.skeys := by
  obtain ⟨l, r, h⟩ := begun_eq s c k hs hi
  rw [h]

/-- Where nothing waits to leave the block, a new seal key lets nothing go on. -/
theorem drainLinks_withKeys {s : State} {w : W} (hw : StartKeeps s w) (hun : Unsent s) (t : Tbl SealKey) :
    drainLinks (withKeys t w) = withKeys t w := by
  obtain ⟨hports, hsends, hjobs, hwaits, hasked⟩ := nothingWaits_of_unsent hun
  refine drainLinks_nothing ⟨fun l => ?_, fun p => ?_, ?_, ?_, ?_⟩
  · rw [← hports l, getLp, withKeys, hw.blk]
    rfl
  · have h : getSlice (withKeys t w) p = getSlice (openW s) p := by rw [getSlice, withKeys, hw.blk]; rfl
    rw [h]
    exact hsends p
  · rw [withKeys, hw.blk]
    exact hjobs
  · rw [withKeys, hw.blk]
    exact hwaits
  · rw [withKeys, hw.blk]
    exact hasked

/-! ### The three operations -/

theorem installKey_denied {env : Env} {k : Cmd} {w : W}
    (h : Config.aesUnwrap (kWrap w.b.sec k.part) (bytesAt k.slot 0x18 40) = none) :
    installKey env k w = done env k.id .denied 0xB4 [] (authFailure 0x80 w) := by
  rw [installKey, h]

theorem installKey_entry {env : Env} {k : Cmd} {w : W} {key : Bytes} {n : Nat} {e : SealKey}
    (hkey : Config.aesUnwrap (kWrap w.b.sec k.part) (bytesAt k.slot 0x18 40) = some key) (he : sealEntry w (keyDgn k) = some (n, e)) :
    installKey env k w = if e.active = keySlotOf k then done env k.id .denied 0xB5 [] w
      else done env k.id .ok 0 [] (drainLinks (withKeys (tset w.b.sec.skeys n (setKeySlot (keySlotOf k) (some (padTo 32 key)) e)) w)) := by
  simp only [installKey, hkey, he]
  rfl

theorem installKey_full {env : Env} {k : Cmd} {w : W} {key : Bytes}
    (hkey : Config.aesUnwrap (kWrap w.b.sec k.part) (bytesAt k.slot 0x18 40) = some key) (he : sealEntry w (keyDgn k) = none)
    (hn : freeIndex w.b.sec.skeys 256 = none) : installKey env k w = done env k.id .quota 8 [] w := by
  simp only [installKey, hkey, he, hn]

theorem installKey_new {env : Env} {k : Cmd} {w : W} {key : Bytes} {n : Nat}
    (hkey : Config.aesUnwrap (kWrap w.b.sec k.part) (bytesAt k.slot 0x18 40) = some key) (he : sealEntry w (keyDgn k) = none)
    (hn : freeIndex w.b.sec.skeys 256 = some n) : installKey env k w = done env k.id .ok 0 [] (drainLinks (withKeys
      (tset w.b.sec.skeys n (setKeySlot (keySlotOf k) (some (padTo 32 key)) { dgn := keyDgn k, owner := k.part, active := keySlotOf k })) w)) := by
  simp only [installKey, hkey, he, hn]
  rfl

theorem activateKey_none {env : Env} {k : Cmd} {w : W} (he : sealEntry w (keyDgn k) = none) :
    activateKey env k w = done env k.id .denied 0xB5 [] w := by
  rw [activateKey, he]

theorem activateKey_entry {env : Env} {k : Cmd} {w : W} {n : Nat} {e : SealKey} (he : sealEntry w (keyDgn k) = some (n, e)) :
    activateKey env k w = if (keySlot e (keySlotOf k)).isNone then done env k.id .denied 0xB5 [] w
      else done env k.id .ok 0 [] (drainLinks (withKeys (tset w.b.sec.skeys n { e with active := keySlotOf k }) w)) := by
  rw [activateKey, he]
  rfl

theorem eraseKey_none {env : Env} {k : Cmd} {w : W} (he : sealEntry w (keyDgn k) = none) : eraseKey env k w = done env k.id .ok 0 [] w := by
  rw [eraseKey, he]

/-- An entry is left empty by the erasure of a slot exactly where the other one is empty. -/
theorem setKeySlot_empty (k : Cmd) (e : SealKey) : ((setKeySlot (keySlotOf k) none e).key0.isNone
    && (setKeySlot (keySlotOf k) none e).key1.isNone) = decide (keySlot e (1 - keySlotOf k) = none) := by
  have h : keySlotOf k = 0 ∨ keySlotOf k = 1 := by rw [keySlotOf]; omega
  obtain h | h := h
  · rw [h, setKeySlot, keySlot]
    cases e.key1 <;> simp
  · rw [h, setKeySlot, keySlot]
    cases e.key0 <;> simp

theorem eraseKey_entry {env : Env} {k : Cmd} {w : W} {n : Nat} {e : SealKey} (he : sealEntry w (keyDgn k) = some (n, e)) :
    eraseKey env k w = if e.active = keySlotOf k && w.b.grps.any (fun g => g.2.state != .free && g.2.dgn == keyDgn k) then
        done env k.id .denied 0xB5 [] w
      else done env k.id .ok 0 [] (withKeys (if keySlot e (1 - keySlotOf k) = none then terase w.b.sec.skeys n
        else tset w.b.sec.skeys n (setKeySlot (keySlotOf k) none e)) w) := by
  simp only [eraseKey, he, setKeySlot_empty, decide_eq_true_eq]
  rfl

theorem deny_some {bad : Bool} {info : Nat} {o : Outc} (h : deny bad info = some o) : o = { status := .denied, info := info } := by
  cases bad with
  | false => contradiction
  | true => exact (Option.some.inj h).symm

/-! ### COUNTER_RESYNC -/

/-- A check that would fail a command has not met it. -/
theorem passes_ite {p : Prop} [Decidable p] {st : Status} {info : Nat} {v : W} {y : Check × W}
    (h : (if p then (fail st info, v) else y).1 = none) : (if p then (fail st info, v) else y) = y ∧ y.1 = none := by
  split at h
  · contradiction
  · case isFalse hp => exact ⟨if_neg hp, h⟩

/-- A critical command that checks 1 to 4 pass has passed check 2, which alone has an effect. -/
theorem checksHead_critical {k : Cmd} {w : W} {cls : CmdClass} (hop : opInfo (opOf k) = some (true, cls))
    (hpass : (checksHead k w).1 = none) : (checkTag k w).1 = none ∧ (checksHead k w).2 = (checkTag k w).2 := by
  simp only [checksHead, hop, if_true] at hpass ⊢
  generalize checkTag k w = x at hpass ⊢
  obtain ⟨r, v⟩ := x
  obtain ⟨hserves, hpass⟩ := passes_ite hpass
  obtain ⟨hkeys, hpass⟩ := passes_ite hpass
  rw [hserves, hkeys]
  cases r with
  | some o => contradiction
  | none =>
    obtain ⟨hquarantine, hpass⟩ := passes_ite hpass
    obtain ⟨hstate, hpass⟩ := passes_ite hpass
    dsimp only
    rw [hquarantine, hstate]
    cases hslot : malformedAt k.slot with
    | some off =>
      rw [hslot] at hpass
      contradiction
    | none =>
      rw [hslot] at hpass
      obtain ⟨hretiring, hpass⟩ := passes_ite hpass
      obtain ⟨hfabric, -⟩ := passes_ite hpass
      dsimp only
      rw [hretiring, hfabric]
      exact ⟨rfl, rfl⟩

/-- Check 2 of a COUNTER_RESYNC that passes sets both counters (R389). -/
theorem checkTag_resync {k : Cmd} {w : W} (hi : w.b.ras.inj = []) (hop : opOf k = 0x81) (hpass : (checkTag k w).1 = none) :
    lastOf (checkTag k w).2.b.sec k.part k.cls = max (lastOf w.b.sec k.part k.cls) (arg k 0x10 8)
      ∧ rsnOf (checkTag k w).2.b.sec k.part k.cls = (rsnOf w.b.sec k.part k.cls + 1) % 2 ^ 64 := by
  simp only [checkTag, injHit_none w 0x11 0 hi, hop, if_true] at hpass ⊢
  split at hpass
  · contradiction
  · case isFalse htag =>
    rw [if_neg htag]
    split at hpass
    · contradiction
    · case isFalse hn =>
      rw [if_neg hn]
      exact ⟨tget_tset_same _ _ _ _, tget_tset_same _ _ _ _⟩

/-- The counters of a COUNTER_RESYNC that starts are set (R389). -/
theorem begun_resync {s : State} {c : CmdId} {k : Cmd} (hs : Starts s c k) (hi : s.blk.ras.inj = []) (hop : opOf k = 0x81) :
    lastOf (begun s c k).b.sec k.part k.cls = max (lastOf s.blk.sec k.part k.cls) (arg k 0x10 8)
      ∧ rsnOf (begun s c k).b.sec k.part k.cls = (rsnOf s.blk.sec k.part k.cls + 1) % 2 ^ 64 := by
  have hq := notFabric_of_starts hs
  have hid := id_of_starts hs
  obtain ⟨-, -, -, -, -, -, hpass⟩ := hs
  obtain ⟨htag, hafter⟩ := checksHead_critical (by rw [hop]; rfl) hpass
  have hsec : (begun s c k).b.sec = (checkTag k (openW s)).2.b.sec := by
    rw [begun, countStart, hid, if_neg hq, hafter]
    rfl
  rw [hsec]
  exact checkTag_resync (w := openW s) hi hop htag

/-- Settles O51, by the operation of the command and the seal-key entry it names. -/
theorem keysAreInstalled : Obligations.KeysAreInstalled := by
  rintro s c env k b rfl hun
  refine ⟨?foreign, ?own, ?resync⟩
  case foreign =>
    rintro ⟨hs, hc, hr, hop⟩ o hforeign
    have hdenied : o = { status := .denied, info := 0xB3 } := by
      rw [foreignKey] at hforeign
      exact deny_some hforeign
    refine ⟨hdenied, fun hkey => ?_, fun hkey => ?_, fun hkey => ?_⟩
    · exact leads_finished_begun hs hc hr
        (leaves_checked_fails (i := .keyInstallInstall c env) (chk := foreignKey) (go := installKey env) rfl hs hkey hforeign)
    · exact leads_finished_begun hs hc hr
        (leaves_checked_fails (i := .keyInstallActivate c env) (chk := foreignKey) (go := activateKey env) rfl hs hkey hforeign)
    · exact leads_finished_begun hs hc hr
        (leaves_checked_fails (i := .keyInstallErase c env) (chk := foreignKey) (go := eraseKey env) rfl hs hkey hforeign)
  case own =>
    rintro ⟨hs, hc, hr, hop⟩ hown
    obtain ⟨-, -, hinj, -⟩ := id hc
    have hk := begun_keeps hs hinj
    have hid := id_of_starts hs
    have hkeys := begun_skeys hs hinj
    have hinstall : keyOp 0 k = true → Leaves (.keyInstallInstall c env) s (installKey env k (begun s c k)) := fun hkey =>
      leaves_checked (i := .keyInstallInstall c env) (chk := foreignKey) (go := installKey env) rfl hs hkey hown
    have hactivate : keyOp 1 k = true → Leaves (.keyInstallActivate c env) s (activateKey env k (begun s c k)) := fun hkey =>
      leaves_checked (i := .keyInstallActivate c env) (chk := foreignKey) (go := activateKey env) rfl hs hkey hown
    have herase : keyOp 2 k = true → Leaves (.keyInstallErase c env) s (eraseKey env k (begun s c k)) := fun hkey =>
      leaves_checked (i := .keyInstallErase c env) (chk := foreignKey) (go := eraseKey env) rfl hs hkey hown
    have hdone : ∀ {i : Instr} {st : Status} {info : Nat} {w : W}, AlarmsOnly (begun s c k) w →
        Leaves i s (done env k.id st info [] w) → Leads i s (fun t => Finished s t c k { status := st, info := info } w) := by
      intro i st info w hw hgo
      rw [hid] at hgo
      exact ⟨_, hgo, finished_alarmed _ hs hc hr hw⟩
    have hsame : AlarmsOnly (begun s c k) (begun s c k) := ⟨_, _, _, rfl⟩
    refine ⟨fun hnone => ⟨fun hkey => ?_, fun hkey => ?_⟩, fun hkey => ⟨fun hwrap => ?_, fun key hwrap => ⟨fun n e he => ⟨fun hslot => ?_,
      fun hslot => ?_⟩, fun hnone => ⟨fun hfull => ?_, fun n hn => ?_⟩⟩⟩, fun hkey n e he => ⟨fun hempty => ?_, fun hfull => ?_⟩,
      fun hkey n e he => ⟨fun hslot hused => ?_, fun hfree => ?_⟩⟩
    · have hgo := hactivate hkey
      rw [activateKey_none hnone] at hgo
      exact hdone hsame hgo
    · have hgo := herase hkey
      rw [eraseKey_none hnone] at hgo
      exact hdone hsame hgo
    · have hgo := hinstall hkey
      rw [installKey_denied hwrap] at hgo
      exact hdone (alarmsOnly_authFailure _ _) hgo
    · have hgo := hinstall hkey
      rw [installKey_entry hwrap he, if_pos hslot] at hgo
      exact hdone hsame hgo
    · have hgo := hinstall hkey
      rw [installKey_entry hwrap he, if_neg hslot, drainLinks_withKeys hk hun, hkeys] at hgo
      exact hdone (alarmsOnly_withKeys _ _) hgo
    · have hgo := hinstall hkey
      rw [← hkeys] at hfull
      rw [installKey_full hwrap hnone hfull] at hgo
      exact hdone hsame hgo
    · have hgo := hinstall hkey
      rw [← hkeys] at hn
      rw [installKey_new hwrap hnone hn, drainLinks_withKeys hk hun, hkeys] at hgo
      exact hdone (alarmsOnly_withKeys _ _) hgo
    · have hgo := hactivate hkey
      rw [activateKey_entry he, if_pos (by rw [hempty]; rfl)] at hgo
      exact hdone hsame hgo
    · have hgo := hactivate hkey
      rw [activateKey_entry he, if_neg (by rw [← Option.not_isSome, hfull]; decide), drainLinks_withKeys hk hun, hkeys] at hgo
      exact hdone (alarmsOnly_withKeys _ _) hgo
    · have hgo := herase hkey
      have hany : ((begun s c k).b.grps.any fun g => g.2.state != .free && g.2.dgn == keyDgn k) = true := by
        obtain ⟨g, hg, hstate, hdgn⟩ := hused
        rw [hk.blk]
        exact List.any_eq_true.mpr ⟨g, hg, by simp [hstate, hdgn]⟩
      rw [eraseKey_entry he, if_pos (by rw [hany, hslot]; simp)] at hgo
      exact hdone hsame hgo
    · have hgo := herase hkey
      rw [eraseKey_entry he, if_neg, hkeys] at hgo
      · exact hdone (alarmsOnly_withKeys _ _) hgo
      · obtain h | h := hfree
        · simp [h]
        · have hany : ((begun s c k).b.grps.any fun g => g.2.state != .free && g.2.dgn == keyDgn k) = false := by
            rw [hk.blk]
            exact List.any_eq_false.mpr fun g hg => by obtain h | h := h g hg <;> simp [h]
          rw [hany]
          simp
  case resync =>
    rintro ⟨hs, hc, hr, hop⟩
    obtain ⟨-, -, hinj, -⟩ := id hc
    have hgo : Leaves (.counterResync c env) s (done env k.id .ok 0 (counters (begun s c k).b.sec k.part k.cls) (begun s c k)) :=
      leaves_start (i := .counterResync c env) (start := fun k w => done env k.id .ok 0 (counters w.b.sec k.part k.cls) w) rfl hs
        (isOp_of hop)
    rw [id_of_starts hs] at hgo
    exact ⟨_, hgo, finished_begun _ hs hc hr, begun_resync hs hinj hop⟩

end Sys2Proof.Machine
end

section
/-! PROOF. The key port, the KID check and the service port (R379 to R383, R398, R404 to R408). -/

namespace Sys2Proof.Machine

open Sys2Proof.Safety

/-! ### The key port -/

/-- The key port once it has taken a word. -/
def takenWord (data : Word) (x : Sec) : Sec := { x with fuses := x.fuses ++ [data], kpWords := x.kpWords + 1 }

/-- The meaning of KP_WORD. -/
def kpWordW (idx : BitVec 5) (data : Word) (err : Bool) (w : W) : W :=
  if w.b.sec.snuffLatch || w.b.sec.kpFailed || 17 ≤ w.b.sec.kpWords then w
  else if err || idx.toNat != w.b.sec.kpWords then
    failDelivery idx.toNat { w.b.sec with kpErr := err, kpOrder := idx.toNat != w.b.sec.kpWords } w
  else if (takenWord data w.b.sec).kpWords < 17 then { w with b := { w.b with sec := takenWord data w.b.sec } }
  else if (takenWord data w.b.sec).fuses.take 4 |>.all (fun x => x == 0) then
    failDelivery idx.toNat { takenWord data w.b.sec with rkZero := true } w
  else { w with b := { w.b with sec := { takenWord data w.b.sec with deriving_ := true, kepoch := w.b.crp.tAon } } }

theorem exec_kpWord (idx : BitVec 5) (data : Word) (err : Bool) (s : State) :
    exec (.kpWord idx data err) s = run (kpWordW idx data err) s := rfl

theorem kpWordW_shut {idx : BitVec 5} {data : Word} {err : Bool} {w : W}
    (h : w.b.sec.snuffLatch = true ∨ w.b.sec.kpFailed = true ∨ 17 ≤ w.b.sec.kpWords) : kpWordW idx data err w = w :=
  if_pos (by obtain h | h | h := h <;> simp [h])

section
variable {idx : BitVec 5} {data : Word} {err : Bool} {w : W} (hlatch : w.b.sec.snuffLatch = false) (hfailed : w.b.sec.kpFailed = false)
  (hwords : w.b.sec.kpWords < 17)
include hlatch hfailed hwords

theorem kpWordW_open : kpWordW idx data err w = if err || idx.toNat != w.b.sec.kpWords then
      failDelivery idx.toNat { w.b.sec with kpErr := err, kpOrder := idx.toNat != w.b.sec.kpWords } w
    else if (takenWord data w.b.sec).kpWords < 17 then { w with b := { w.b with sec := takenWord data w.b.sec } }
    else if (takenWord data w.b.sec).fuses.take 4 |>.all (fun x => x == 0) then
      failDelivery idx.toNat { takenWord data w.b.sec with rkZero := true } w
    else { w with b := { w.b with sec := { takenWord data w.b.sec with deriving_ := true, kepoch := w.b.crp.tAon } } } := by
  have hopen : (w.b.sec.snuffLatch || w.b.sec.kpFailed || decide (17 ≤ w.b.sec.kpWords)) = false := by
    rw [hlatch, hfailed]
    simpa using hwords
  rw [kpWordW, hopen]
  rfl

theorem kpWordW_wrong (hbad : err = true ∨ idx.toNat ≠ w.b.sec.kpWords) : kpWordW idx data err w
    = failDelivery idx.toNat { w.b.sec with kpErr := err, kpOrder := idx.toNat != w.b.sec.kpWords } w :=
  (kpWordW_open hlatch hfailed hwords).trans (if_pos (by obtain h | h := hbad <;> simp [h]))

theorem kpWordW_right (herr : err = false) (hidx : idx.toNat = w.b.sec.kpWords) : kpWordW idx data err w
    = if (takenWord data w.b.sec).kpWords < 17 then { w with b := { w.b with sec := takenWord data w.b.sec } }
    else if (takenWord data w.b.sec).fuses.take 4 |>.all (fun x => x == 0) then
      failDelivery idx.toNat { takenWord data w.b.sec with rkZero := true } w
    else { w with b := { w.b with sec := { takenWord data w.b.sec with deriving_ := true, kepoch := w.b.crp.tAon } } } :=
  (kpWordW_open hlatch hfailed hwords).trans (if_neg (by simp [herr, hidx]))

end

/-- The last of the words, taken. -/
theorem takenWord_last {data : Word} {x : Sec} (h : x.kpWords = 16) :
    takenWord data x = { x with fuses := x.fuses ++ [data], kpWords := 17 } := by
  rw [takenWord, h]

/-! ### The KID check -/

/-- A KID that differs from the stored one raises level 2. -/
def kidCompared (w : W) : W := if padTo 16 (kidOf w.b.sec) != w.b.sec.kid then alarm2 3 w else w

/-- The meaning of KID_CHECK. -/
def kidCheckW (env : Env) (w : W) : W :=
  let w := noteFalls env w
  if !w.b.sec.keyOk then w
  else
    let hit := injHit w 0x0E 0
    let w := if hit then injFire 0x0E w else w
    if hit || padTo 16 (kidOf w.b.sec) != w.b.sec.kid then alarm2 3 w else w

theorem exec_kidCheck (env : Env) (s : State) : exec (.kidCheck env) s = run (kidCheckW env) s := rfl

theorem kidCheckW_noKey {env : Env} {w : W} (h : w.b.sec.keyOk = false) : kidCheckW env w = noteFalls env w :=
  if_pos (show (!w.b.sec.keyOk) = true by rw [h]; rfl)

theorem kidCheckW_key {env : Env} {w : W} (h : w.b.sec.keyOk = true) (hinj : w.b.ras.inj = []) :
    kidCheckW env w = kidCompared (noteFalls env w) := by
  have hhit : injHit (noteFalls env w) 0x0E 0 = false := injHit_none _ _ _ hinj
  have hkey : (!(noteFalls env w).b.sec.keyOk) = false := by
    show (!w.b.sec.keyOk) = false
    rw [h]
    rfl
  simp only [kidCheckW, hkey, hhit, Bool.false_eq_true, if_false, Bool.false_or]
  rfl

/-! ### The service port -/

theorem settleFrame_whole {header : BitVec 32} {edges : Nat} {act : W → W} {w : W} (h : 32 * (1 + bits header.toNat 23 16) = edges) :
    settleFrame header edges act w = act { w with b := { w.b with sec := { w.b.sec with overlong := false } } } := by
  subst h
  have hlong : ¬(decide (32 * (1 + bits header.toNat 23 16) < 32)
      || decide (32 * (1 + bits header.toNat 23 16) < 32 * (1 + bits header.toNat 23 16))) = true := by
    simp only [Bool.or_eq_true, decide_eq_true_eq]
    omega
  rw [settleFrame, if_neg hlong]
  simp only [Nat.lt_irrefl, decide_false, if_false]

theorem settleFrame_cut {header : BitVec 32} {edges : Nat} {act : W → W} {w : W} (h : edges < 32 * (1 + bits header.toNat 23 16))
    (hmid : edges % 32 ≠ 0) :
    settleFrame header edges act w = { w with b := { w.b with sec := { w.b.sec with midword := sat16 w.b.sec.midword } } } := by
  have hshort : edges < 32 ∨ edges < 32 * (1 + bits header.toNat 23 16) := .inr h
  simp only [settleFrame, Bool.or_eq_true, decide_eq_true_eq, if_pos hshort, bne_iff_ne, ne_eq, hmid, not_false_eq_true, if_true]

/-- A frame of the service port as READ takes it. -/
def readFrame (w : W) : W := { w with b := { w.b with sec := { w.b.sec with lastRes := 0, frames := sat16 w.b.sec.frames } } }

/-- The words a READ frame delivers. -/
def withWords (l : List (BitVec 32)) (w : W) : W := { w with b := { w.b with sec := { w.b.sec with ssOut := l } } }

/-- The meaning of SS_READ_FRAME. -/
def ssReadFrameW (header : BitVec 32) (edges : Nat) (w : W) : W :=
  let h := header.toNat
  let op := bits h 31 24
  let len := bits h 23 16
  if op = 2 then w
  else
    let good := op = 1 && decide (1 ≤ len) && decide (len ≤ 32)
    let sent := if good then (List.range (min len (edges / 32 - 1))).map (fun i => statusWord w (bits h 15 0 + i)) else []
    let w := if good then { w with b.sec.ssOut := sent } else w
    settleFrame header edges (fun w =>
      if good then { w with b.sec.lastRes := 0, b.sec.frames := sat16 w.b.sec.frames } else malformedFrame w) w

theorem exec_ssReadFrame (header : BitVec 32) (edges : Nat) (s : State) :
    exec (.ssReadFrame header edges) s = run (ssReadFrameW header edges) s := rfl

/-- A READ frame of the right form. -/
theorem ssReadFrameW_good {header : BitVec 32} {edges len : Nat} {w : W} (hop : bits header.toNat 31 24 = 1)
    (hlen : len = bits header.toNat 23 16) (hlo : 1 ≤ len) (hhi : len ≤ 32) : ssReadFrameW header edges w
      = settleFrame header edges readFrame
        (withWords ((List.range (min len (edges / 32 - 1))).map (fun i => statusWord w (bits header.toNat 15 0 + i))) w) := by
  have hgood : (decide (bits header.toNat 31 24 = 1) && decide (1 ≤ bits header.toNat 23 16) && decide (bits header.toNat 23 16 ≤ 32))
      = true := by
    rw [← hlen]
    simp [hop, hlo, hhi]
  have hread : ¬bits header.toNat 31 24 = 2 := by omega
  simp only [ssReadFrameW, if_neg hread, hgood, if_true, hlen]
  rfl

/-- A SNUFF frame whose form is right: it is checked (R405, R406). -/
def snuffFrame (ws : List (BitVec 32)) (env : Env) (w : W) : W :=
  let s := w.b.sec
  let w := { w with b.sec.frames := sat16 s.frames }
  let x := (List.range 4).flatMap (fun i => frameBytes (ws.getD i 0))
  let tag := (List.range 4).flatMap (fun i => frameBytes (ws.getD (4 + i) 0))
  let count := (ws.getD 1 0).toNat * 2 ^ 32 + (ws.getD 2 0).toNat
  let good := s.derived && padTo 16 (Config.kmac256 (kCmd s 0 2) x 128 (ascii "OLIPHOR TAG")) == tag
  if good && decide (lastOf s 0 2 < count) then
    let w := { w with b.sec.lastRes := 0, b.sec.last := tset s.last 2 count }
    snuffAll env 6 none (logOther 9 0 0 0 [0x82, (ws.getD 3 0).toNat % 256, 0] w)
  else authFailure 2 { w with b.sec.lastRes := 1 }

/-- The meaning of SS_SNUFF_FRAME. -/
def ssSnuffFrameW (ws : List (BitVec 32)) (edges : Nat) (env : Env) (w : W) : W :=
  if bits (ws.getD 0 0).toNat 31 24 != 2 then w
  else settleFrame (ws.getD 0 0) edges (fun w =>
    if bits (ws.getD 0 0).toNat 23 16 != 7 || bits (ws.getD 0 0).toNat 15 0 != 0 then malformedFrame w else snuffFrame ws env w) w

theorem exec_ssSnuffFrame (ws : List (BitVec 32)) (edges : Nat) (env : Env) (s : State) :
    exec (.ssSnuffFrame ws edges env) s = run (ssSnuffFrameW ws edges env) s := rfl

/-- A SNUFF frame of eight words under its header. -/
theorem ssSnuffFrameW_good {ws : List (BitVec 32)} {env : Env} {w : W} (h : ws.getD 0 0 = 0x02070000) :
    ssSnuffFrameW ws 256 env w = snuffFrame ws env { w with b := { w.b with sec := { w.b.sec with overlong := false } } } := by
  have hop : ¬(bits (ws.getD 0 0).toNat 31 24 != 2) = true := by rw [h]; decide
  have hform : ¬(bits (ws.getD 0 0).toNat 23 16 != 7 || bits (ws.getD 0 0).toNat 15 0 != 0) = true := by rw [h]; decide
  have hedges : 32 * (1 + bits (ws.getD 0 0).toNat 23 16) = 256 := by rw [h]; decide
  rw [ssSnuffFrameW, if_neg hop, settleFrame_whole hedges]
  exact if_neg hform

theorem flatMap_getD {ws : List (BitVec 32)} (hlen : ws.length = 8) {f : BitVec 32 → Bytes} :
    (List.range 4).flatMap (fun i => f (ws.getD i 0)) = (ws.take 4).flatMap f
      ∧ (List.range 4).flatMap (fun i => f (ws.getD (4 + i) 0)) = (ws.drop 4).flatMap f := by
  match ws, hlen with
  | [a, b, c, d, e, g, x, y], _ => exact ⟨rfl, rfl⟩

/-- Settles O53, by the order of the words of a delivery and of the bits of a frame. -/
theorem keyPortAndServicePort : Obligations.KeyPortAndServicePort := by
  refine ⟨?word, ?derived, ?notDerived, ?kid, ?read, ?snuff⟩
  case word =>
    intro s idx data err
    refine ⟨fun hshut => idle_of (exec_kpWord idx data err s) (kpWordW_shut (w := openW s) hshut),
      fun hlatch hfailed hwords => ⟨fun hbad => ?_, fun herr hidx => ?_⟩⟩
    · exact ⟨_, blocks_of (exec_kpWord idx data err s) (kpWordW_wrong (w := openW s) hlatch hfailed hwords hbad) rfl, rfl, rfl, rfl⟩
    · have hright := kpWordW_right (w := openW s) (data := data) hlatch hfailed hwords herr hidx
      refine ⟨fun hmore => ?_, fun hlast hkey => ?_, fun hlast hzero => ?_⟩
      · have hlt : (takenWord data (openW s).b.sec).kpWords < 17 := Nat.succ_lt_succ hmore
        exact blocks_of (exec_kpWord idx data err s) (hright.trans (if_pos hlt)) rfl
      all_goals
        have hlast' : (openW s).b.sec.kpWords = 16 := hlast
        rw [takenWord_last hlast', if_neg (Nat.lt_irrefl 17)] at hright
      · obtain ⟨x, hx, hne⟩ := hkey
        have hany : ¬(((openW s).b.sec.fuses ++ [data]).take 4 |>.all (fun x => x == 0)) = true := fun h =>
          hne (by simpa using List.all_eq_true.mp h x hx)
        exact blocks_of (exec_kpWord idx data err s) (hright.trans (if_neg hany)) rfl
      · have hall : (((openW s).b.sec.fuses ++ [data]).take 4 |>.all (fun x => x == 0)) = true :=
          List.all_eq_true.mpr fun x hx => by simpa using hzero x hx
        exact ⟨_, blocks_of (exec_kpWord idx data err s) (hright.trans (if_pos hall)) rfl, rfl, rfl⟩
  case derived =>
    intro s h
    have hrow : exec .keyDerivationDone s = run (fun w => if !w.b.sec.deriving_ then w else { w with b := { w.b with sec :=
      { w.b.sec with deriving_ := false, derived := true, keyOk := true, kid := padTo 16 (kidOf w.b.sec) } } }) s := rfl
    exact blocks_of hrow (if_neg (by simp [h])) rfl
  case notDerived =>
    intro s h
    have hrow : exec .keyDerivationDone s = run (fun w => if !w.b.sec.deriving_ then w else { w with b := { w.b with sec :=
      { w.b.sec with deriving_ := false, derived := true, keyOk := true, kid := padTo 16 (kidOf w.b.sec) } } }) s := rfl
    exact idle_of hrow (if_pos (by simp [h]))
  case kid =>
    rintro s env b rfl
    refine ⟨fun hno => ?_, fun hkey hinj hsame => ?_, fun hkey hinj hdiffers => ?_⟩
    · exact blocks_of (exec_kidCheck env s) (kidCheckW_noKey (w := openW s) hno) rfl
    · have hchecked := kidCheckW_key (env := env) (w := openW s) hkey hinj
      exact blocks_of (exec_kidCheck env s) (hchecked.trans (if_neg (fun h => (bne_iff_ne.mp h) hsame))) rfl
    · have halarm : kidCheckW env (openW s) = alarm2 3 (noteFalls env (openW s)) :=
        (kidCheckW_key (w := openW s) hkey hinj).trans (if_pos (bne_iff_ne.mpr hdiffers))
      refine ⟨leaves_of (exec_kidCheck env s) halarm, fun hstate => ?_, fun hpass hservice => ?_⟩
      · have hserves : ((noteFalls env (openW s)).b.glb.state == .pass || (noteFalls env (openW s)).b.glb.state == .service) = true := by
          show (s.blk.glb.state == .pass || s.blk.glb.state == .service) = true
          simpa using hstate
        rw [alarm2, if_pos hserves] at halarm
        exact ⟨_, blocks_of (exec_kidCheck env s) halarm rfl, rfl, rfl, rfl⟩
      · have hnot : ¬((noteFalls env (openW s)).b.glb.state == .pass || (noteFalls env (openW s)).b.glb.state == .service) = true := by
          show ¬(s.blk.glb.state == .pass || s.blk.glb.state == .service) = true
          simp [hpass, hservice]
        rw [alarm2, if_neg hnot] at halarm
        exact ⟨_, blocks_of (exec_kidCheck env s) halarm rfl, rfl, rfl⟩
  case read =>
    intro s h edges len hop hlen hlo hhi
    have hgood := ssReadFrameW_good (edges := edges) (w := openW s) hop hlen hlo hhi
    refine ⟨fun hwhole => ?_, fun hcut hmid => ?_⟩
    · have hmin : min len (edges / 32 - 1) = len := by omega
      rw [settleFrame_whole (by rw [← hlen]; omega), hmin] at hgood
      exact blocks_of (exec_ssReadFrame h edges s) hgood rfl
    · rw [settleFrame_cut (by rw [← hlen]; omega) hmid] at hgood
      exact blocks_of (exec_ssReadFrame h edges s) hgood rfl
  case snuff =>
    rintro s ws env tag count hlen hhead rfl rfl hderived htag
    have hgood := ssSnuffFrameW_good (env := env) (w := openW s) hhead
    obtain ⟨hfirst, hrest⟩ := flatMap_getD hlen (f := frameBytes)
    have hauth : ((openW s).b.sec.derived && padTo 16 (Config.kmac256 (kCmd (openW s).b.sec 0 2)
        ((List.range 4).flatMap (fun i => frameBytes (ws.getD i 0))) 128 (ascii "OLIPHOR TAG"))
        == (List.range 4).flatMap (fun i => frameBytes (ws.getD (4 + i) 0))) = true := by
      rw [hfirst, hrest]
      simp [hderived, htag]
    refine ⟨fun hnew => ?_, fun hold => ?_⟩
    · refine leaves_of (exec_ssSnuffFrame ws 256 env s) (hgood.trans (if_pos ?_))
      exact Bool.and_eq_true_iff.mpr ⟨hauth, decide_eq_true hnew⟩
    · refine leaves_of (exec_ssSnuffFrame ws 256 env s) (hgood.trans (if_neg ?_))
      rw [Bool.and_eq_true_iff]
      exact fun h => absurd (of_decide_eq_true h.2) (Nat.not_lt.mpr hold)

end Sys2Proof.Machine
end

section
/-! PROOF. The loader: downloading, verifying and applying an image (R356, R361 to R370). -/

namespace Sys2Proof.Machine

open Sys2Proof.Safety

/-! ### Writes to LDR_CTL -/

/-- The field of LEN does not see GO. -/
theorem lenBits_go (v : Word) : bits (v ||| 4).toNat 63 32 = bits v.toNat 63 32 := by
  rw [bits, bits, BitVec.toNat_or, Nat.shiftRight_or_distrib, show (4 : Word).toNat >>> 32 = 0 from rfl, Nat.or_zero]

/-- The field of MODE does not see GO. -/
theorem modeBits_go (v : Word) : bits (v ||| 4).toNat 1 0 = bits v.toNat 1 0 := by
  simp only [bits, BitVec.toNat_or, Nat.shiftRight_zero, Nat.or_mod_two_pow]
  rw [show (4 : Word).toNat % 2 ^ (1 + 1 - 0) = 0 from rfl, Nat.or_zero]

theorem abortBit_go (v : Word) : (v ||| 4).getLsbD 3 = v.getLsbD 3 := by
  rw [BitVec.getLsbD_or, show (4 : Word).getLsbD 3 = false from rfl, Bool.or_false]

theorem goBit_go (v : Word) : (v ||| 4).getLsbD 2 = true := by
  rw [BitVec.getLsbD_or, show (4 : Word).getLsbD 2 = true from rfl, Bool.or_true]

/-- The word that writes ABORT with MODE and LEN as they are. -/
def abortWord (x : Ldr) : Word := BitVec.ofNat 64 (x.len <<< 32 + 8 + x.mode)

section
variable {x : Ldr} (hlo : 1 ≤ x.mode) (hhi : x.mode ≤ 2) (hlen : x.len < 2 ^ 32)
include hhi hlen

theorem abortWord_toNat : (abortWord x).toNat = x.len * 2 ^ 32 + 8 + x.mode := by
  rw [abortWord, BitVec.toNat_ofNat, Nat.shiftLeft_eq]
  omega

theorem abortWord_mode : bits (abortWord x).toNat 1 0 = x.mode := by
  rw [bits, abortWord_toNat hhi hlen, Nat.shiftRight_zero]
  omega

theorem abortWord_len : bits (abortWord x).toNat 63 32 = x.len := by
  rw [bits, abortWord_toNat hhi hlen, Nat.shiftRight_eq_div_pow]
  omega

theorem abortWord_abort : (abortWord x).getLsbD 3 = true := by
  rw [BitVec.getLsbD, Nat.testBit_eq_decide_div_mod_eq, abortWord_toNat hhi hlen]
  simp only [decide_eq_true_eq]
  omega

theorem abortWord_go : (abortWord x).getLsbD 2 = false := by
  rw [BitVec.getLsbD, Nat.testBit_eq_decide_div_mod_eq, abortWord_toNat hhi hlen]
  simp only [decide_eq_false_iff_not]
  omega

end

/-- The loader with the fields of LDR_CTL. -/
def withCtl (mode len : Nat) (w : W) : W := { w with b := { w.b with ldr := { w.b.ldr with mode := mode, len := len } } }

/-- A download that begins. -/
def receiving (base : Option Nat) (w : W) : W :=
  { w with b := { w.b with ldr := { w.b.ldr with phase := .receiving, bytes := 0, buf := [], lines := [], next := 0
                                                 total := w.b.ldr.len, base := base } } }

/-- Does the loader not take GO: outside DARK, not READY, or with a LEN outside the rule? -/
def refusesGo (w : W) : Bool :=
  w.b.glb.state != .dark || w.b.ldr.phase != .ready || w.b.ldr.len % 64 != 0 || w.b.ldr.len < 64 || 2097152 < w.b.ldr.len

theorem startDownload_refused {w : W} (h : refusesGo w = true) : startDownload w = .ignored := if_pos h

theorem startDownload_stream {w : W} (h : refusesGo w = false) (hmode : (w.b.ldr.mode == 2) = false) :
    startDownload w = .acts (receiving none w) := by
  refine (if_neg (fun hr => Bool.noConfusion (h.symm.trans hr))).trans ?_
  dsimp only
  rw [hmode]
  rfl

theorem startDownload_fetch {w : W} (h : refusesGo w = false) (hmode : (w.b.ldr.mode == 2) = true) :
    startDownload w = .acts (fetchMore w.b.ldr.addr 512 (receiving (some w.b.ldr.addr) w)) := by
  refine (if_neg (fun hr => Bool.noConfusion (h.symm.trans hr))).trans ?_
  dsimp only
  rw [hmode]
  rfl

/-- A stream's download, which ABORT ends. -/
def streaming_ (w : W) : Bool := downloading w && w.b.ldr.base.isNone

/-- The download of a stream ended by ABORT. -/
def abortedLoad (w : W) : W := { w with b := { w.b with ldr := { w.b.ldr with phase := .ready, err := 0x0B, buf := [] } } }

theorem writeLdrCtl_eq {v : Word} {w : W} (hmode : bits v.toNat 1 0 = 1 ∨ bits v.toNat 1 0 = 2) : writeLdrCtl v w =
    if v.getLsbD 3 && streaming_ w then .acts (abortedLoad (withCtl (bits v.toNat 1 0) (bits v.toNat 63 32) w))
    else if v.getLsbD 2 then startDownload (withCtl (bits v.toNat 1 0) (bits v.toNat 63 32) w)
    else .acts (withCtl (bits v.toNat 1 0) (bits v.toNat 63 32) w) := by
  have h : ¬(decide (vbits v 1 0 = 0) || decide (vbits v 1 0 = 3)) = true := by
    rw [vbits]
    obtain h | h := hmode <;> rw [h] <;> decide
  rw [writeLdrCtl, if_neg h]
  rfl

theorem writeLdrCtl_reserved {v : Word} {w : W} (hmode : bits v.toNat 1 0 = 0 ∨ bits v.toNat 1 0 = 3) : writeLdrCtl v w = .ignored :=
  if_pos (by
    rw [vbits]
    obtain h | h := hmode <;> rw [h] <;> rfl)

/-- The meaning of LDR_DOWNLOAD_GO. -/
def downloadGoW (v : Word) (w : W) : W := if writable w then settleWrite 0x20000 (v ||| 4) w (writeLdrCtl (v ||| 4) w) else w

theorem exec_ldrDownloadGo (v : Word) (s : State) : exec (.ldrDownloadGo v) s = run (downloadGoW v) s := rfl

/-- The meaning of LDR_ABORT. -/
def ldrAbortW (w : W) : W :=
  if writable w then settleWrite 0x20000 (abortWord w.b.ldr) w (writeLdrCtl (abortWord w.b.ldr) w) else w

theorem exec_ldrAbort (s : State) : exec .ldrAbort s = run ldrAbortW s := rfl

/-- The meaning of LDR_DATA. -/
def ldrDataW (v : Word) (w : W) : W := if writable w then settleWrite 0x20018 v w (writeLdrData v w) else w

theorem exec_ldrData (v : Word) (s : State) : exec (.ldrData v) s = run (ldrDataW v) s := rfl

theorem writable_running {s : State} (h : s.blk.glb.state ≠ .reset) : writable (openW s) = true := bne_iff_ne.mpr h


/-- A loader that is READY in DARK takes GO with a LEN of the rule. -/
theorem takesGo {w : W} {mode len : Nat} (hdark : w.b.glb.state = .dark) (hready : w.b.ldr.phase = .ready) (hline : len % 64 = 0)
    (hlo : 64 ≤ len) (hhi : len ≤ 2097152) : refusesGo (withCtl mode len w) = false := by
  have hstate : ((withCtl mode len w).b.glb.state != .dark) = false := by
    rw [show (withCtl mode len w).b.glb.state = .dark from hdark]
    rfl
  have hphase : ((withCtl mode len w).b.ldr.phase != .ready) = false := by
    rw [show (withCtl mode len w).b.ldr.phase = .ready from hready]
    rfl
  rw [refusesGo, hstate, hphase, show (withCtl mode len w).b.ldr.len = len from rfl, hline, decide_eq_false (Nat.not_lt.mpr hlo),
    decide_eq_false (Nat.not_lt.mpr hhi)]
  rfl

section
variable {v : Word} {w : W} {len : Nat} (hdark : w.b.glb.state = .dark) (hready : w.b.ldr.phase = .ready)
  (hlen : len = bits v.toNat 63 32) (hline : len % 64 = 0) (hlo : 64 ≤ len) (hhi : len ≤ 2097152)
include hdark hready hlen

/-- GO in DARK with the loader READY goes to the start of a download. -/
theorem downloadGoW_starts {mode : Nat} (hmode : bits v.toNat 1 0 = mode) (hknown : mode = 1 ∨ mode = 2) :
    downloadGoW v w = settleWrite 0x20000 (v ||| 4) w (startDownload (withCtl mode len w)) := by
  have hwritable : writable w = true := by rw [writable, hdark]; rfl
  have hidle : streaming_ w = false := by rw [streaming_, downloading, hready]; simp
  rw [downloadGoW, if_pos hwritable, writeLdrCtl_eq (by rw [modeBits_go, hmode]; exact hknown), hidle, Bool.and_false, goBit_go,
    modeBits_go, lenBits_go, hmode, ← hlen]
  rfl

include hline hlo hhi

theorem downloadGoW_stream (hmode : bits v.toNat 1 0 = 1) : downloadGoW v w = receiving none (withCtl 1 len w) := by
  rw [downloadGoW_starts hdark hready hlen hmode (.inl rfl), startDownload_stream (takesGo hdark hready hline hlo hhi) rfl]
  rfl

theorem downloadGoW_fetch (hmode : bits v.toNat 1 0 = 2) : downloadGoW v w
    = fetchMore w.b.ldr.addr 512 (receiving (some w.b.ldr.addr) (withCtl 2 len w)) := by
  rw [downloadGoW_starts hdark hready hlen hmode (.inr rfl), startDownload_fetch (takesGo hdark hready hline hlo hhi) rfl]
  rfl

end

/-- A write of GO that starts no download and ends none is ignored with an event. -/
theorem downloadGoW_ignored {v : Word} {w : W} (hwritable : writable w = true)
    (h : bits v.toNat 1 0 = 0 ∨ bits v.toNat 1 0 = 3 ∨ (refusesGo (withCtl (bits v.toNat 1 0) (bits v.toNat 63 32) w) = true
      ∧ (v.getLsbD 3 && streaming_ w) = false)) : downloadGoW v w = writeIgnored 0x20000 (v ||| 4) w := by
  rw [downloadGoW, if_pos hwritable]
  have hlt : bits v.toNat 1 0 < 4 := Nat.mod_lt _ (by decide)
  by_cases hres : bits v.toNat 1 0 = 0 ∨ bits v.toNat 1 0 = 3
  · rw [writeLdrCtl_reserved (by rw [modeBits_go]; exact hres)]
    rfl
  · obtain ⟨hrefused, hidle⟩ : _ ∧ _ := by
      obtain h | h | h := h
      · exact absurd (.inl h) hres
      · exact absurd (.inr h) hres
      · exact h
    rw [writeLdrCtl_eq (by rw [modeBits_go]; omega), abortBit_go, hidle, goBit_go, modeBits_go, lenBits_go, startDownload_refused hrefused]
    rfl

section
variable {w : W} (hwritable : writable w = true) (hlo : 1 ≤ w.b.ldr.mode) (hhi : w.b.ldr.mode ≤ 2) (hlen : w.b.ldr.len < 2 ^ 32)
include hwritable hlo hhi hlen

/-- ABORT writes MODE and LEN as they are. -/
theorem ldrAbortW_eq : ldrAbortW w = if streaming_ w then abortedLoad w else w := by
  have hsame : withCtl w.b.ldr.mode w.b.ldr.len w = w := rfl
  rw [ldrAbortW, if_pos hwritable, writeLdrCtl_eq (by rw [abortWord_mode hhi hlen]; omega), abortWord_abort hhi hlen,
    abortWord_go hhi hlen, abortWord_mode hhi hlen, abortWord_len hhi hlen, hsame, Bool.true_and]
  cases streaming_ w <;> rfl

end

/-! ### The data -/

theorem writeLdrData_ignored {v : Word} {w : W} (h : downloading w = false ∨ w.b.ldr.base ≠ none) : writeLdrData v w = .ignored := by
  refine if_pos ?_
  obtain h | h := h
  · rw [h]; rfl
  · rw [Option.isSome_iff_ne_none.mpr h, Bool.or_true]

/-- The loader once a word of a stream is taken. -/
def takenData (v : Word) (w : W) : W :=
  { w with b := { w.b with ldr := { w.b.ldr with buf := w.b.ldr.buf ++ toLe 8 v.toNat, bytes := w.b.ldr.bytes + 8 } } }

theorem writeLdrData_takes {v : Word} {w : W} (hload : downloading w = true) (hbase : w.b.ldr.base = none) : writeLdrData v w
    = .acts (if w.b.ldr.bytes + 8 = w.b.ldr.total then downloaded (w.b.ldr.buf ++ toLe 8 v.toNat) (takenData v w) else takenData v w) :=
  if_neg (by rw [hload, hbase]; decide)

/-- The loader once a line of a FETCH download is taken. -/
def takenLine (off base : Nat) (w : W) : W :=
  { w with b := { w.b with ldr := { w.b.ldr with lines := tset w.b.ldr.lines off (getBytes w (base + off) 64)
                                                 bytes := w.b.ldr.bytes + 64 } } }

theorem loaderAnswer_late {off base : Nat} {c : Rsp} {w : W} (hbase : w.b.ldr.base = some base) (hload : downloading w = false) :
    loaderAnswer off c w = w := by
  simp only [loaderAnswer, hbase, hload, Bool.not_false, if_true]

theorem loaderAnswer_fails {off base : Nat} {c : Rsp} {w : W} (hbase : w.b.ldr.base = some base) (hload : downloading w = true)
    (hc : c ≠ .ok) : loaderAnswer off c w = logOther 0x0C 0 0 0 [0x20008, 0x0A, base + off]
      (dropReads { w with b := { w.b with ldr := { w.b.ldr with phase := .ready, err := 0x0A, lines := [] } } }) := by
  have hbad : (c != .ok) = true := bne_iff_ne.mpr hc
  simp only [loaderAnswer, hbase, hload, hbad, Bool.not_true, Bool.false_eq_true, if_false, if_true]

theorem loaderAnswer_ok {off base : Nat} {w : W} (hbase : w.b.ldr.base = some base) (hload : downloading w = true) :
    loaderAnswer off .ok w = if w.b.ldr.bytes + 64 = w.b.ldr.total then
        downloaded ((tset w.b.ldr.lines off (getBytes w (base + off) 64)).flatMap (·.2)) (takenLine off base w)
      else fetchMore base 512 (takenLine off base w) := by
  rw [loaderAnswer, hbase]
  exact (if_neg (by rw [hload]; decide)).trans (if_neg (by decide))

/-! ### Verification and sections -/

/-- The meaning of IMAGE_VERIFIED. -/
def imageVerifiedW (w : W) : W :=
  if w.b.glb.state != .loading || w.b.ldr.phase != .verifying then w
  else match verifyErr w false (minSvn w.b.sec) w.b.ldr.buf w.b.ldr.total with
    | some e => failLoad e (if 5 ≤ e && e ≤ 8 then authFailure e w else w)
    | none =>
      if helmFailed w then setState .pass { (clearTables w) with b.ldr.phase := .done }
      else { w with b.ldr.phase := .applying, b.ldr.verNs := w.b.crp.tCore }

theorem exec_imageVerified (s : State) : exec .imageVerified s = run imageVerifiedW s := rfl

/-- The meaning of IMAGE_APPLIED. -/
def imageAppliedW (w : W) : W :=
  if w.b.glb.state != .loading || w.b.ldr.phase != .applying then w
  else match applyImage w.b.ldr.buf w with
    | .ok w => setState .pass { w with b.ldr.phase := .done }
    | .error e => failLoad e w

theorem exec_imageApplied (s : State) : exec .imageApplied s = run imageAppliedW s := rfl

/-- The meaning of HELM_REPORT_TIMEOUT. -/
def helmReportTimeoutW (w : W) : W := if w.b.glb.state == .loading && w.b.ldr.phase == .applying then failLoad 0x0E w else w

theorem exec_helmReportTimeout (s : State) : exec .helmReportTimeout s = run helmReportTimeoutW s := rfl

/-- Is the block in LOADING, at a phase of the loader? -/
def loadingAt (p : LdrPhase) (w : W) : Prop := w.b.glb.state = .loading ∧ w.b.ldr.phase = p

theorem outside_loading {p : LdrPhase} {w : W} (h : w.b.glb.state ≠ .loading ∨ w.b.ldr.phase ≠ p) :
    (w.b.glb.state != .loading || w.b.ldr.phase != p) = true := by
  obtain h | h := h
  · rw [bne_iff_ne.mpr h, Bool.true_or]
  · rw [bne_iff_ne.mpr h, Bool.or_true]

theorem inside_loading {p : LdrPhase} {w : W} (hstate : w.b.glb.state = .loading) (hphase : w.b.ldr.phase = p) :
    ¬(w.b.glb.state != .loading || w.b.ldr.phase != p) = true := by
  rw [hstate, hphase]
  simp

/-- An authentication failure counted, with its alarm of level 1. -/
def countedFailure (e : Nat) (w : W) : W :=
  alarm1 e { w with b := { w.b with sec := { w.b.sec with
    authTotal := sat32 w.b.sec.authTotal, failTimes := w.b.crp.tAon / 1000 :: w.b.sec.failTimes.take 14 } } }

/-- An authentication failure in LOADING is counted and logged, and changes the keys' state alone. -/
theorem authFailure_loading {e : Nat} {w : W} (h : w.b.glb.state = .loading) :
    ∃ x t, authFailure e w = { w with b := { w.b with sec := x, tlm := t } } ∧ x.authTotal = sat32 w.b.sec.authTotal := by
  have halarm : ∀ v : W, v.b.glb.state = .loading → ∃ t, alarm2 1 v = { v with b := { v.b with tlm := t } } := by
    intro v hv
    rw [alarm2, if_neg (by rw [hv]; decide)]
    exact ⟨_, rfl⟩
  have hburst : ∀ (burst : Bool) (v : W), (if burst then alarm2 1 v else v) = v ∨ (if burst then alarm2 1 v else v) = alarm2 1 v := by
    intro burst v
    cases burst
    · exact .inl rfl
    · exact .inr rfl
  have hfail : authFailure e w = countedFailure e w ∨ authFailure e w = alarm2 1 (countedFailure e w) := hburst _ (countedFailure e w)
  obtain hfail | hfail := hfail
  · exact ⟨_, _, hfail, rfl⟩
  · obtain ⟨t, ht⟩ := halarm (countedFailure e w) h
    exact ⟨(countedFailure e w).b.sec, t, hfail.trans ht, rfl⟩

/-- A load that fails goes back to DARK with its ERR. -/
theorem failLoad_eq (e : Nat) (w : W) : ∃ t, failLoad e w = { w with b := { w.b with
    glb := { w.b.glb with state := .dark }, ldr := { w.b.ldr with phase := .ready, err := e }
    sec := { w.b.sec with lastState := .dark }, tlm := t } } := ⟨_, rfl⟩

/-- A verification that finds an error (R366, R370, R397). -/
theorem imageVerifiedW_fails {w : W} {e : Nat} (hstate : w.b.glb.state = .loading) (hphase : w.b.ldr.phase = .verifying)
    (herr : verifyErr w false (minSvn w.b.sec) w.b.ldr.buf w.b.ldr.total = some e) : ∃ x t, imageVerifiedW w = { w with b := { w.b with
      glb := { w.b.glb with state := .dark }, ldr := { w.b.ldr with phase := .ready, err := e }, sec := x, tlm := t } }
      ∧ x.authTotal = if 5 ≤ e ∧ e ≤ 8 then sat32 w.b.sec.authTotal else w.b.sec.authTotal := by
  have hfail : imageVerifiedW w = failLoad e (if 5 ≤ e && e ≤ 8 then authFailure e w else w) := by
    rw [imageVerifiedW, if_neg (inside_loading hstate hphase), herr]
  rw [hfail]
  by_cases hauth : 5 ≤ e ∧ e ≤ 8
  · obtain ⟨x, t, hfailed, htotal⟩ := authFailure_loading (e := e) hstate
    obtain ⟨u, hload⟩ := failLoad_eq e (authFailure e w)
    rw [if_pos (by simpa using hauth), hload, hfailed, if_pos hauth]
    exact ⟨_, _, rfl, htotal⟩
  · obtain ⟨u, hload⟩ := failLoad_eq e w
    rw [if_neg (by simpa using hauth), hload, if_neg hauth]
    exact ⟨_, _, rfl, rfl⟩

/-- Settles O54, by the stage of the loader. -/
theorem imagesLoad : Obligations.ImagesLoad := by
  refine ⟨?stream, ?fetch, ?ignored, ?abort, ?answer, ?data, ?verified, ?outside, ?applied⟩
  case stream =>
    intro s v len hdark hready hmode hlen hline hlo hhi
    exact blocks_of (exec_ldrDownloadGo v s) (downloadGoW_stream (w := openW s) hdark hready hlen hline hlo hhi hmode) rfl
  case fetch =>
    intro s v len hdark hready hmode hlen hline hlo hhi
    exact leaves_of (exec_ldrDownloadGo v s) (downloadGoW_fetch (w := openW s) hdark hready hlen hline hlo hhi hmode)
  case ignored =>
    intro s v hrun h
    refine leaves_of (exec_ldrDownloadGo v s) (downloadGoW_ignored (writable_running hrun) ?_)
    obtain h | h | ⟨hrefused, hidle⟩ := h
    · exact .inl h
    · exact .inr (.inl h)
    · refine .inr (.inr ⟨?_, ?_⟩)
      · show (s.blk.glb.state != .dark || s.blk.ldr.phase != .ready || bits v.toNat 63 32 % 64 != 0 || decide (bits v.toNat 63 32 < 64)
          || decide (2097152 < bits v.toNat 63 32)) = true
        obtain h | h | h | h | h := hrefused <;> simp [h]
      · obtain h | h | h := hidle
        · rw [h]; rfl
        · rw [streaming_, h]; simp
        · have hbase : (openW s).b.ldr.base.isNone = false := Option.isNone_eq_false_iff.mpr (Option.isSome_iff_ne_none.mpr h)
          rw [streaming_, hbase]
          simp
  case abort =>
    intro s hrun hlo hhi hlen
    have habort := ldrAbortW_eq (writable_running hrun) (w := openW s) hlo hhi hlen
    refine ⟨fun hload hbase => ?_, fun hnot => ?_⟩
    · have hstream : streaming_ (openW s) = true := by
        rw [streaming_, hload, show (openW s).b.ldr.base = none from hbase]
        rfl
      exact blocks_of (exec_ldrAbort s) (habort.trans (if_pos hstream)) rfl
    · refine idle_of (exec_ldrAbort s) (habort.trans (if_neg ?_))
      obtain h | h := hnot
      · simp [streaming_, h]
      · have hbase : (openW s).b.ldr.base.isNone = false := Option.isNone_eq_false_iff.mpr (Option.isSome_iff_ne_none.mpr h)
        rw [streaming_, hbase]
        simp
  case answer =>
    rintro s off c base w rfl hbase
    refine ⟨loaderAnswer_late (w := openW s) hbase, fun hload hc => ?_, fun hload hc hmore => ?_, fun hload hc hlast => ?_⟩
    · rw [loaderAnswer_fails (w := openW s) hbase hload hc]
      exact ⟨rfl, rfl, rfl⟩
    · rw [hc, loaderAnswer_ok (w := openW s) hbase hload]
      exact if_neg hmore
    · rw [hc, loaderAnswer_ok (w := openW s) hbase hload]
      exact congrArg W.b (if_pos hlast)
  case data =>
    rintro s v buf hrun rfl
    have hrow : ldrDataW v (openW s) = settleWrite 0x20018 v (openW s) (writeLdrData v (openW s)) := if_pos (writable_running hrun)
    refine ⟨fun hnot => ?_, fun hload hbase => ⟨fun hmore => ?_, fun hlast => ?_⟩⟩
    · rw [writeLdrData_ignored (w := openW s) hnot] at hrow
      exact leaves_of (exec_ldrData v s) hrow
    · rw [writeLdrData_takes (w := openW s) hload hbase] at hrow
      exact blocks_of (exec_ldrData v s) (hrow.trans (if_neg hmore)) rfl
    · rw [writeLdrData_takes (w := openW s) hload hbase] at hrow
      exact blocks_of (exec_ldrData v s) (hrow.trans (if_pos hlast)) rfl
  case verified =>
    intro s hstate hphase
    have hin := inside_loading (w := openW s) hstate hphase
    refine ⟨fun e herr => ?_, fun herr hhelm => ?_, fun herr hhelm => ?_⟩
    · obtain ⟨x, t, hfails, htotal⟩ := imageVerifiedW_fails (w := openW s) hstate hphase herr
      exact ⟨_, blocks_of (exec_imageVerified s) hfails rfl, rfl, rfl, rfl, htotal, rfl⟩
    all_goals
      have hgo : imageVerifiedW (openW s) = if helmFailed (openW s) then
          setState .pass { (clearTables (openW s)) with b.ldr.phase := .done }
        else { (openW s) with b.ldr.phase := .applying, b.ldr.verNs := (openW s).b.crp.tCore } := by
        rw [imageVerifiedW, if_neg hin, show verifyErr (openW s) false (minSvn (openW s).b.sec) (openW s).b.ldr.buf
          (openW s).b.ldr.total = none from herr]
    · exact blocks_of (exec_imageVerified s) (hgo.trans (if_neg (fun h => Bool.noConfusion (hhelm.symm.trans h)))) rfl
    · exact blocks_of (exec_imageVerified s) (hgo.trans (if_pos hhelm)) rfl
  case outside =>
    intro s
    refine ⟨fun h => idle_of (exec_imageVerified s) (if_pos (outside_loading (w := openW s) h)), fun h =>
      ⟨idle_of (exec_imageApplied s) (if_pos (outside_loading (w := openW s) h)), idle_of (exec_helmReportTimeout s) (if_neg ?_)⟩⟩
    obtain h | h := h <;> simp [h]
  case applied =>
    intro s hstate hphase
    have hin := inside_loading (w := openW s) hstate hphase
    refine ⟨fun w happly => ?_, fun e happly => ?_, ?_⟩
    · refine leaves_of (exec_imageApplied s) ?_
      rw [imageAppliedW, if_neg hin, show applyImage (openW s).b.ldr.buf (openW s) = .ok w from happly]
    · refine leaves_of (exec_imageApplied s) ?_
      rw [imageAppliedW, if_neg hin, show applyImage (openW s).b.ldr.buf (openW s) = .error e from happly]
    · have hrow : helmReportTimeoutW (openW s) = failLoad 0x0E (openW s) := if_pos (by simp [hstate, hphase])
      exact ⟨_, blocks_of (exec_helmReportTimeout s) hrow rfl, rfl, rfl, rfl, rfl⟩

end Sys2Proof.Machine
end

section
/-! PROOF. IMAGE_PATCH and its stages (R372 to R374). -/

namespace Sys2Proof.Machine

open Sys2Proof.Safety

/-! ### The image is read -/

/-- A patch whose image is accepted (R373, R374). -/
def patchAccepted (env : Env) (k : Cmd) (img : Bytes) (w : W) : W :=
  let lib := (libOf img).getD []
  let p : Patch := { cmd := k.id, image := img, stage := if (sectBytes img 1).isSome then 0 else 1, slots := lib.map (·.1) }
  let w := { w with b.patch := some p, b.ldr.buf := img }
  match sectBytes img 1 with
  | some h => handOver h w
  | none => patchGo env w

/-- A patch whose image has been verified: the checks that are left (R372, R373). -/
def patchVerified (env : Env) (k : Cmd) (img : Bytes) (w : W) : W :=
  if formatRefused w img then done env k.id .denied 0xA3 [] w
  else if w.b.patch.isSome then done env k.id .denied 0xA5 [] w
  else if (swapLib ((libOf img).getD []) w).isNone then done env k.id .quota 7 [] w
  else patchAccepted env k img w

/-- A patch whose image has been read, or not. -/
def patchRead (env : Env) (k : Cmd) (x : Rsp × Bytes × W) : W :=
  if x.1 != .ok then done env k.id .denied 0xA1 [] x.2.2
  else match patchErr x.2.2 x.2.1 (arg k 0x18 4) with
    | some e => done env k.id .denied 0xA2 (toLe 1 e)
        (if 5 ≤ e && e ≤ 8 && (x.2.2.b.glb.state == .service || x.2.2.b.glb.state == .pass) then alarm2 2 x.2.2 else x.2.2)
    | none => patchVerified env k x.2.1 x.2.2

theorem patchStart_waits {env : Env} {k : Cmd} {w : W} (h : linesReadable w (arg k 0x10 8) (arg k 0x18 4) = false) :
    patchStart env k w = flushLines (arg k 0x10 8) (arg k 0x18 4) w := if_neg (by rw [h]; decide)

theorem patchStart_reads {env : Env} {k : Cmd} {w : W} (h : linesReadable w (arg k 0x10 8) (arg k 0x18 4) = true) :
    patchStart env k w = patchRead env k (readBytes (seAcc env k.ctx) (arg k 0x10 8) (arg k 0x18 4) w) := by
  refine (if_pos h).trans ?_
  unfold patchRead patchVerified patchAccepted
  rfl

section
variable {env : Env} {k : Cmd} {code : Rsp} {img : Bytes} {w : W}

theorem patchRead_fails (hcode : code ≠ .ok) : patchRead env k (code, img, w) = done env k.id .denied 0xA1 [] w :=
  if_pos (bne_iff_ne.mpr hcode)

theorem patchRead_err {e : Nat} (herr : patchErr w img (arg k 0x18 4) = some e) : patchRead env k (.ok, img, w)
    = done env k.id .denied 0xA2 (toLe 1 e)
      (if 5 ≤ e ∧ e ≤ 8 ∧ (w.b.glb.state = .service ∨ w.b.glb.state = .pass) then alarm2 2 w else w) := by
  refine (if_neg (show ¬(Rsp.ok != Rsp.ok) = true by decide)).trans ?_
  simp only [herr, Bool.and_eq_true, decide_eq_true_eq, Bool.or_eq_true, beq_iff_eq, and_assoc]

theorem patchRead_verified (herr : patchErr w img (arg k 0x18 4) = none) :
    patchRead env k (.ok, img, w) = patchVerified env k img w := by
  refine (if_neg (show ¬(Rsp.ok != Rsp.ok) = true by decide)).trans ?_
  dsimp only
  rw [herr]

theorem patchVerified_format (h : formatRefused w img = true) : patchVerified env k img w = done env k.id .denied 0xA3 [] w := if_pos h

theorem patchVerified_second (h : formatRefused w img = false) (hpatch : w.b.patch.isSome = true) :
    patchVerified env k img w = done env k.id .denied 0xA5 [] w := by
  rw [patchVerified, h, hpatch]
  rfl

theorem patchVerified_place (h : formatRefused w img = false) (hpatch : w.b.patch = none) : patchVerified env k img w
    = if (swapLib ((libOf img).getD []) w).isNone then done env k.id .quota 7 [] w else patchAccepted env k img w := by
  rw [patchVerified, h, hpatch]
  rfl

/-- The patch of an accepted image. -/
def newPatch (c : CmdId) (img : Bytes) : Patch :=
  { cmd := c, image := img, stage := if (sectBytes img 1).isSome then 0 else 1, slots := ((libOf img).getD []).map (·.1) }

theorem patchAccepted_library (h : sectBytes img 1 = none) : patchAccepted env k img w
    = patchLib env (newPatch k.id img) { w with b := { w.b with patch := some (newPatch k.id img), ldr := { w.b.ldr with buf := img } } } := by
  have hstage : (newPatch k.id img).stage = 1 := by rw [newPatch, h]; rfl
  have hgo : patchAccepted env k img w = patchGo env
      { w with b := { w.b with patch := some (newPatch k.id img), ldr := { w.b.ldr with buf := img } } } := by
    unfold patchAccepted newPatch
    rw [h]
  rw [hgo, patchGo]
  simp only [hstage, Nat.one_ne_zero, if_false, if_true]

theorem patchAccepted_helm {h : Bytes} (hsect : sectBytes img 1 = some h) : patchAccepted env k img w = { w with b := { w.b with
      patch := some (newPatch k.id img), ldr := { w.b.ldr with buf := img }
      glb := { w.b.glb with savedFmt := some w.b.glb.hstate, banks := tset w.b.glb.banks (1 - w.b.glb.bank) (helmCode h)
                            entries := tset w.b.glb.entries (1 - w.b.glb.bank) (fld h 4 4) } } } := by
  have hgo : patchAccepted env k img w = handOver h
      { w with b := { w.b with patch := some (newPatch k.id img), ldr := { w.b.ldr with buf := img } } } := by
    unfold patchAccepted newPatch
    rw [hsect]
  rw [hgo]
  rfl

end

/-! ### The stages -/

theorem patchGo_library {env : Env} {p : Patch} {w : W} (hp : w.b.patch = some p) (hstage : p.stage = 1) : patchGo env w = patchLib env p w := by
  rw [patchGo, hp]
  simp only [hstage, Nat.one_ne_zero, if_false, if_true]

/-- A patch whose slots are busy stays at its stage. -/
theorem patchLib_busy {env : Env} {p : Patch} {w : W} (hp : w.b.patch = some p) (hstage : p.stage = 1) (hbusy : slotsBusy w p.slots = true) :
    patchLib env p w = w := by
  refine (if_pos hbusy).trans ?_
  have hsame : ({ p with stage := 1 } : Patch) = p := by rw [← hstage]
  rw [hsame, ← hp]

/-- The meaning of PATCH_LIBRARY_SWAP. -/
def librarySwapW (env : Env) (w : W) : W :=
  match w.b.patch with
  | some p => if p.stage = 1 then patchLib env p w else w
  | none => w

theorem exec_patchLibrarySwap (env : Env) (s : State) : exec (.patchLibrarySwap env) s = run (librarySwapW env) s := rfl

/-- The meaning of PATCH_SLOT_TIMEOUT. -/
def slotTimeoutW (env : Env) (w : W) : W :=
  match w.b.patch with
  | some p => if p.stage = 1 then endPatch env p.cmd .timeout 0 w else w
  | none => w

theorem exec_patchSlotTimeout (env : Env) (s : State) : exec (.patchSlotTimeout env) s = run (slotTimeoutW env) s := rfl

theorem librarySwapW_library {env : Env} {p : Patch} {w : W} (hp : w.b.patch = some p) (hstage : p.stage = 1) :
    librarySwapW env w = patchLib env p w := by
  rw [librarySwapW, hp]
  exact if_pos hstage

theorem slotTimeoutW_library {env : Env} {p : Patch} {w : W} (hp : w.b.patch = some p) (hstage : p.stage = 1) :
    slotTimeoutW env w = endPatch env p.cmd .timeout 0 w := by
  rw [slotTimeoutW, hp]
  exact if_pos hstage

theorem librarySwapW_other {env : Env} {w : W} (h : ∀ p, w.b.patch = some p → p.stage ≠ 1) : librarySwapW env w = w := by
  rw [librarySwapW]
  cases hp : w.b.patch with
  | none => rfl
  | some p => exact if_neg (h p hp)

theorem slotTimeoutW_other {env : Env} {w : W} (h : ∀ p, w.b.patch = some p → p.stage ≠ 1) : slotTimeoutW env w = w := by
  rw [slotTimeoutW]
  cases hp : w.b.patch with
  | none => rfl
  | some p => exact if_neg (h p hp)

/-! ### The hand-over -/

theorem handOverReady_helm {env : Env} {p : Patch} {h : Bytes} {w : W} (hp : w.b.patch = some p) (hstage : p.stage = 0)
    (hsect : sectBytes p.image 1 = some h) : handOverReady env w = patchLib env { p with stage := 1 } (runBank (1 - w.b.glb.bank) h
      (endPause { w with b := { w.b with patch := some { p with stage := 1 } } })) := by
  have hgo : handOverReady env w = patchGo env (runBank (1 - w.b.glb.bank) h
      (endPause { w with b := { w.b with patch := some { p with stage := 1 } } })) := by
    simp only [handOverReady, hp, hstage, bne_self_eq_false, Bool.false_eq_true, if_false, hsect, Option.getD_some]
  rw [hgo]
  exact patchGo_library rfl rfl

theorem handOverReady_other {env : Env} {w : W} (h : ∀ p, w.b.patch = some p → p.stage ≠ 0) : handOverReady env w = endPause w := by
  rw [handOverReady]
  cases hp : w.b.patch with
  | none => rfl
  | some p => exact if_pos (bne_iff_ne.mpr (h p hp))

/-- The old bank restarts on the saved state. -/
def oldState (w : W) : W := endPause { w with b := { w.b with glb := { w.b.glb with hstate := w.b.glb.savedFmt.getD w.b.glb.hstate } } }

theorem handOverFailed_helm {env : Env} {p : Patch} {w : W} (hp : w.b.patch = some p) (hstage : p.stage = 0) :
    handOverFailed env w = endPatch env p.cmd .denied 0xA4 (oldState w) := by
  have hp' : (oldState w).b.patch = some p := hp
  have hgo : handOverFailed env w = match (oldState w).b.patch with
    | some p => if p.stage = 0 then endPatch env p.cmd .denied 0xA4 (oldState w) else oldState w
    | none => oldState w := rfl
  rw [hgo, hp']
  exact if_pos hstage

theorem handOverFailed_other {env : Env} {w : W} (h : ∀ p, w.b.patch = some p → p.stage ≠ 0) : handOverFailed env w = oldState w := by
  have hgo : handOverFailed env w = match (oldState w).b.patch with
    | some p => if p.stage = 0 then endPatch env p.cmd .denied 0xA4 (oldState w) else oldState w
    | none => oldState w := rfl
  rw [hgo]
  cases hp : (oldState w).b.patch with
  | none => rfl
  | some p => exact if_neg (h p hp)

/-! ### Settling -/

/-- An IMAGE_PATCH that starts, or whose image could not be read before, reads its image. -/
theorem leaves_patchStart {s : State} {c : CmdId} {env : Env} {k : Cmd} {v : W} (hop : opOf k = 0x83)
    (h : (Starts s c k ∧ v = begun s c k ∧ patchCheck v k = none)
      ∨ (Runs s c k ∧ v = openW s ∧ (s.blk.patch.map (·.cmd)) ≠ some c)) :
    Leaves (.imagePatch c env) s (patchStart env k v) := by
  obtain ⟨hs, rfl, hcheck⟩ | ⟨hs, rfl, hother⟩ := h
  · exact leaves_checked (i := .imagePatch c env) (chk := patchCheck) (go := patchStart env) rfl hs (isOp_of hop) hcheck
  · have hgo := leaves_goOn (i := .imagePatch c env) (env := env)
      (goOn := fun k w => if (w.b.patch.map (·.cmd)) == some k.id then patchGo env w else patchStart env k w) rfl hs (isOp_of hop)
    have hid : k.id = c := id_of_findCmd hs.1
    refine Eq.mp ?_ hgo
    refine congrArg (Leaves _ s) (if_neg ?_)
    rw [hid]
    simpa using hother

/-- Settles O55, by the stage of the patch. -/
theorem patchesApply : Obligations.PatchesApply := by
  refine ⟨?reads, ?denied, ?goesOn, ?stages⟩
  case reads =>
    intro s c env k v hop h
    have hid : k.id = c := by
      obtain ⟨hs, -⟩ | ⟨hs, -⟩ := h
      · exact id_of_starts hs
      · exact id_of_findCmd hs.1
    have hstart := leaves_patchStart (env := env) hop h
    refine ⟨fun hwait => ?_, fun hfree code img w hread => ?_⟩
    · rwa [patchStart_waits hwait] at hstart
    rw [patchStart_reads hfree, hread] at hstart
    subst hid
    refine ⟨fun hcode => ?_, fun hcode e herr => ?_, fun hcode herr => ?_⟩
    · rwa [patchRead_fails hcode] at hstart
    · subst hcode
      rwa [patchRead_err herr] at hstart
    · subst hcode
      rw [patchRead_verified herr] at hstart
      refine ⟨fun hformat => ?_, fun hformat hsecond => ?_, fun hformat hfirst hplace => ?_, fun hformat hfirst hplace p hp =>
        ⟨fun hsect => ?_, fun x hsect => ?_⟩⟩
      · rwa [patchVerified_format hformat] at hstart
      · rwa [patchVerified_second hformat hsecond] at hstart
      · rwa [patchVerified_place hformat hfirst, hplace] at hstart
      all_goals
        have hplaced : (swapLib ((libOf img).getD []) w).isNone = false := Option.isNone_eq_false_iff.mpr hplace
        rw [patchVerified_place hformat hfirst, hplaced] at hstart
        rw [show p = newPatch k.id img from hp]
      · rw [patchAccepted_library hsect] at hstart
        exact hstart
      · rw [patchAccepted_helm hsect] at hstart
        exact hstart
  case denied =>
    rintro s c env k img w ⟨hs, hc, hr, hop⟩ hcheck hfree hread
    obtain ⟨hrd, -, hinj, -⟩ := id hc
    have hk := begun_keeps hs hinj
    have hreads : Presents (begun s c k) w := by
      have h := presents_readBytes (acc := seAcc env k.ctx) (a := arg k 0x10 8) (n := arg k 0x18 4) (w := begun s c k) hrd
        (by rw [hk.ras]; exact hinj)
      rwa [hread] at h
    have hfin := fun o => finished_after_reads (env := env) o hs hc hr hreads rfl rfl rfl rfl
    have hstart := leaves_patchStart (env := env) hop (.inl ⟨hs, rfl, hcheck⟩)
    rw [patchStart_reads hfree, hread] at hstart
    have hid := id_of_starts hs
    refine ⟨fun e herr hother => ?_, fun herr => ?_⟩
    · rw [patchRead_err herr, if_neg (by omega), done, hid] at hstart
      exact ⟨_, hstart, hfin _⟩
    rw [patchRead_verified herr] at hstart
    refine ⟨fun hformat => ?_, fun hformat hsecond => ?_⟩
    · rw [patchVerified_format hformat, done, hid] at hstart
      exact ⟨_, hstart, hfin _⟩
    · have hpatch : w.b.patch.isSome = true := by
        rw [hreads.blk, hk.blk]
        exact hsecond
      rw [patchVerified_second hformat hpatch, done, hid] at hstart
      exact ⟨_, hstart, hfin _⟩
  case goesOn =>
    intro s c env k p hs hop hp hcmd
    have hgo := leaves_goOn (i := .imagePatch c env) (env := env)
      (goOn := fun k w => if (w.b.patch.map (·.cmd)) == some k.id then patchGo env w else patchStart env k w) rfl hs (isOp_of hop)
    refine Eq.mp (congrArg (Leaves _ s) (if_pos ?_)) hgo
    rw [id_of_findCmd hs.1, show (openW s).b.patch = some p from hp]
    simp [hcmd]
  case stages =>
    rintro s env kept rfl
    refine ⟨fun p v hp hstage h hsect hv => ?_, fun p v hp hstage hv => ?_, fun hno t u ht hu => ⟨?_, ?_⟩,
      fun p hp hstage => ⟨?_, ?_, fun hbusy => ?_⟩, fun hno => ⟨?_, ?_⟩⟩
    · have hready : handOverReady env (openW s) = v := (handOverReady_helm (w := openW s) hp hstage hsect).trans hv.symm
      rw [← hready]
      rfl
    · have hfailed : handOverFailed env (openW s) = v := (handOverFailed_helm (w := openW s) hp hstage).trans hv.symm
      rw [← hfailed]
      rfl
    · have hready := handOverReady_other (env := env) (w := openW s) hno
      have hclosed : closeW s (handOverReady env (openW s)) = t := by rw [hready, ht]; rfl
      have hqueue : t.blk.lnk.helmQ = s.blk.lnk.helmQ := by rw [ht]
      rw [← hqueue, ← hclosed]
      rfl
    · have hfailed := handOverFailed_other (env := env) (w := openW s) hno
      have hclosed : closeW s (handOverFailed env (openW s)) = u := by rw [hfailed, hu]; rfl
      have hqueue : u.blk.lnk.helmQ = s.blk.lnk.helmQ := by rw [hu]
      rw [← hqueue, ← hclosed]
      rfl
    · exact leaves_of (exec_patchLibrarySwap env s) (librarySwapW_library (w := openW s) hp hstage)
    · exact leaves_of (exec_patchSlotTimeout env s) (slotTimeoutW_library (w := openW s) hp hstage)
    · exact idle_of (exec_patchLibrarySwap env s)
        ((librarySwapW_library (w := openW s) hp hstage).trans (patchLib_busy (w := openW s) hp hstage hbusy))
    · exact idle_of (exec_patchLibrarySwap env s) (librarySwapW_other (w := openW s) hno)
    · exact idle_of (exec_patchSlotTimeout env s) (slotTimeoutW_other (w := openW s) hno)

end Sys2Proof.Machine
end

section
/-! PROOF. Faults and injection (R414 to R431, R444). -/

namespace Sys2Proof.Machine

open Sys2Proof.Safety

/-! ### Arming -/

theorem armCheck_fails {k : Cmd} (hq : k.id.q ≠ fabricQ) (hpart : k.part ≠ 0) : armCheck k = some { status := .denied, info := 0xC0 } := by
  simp [armCheck, deny, fail, hq, hpart]

theorem armCheck_passes {k : Cmd} (hpart : k.part = 0) : armCheck k = none := by simp [armCheck, deny, hpart]

/-- What INJECT_ARM leaves of the injection state. -/
def armed (k : Cmd) (exp : Nat) (x : Ras) : Ras :=
  { x with armed := true, remain := arg k 0x14 2, snuffOk := bit (arg k 0x16 1) 0, lossOk := bit (arg k 0x16 1) 1
           injMask := BitVec.ofNat 64 (arg k 0x18 8), injExp := exp }

/-- The injection state replaced. -/
def withRas (x : Ras) (w : W) : W := { w with b := { w.b with ras := x } }

/-- INJECT_ARM behind its check. -/
def armGo (env : Env) (k : Cmd) (w : W) : W :=
  done env k.id .ok 0 (toLe 8 (w.b.crp.tCore + arg k 0x10 4 * 1000000) ++ toLe 8 w.b.ras.remain)
    (withRas (armed k (w.b.crp.tCore + arg k 0x10 4 * 1000000) w.b.ras) w)

/-- INJECT_ARM with ARM_MS 0 behind its check. -/
def disarmGo (env : Env) (k : Cmd) (w : W) : W := done env k.id .ok 0 (toLe 8 0 ++ toLe 8 w.b.ras.remain) (disarm w)

theorem exec_injectArm (c : CmdId) (env : Env) (s : State) : exec (.injectArm c env) s
    = run (cmdRow c (isArm true) env (fun k w => checked env k (armCheck k) (armGo env k) w) (fun _ w => w)) s := rfl

theorem exec_injectDisarm (c : CmdId) (env : Env) (s : State) : exec (.injectDisarm c env) s
    = run (cmdRow c (isArm false) env (fun k w => checked env k (armCheck k) (disarmGo env k) w) (fun _ w => w)) s := rfl

theorem isArm_arms {k : Cmd} (hop : opOf k = 0x86) (h : arg k 0x10 4 ≠ 0) : isArm true k = true := by simp [isArm, isOp, hop, h]

theorem isArm_disarms {k : Cmd} (hop : opOf k = 0x86) (h : arg k 0x10 4 = 0) : isArm false k = true := by simp [isArm, isOp, hop, h]

/-- A command that changes the injection state, and not the injections, has finished. -/
theorem finished_withRas {env : Env} {s : State} {c : CmdId} {k : Cmd} {x : Ras} (o : Outc) (hs : Starts s c k) (hc : Calm s env)
    (hr : Reports s c k) (hx : x.inj = s.blk.ras.inj) :
    Finished s (closeW s (complete env false c o (withRas x (begun s c k)))) c k o (withRas x (begun s c k)) := by
  obtain ⟨-, -, hinj, -⟩ := id hc
  have hk := begun_keeps hs hinj
  exact finished_over o hs hc hr rfl rfl hk.base hk.jr hk.build hk.slices (congrArg Ctx.state (hk.getCtx k.ctx)) hk.fetches hx

/-! ### The injection registers -/

/-- An injection register as it is written. -/
def injOf (v : Word) : Inj :=
  { inst := bits v.toNat 55 48, arg := bits v.toNat 47 32, count := bits v.toNat 31 16, fired := false
    mode := bits v.toNat 2 1, go := v.getLsbD 0 }

/-- An injection register that is stored. -/
def injStored (d : Nat) (j : Inj) (w : W) : W := withRas { w.b.ras with inj := tset w.b.ras.inj d j } w

/-- The meaning of INJECT_WRITE. -/
def injectWriteW (d : Nat) (v : Word) (env : Env) (w : W) : W := if d ≤ 0x11 && writable w then writeInject env d v w else w

theorem exec_injectWrite (d : Nat) (v : Word) (env : Env) (s : State) :
    exec (.injectWrite d v env) s = run (injectWriteW d v env) s := rfl

theorem writeInject_eq (env : Env) (d : Nat) (v : Word) (w : W) : writeInject env d v w =
    if 2 ≤ (injOf v).mode || ((injOf v).go && (injOf v).count = 0) || instLacking w d (injOf v).inst (injOf v).arg then
      writeIgnored (0x40400 + 8 * d) v w
    else if (injOf v).go && !injPermitted w d then setRas 7 (injOf v).inst d w
    else injectAll env d (injOf v).count (injStored d (injOf v) w) := rfl

/-- A detector that waits for its event makes nothing at the write. -/
theorem injectsNow_waits {d : Nat} (hd : d ∈ [3, 4, 5, 6, 7, 8, 0x0B, 0x0C, 0x0D, 0x0E, 0x11]) (w : W) : injectsNow w d = false := by
  simp only [List.mem_cons, List.not_mem_nil, or_false] at hd
  obtain rfl | rfl | rfl | rfl | rfl | rfl | rfl | rfl | rfl | rfl | rfl := hd <;> simp [injectsNow]

/-- Nothing is injected where GO is 0 or the detector waits for its event. -/
theorem injectAll_none {env : Env} {d : Nat} {w : W} (h : (tget w.b.ras.inj d {}).go = false ∨ injectsNow w d = false) (n : Nat) :
    injectAll env d n w = w := by
  cases n with
  | zero => rfl
  | succ n =>
    refine if_neg ?_
    obtain h | h := h
    · rw [injHit, h]
      simp
    · rw [h]
      simp

/-! ### Unit resets and watchdogs -/

/-- The meaning of UNIT_RESET. -/
def unitResetW (u : UnitId) (kind code word : Nat) (env : Env) (w : W) : W :=
  if !mainRuns w || !unitExists w u then w
  else if kind = 1 then resetUnit env u true code (noteDouble code (unitInst u) word w)
  else if kind = 2 then resetUnit env u true code (setRasLast 2 code (unitInst u) word (noteParity (unitInst u) code w))
  else w

theorem exec_unitReset (u : UnitId) (kind code word : Nat) (env : Env) (s : State) :
    exec (.unitReset u kind code word env) s = run (unitResetW u kind code word env) s := rfl

/-- A watchdog trip as it is counted and recorded (R419, R431). -/
def tripNoted (machine inst : Nat) (w : W) : W :=
  setRas 4 inst machine (setRasLast 3 machine inst 0 (withRas { w.b.ras with cntWdog := w.b.ras.cntWdog + 1 } w))

/-- What a watchdog trip does to its machine. -/
def tripActs (machine inst : Nat) (env : Env) (w : W) : W :=
  match machineUnit machine inst with
  | some u => resetUnit env u false machine w
  | none => if (getSe w inst).run.isSome then kernelFault 0x74 false inst w else w

/-- The meaning of WATCHDOG_TRIP. -/
def watchdogTripW (machine inst : Nat) (env : Env) (w : W) : W :=
  if !mainRuns w || !machineExists w machine inst then w else tripActs machine inst env (tripNoted machine inst (hangFires machine inst w))

theorem exec_watchdogTrip (machine inst : Nat) (env : Env) (s : State) :
    exec (.watchdogTrip machine inst env) s = run (watchdogTripW machine inst env) s := rfl

theorem hangFires_none {machine inst : Nat} {w : W} (h : w.b.ras.inj = []) : hangFires machine inst w = w :=
  if_neg (by rw [injHit_none w 0x0B inst h]; simp)

theorem watchdogTripW_acts {machine inst : Nat} {env : Env} {w : W} (hmain : w.b.glb.mainReset = false) (hinj : w.b.ras.inj = [])
    (hex : machineExists w machine inst = true) : watchdogTripW machine inst env w = tripActs machine inst env (tripNoted machine inst w) := by
  rw [watchdogTripW, mainRuns, hmain, hex, hangFires_none hinj]
  rfl

theorem getSe_setRas (bitNo inst idx e : Nat) (w : W) : getSe (setRas bitNo inst idx w) e = getSe w e := by
  simp only [setRas]
  split
  · obtain ⟨t, -, h⟩ := raiseGirq_tlm (0x0880 + bitNo) inst 0 [(w.b.ras.stat ||| BitVec.ofNat 9 (1 <<< bitNo)).toNat, idx]
      { w with b := { w.b with ras := { w.b.ras with stat := w.b.ras.stat ||| BitVec.ofNat 9 (1 <<< bitNo) } } }
    rw [h]
    rfl
  · rfl

/-! ### The Helm -/

/-- The restarts of the last second (R421). -/
def recentRestarts (w : W) : List Nat := w.b.glb.helmRestarts.filter (fun u => decide (nowUs w ≤ u + 1000000))

/-- The block once a restart of the Helm is noted. -/
def restarted (w : W) : W :=
  setRas 5 0 (recentRestarts w ++ [nowUs w]).length { w with b := { w.b with glb := { w.b.glb with helmRestarts := recentRestarts w ++ [nowUs w] } } }

theorem helmRestart_runs {w : W} (hmain : w.b.glb.mainReset = false) (hstopped : w.b.glb.helmStopped = false) : helmRestart w
    = if 3 ≤ (recentRestarts w ++ [nowUs w]).length then
        { restarted w with b := { (restarted w).b with glb := { (restarted w).b.glb with helmStopped := true, helmOk := false } } }
      else restarted w := by
  refine (if_neg ?_).trans rfl
  rw [mainRuns, hmain, hstopped]
  decide

theorem helmRestart_not {w : W} (h : w.b.glb.mainReset = true ∨ w.b.glb.helmStopped = true) : helmRestart w = w :=
  if_pos (by rw [mainRuns]; obtain h | h := h <;> simp [h])

/-- Setting a bit of RAS_STAT that raises the global interrupt. -/
theorem setRas_girq {bitNo : Nat} (h : bitNo ∈ [1, 3, 4, 5, 6]) (inst idx : Nat) (w : W) : ∃ t, setRas bitNo inst idx w
    = { w with b := { w.b with ras := { w.b.ras with stat := w.b.ras.stat ||| BitVec.ofNat 9 (1 <<< bitNo) }, tlm := t } } := by
  obtain ⟨t, -, hraise⟩ := raiseGirq_tlm (0x0880 + bitNo) inst 0 [(w.b.ras.stat ||| BitVec.ofNat 9 (1 <<< bitNo)).toNat, idx]
      { w with b := { w.b with ras := { w.b.ras with stat := w.b.ras.stat ||| BitVec.ofNat 9 (1 <<< bitNo) } } }
  exact ⟨t, (if_pos (List.contains_iff_mem.mpr h)).trans hraise⟩

/-! ### The scrub of the SRAM -/

/-- The meaning of SRAM_SCRUB. -/
def sramScrubW (errs : List SramErr) (env : Env) (w : W) : W :=
  if w.b.ras.bgctl.getLsbD 2 || !mainRuns w then w else errs.foldl (fun w e => sramError env e w) (scrubWakes w)

theorem exec_sramScrub (errs : List SramErr) (env : Env) (s : State) : exec (.sramScrub errs env) s = run (sramScrubW errs env) s := rfl

/-- Does a unit stay clock-gated through the scrub? -/
def staysGated (w : W) (u : UnitId) : Bool :=
  match u with
  | .se e => !w.b.crp.gateStat.getLsbD e
  | _ => true

theorem staysGated_iff (w : W) (u : UnitId) : staysGated w u = true ↔ ∀ i, u = .se i → w.b.crp.gateStat.getLsbD i = false := by
  cases u <;> simp [staysGated]

/-- A single error outside the local stores that the scrub finds. -/
theorem sramScrubW_single {e : SramErr} {env : Env} {w : W} (hon : w.b.ras.bgctl.getLsbD 2 = false) (hmain : w.b.glb.mainReset = false)
    (hlo : 1 < e.array) (hhi : e.array ≤ 0x11) (hsingle : e.double = false) : sramScrubW [e] env w
      = setRas 0 e.inst e.word (withRas { w.b.ras with cntSbe := w.b.ras.cntSbe + 1 } (scrubWakes w)) := by
  have hgo : (w.b.ras.bgctl.getLsbD 2 || !mainRuns w) = false := by rw [hon, mainRuns, hmain]; rfl
  have harray : (decide (e.array = 0) || decide (0x11 < e.array)) = false := by
    rw [decide_eq_false (by omega), decide_eq_false (by omega)]
    rfl
  have hstore : (e.array != 1) = true := bne_iff_ne.mpr (by omega)
  rw [sramScrubW, hgo]
  simp only [Bool.false_eq_true, if_false, List.foldl_cons, List.foldl_nil, sramError, harray, hsingle, noteSingle, hstore, if_true]
  rfl

/-- Settles O56: row by row; a write to an injection register by what its fields say. -/
theorem faultsAndInjection : Obligations.FaultsAndInjection := by
  refine ⟨?denied, ?arm, ?expiry, ?noExpiry, ?noWrite, ?write, ?reset, ?noReset, ?trip, ?tripSe, ?noTrip, ?noRestart, ?noScrub,
    ?restart, ?scrub⟩
  case denied =>
    rintro s c env k o ⟨hs, hc, hr, hop⟩ hpart rfl
    have hfails := armCheck_fails (k := k) (by rw [id_of_starts hs]; exact notFabric_of_starts hs) hpart
    refine ⟨fun harm => ?_, fun hdisarm => ?_⟩
    · exact leads_finished_begun hs hc hr
        (leaves_checked_fails (chk := fun _ k => armCheck k) (exec_injectArm c env s) hs (isArm_arms hop harm) hfails)
    · exact leads_finished_begun hs hc hr
        (leaves_checked_fails (chk := fun _ k => armCheck k) (exec_injectDisarm c env s) hs (isArm_disarms hop hdisarm) hfails)
  case arm =>
    rintro s c env k ⟨hs, hc, hr, hop⟩ hpart
    obtain ⟨-, -, hinj, -⟩ := id hc
    have hk := begun_keeps hs hinj
    refine ⟨fun harm => ?_, fun hdisarm => ?_⟩
    · have hgo : Leaves (.injectArm c env) s (armGo env k (begun s c k)) :=
        leaves_checked (chk := fun _ k => armCheck k) (exec_injectArm c env s) hs (isArm_arms hop harm) (armCheck_passes hpart)
      rw [armGo, hk.crp, hk.ras, done, id_of_starts hs] at hgo
      exact ⟨_, hgo, finished_withRas _ hs hc hr rfl⟩
    · have hgo : Leaves (.injectDisarm c env) s (disarmGo env k (begun s c k)) :=
        leaves_checked (chk := fun _ k => armCheck k) (exec_injectDisarm c env s) hs (isArm_disarms hop hdisarm) (armCheck_passes hpart)
      rw [disarmGo, hk.ras, done, id_of_starts hs] at hgo
      refine ⟨_, hgo, finished_withRas (x := (disarm (begun s c k)).b.ras) _ hs hc hr ?_⟩
      show (begun s c k).b.ras.inj.map _ = s.blk.ras.inj
      rw [hk.ras, hinj]
      rfl
  case expiry =>
    intro s harmed
    have hrow : exec .injectArmExpiry s = run (fun w => if w.b.ras.armed then disarm w else w) s := rfl
    exact blocks_of hrow (if_pos harmed) rfl
  case noExpiry =>
    intro s hnot
    have hrow : exec .injectArmExpiry s = run (fun w => if w.b.ras.armed then disarm w else w) s := rfl
    exact idle_of hrow (if_neg (by simp [hnot]))
  case noWrite =>
    intro s d v env h
    refine idle_of (exec_injectWrite d v env s) (if_neg ?_)
    obtain h | h := h
    · rw [decide_eq_false (Nat.not_le.mpr h)]
      simp
    · simp [writable, h]
  case write =>
    rintro s d v env j hd hrun rfl
    have hwrite : injectWriteW d v env (openW s) = writeInject env d v (openW s) :=
      if_pos (by rw [decide_eq_true hd, writable_running hrun]; rfl)
    rw [writeInject_eq] at hwrite
    refine ⟨fun hreserved => ?_, fun hmode hinst => ?_⟩
    · refine leaves_of (exec_injectWrite d v env s) (hwrite.trans (if_pos ?_))
      obtain h | ⟨hgo, hcount⟩ | h := hreserved
      · rw [decide_eq_true (show 2 ≤ (injOf v).mode from h)]
        rfl
      · rw [show (injOf v).go = true from hgo, decide_eq_true (show (injOf v).count = 0 from hcount)]
        simp
      · rw [show instLacking (openW s) d (injOf v).inst (injOf v).arg = true from h, Bool.or_true]
    · have hknown : ∀ b : Bool, b = false → (decide (2 ≤ (injOf v).mode) || b || instLacking (openW s) d (injOf v).inst (injOf v).arg)
          = false := by
        rintro b rfl
        rw [decide_eq_false (show ¬2 ≤ (injOf v).mode from Nat.not_le.mpr hmode),
          show instLacking (openW s) d (injOf v).inst (injOf v).arg = false from hinst]
        rfl
      refine ⟨fun hgo hcount hdenied => ?_, fun h => ?_⟩
      · rw [hknown _ (by rw [decide_eq_false (show ¬(injOf v).count = 0 from hcount), Bool.and_false])] at hwrite
        refine leaves_of (exec_injectWrite d v env s) (hwrite.trans ((if_neg (by decide)).trans (if_pos ?_)))
        rw [show (injOf v).go = true from hgo, hdenied]
        rfl
      · have hstored : injectWriteW d v env (openW s) = injectAll env d (injOf v).count (injStored d (injOf v) (openW s)) := by
          refine hwrite.trans ((if_neg ?_).trans (if_neg ?_))
          · rw [hknown]
            · decide
            · obtain h | ⟨hcount, -⟩ := h
              · rw [show (injOf v).go = false from h, Bool.false_and]
              · rw [decide_eq_false (show ¬(injOf v).count = 0 from hcount), Bool.and_false]
          · obtain h | ⟨-, hpermitted, -⟩ := h
            · rw [show (injOf v).go = false from h]
              simp
            · rw [hpermitted]
              simp
        refine blocks_of (exec_injectWrite d v env s) (hstored.trans (injectAll_none ?_ _)) rfl
        obtain h | ⟨-, -, hwaits⟩ := h
        · exact .inl ((congrArg Inj.go (tget_tset_same _ _ _ _)).trans h)
        · exact .inr (injectsNow_waits hwaits _)
  case reset =>
    intro s u code word env hmain hex
    have hgo : (!mainRuns (openW s) || !unitExists (openW s) u) = false := by
      rw [mainRuns, show (openW s).b.glb.mainReset = false from hmain, hex]
      rfl
    refine ⟨leaves_of (exec_unitReset u 1 code word env s) ?_, leaves_of (exec_unitReset u 2 code word env s) ?_⟩
    · rw [unitResetW, hgo]
      rfl
    · rw [unitResetW, hgo]
      rfl
  case noReset =>
    intro s u kind code word env h
    refine idle_of (exec_unitReset u kind code word env s) ?_
    obtain h | h | ⟨h1, h2⟩ := h
    · exact if_pos (by rw [mainRuns, show (openW s).b.glb.mainReset = true from h]; rfl)
    · exact if_pos (by rw [h]; simp)
    · rw [unitResetW, if_neg h1, if_neg h2, ite_self]
  case trip =>
    intro s machine inst env u hmain hinj hmachine hex hinst
    have hmex : machineExists (openW s) machine inst = true := by rw [machineExists, hmachine]; simp [hex, hinst]
    have hacts := watchdogTripW_acts (env := env) (w := openW s) hmain hinj hmex
    rw [tripActs, hmachine] at hacts
    exact leaves_of (exec_watchdogTrip machine inst env s) hacts
  case tripSe =>
    rintro s machine inst env w hmain hinj rfl rfl hse
    have hmex : machineExists (openW s) 11 inst = true := decide_eq_true hse
    have hacts := watchdogTripW_acts (env := env) (w := openW s) hmain hinj hmex
    have hget : getSe (tripNoted 11 inst (openW s)) inst = seOf s inst := getSe_setRas _ _ _ _ _
    have hnone : tripActs 11 inst env (tripNoted 11 inst (openW s)) = if (getSe (tripNoted 11 inst (openW s)) inst).run.isSome then
      kernelFault 0x74 false inst (tripNoted 11 inst (openW s)) else tripNoted 11 inst (openW s) := rfl
    rw [hnone, hget] at hacts
    exact leaves_of (exec_watchdogTrip 11 inst env s) hacts
  case noTrip =>
    intro s machine inst env h
    refine idle_of (exec_watchdogTrip machine inst env s) (if_pos ?_)
    obtain h | h := h
    · rw [mainRuns, show (openW s).b.glb.mainReset = true from h]
      rfl
    · rw [h]
      simp
  case noRestart =>
    intro s h
    exact idle_of (f := helmRestart) rfl (helmRestart_not (w := openW s) h)
  case noScrub =>
    intro s errs env h
    refine idle_of (exec_sramScrub errs env s) (if_pos ?_)
    obtain h | h := h
    · rw [show (openW s).b.ras.bgctl.getLsbD 2 = true from h, Bool.true_or]
    · rw [mainRuns, show (openW s).b.glb.mainReset = true from h]
      simp
  case restart =>
    intro s hmain hstopped
    have hrestart := helmRestart_runs (w := openW s) hmain hstopped
    obtain ⟨t, hset⟩ := setRas_girq (bitNo := 5) (by decide) 0 (recentRestarts (openW s) ++ [nowUs (openW s)]).length
      { openW s with b := { s.blk with glb := { s.blk.glb with helmRestarts := recentRestarts (openW s) ++ [nowUs (openW s)] } } }
    have hnoted : restarted (openW s) = _ := hset
    rw [hnoted, List.length_append, List.length_singleton] at hrestart
    by_cases hmany : 2 ≤ (recentRestarts (openW s)).length
    · refine ⟨_, blocks_of (f := helmRestart) rfl (hrestart.trans (if_pos (by omega))) rfl, rfl, rfl, rfl, ?_⟩
      rintro l rfl
      rw [decide_eq_true (show 2 ≤ (s.blk.glb.helmRestarts.filter (fun u => decide (nowUs (openW s) ≤ u + 1000000))).length from hmany),
        decide_eq_false (show ¬(s.blk.glb.helmRestarts.filter (fun u => decide (nowUs (openW s) ≤ u + 1000000))).length < 2 from
          Nat.not_lt.mpr hmany), Bool.and_false]
      rfl
    · refine ⟨_, blocks_of (f := helmRestart) rfl (hrestart.trans (if_neg (by omega))) rfl, rfl, rfl, rfl, ?_⟩
      rintro l rfl
      rw [decide_eq_false (show ¬2 ≤ (s.blk.glb.helmRestarts.filter (fun u => decide (nowUs (openW s) ≤ u + 1000000))).length from hmany),
        decide_eq_true (show (s.blk.glb.helmRestarts.filter (fun u => decide (nowUs (openW s) ≤ u + 1000000))).length < 2 from
          Nat.lt_of_not_le hmany), Bool.and_true, ← hstopped]
      rfl
  case scrub =>
    intro s e env hon hmain hlo hhi hsingle
    have hscrub := sramScrubW_single (env := env) (w := openW s) hon hmain hlo hhi hsingle
    refine ⟨_, blocks_of (exec_sramScrub [e] env s) hscrub rfl, rfl, rfl, fun u => ?_, rfl⟩
    have hgated : (setRas 0 e.inst e.word (withRas { (openW s).b.ras with cntSbe := (openW s).b.ras.cntSbe + 1 }
        (scrubWakes (openW s)))).b.crp.clockGated = s.blk.crp.clockGated.filter (staysGated (openW s)) := rfl
    rw [hgated, List.mem_filter, staysGated_iff]
    rfl

end Sys2Proof.Machine
end

section
/-! PROOF. Resets, power loss, self-test and debug unlock (R356, R359, R360, R428, R437 to R440). -/

namespace Sys2Proof.Machine

open Sys2Proof.Safety

/-! ### Rows of the reset inputs -/

/-- A row that leads where its meaning, with no memory written, leaves the block. -/
theorem leads_of_blocks {i : Instr} {s : State} {b : Blk} {P : State → Prop} (h : Blocks i s b) (hP : P { s with blk := b }) :
    Leads i s P := ⟨_, h, hP⟩

/-- The transaction a power loss leaves behind: the main domain is down, and the loss is logged (R439). -/
def powerLost (w : W) : W :=
  logEv 0x0A02 0 0 0 [w.b.crp.rstCnt] { w with b := mainDomainReset 3 { w.b with glb := { w.b.glb with power := false } } }

/-- What MAIN_RESET_ASSERT, POWER_LOSS and DBG_UNLOCK do to a transaction. -/
def mainResetW (w : W) : W := if w.b.glb.mainReset then w else { w with b := mainDomainReset 2 w.b }
def powerLossW (w : W) : W := if w.b.glb.mainReset then w else powerLost w
def dbgUnlockW (w : W) : W := if w.b.glb.mainReset then { w with b.ras.dbg := true } else w

theorem exec_mainResetAssert (s : State) : exec .mainResetAssert s = run mainResetW s := rfl
theorem exec_powerLoss (s : State) : exec .powerLoss s = run powerLossW s := rfl
theorem exec_dbgUnlock (s : State) : exec .dbgUnlock s = run dbgUnlockW s := rfl

/-- What COLD_RESET does to a transaction. -/
def coldResetW (w : W) : W :=
  { w with b := { mainDomainReset 1 w.b with crp := {}, sec := { mon := w.b.sec.mon, ssOut := w.b.sec.ssOut } } }

theorem exec_coldReset (s : State) : exec .coldReset s = run coldResetW s := rfl

theorem blocks_mainResetAssert {s : State} (h : s.blk.glb.mainReset = false) :
    Blocks .mainResetAssert s (mainDomainReset 2 s.blk) :=
  blocks_of (w := { openW s with b := mainDomainReset 2 s.blk }) (exec_mainResetAssert s) (if_neg (ne_true_of_eq_false h)) rfl

theorem blocks_powerLoss {s : State} (h : s.blk.glb.mainReset = false) : Blocks .powerLoss s (powerLost (openW s)).b :=
  blocks_of (exec_powerLoss s) (if_neg (ne_true_of_eq_false h)) rfl

theorem idle_mainResetAssert {s : State} (h : s.blk.glb.mainReset = true) : Blocks .mainResetAssert s s.blk :=
  idle_of (exec_mainResetAssert s) (if_pos h)

theorem idle_powerLoss {s : State} (h : s.blk.glb.mainReset = true) : Blocks .powerLoss s s.blk :=
  idle_of (exec_powerLoss s) (if_pos h)

/-! ### Release -/

/-- The block after the release of the main reset, in the state it enters (R356, R92). -/
def releasedBlk (st : BlockState) (b : Blk) : Blk :=
  { b with
    glb := { b.glb with mainReset := false, power := true, testing := true, state := st }
    crp := { b.crp with rstCnt := sat32 b.crp.rstCnt }
    sec := { b.sec with lastState := st }
    lnk := { b.lnk with epoch := bootEpoch { b.crp with rstCnt := sat32 b.crp.rstCnt } } }

/-- What MAIN_RESET_RELEASE does to a transaction. -/
def releaseW (w : W) : W :=
  if !w.b.glb.mainReset then w
  else
    let v := { w with b := releasedBlk (if w.b.sec.snuffLatch then .snuffed else .dark) w.b }
    if w.b.ras.dbg then alarm1 0 v else v

theorem exec_mainResetRelease (s : State) : exec .mainResetRelease s = run releaseW s := rfl

theorem releaseW_inReset {w : W} (h : w.b.glb.mainReset = true) :
    releaseW w =
      if w.b.ras.dbg then alarm1 0 { w with b := releasedBlk (if w.b.sec.snuffLatch then .snuffed else .dark) w.b }
      else { w with b := releasedBlk (if w.b.sec.snuffLatch then .snuffed else .dark) w.b } :=
  if_neg (by simp [h])

/-! ### The self-test -/

/-- The SEs that fail the self-test are ABSENT (R360). -/
def markAbsent (f : Word) (es : List Nat) (w : W) : W :=
  es.foldl (fun w e => if f.getLsbD e then modSe e (fun s => { s with state := .absent }) w else w) w

/-- An SE after the self-test. -/
def testedSe (failed : Bool) (x : Se) : Se := if failed then { x with state := .absent } else x

theorem testedSe_idem (failed : Bool) (x : Se) : testedSe failed (testedSe failed x) = testedSe failed x := by
  cases failed <;> rfl

theorem getSe_markOne (f : Word) (i e : Nat) (w : W) :
    getSe (if f.getLsbD i then modSe i (fun s => { s with state := .absent }) w else w) e =
      testedSe (f.getLsbD i && decide (e = i)) (getSe w e) := by
  cases hf : f.getLsbD i
  · rfl
  · by_cases he : e = i
    · subst he
      rw [Bool.true_and, decide_eq_true rfl]
      exact tget_tset_same _ _ _ _
    · rw [Bool.true_and, decide_eq_false he]
      exact tget_tset_other _ _ _ _ _ he

theorem getSe_markAbsent (f : Word) (es : List Nat) (w : W) (e : Nat) :
    getSe (markAbsent f es w) e = testedSe (f.getLsbD e && decide (e ∈ es)) (getSe w e) := by
  induction es generalizing w with
  | nil => simp [markAbsent, testedSe]
  | cons i es ih =>
    have hcons : markAbsent f (i :: es) w =
        markAbsent f es (if f.getLsbD i then modSe i (fun s => { s with state := .absent }) w else w) := rfl
    rw [hcons, ih, getSe_markOne]
    by_cases he : e = i
    · subst he
      by_cases hm : e ∈ es <;> cases f.getLsbD e <;> simp [hm, testedSe]
    · simp [he, testedSe]

theorem markAbsent_frame (f : Word) (es : List Nat) (w : W) :
    markAbsent f es w = { w with b.eng.ses := (markAbsent f es w).b.eng.ses } := by
  induction es generalizing w with
  | nil => rfl
  | cons i es ih =>
    have hcons : markAbsent f (i :: es) w =
        markAbsent f es (if f.getLsbD i then modSe i (fun s => { s with state := .absent }) w else w) := rfl
    rw [hcons]
    refine (ih _).trans ?_
    cases f.getLsbD i <;> rfl

/-- Some unit the loader needs has failed (R359). -/
def deadUnit (f1 : Word) : Bool := [58, 60, 61, 62, 63].any (fun i => f1.getLsbD i)

theorem deadMask_getLsbD : ∀ i < 64, (0xF400000000000000 : Word).getLsbD i = decide (i ∈ [58, 60, 61, 62, 63]) := by decide

theorem deadUnit_eq (f1 : Word) : deadUnit f1 = !decide ((f1 &&& 0xF400000000000000) = 0) := by
  by_cases h : (f1 &&& 0xF400000000000000) = 0
  · have hbit : ∀ i ∈ [58, 60, 61, 62, 63], f1.getLsbD i = false := fun i hi => by
      have h64 : i < 64 := (by decide : ∀ i ∈ [58, 60, 61, 62, 63], i < 64) i hi
      have hand : (f1 &&& 0xF400000000000000).getLsbD i = false := by rw [h]; exact BitVec.getLsbD_zero
      rwa [BitVec.getLsbD_and, deadMask_getLsbD i h64, decide_eq_true hi, Bool.and_true] at hand
    rw [h, decide_eq_true rfl, deadUnit, List.any_eq_not_all_not, Bool.not_inj_iff]
    exact List.all_eq_true.mpr fun i hi => by rw [hbit i hi]; rfl
  · rw [decide_eq_false h]
    refine Classical.byContradiction fun hnone => h (BitVec.eq_of_getLsbD_eq fun i hi => ?_)
    have hbit : i ∈ [58, 60, 61, 62, 63] → f1.getLsbD i = false := fun hm =>
      Bool.eq_false_iff.mpr fun hset => hnone (List.any_eq_true.mpr ⟨i, hm, hset⟩)
    rw [BitVec.getLsbD_and, deadMask_getLsbD i hi]
    by_cases hm : i ∈ [58, 60, 61, 62, 63]
    · rw [hbit hm, Bool.false_and]
      exact BitVec.getLsbD_zero.symm
    · rw [decide_eq_false hm, Bool.and_false]
      exact BitVec.getLsbD_zero.symm

/-- What SELF_TEST_DONE does to a transaction. -/
def selfTestW (fail0 fail1 : Word) (w : W) : W :=
  if !w.b.glb.testing then w
  else
    let f0 : Word := fail0 &&& BitVec.ofNat 64 (2 ^ w.build.nse - 1)
    let f1 : Word := fail1 &&& 0xFC0FFFFFFFFFFFFF
    let w := markAbsent f0 (List.range 64) { w with b.glb.testing := false, b.glb.stfail0 := f0, b.glb.stfail1 := f1 }
    if w.b.glb.state == .dark then { w with b.ldr.phase := if deadUnit f1 then .failed else .ready } else w

theorem exec_selfTestDone (f0 f1 : Word) (s : State) : exec (.selfTestDone f0 f1) s = run (selfTestW f0 f1) s := rfl

/-- The block after a self-test with the failures of units `r0` and `r1`, and the SEs it leaves. -/
def testedBlk (r0 r1 : Word) (ses : Tbl Se) (b : Blk) : Blk :=
  { b with
    glb := { b.glb with testing := false, stfail0 := r0, stfail1 := r1 }
    eng := { b.eng with ses := ses }
    ldr := if b.glb.state = .dark then { b.ldr with phase := if (r1 &&& 0xF400000000000000) = 0 then .ready else .failed } else b.ldr }

theorem selfTestW_testing {w : W} {f0 f1 : Word} (h : w.b.glb.testing = true) :
    ∃ ses, selfTestW f0 f1 w =
        { w with b := testedBlk (f0 &&& BitVec.ofNat 64 (2 ^ w.build.nse - 1)) (f1 &&& 0xFC0FFFFFFFFFFFFF) ses w.b }
      ∧ ∀ e, tget ses e {} = testedSe ((f0 &&& BitVec.ofNat 64 (2 ^ w.build.nse - 1)).getLsbD e) (getSe w e) := by
  generalize hr0 : f0 &&& BitVec.ofNat 64 (2 ^ w.build.nse - 1) = r0
  generalize hr1 : f1 &&& 0xFC0FFFFFFFFFFFFF = r1
  generalize hv : { w with b.glb.testing := false, b.glb.stfail0 := r0, b.glb.stfail1 := r1 } = v
  have hdone : selfTestW f0 f1 w =
      if (markAbsent r0 (List.range 64) v).b.glb.state == .dark then
        { markAbsent r0 (List.range 64) v with b.ldr.phase := if deadUnit r1 then .failed else .ready }
      else markAbsent r0 (List.range 64) v := by
    subst hv hr0 hr1
    exact if_neg (by simp [h])
  refine ⟨(markAbsent r0 (List.range 64) v).b.eng.ses, ?_, fun e => ?_⟩
  · rw [hdone, markAbsent_frame, deadUnit_eq]
    subst hv
    by_cases hdark : w.b.glb.state = .dark
    · by_cases hdead : (r1 &&& 0xF400000000000000) = 0 <;> simp [testedBlk, hdark]
    · simp [testedBlk, hdark]
  · have hse := getSe_markAbsent r0 (List.range 64) v e
    rw [show getSe v e = getSe w e by subst hv; rfl] at hse
    refine hse.trans (congrArg (testedSe · _) ?_)
    by_cases he : e < 64
    · simp [he]
    · rw [BitVec.getLsbD_of_ge _ _ (Nat.le_of_not_lt he), Bool.false_and]

/-- Settles O57: each reset input's row is the block it names; the self-test marks the SEs one at a time, and its loader phase
asks for the same bits. -/
theorem resetsAndSelfTest : Obligations.ResetsAndSelfTest := by
  unfold Obligations.ResetsAndSelfTest
  refine ⟨?running, ?cold, ?inReset, ?notInReset, ?notTesting, ?testing⟩
  case running =>
    intro s h
    refine ⟨leads_of_blocks (blocks_mainResetAssert h) ⟨rfl, rfl, rfl, rfl, rfl⟩,
      leads_of_blocks (blocks_powerLoss h) ⟨rfl, rfl, rfl, rfl, rfl, rfl⟩, idle_of (exec_dbgUnlock s) (if_neg (ne_true_of_eq_false h))⟩
  case cold =>
    intro s
    exact ⟨leads_of_blocks (blocks_of (exec_coldReset s) rfl rfl) ⟨rfl, rfl, rfl, rfl, rfl⟩, idle_of (f := id) rfl rfl⟩
  case inReset =>
    rintro s st h rfl
    refine ⟨idle_mainResetAssert h, idle_powerLoss h,
      blocks_of (exec_dbgUnlock s) (if_pos h) rfl, ?_⟩
    rintro b rfl
    have hrelease := releaseW_inReset (w := openW s) h
    constructor
    · intro hdbg
      exact blocks_of (exec_mainResetRelease s) (hrelease.trans (if_neg (by simp [hdbg]))) rfl
    · intro hdbg
      exact leaves_of (exec_mainResetRelease s) (hrelease.trans (if_pos hdbg))
  case notInReset =>
    intro s h
    exact idle_of (exec_mainResetRelease s) (if_pos (by simp [h]))
  case notTesting =>
    intro s f0 f1 h
    exact idle_of (exec_selfTestDone f0 f1 s) (if_pos (by simp [h]))
  case testing =>
    rintro s f0 f1 r0 r1 h rfl rfl
    obtain ⟨ses, htested, hses⟩ := selfTestW_testing (w := openW s) (f0 := f0) (f1 := f1) h
    exact leads_of_blocks (blocks_of (exec_selfTestDone f0 f1 s) htested rfl) ⟨rfl, rfl, hses⟩

end Sys2Proof.Machine
end

section
/-! PROOF. Clocks, gating, power estimates and telemetry (R442 to R450). -/

namespace Sys2Proof.Machine

open Sys2Proof.Safety

/-! ### The timebase (R442) -/

/-- A transaction with other CRP registers and telemetry. -/
def retimed (c : Crp) (t : Tlm) (w : W) : W := { w with b.crp := c, b.tlm := t }

theorem retimed_retimed (c c' : Crp) (t t' : Tlm) (w : W) : retimed c t (retimed c' t' w) = retimed c t w := rfl

/-- What the event of a strobe adds to CRP_TBSTAT. -/
def tbEvent (counter v : Nat) : BitVec 6 := if counter + 1000 < v then 32 else if v + 1000 < counter then 16 else 0

theorem strobeEvent_eq (counter v : Nat) (w : W) :
    ∃ t, strobeEvent counter v w = retimed { w.b.crp with tbStat := w.b.crp.tbStat ||| tbEvent counter v } t w := by
  unfold strobeEvent tbEvent
  split
  · exact ⟨_, rfl⟩
  · split
    · exact ⟨_, rfl⟩
    · exact ⟨w.b.tlm, by rw [show (0 : BitVec 6) = 0#6 from rfl, BitVec.or_zero]; rfl⟩

/-- A step of the time counters changes counters alone, by SE states, gates, ports and pressure. -/
structure CountsTime (f : W → W) : Prop where
  frame : ∀ w, ∃ n, f w = { w with b.cnt := n }
  commutes : ∀ c t w, c.gateStat = w.b.crp.gateStat → f (retimed c t w) = retimed c t (f w)

theorem CountsTime.comp {f g : W → W} (hf : CountsTime f) (hg : CountsTime g) : CountsTime (fun w => g (f w)) := by
  refine ⟨fun w => ?_, fun c t w hc => ?_⟩
  · obtain ⟨n, hn⟩ := hf.frame w
    obtain ⟨m, hm⟩ := hg.frame (f w)
    exact ⟨m, by rw [hm, hn]⟩
  · obtain ⟨n, hn⟩ := hf.frame w
    show g (f (retimed c t w)) = _
    rw [hf.commutes c t w hc, hg.commutes c t (f w) (by rw [hn]; exact hc)]

theorem CountsTime.foldl {f : W → Nat → W} (hf : ∀ i, CountsTime (f · i)) : ∀ l : List Nat, CountsTime (fun w => l.foldl f w)
  | [] => ⟨fun w => ⟨w.b.cnt, rfl⟩, fun _ _ _ _ => rfl⟩
  | i :: l => (hf i).comp (CountsTime.foldl hf l)

theorem CountsTime.ite {p : W → Bool} {f : W → W} (hf : CountsTime f)
    (hp : ∀ (c : Crp) t w, c.gateStat = w.b.crp.gateStat → p (retimed c t w) = p w) : CountsTime (fun w => if p w then f w else w) := by
  refine ⟨fun w => ?_, fun c t w hc => ?_⟩
  · show ∃ n, (if p w then f w else w) = _
    cases p w
    · exact ⟨w.b.cnt, rfl⟩
    · exact hf.frame w
  · show (if p (retimed c t w) then f (retimed c t w) else retimed c t w) = retimed c t (if p w then f w else w)
    rw [hp c t w hc, hf.commutes c t w hc]
    exact (apply_ite (retimed c t) _ _ _).symm

theorem countsTime_cntAdd (a n : Nat) : CountsTime (cntAdd a n) := ⟨fun _ => ⟨_, rfl⟩, fun _ _ _ _ => rfl⟩

theorem CountsTime.cond {p : Bool} {f : W → W} (hf : CountsTime f) : CountsTime (fun w => if p then f w else w) :=
  hf.ite (p := fun _ => p) fun _ _ _ _ => rfl

/-- A step picked by what the time counters look at. -/
theorem CountsTime.of {α : Type} {p : W → α} {f : α → W → W} (hf : ∀ x, CountsTime (f x))
    (hp : ∀ c t w, c.gateStat = w.b.crp.gateStat → p (retimed c t w) = p w) : CountsTime (fun w => f (p w) w) := by
  refine ⟨fun w => (hf (p w)).frame w, fun c t w hc => ?_⟩
  show f (p (retimed c t w)) (retimed c t w) = retimed c t (f (p w) w)
  rw [hp c t w hc]
  exact (hf (p w)).commutes c t w hc

theorem countsTime_countSe (d e : Nat) : CountsTime (countSe d · e) := by
  have hof := CountsTime.of (p := fun w => ((getSe w e).state, w.b.crp.gateStat.getLsbD e))
    (f := fun x w => (fun w => if x.2 then cntSe e 0x20 d w else w) ((fun w => if x.1 == .commit then cntSe e 0x10 d w else w)
      ((fun w => if x.1 == .running || x.1 == .commit then cntSe e 0x08 d w else w) w)))
    (fun x => ((countsTime_cntAdd _ _).cond.comp (countsTime_cntAdd _ _).cond).comp (countsTime_cntAdd _ _).cond)
    (fun c t w hc => Prod.ext rfl (congrArg (BitVec.getLsbD · e) hc))
  exact hof

theorem countsTime_countMp (d p : Nat) : CountsTime (countMp d · p) :=
  CountsTime.ite (p := fun w => (getSlice w p).cwStall) (countsTime_cntAdd _ _) fun _ _ _ _ => rfl

theorem countsTime_countLp (d l : Nat) : CountsTime (countLp d · l) :=
  CountsTime.ite (p := fun w => (getLp w l).txOff.toNat / 2 != 0) (countsTime_cntAdd _ _) fun _ _ _ _ => rfl

theorem CountsTime.units {f : W → Nat → W} (n : Build → Nat) (hf : ∀ i, CountsTime (f · i)) :
    CountsTime (fun w => (List.range (n w.build)).foldl f w) :=
  CountsTime.of (p := fun w => n w.build) (f := fun m w => (List.range m).foldl f w) (fun m => CountsTime.foldl hf (List.range m))
    fun _ _ _ _ => rfl

theorem countsTime_countTime (d : Nat) : CountsTime (countTime d) :=
  (((CountsTime.units Build.nse (countsTime_countSe d)).comp (CountsTime.units Build.nmp (countsTime_countMp d))).comp
    (CountsTime.units Build.nlp (countsTime_countLp d))).comp
    (CountsTime.ite (p := fun w => w.b.pressure.active) (countsTime_cntAdd _ _) fun _ _ _ _ => rfl)

/-- The CRP registers after a strobe with value n. -/
def strobedCrp (c : Crp) (n : Nat) : Crp :=
  { c with
    tAon := max c.tAon n, slewAon := c.tAon - n, tCore := max c.tCore n, slewCore := c.tCore - n
    tbStat := c.tbStat ||| 2 ||| 1 ||| tbEvent c.tCore n ||| tbEvent c.tAon n }

theorem strobe_eq (counter v : Nat) : strobe counter v = (max counter v, counter - v) := by
  unfold strobe
  split
  · next h => rw [Nat.max_eq_right h, Nat.sub_eq_zero_of_le h]
  · next h => rw [Nat.max_eq_left (Nat.le_of_not_le h)]

/-- What TB_STROBE does to a transaction. -/
def tbStrobeW (n : Nat) (w : W) : W :=
  let c := w.b.crp
  let a := strobe c.tAon n
  let w := { w with b.crp.tAon := a.1, b.crp.slewAon := a.2, b.crp.tbStat := w.b.crp.tbStat ||| 2 }
  if w.b.glb.mainReset then w
  else
    let k := strobe c.tCore n
    let w := { w with b.crp.tCore := k.1, b.crp.slewCore := k.2, b.crp.tbStat := w.b.crp.tbStat ||| 1 }
    countTime (k.1 - c.tCore) (strobeEvent c.tAon n (strobeEvent c.tCore n w))

theorem exec_tbStrobe (v : Word) (s : State) : exec (.tbStrobe v) s = run (tbStrobeW v.toNat) s := rfl

theorem tbStrobeW_running {w : W} {n : Nat} (h : w.b.glb.mainReset = false) :
    ∃ t, tbStrobeW n w = retimed (strobedCrp w.b.crp n) t (countTime (n - w.b.crp.tCore) w) := by
  obtain ⟨t, ht⟩ := strobeEvent_eq w.b.crp.tCore n { w with b.crp := { w.b.crp with
    tAon := (strobe w.b.crp.tAon n).1, slewAon := (strobe w.b.crp.tAon n).2, tCore := (strobe w.b.crp.tCore n).1
    slewCore := (strobe w.b.crp.tCore n).2, tbStat := w.b.crp.tbStat ||| 2 ||| 1 } }
  obtain ⟨u, hu⟩ := strobeEvent_eq w.b.crp.tAon n (retimed { w.b.crp with
    tAon := (strobe w.b.crp.tAon n).1, slewAon := (strobe w.b.crp.tAon n).2, tCore := (strobe w.b.crp.tCore n).1
    slewCore := (strobe w.b.crp.tCore n).2, tbStat := w.b.crp.tbStat ||| 2 ||| 1 ||| tbEvent w.b.crp.tCore n } t w)
  have hd : (strobe w.b.crp.tCore n).1 - w.b.crp.tCore = n - w.b.crp.tCore := by rw [strobe_eq]; omega
  refine ⟨u, (if_neg (ne_true_of_eq_false h)).trans ?_⟩
  refine ((congrArg (fun v => countTime _ (strobeEvent _ n v)) ht).trans (congrArg (countTime _) hu)).trans ?_
  rw [← (countsTime_countTime _).commutes, hd]
  · simp only [strobe_eq]
    rfl
  · rfl

/-! ### Gates and wakes (R443) -/

/-- What UNIT_GATE and UNIT_WAKE do to a transaction. -/
def unitGateW (u : UnitId) (w : W) : W :=
  if w.b.glb.mainReset || !unitExists w u || !unitIdle w u then w
  else if w.b.crp.cgDis || w.b.crp.clockGated.contains u then powerGate u w
  else { w with b.crp.clockGated := w.b.crp.clockGated ++ [u] }

theorem exec_unitGate (u : UnitId) (s : State) : exec (.unitGate u) s = run (unitGateW u) s := rfl

def unitWakeW (u : UnitId) (w : W) : W :=
  let w := wake u w
  match u with
  | .se e => if (getSe w e).run.isSome then loadStep e w else w
  | .relight j => beginWoken j w
  | _ => w

theorem exec_unitWake (u : UnitId) (s : State) : exec (.unitWake u) s = run (unitWakeW u) s := by
  show execUnitWake u s = _
  refine (congrArg (fun f => run f s) (funext fun w => ?_) : run _ s = run _ s)
  unfold unitWakeW
  cases u <;> rfl

theorem unitGateW_busy {u : UnitId} {w : W} (h : w.b.glb.mainReset = true ∨ unitExists w u = false ∨ unitIdle w u = false) :
    unitGateW u w = w :=
  if_pos (by obtain h | h | h := h <;> simp [h])

theorem unitGateW_idle {u : UnitId} {w : W} (hreset : w.b.glb.mainReset = false) (hex : unitExists w u = true) (hidle : unitIdle w u = true) :
    unitGateW u w = if w.b.crp.cgDis || w.b.crp.clockGated.contains u then powerGate u w
      else { w with b.crp.clockGated := w.b.crp.clockGated ++ [u] } :=
  if_neg (by simp [hreset, hex, hidle])

theorem unitGateW_gated {u : UnitId} {w : W} (hreset : w.b.glb.mainReset = false) (hex : unitExists w u = true) (hidle : unitIdle w u = true)
    (h : u ∈ w.b.crp.clockGated ∨ w.b.crp.cgDis = true) : unitGateW u w = powerGate u w :=
  (unitGateW_idle hreset hex hidle).trans (if_pos (by obtain h | h := h <;> simp [h]))

theorem powerGate_other {u : UnitId} (w : W) (h : ∀ i, u ≠ .se i ∧ u ≠ .relight i) : powerGate u w = w := by
  cases u
  case se i => exact absurd rfl (h i).1
  case relight i => exact absurd rfl (h i).2
  all_goals rfl

theorem unitWakeW_other {u : UnitId} (w : W) (h : ∀ i, u ≠ .se i ∧ u ≠ .relight i) :
    unitWakeW u w = { w with b.crp.clockGated := w.b.crp.clockGated.filter (fun x => x != u) } := by
  cases u
  case se i => exact absurd rfl (h i).1
  case relight i => exact absurd rfl (h i).2
  all_goals rfl

/-! ### Records and the lines they go to (R448, R449) -/

theorem cntBytes_length (w : W) (a n : Nat) : (cntBytes w a n).length = 8 * n := by
  simp [cntBytes, List.length_flatMap, toLe_length, List.map_const', List.sum_replicate_nat, Nat.mul_comm]

/-- The record of a sample fills whole lines. -/
theorem sample_length (w : W) (n : Nat) : ∃ m, (snapshot w 0x17 0xFF n).length = 64 * m := by
  have h0 : bit 0x17 0 = true := by decide
  have h1 : bit 0x17 1 = true := by decide
  have h2 : bit 0x17 2 = true := by decide
  have h3 : bit 0x17 3 = false := by decide
  have h4 : bit 0x17 4 = true := by decide
  refine ⟨1 + 4 * w.build.nmp + 8 * w.build.nlp + 64 + 1, ?_⟩
  simp only [snapshot, h0, h1, h2, h3, h4]
  simp [List.length_flatMap, toLe_length, cntBytes_length, zeros, List.map_const', List.sum_replicate_nat]
  omega

/-- What a write of a sample keeps, whatever memory answers: the bytes elsewhere, and the progress of the samples. -/
structure RingKept (a n : Nat) (w v : W) : Prop where
  base : v.base = w.base
  todo : v.b.tlm.todo = w.b.tlm.todo
  sample : v.b.tlm.sample = w.b.tlm.sample
  skipped : v.b.tlm.skipped = w.b.tlm.skipped
  outside : ∀ i, i < a ∨ a + n ≤ i → getByte v i = getByte w i

theorem RingKept.trans {a n : Nat} {u v w : W} (h : RingKept a n u v) (h' : RingKept a n v w) : RingKept a n u w := by
  obtain ⟨hb, ht, hs, hk, ho⟩ := h
  obtain ⟨hb', ht', hs', hk', ho'⟩ := h'
  exact ⟨hb'.trans hb, ht'.trans ht, hs'.trans hs, hk'.trans hk, fun i hi => (ho' i hi).trans (ho i hi)⟩

theorem RingKept.mono {a n a' n' : Nat} {w v : W} (h : RingKept a n w v) (hlo : a' ≤ a) (hhi : a + n ≤ a' + n') : RingKept a' n' w v :=
  ⟨h.base, h.todo, h.sample, h.skipped, fun i hi => h.outside i (by omega)⟩

theorem ringKept_injFire (a n d : Nat) (w : W) : RingKept a n w (injFire d w) := by
  simp only [injFire]
  split
  · split <;> exact ⟨rfl, rfl, rfl, rfl, fun _ _ => rfl⟩
  · exact ⟨rfl, rfl, rfl, rfl, fun _ _ => rfl⟩

theorem ringKept_writeInj (a n line : Nat) (c : Rsp) (w : W) : RingKept a n w (writeInj line c w).2 := by
  unfold writeInj
  split
  · exact ringKept_injFire a n 8 w
  · exact ⟨rfl, rfl, rfl, rfl, fun _ _ => rfl⟩

theorem ringKept_noteCode (a n line ctx : Nat) (r : Rsp × W) : RingKept a n r.2 (noteCode line ctx r).2 := by
  unfold noteCode
  split <;> exact ⟨rfl, rfl, rfl, rfl, fun _ _ => rfl⟩

theorem ringKept_putBytes (a : Nat) (d : Bytes) (w : W) : RingKept a d.length w (putBytes w a d) :=
  ⟨putBytes_base w a d, by rw [putBytes_b], by rw [putBytes_b], by rw [putBytes_b], fun i hi => by
    rw [getByte_putBytes, if_neg (by omega)]⟩

theorem ringKept_present1 (a n : Nat) (x : Acc) (w : W) : RingKept a n w (present1 x 1 a w) := by
  obtain ⟨_, _, h⟩ := present1_eq x 1 a w
  rw [h]
  exact ⟨rfl, rfl, rfl, rfl, fun _ _ => rfl⟩

/-- The answer to a write of a line, as it is noted. -/
def writeAnswer (x : Acc) (a : Nat) (w : W) : Rsp × W :=
  noteCode a x.ctx (writeInj a (((x.env.wr.find? (fun e => e.1 == a)).map (·.2)).getD .ok) (present1 x 1 a w))

theorem writeLine_eq (x : Acc) (a : Nat) (d : Bytes) (w : W) : (writeLine x a d w).2 =
    if (writeAnswer x a w).1 == .ok then putBytes (writeAnswer x a w).2 a d else (writeAnswer x a w).2 := rfl

theorem ringKept_writeAnswer (n : Nat) (x : Acc) (a : Nat) (w : W) : RingKept a n w (writeAnswer x a w).2 := by
  unfold writeAnswer
  generalize ((x.env.wr.find? (fun e => e.1 == a)).map (·.2)).getD .ok = c
  have hpresented : RingKept a n w (present1 x 1 a w) := ringKept_present1 a n x w
  exact (hpresented.trans (ringKept_writeInj a n a c _)).trans (ringKept_noteCode a n a x.ctx _)

theorem ringKept_writeLine (x : Acc) (a : Nat) (d : Bytes) (w : W) : RingKept a d.length w (writeLine x a d w).2 := by
  have hanswered := ringKept_writeAnswer d.length x a w
  rw [writeLine_eq]
  split
  · exact hanswered.trans (ringKept_putBytes a d _)
  · exact hanswered

theorem ringKept_writeSpan (x : Acc) : ∀ (n a : Nat) (d : Bytes) (w : W), RingKept a (64 * n) w (writeSpan x n a d w).2
  | 0, _, _, _ => ⟨rfl, rfl, rfl, rfl, fun _ _ => rfl⟩
  | n + 1, a, d, w => by
    have hline := ringKept_writeLine x a (d.take 64) w
    have hrest := ringKept_writeSpan x n (a + 64) (d.drop 64) (writeLine x a (d.take 64) w).2
    have hlen : (d.take 64).length ≤ 64 := by rw [List.length_take]; omega
    exact (hline.mono (by omega) (by omega)).trans (hrest.mono (by omega) (by omega))

theorem ringKept_writeBytes (x : Acc) {a m : Nat} {d : Bytes} (w : W) (hlen : d.length = 64 * m) :
    RingKept a d.length w (writeBytes x a d w).2 := by
  rw [writeBytes, hlen, show (64 * m + 63) / 64 = m by omega]
  exact ringKept_writeSpan x m a d w

/-! ### Periodic samples (R450) -/

/-- Where the slot of a sample lies. -/
def ringSlot (t : Tlm) (n : Nat) : Nat := bits t.sampBase.toNat 47 14 * 16384 + 16384 * (n % bits t.sampCfg.toNat 47 32)

/-- A sample is due: one that has not finished is abandoned, and the next number is taken. -/
def dueSample (n : Nat) (w : W) : W :=
  let v := if w.b.tlm.todo.isEmpty then w else skipSample w
  { v with b.tlm.sample := w.b.tlm.sample + n }

/-- A transaction with slots to write. -/
def withTodo (l : List (Nat × Bytes)) (w : W) : W := { w with b.tlm.todo := l }

/-- A sample with a slot that is not the ring's is not written there, and counted. -/
def noteBadSlot (w : W) : W := skipSample { w with b.tlm.sampBad := true }

/-- The parts of a record are placed in their slots, but for slots that are not the ring's. -/
def placeSample (env : Env) (slot : Nat → Nat) (part : Nat → Bytes) (n : Nat) (w : W) : W :=
  let w := if (List.range n).any (fun i => slotBad w (slot i)) then noteBadSlot w else w
  sampleGo env (withTodo (((List.range n).filter (fun i => !slotBad w (slot i))).map (fun i => (slot i, part i))) w)

theorem withTodo_of {l : List (Nat × Bytes)} {w : W} (h : w.b.tlm.todo = l) : withTodo l w = w := by
  subst h
  rfl

/-- What TELEMETRY_SAMPLE does to a transaction. -/
def telemetryW (env : Env) (w : W) : W :=
  if w.b.glb.mainReset || !w.b.tlm.sampBase.getLsbD 0 then w
  else
    let d := snapshot w 0x17 0xFF w.b.tlm.sample
    let n := if d.length ≤ 16384 then 1 else 2
    placeSample env (fun i => ringSlot w.b.tlm (w.b.tlm.sample + i)) (fun i => (d.drop (16384 * i)).take 16384) n (dueSample n w)

theorem exec_telemetrySample (env : Env) (s : State) : exec (.telemetrySample env) s = run (telemetryW env) s := by
  show execTelemetrySample env s = _
  refine (congrArg (fun f => run f s) (funext fun w => ?_) : run _ s = run _ s)
  refine ite_congr rfl (fun _ => rfl) fun _ => ?_
  generalize snapshot w 0x17 0xFF w.b.tlm.sample = d
  generalize (if d.length ≤ 16384 then 1 else 2) = n
  rfl

/-- A record of one part. -/
theorem placeSample_one (env : Env) (slot : Nat → Nat) (part : Nat → Bytes) (w : W) : placeSample env slot part 1 w =
    if slotBad w (slot 0) then sampleGo env (withTodo [] (noteBadSlot w)) else sampleGo env (withTodo [(slot 0, part 0)] w) := by
  have hbad : slotBad (noteBadSlot w) (slot 0) = slotBad w (slot 0) := rfl
  cases h : slotBad w (slot 0)
  · simp [placeSample, List.range_one, h]
  · simp [placeSample, List.range_one, h, hbad.trans h]

theorem slotBad_dueSample (n a : Nat) (w : W) : slotBad (dueSample n w) a = slotBad w a := by
  unfold dueSample
  cases w.b.tlm.todo.isEmpty <;> rfl

theorem linesFree_dueSample (n a len : Nat) (w : W) : linesFree (dueSample n w) a len = linesFree w a len := by
  unfold dueSample
  cases w.b.tlm.todo.isEmpty <;> rfl

theorem dueSample_memory (n : Nat) (w : W) : (dueSample n w).base = w.base ∧ (dueSample n w).jr = w.jr := by
  unfold dueSample
  cases w.b.tlm.todo.isEmpty <;> exact ⟨rfl, rfl⟩

theorem dueSample_idle {w : W} (n : Nat) (h : w.b.tlm.todo = []) : dueSample n w = { w with b.tlm.sample := w.b.tlm.sample + n } := by
  simp [dueSample, h]

theorem dueSample_busy {w : W} (n : Nat) (h : w.b.tlm.todo ≠ []) :
    dueSample n w = { skipSample w with b.tlm.sample := w.b.tlm.sample + n } := by
  simp [dueSample, h]

section OneSlot

variable {env : Env} {w : W} (hreset : w.b.glb.mainReset = false) (hen : w.b.tlm.sampBase.getLsbD 0 = true)
  (hlen : (snapshot w 0x17 0xFF w.b.tlm.sample).length ≤ 16384)

include hreset hen hlen

/-- A record of one slot goes to that slot, or is counted as skipped where the slot is not the ring's. -/
theorem telemetryW_oneSlot : telemetryW env w =
    if slotBad w (ringSlot w.b.tlm w.b.tlm.sample) then sampleGo env (withTodo [] (noteBadSlot (dueSample 1 w)))
    else sampleGo env (withTodo [(ringSlot w.b.tlm w.b.tlm.sample, snapshot w 0x17 0xFF w.b.tlm.sample)] (dueSample 1 w)) := by
  have hrun : ¬(w.b.glb.mainReset || !w.b.tlm.sampBase.getLsbD 0) = true := by simp [hreset, hen]
  unfold telemetryW
  rw [if_neg hrun]
  simp only [if_pos hlen, placeSample_one, slotBad_dueSample, Nat.add_zero, Nat.mul_zero, List.drop_zero, List.take_of_length_le hlen]

end OneSlot

theorem sampleGo_none (env : Env) {w : W} : sampleGo env (withTodo [] w) = withTodo [] w := rfl

theorem sampleGo_one (env : Env) (a : Nat) (d : Bytes) (w : W) : sampleGo env (withTodo [(a, d)] w) =
    if linesFree w a d.length then (writeBytes (bgAcc env) a d (withTodo [] w)).2 else flushLines a d.length (withTodo [(a, d)] w) := by
  have hgone : [(a, d)].filter (fun y => y != (a, d)) = [] := by simp
  have hgo : sampleGo env (withTodo [(a, d)] w) =
    if linesFree w a d.length then (writeBytes (bgAcc env) a d (withTodo ([(a, d)].filter (fun y => y != (a, d))) w)).2
    else flushLines a d.length (withTodo [(a, d)] w) := rfl
  rw [hgo, hgone]

/-- What POWER_ESTIMATE does to a transaction. -/
def powerEstimateW (w : W) : W :=
  if w.b.glb.mainReset then w
  else
    let c := w.b.crp
    let mw := sat 0xFFFFFFFF (Config.powerEstimate w.b.cnt c.tCore * c.pwrScale / 256)
    { w with b.crp := { c with avgMw := mw, peakMw := max c.peakMw mw, energy := c.energy + mw } }

theorem sat_eq_min (bound n : Nat) : sat bound n = min bound n := by
  unfold sat
  split
  · next h => exact (Nat.min_eq_right h).symm
  · next h => exact (Nat.min_eq_left (Nat.le_of_not_le h)).symm

theorem exec_powerEstimate (s : State) : exec .powerEstimate s = run powerEstimateW s := rfl

/-! ### Snapshots (R449) -/

/-- The start of a command that is not critical changes its phase and the wait statistics alone. -/
theorem begun_crp {s : State} {c : CmdId} {k : Cmd} {cls : CmdClass} (hcls : opInfo (opOf k) = some (false, cls)) :
    (begun s c k).b.crp = s.blk.crp := by
  have hhead : (checksHead k (openW s)).2 = openW s := checksHead_free k (openW s) cls hcls
  rw [begun, hhead, countStart]
  split <;> rfl

/-- What STATS_SNAPSHOT does once its checks pass. -/
theorem leaves_snapshot {s : State} {c : CmdId} {env : Env} {k : Cmd} {v : W} (hop : opOf k = 0x90)
    (h : Starts s c k ∧ v = begun s c k ∧ snapshotCheck v k = none ∨ Runs s c k ∧ v = openW s) :
    k.id = c ∧ v.b.crp.tCore = s.blk.crp.tCore ∧ Leaves (.statsSnapshot c env) s (snapshotGo env k v) := by
  obtain ⟨hs, rfl, hpass⟩ | ⟨hr, rfl⟩ := h
  · exact ⟨id_of_starts hs, congrArg Crp.tCore (begun_crp (cls := .free) (by rw [hop]; rfl)), leaves_checked (i := .statsSnapshot c env) (chk := snapshotCheck) (go := snapshotGo env) rfl hs
      (isOp_of hop) hpass⟩
  · exact ⟨id_of_findCmd hr.1, rfl, leaves_goOn (i := .statsSnapshot c env) (goOn := snapshotGo env) rfl hr (isOp_of hop)⟩

theorem snapshotGo_waits {env : Env} {k : Cmd} {v : W} {d : Bytes} (hd : d = snapshot v (arg k 0x18 1) k.part 0)
    (h : linesFree v (arg k 0x10 8) d.length = false) : snapshotGo env k v = flushLines (arg k 0x10 8) d.length v := by
  subst hd
  exact if_neg (ne_true_of_eq_false h)

theorem snapshotGo_writes {env : Env} {k : Cmd} {v w : W} {d : Bytes} {code : Rsp} (hd : d = snapshot v (arg k 0x18 1) k.part 0)
    (h : linesFree v (arg k 0x10 8) d.length = true) (hw : writeBytes (seAcc env k.ctx) (arg k 0x10 8) d v = (code, w)) :
    snapshotGo env k v = if code != .ok then done env k.id (rspStatus code) 0 [] w
      else done env k.id .ok 0 (toLe 8 v.b.crp.tCore ++ toLe 8 d.length) (cntGlb 0x28 1 w) := by
  subst hd
  obtain ⟨rfl, rfl⟩ := Prod.mk.inj hw
  exact if_pos h

/-! ### The occurrence of a sample -/

/-- A byte of the memory a command leaves is the byte its transaction reads. -/
theorem byteAt_closeW {s : State} {v : W} (hb : v.base = s.mem) (hm : memCanonical s) (a : Nat) : byteAt (closeW s v) a = getByte v a :=
  memGet_closeW s v a hb hm

/-- A sample whose slot is written keeps every byte outside the slot, and memory that answers OK holds its record. -/
theorem leads_sample {s : State} {env : Env} {a n : Nat} {d : Bytes} {u : W} {P : State → Prop} (hm : memCanonical s)
    (hlen : d.length = 64 * n) (hmem : u.base = s.mem ∧ u.jr = [])
    (hsample : telemetryW env (openW s) = (writeBytes (bgAcc env) a d (withTodo [] u)).2)
    (hP : ∀ t, SameOutside s t a d.length → t.blk.tlm.todo = [] → t.blk.tlm.sample = u.b.tlm.sample →
      t.blk.tlm.skipped = u.b.tlm.skipped →
      (env.wr = [] → u.b.ras.inj = [] → ∀ i, i < d.length → byteAt t (a + i) = d.getD i 0) → P t) :
    Leads (.telemetrySample env) s P := by
  have hkept := ringKept_writeBytes (bgAcc env) (a := a) (withTodo [] u) hlen
  have hat := byteAt_closeW (v := (writeBytes (bgAcc env) a d (withTodo [] u)).2) (hkept.base.trans hmem.1) hm
  refine ⟨_, leaves_of (exec_telemetrySample env s) hsample, hP _ (fun i hi => ?_) hkept.todo hkept.sample hkept.skipped ?_⟩
  · rw [hat, hkept.outside i hi]
    show (match u.jr.find? (fun c => c.1 == i) with | some c => c.2 | none => memGet u.base i) = memGet s.mem i
    rw [hmem.1, hmem.2]
    rfl
  · intro hwr hinj i hi
    obtain ⟨-, -, hwritten⟩ := writesRun_writeBytes (acc := bgAcc env) (a := a) (w := withTodo [] u) hwr hinj hlen
    rw [hat, hwritten, if_pos (by omega), Nat.add_sub_cancel_left]

/-- Settles O58: the time counters look at nothing a strobe changes, and a sample's record fills whole lines of its slot. -/
theorem clocksAndTelemetry : Obligations.ClocksAndTelemetry := by
  unfold Obligations.ClocksAndTelemetry
  refine ⟨?strobe, ?gate, ?notGated, ?wakeSe, ?wakeLoading, ?wakeRelight, ?wakeOther, ?power, ?snapshot, ?sample⟩
  case strobe =>
    intro s v h
    obtain ⟨t, ht⟩ := tbStrobeW_running (w := openW s) (n := v.toNat) h
    obtain ⟨n, hn⟩ := (countsTime_countTime (v.toNat - s.blk.crp.tCore)).frame (openW s)
    have hcnt : n = (countTime (v.toNat - s.blk.crp.tCore) (openW s)).b.cnt := by rw [hn]
    have hrow : tbStrobeW v.toNat (openW s) = retimed (strobedCrp s.blk.crp v.toNat) t { openW s with b.cnt := n } := ht.trans (by rw [← hn]; rfl)
    refine ⟨leads_of_blocks (blocks_of (exec_tbStrobe v s) hrow rfl) ⟨rfl, rfl, rfl, rfl, rfl, fun hsame => ?_, hcnt, rfl⟩,
      leaves_of (f := fun w => if w.b.glb.mainReset then w else setTb 3 [0x10018] w) rfl (if_neg (ne_true_of_eq_false h))⟩
    show s.blk.crp.tbStat ||| 2 ||| 1 ||| tbEvent s.blk.crp.tCore v.toNat ||| tbEvent s.blk.crp.tAon v.toNat = _
    rw [← hsame, BitVec.or_assoc _ (tbEvent _ _), BitVec.or_self, BitVec.or_assoc _ 2 1]
    rfl
  case gate =>
    intro s u e hreset hex hidle
    refine ⟨fun hnew hcg => ?_, fun h hu => ?_, fun h hu => ?_, fun h hother => ?_⟩
    · exact blocks_of (exec_unitGate u s) ((unitGateW_idle (w := openW s) hreset hex hidle).trans (if_neg (by simp [hnew, hcg]))) rfl
    all_goals have hgated := unitGateW_gated (w := openW s) hreset hex hidle h
    · subst hu
      exact ⟨fun hpg => blocks_of (exec_unitGate _ s) (hgated.trans (if_neg (ne_true_of_eq_false hpg))) rfl,
        fun hpg => idle_of (exec_unitGate _ s) (hgated.trans (if_pos hpg))⟩
    · subst hu
      exact ⟨fun hpg => blocks_of (exec_unitGate _ s) (hgated.trans (if_neg (ne_true_of_eq_false hpg))) rfl,
        fun hpg => idle_of (exec_unitGate _ s) (hgated.trans (if_pos hpg))⟩
    · exact idle_of (exec_unitGate u s) (hgated.trans (powerGate_other _ hother))
  case notGated =>
    intro s u h
    exact idle_of (exec_unitGate u s) (unitGateW_busy (w := openW s) h)
  case wakeSe =>
    intro s e hnone
    have hidle : ¬((getSe (wake (.se e) (openW s)) e).run.isSome = true) := by
      rw [show (getSe (wake (.se e) (openW s)) e).run = none from hnone]
      simp
    exact blocks_of (exec_unitWake (.se e) s) (if_neg hidle) rfl
  case wakeLoading =>
    intro s e hsome
    exact leaves_of (exec_unitWake (.se e) s) (if_pos hsome)
  case wakeRelight =>
    rintro s e b rfl
    refine ⟨fun hnone => ?_, fun o ho => ?_⟩
    · have hfind : s.blk.fetches.find? (fun o => o.queued && holdsEngine o e) = none := by
        rw [List.find?_eq_none]
        intro o ho hq
        obtain ⟨hqueued, hheld⟩ := Bool.and_eq_true_iff.mp hq
        rw [hnone o ho hqueued] at hheld
        exact Bool.false_ne_true hheld
      have hwake : beginWoken e (wake (.relight e) (openW s)) = wake (.relight e) (openW s) := by
        unfold beginWoken
        rw [show (wake (.relight e) (openW s)).b.fetches.find? (fun o => o.queued && holdsEngine o e) = none from hfind]
      exact blocks_of (exec_unitWake (.relight e) s) hwake rfl
    · have hwake : beginWoken e (wake (.relight e) (openW s)) = beginOp o.id (wake (.relight e) (openW s)) := by
        unfold beginWoken
        rw [show (wake (.relight e) (openW s)).b.fetches.find? (fun o => o.queued && holdsEngine o e) = some o from ho]
      exact leaves_of (exec_unitWake (.relight e) s) hwake
  case wakeOther =>
    intro s u hother
    exact blocks_of (exec_unitWake u s) (unitWakeW_other _ hother) rfl
  case power =>
    intro s mw h hmw
    rw [← sat_eq_min] at hmw
    subst hmw
    exact blocks_of (exec_powerEstimate s) (if_neg (ne_true_of_eq_false h)) rfl
  case snapshot =>
    intro s c env k d v hop hv hd
    obtain ⟨rfl, htime, hleaves⟩ := leaves_snapshot (env := env) hop hv
    refine ⟨fun hwait => snapshotGo_waits hd hwait ▸ hleaves, fun hfree code w hw => ?_⟩
    rw [snapshotGo_writes hd hfree hw, htime] at hleaves
    constructor
    · rintro rfl
      exact hleaves
    · intro hbad
      rwa [if_pos (bne_iff_ne.mpr hbad)] at hleaves
  case sample =>
    rintro s env d a hreset hm rfl rfl
    obtain ⟨n, hn⟩ := sample_length (openW s) s.blk.tlm.sample
    have hslot := fun hen hfit => telemetryW_oneSlot (env := env) (w := openW s) hreset hen hfit
    have hwritten := fun hen hfit hgood hfree => (hslot hen hfit).trans ((if_neg (ne_true_of_eq_false hgood)).trans
      ((sampleGo_one _ _ _ _).trans (if_pos ((linesFree_dueSample 1 _ _ (openW s)).trans hfree))))
    refine ⟨fun hoff => ?_, fun htodo hen hfit hgood hfree => ?_, fun htodo hen hfit hgood hfree => ?_, fun htodo hen hfit hgood hfree => ?_,
      fun htodo hen hfit hbad => ?_⟩
    · have hstop : (s.blk.glb.mainReset || !s.blk.tlm.sampBase.getLsbD 0) = true := by rw [hoff, Bool.not_false, Bool.or_true]
      exact idle_of (exec_telemetrySample env s) (if_pos hstop)
    · refine leads_sample hm hn (dueSample_memory 1 (openW s)) (hwritten hen hfit hgood hfree) ?_
      rw [dueSample_idle 1 htodo]
      exact fun t hout htd hsample hskip hbytes => ⟨hout, htd, hsample, hskip, hbytes⟩
    · refine leads_sample hm hn (dueSample_memory 1 (openW s)) (hwritten hen hfit hgood hfree) ?_
      rw [dueSample_busy 1 htodo]
      exact fun t hout htd hsample hskip _ => ⟨hout, htd, hsample, hskip⟩
    · have hwait := (hslot hen hfit).trans ((if_neg (ne_true_of_eq_false hgood)).trans ((sampleGo_one _ _ _ _).trans (if_neg
        (by rw [linesFree_dueSample]; exact ne_true_of_eq_false hfree))))
      rw [dueSample_idle 1 htodo] at hwait
      exact leaves_of (exec_telemetrySample env s) hwait
    · have hskipped := (hslot hen hfit).trans (if_pos hbad)
      rw [dueSample_idle 1 htodo, sampleGo_none] at hskipped
      exact blocks_of (exec_telemetrySample env s) (hskipped.trans (withTodo_of htodo)) rfl

end Sys2Proof.Machine
end

section
/-! PROOF. The registers: reads and writes through the control port (R7, R9, R12, R456 to R484). -/

namespace Sys2Proof.Machine

open Sys2Proof.Safety

/-! ### Reads -/

theorem eq_of_latch {k low kind x : Nat} {l offs : List Nat} (h : some (k, x, l) = some (kind, low, offs)) :
    kind = k ∧ low = x ∧ offs = l := by
  simp only [Option.some.injEq, Prod.mk.injEq] at h
  exact ⟨h.1.symm, h.2.1.symm, h.2.2.symm⟩

/-- The high words of a latched group stand behind its low word, in the group. -/
theorem latchOf_high {low kind o : Nat} {offs : List Nat} (h : latchOf low = some (kind, low, offs)) (ho : o ∈ offs) :
    latchOf (low + o) = some (kind, low, offs) ∧ 0 < o := by
  unfold latchOf at h ⊢
  simp only [Bool.and_eq_true, decide_eq_true_eq] at h ⊢
  repeat' split at h
  rotate_right
  · cases h
  all_goals
    rename_i hk
    obtain ⟨rfl, hlow, rfl⟩ := eq_of_latch h
    simp only [List.mem_cons, List.not_mem_nil, or_false] at ho
    refine ⟨?_, by omega⟩
  · rw [if_pos (by omega), ← hlow]
  · rw [if_neg (by omega), if_pos (by omega), ← hlow]
  · rw [if_neg (by omega), if_neg (by omega), if_pos (by omega), ← hlow]
  · rw [if_neg (by omega), if_neg (by omega), if_neg (by omega), if_pos (by omega), show low + o - (low + o) % 64 + 0x18 = low by omega]
  · rw [if_neg (by omega), if_neg (by omega), if_neg (by omega), if_neg (by omega), if_pos (by omega),
      show low + o - (low + o) % 64 = low by omega]
  · rw [if_neg (by omega), if_neg (by omega), if_neg (by omega), if_neg (by omega), if_neg (by omega), if_pos (by omega),
      show low + o - (low + o) % 256 + 0xC0 = low by omega]
  · rw [if_neg (by omega), if_neg (by omega), if_neg (by omega), if_neg (by omega), if_neg (by omega), if_neg (by omega),
      if_pos (by omega), show low + o - (low + o) % 256 + 0xE0 = low by omega]
  · rw [if_neg (by omega), if_neg (by omega), if_neg (by omega), if_neg (by omega), if_neg (by omega), if_neg (by omega),
      if_neg (by omega), if_pos (by omega), show low + o - (low + o) % 16 = low by omega]
  · rw [if_neg (by omega), if_neg (by omega), if_neg (by omega), if_neg (by omega), if_neg (by omega), if_neg (by omega),
      if_neg (by omega), if_neg (by omega), if_pos (by omega), show low + o - (low + o) % 32 = low by omega]

theorem tfind_highWords {α : Type} (f : Nat → α) (low : Nat) {o : Nat} : ∀ {offs : List Nat}, o ∈ offs →
    tfind (offs.map (fun o => (low + o, f (low + o)))) (low + o) = some (f (low + o))
  | [], h => absurd h List.not_mem_nil
  | x :: offs, h => by
    by_cases hx : low + o = low + x
    · rw [hx]
      simp [tfind]
    · have hmem : o ∈ offs := (List.mem_cons.mp h).resolve_left fun he => hx (by rw [he])
      simp only [List.map_cons, tfind, if_neg hx]
      exact tfind_highWords f low hmem

theorem readAccess_serves {s : State} (a : Nat) (h : s.blk.glb.state ≠ .reset) :
    readAccess .none a s = ({ data := readValue s a, err := false }, afterRead s a) :=
  if_neg (by simp [h])

theorem readAccess_bothCopies {s : State} (a : Nat) (h : s.blk.glb.state ≠ .reset) : readAccess .bothCopies a s = readFails s a :=
  if_neg (by simp [h])

theorem readAccess_inReset {s : State} (f : ReadFault) (a : Nat) (h : s.blk.glb.state = .reset) :
    readAccess f a s = ({ data := 0, err := false }, s) :=
  if_pos (by simp [h])

/-- A low word is read from its register. -/
theorem readValue_low {s : State} {low kind : Nat} {offs : List Nat} (h : latchOf low = some (kind, low, offs)) :
    readValue s low = readReg s low := by
  simp only [readValue, h, bne_self_eq_false, Bool.and_false, Bool.false_eq_true, if_false]
  split <;> rfl

/-- A high word is read from the latch its low word has left. -/
theorem readValue_high {s t : State} {low kind o : Nat} {offs : List Nat} (h : latchOf low = some (kind, low, offs)) (ho : o ∈ offs)
    (hlatch : tfind t.blk.latches kind = some { low := low, high := offs.map (fun o => (low + o, readReg s (low + o))) }) :
    readValue t (low + o) = readReg s (low + o) := by
  obtain ⟨hgroup, hpos⟩ := latchOf_high h ho
  have hother : (low + o != low) = true := bne_iff_ne.mpr (by omega)
  simp only [readValue, hgroup, hlatch, decide_true, Bool.true_and, hother, if_true, tfind_highWords (readReg s) low ho, Option.getD_some]

/-- The low word of a group is latched when it is read. -/
theorem afterRead_low {s : State} {low kind : Nat} {offs : List Nat} (h : latchOf low = some (kind, low, offs)) :
    tfind (afterRead s low).blk.latches kind = some { low := low, high := offs.map (fun o => (low + o, readReg s (low + o))) } := by
  have hne : low ≠ 0x10030 := by
    rintro rfl
    simp [latchOf] at h
  simp only [afterRead, if_neg hne, h, if_true, takeLatch]
  rw [tfind_tset, if_pos rfl]

/-! ### Writes -/

/-- What REGISTER_WRITE does to a transaction. -/
def registerWriteW (env : Env) (addr : Nat) (v : Word) (w : W) : W := settleWrite addr v w (writeReg env addr v w)

theorem exec_registerWrite (addr : Nat) (v : Word) (env : Env) (s : State) :
    exec (.registerWrite addr v env) s = run (registerWriteW env addr v) s := rfl

section Write

variable {s : State} {env : Env} {addr : Nat} {v : Word}

theorem blocks_writeNothing (h : writeReg env addr v (openW s) = .nothing) : Blocks (.registerWrite addr v env) s s.blk :=
  idle_of (exec_registerWrite addr v env s) (by rw [registerWriteW, h]; rfl)

theorem leaves_writeIgnored (h : writeReg env addr v (openW s) = .ignored) :
    Leaves (.registerWrite addr v env) s (writeIgnored addr v (openW s)) :=
  leaves_of (exec_registerWrite addr v env s) (by rw [registerWriteW, h]; rfl)

theorem blocks_writeActs {w : W} (h : writeReg env addr v (openW s) = .acts w) (hjr : w.jr = []) :
    Blocks (.registerWrite addr v env) s w.b :=
  blocks_of (exec_registerWrite addr v env s) (by rw [registerWriteW, h]; rfl) hjr

end Write

section Windows

variable {env : Env} {addr : Nat} {v : Word} {w : W}

theorem writeReg_unserved (h : addr % 8 ≠ 0 ∨ w.b.glb.state = .reset) : writeReg env addr v w = .nothing :=
  if_pos (by simpa using h)

theorem writeReg_served (ha : addr % 8 = 0) (hs : w.b.glb.state ≠ .reset) : writeReg env addr v w =
    if addr < 0x40000 then writeLow env addr v w
    else if addr < 0x60000 then writeRas env addr v w
    else if !portsOpen w then .nothing
    else if addr < 0xA0000 then writeMid addr v w
    else writeHigh env addr v w :=
  if_neg (by simp [ha, hs])

theorem served_or_unserved (addr : Nat) (w : W) :
    (addr % 8 = 0 ∧ w.b.glb.state ≠ .reset) ∨ (addr % 8 ≠ 0 ∨ w.b.glb.state = .reset) := by
  by_cases ha : addr % 8 = 0
  · by_cases hs : w.b.glb.state = .reset
    · exact .inr (.inr hs)
    · exact .inl ⟨ha, hs⟩
  · exact .inr (.inl ha)

theorem writeReg_shut (h : 0x60000 ≤ addr) (hp : portsOpen w = false) : writeReg env addr v w = .nothing := by
  obtain ⟨ha, hs⟩ | hun := served_or_unserved addr w
  · rw [writeReg_served ha hs, if_neg (by omega), if_neg (by omega), if_pos (by simp [hp])]
  · exact writeReg_unserved hun

theorem plainWrite_beyond (h : 0x1000000 ≤ addr) : plainWrite addr v w = .nothing := by
  simp only [plainWrite, Bool.and_eq_true, decide_eq_true_eq]
  repeat rw [if_neg (by omega)]

theorem writeHigh_beyond (h : 0x1000000 ≤ addr) : writeHigh env addr v w = .nothing := by
  simp only [writeHigh, Bool.and_eq_true, decide_eq_true_eq]
  repeat rw [if_neg (by omega)]
  exact plainWrite_beyond h

theorem writeReg_beyond (h : 0x1000000 ≤ addr) : writeReg env addr v w = .nothing := by
  obtain ⟨ha, hs⟩ | hun := served_or_unserved addr w
  · rw [writeReg_served ha hs, if_neg (by omega), if_neg (by omega)]
    split
    · rfl
    · rw [if_neg (by omega), writeHigh_beyond h]
  · exact writeReg_unserved hun

end Windows

theorem writeIf_reserved {p : Bool} {w : W} (h : p = true) : writeIf p w = .ignored := if_pos h
theorem writeIf_allowed {p : Bool} {w : W} (h : p = false) : writeIf p w = .acts w := if_neg (ne_true_of_eq_false h)

/-- A write of 1 clears a bit of RAS_STAT, and leaves the others. -/
theorem getLsbD_w1c_all (old : BitVec 9) (v : Word) (i : Nat) :
    (w1c old v 0x1FF).getLsbD i = (old.getLsbD i && !v.getLsbD i) := by
  by_cases hi : i < 9
  · have hall : v.setWidth 9 &&& 0x1FF = v.setWidth 9 := BitVec.and_allOnes
    rw [w1c, hall]
    simp [hi]
  · simp [BitVec.getLsbD_of_ge _ _ (Nat.le_of_not_lt hi)]

section Registers

variable {s : State} {v : Word} (env : Env) (hs : s.blk.glb.state ≠ .reset)

include hs

theorem writeReg_tbCfg : writeReg env 0x10010 v (openW s) =
    writeIf (vbits v 9 0 == 0 || decide (1000 < vbits v 9 0)) { openW s with b.crp.tbPeriod := vbits v 9 0 } :=
  writeReg_served (by decide) hs

theorem writeReg_pwrScale : writeReg env 0x10040 v (openW s) =
    writeIf (vbits v 15 0 == 0) { openW s with b.crp.pwrScale := vbits v 15 0 } :=
  writeReg_served (by decide) hs

theorem writeReg_elAck : writeReg env 0x30018 v (openW s) = .acts { openW s with b.tlm.elAck := v } :=
  writeReg_served (by decide) hs

theorem writeReg_girq : writeReg env 0x30000 v (openW s) =
    .acts { openW s with b.tlm.girq := s.blk.tlm.girq && !v.getLsbD 0 } :=
  writeReg_served (by decide) hs

theorem writeReg_rasStat : writeReg env 0x40000 v (openW s) = .acts { openW s with b.ras.stat := w1c s.blk.ras.stat v 0x1FF } :=
  writeReg_served (by decide) hs

variable (hp : portsOpen (openW s) = true)

include hp

theorem writeReg_coord : writeReg env 0x70008 v (openW s) =
    if s.blk.lnk.en then .ignored else .acts { openW s with b.lnk.coord := v.setWidth 32 } := by
  rw [writeReg_served (by decide) hs, if_neg (by decide), if_neg (by decide), if_neg (by simp [hp]), if_pos (by decide)]
  rfl

theorem writeReg_dpCtl : writeReg env 0xC0000 v (openW s) =
    writeIf (decide (vbits v 47 32 < 64) || vbits v 15 0 == 0)
      { openW s with b.hostCyc := vbits v 47 32, b.srcqKib := vbits v 31 16, b.auditMs := vbits v 15 0 } := by
  rw [writeReg_served (by decide) hs, if_neg (by decide), if_neg (by decide), if_neg (by simp [hp]), if_neg (by decide)]
  rfl

end Registers

/-! ### PARTITION_SET where no SE holds a chunk (R99, R100) -/

/-- No SE holds a chunk or is about to move. -/
def SesStill (w : W) : Prop := ∀ e, (getSe w e).run = none ∧ (getSe w e).moveTo = none

theorem sesStill_of_table {w : W} (h : ∀ e ∈ w.b.eng.ses, e.2.run = none ∧ e.2.moveTo = none) : SesStill w := fun e => by
  by_cases hdef : tget w.b.eng.ses e {} = {}
  · rw [getSe, hdef]
    exact ⟨rfl, rfl⟩
  · obtain ⟨x, hx, he⟩ := mem_of_tget hdef
    rw [getSe, ← he]
    exact h x hx

theorem foldl_same {α β : Type} {f : α → β → α} {a : α} (h : ∀ b, f a b = a) : ∀ l : List β, l.foldl f a = a
  | [] => rfl
  | b :: l => by rw [List.foldl_cons, h b, foldl_same h l]

theorem definedParts_still {w : W} (h : SesStill w) : definedParts w = w.b.parts := by
  refine (List.map_congr_left fun p _ => ?_).trans (List.map_id _)
  refine Prod.ext rfl (congrArg (fun m => { p.2 with seMask := m }) (foldl_same (fun e => ?_) _))
  rw [(h e).2]

theorem leaving_still {w : W} (p : Nat) (h : SesStill w) : leaving w p = [] := by
  refine List.filter_eq_nil_iff.mpr fun e _ => ?_
  rw [(h e).2]
  simp

/-- The SEs that a map of owners gives to a partition, as a mask. -/
def ownedMask (f : Nat → Nat) (p : Nat) (es : List Nat) (m : Word) : Word :=
  es.foldl (fun m e => if f e = p then m ||| 1#64 <<< e else m) m

theorem getLsbD_ownedMask (f : Nat → Nat) (p i : Nat) (hi : i < 64) : ∀ (es : List Nat) (m : Word),
    (ownedMask f p es m).getLsbD i = (m.getLsbD i || decide (i ∈ es ∧ f i = p))
  | [], m => by simp [ownedMask]
  | e :: es, m => by
    have hcons : ownedMask f p (e :: es) m = ownedMask f p es (if f e = p then m ||| 1#64 <<< e else m) := rfl
    rw [hcons, getLsbD_ownedMask f p i hi es]
    by_cases he : i = e
    · subst he
      by_cases hf : f i = p <;> simp [hf, hi]
    · have hbit : (1#64 <<< e).getLsbD i = false := by
        rw [BitVec.getLsbD_shiftLeft]
        by_cases hlt : i < e
        · simp [hlt]
        · simp [hlt, hi, show i - e ≠ 0 by omega]
      by_cases hf : f e = p <;> simp [hf, hbit, he]

/-- Where the keys of a table rise an entry is the only one of its key. -/
theorem eq_of_key {α : Type} {x y : Nat × α} : ∀ {t : Tbl α}, (t.map (·.1)).Pairwise (· < ·) → x ∈ t → y ∈ t → x.1 = y.1 → x = y
  | [], _, hx, _, _ => absurd hx List.not_mem_nil
  | e :: t, hkeys, hx, hy, he => by
    obtain ⟨hfirst, hrest⟩ := List.pairwise_cons.mp hkeys
    have habove : ∀ z ∈ t, e.1 < z.1 := fun z hz => hfirst z.1 (List.mem_map_of_mem hz)
    obtain rfl | hxt := List.mem_cons.mp hx
    · obtain rfl | hyt := List.mem_cons.mp hy
      · rfl
      · exact absurd he (Nat.ne_of_lt (habove y hyt))
    · obtain rfl | hyt := List.mem_cons.mp hy
      · exact absurd he.symm (Nat.ne_of_lt (habove x hxt))
      · exact eq_of_key hrest hxt hyt he

section Table

variable {t : Tbl Part} (hkeys : (t.map (·.1)).Pairwise (· < ·)) (hsmall : ∀ x ∈ t, x.1 < 16)
  (hapart : ∀ x ∈ t, ∀ y ∈ t, x.1 ≠ y.1 → x.2.seMask &&& y.2.seMask = 0)

include hkeys hsmall hapart

/-- In a table of partitions that share no SE the owner of an SE is the partition whose mask has it. -/
theorem ownerIn_eq_iff {x : Nat × Part} (hx : x ∈ t) (i : Nat) : ownerIn t i = x.1 ↔ x.2.seMask.getLsbD i = true := by
  have hinj : ∀ y ∈ t, y.1 = x.1 → y = x := fun y hy he => eq_of_key hkeys hy hx he
  unfold ownerIn
  cases hfind : t.find? (fun p => p.2.seMask.getLsbD i) with
  | none =>
    have hbit := List.find?_eq_none.mp hfind x hx
    exact ⟨fun h => absurd (hsmall x hx) (by rw [← h]; decide), fun h => absurd h hbit⟩
  | some y =>
    have hy := List.mem_of_find?_eq_some hfind
    have hbit : y.2.seMask.getLsbD i = true := by simpa using List.find?_some hfind
    constructor
    · intro h
      rwa [← hinj y hy h]
    · intro h
      refine Classical.byContradiction fun hne => ?_
      have hzero := congrArg (BitVec.getLsbD · i) (hapart y hy x hx hne)
      simp only [BitVec.getLsbD_and, hbit, h] at hzero
      simp at hzero

theorem ownedMask_eq {x : Nat × Part} (hx : x ∈ t) : ownedMask (ownerIn t) x.1 (List.range 64) 0#64 = x.2.seMask := by
  refine BitVec.eq_of_getLsbD_eq fun i hi => ?_
  rw [getLsbD_ownedMask _ _ i hi]
  rw [BitVec.getLsbD_zero, Bool.false_or, Bool.eq_iff_iff, decide_eq_true_iff, ownerIn_eq_iff hkeys hsmall hapart hx i]
  exact and_iff_right (List.mem_range.mpr hi)

/-- Where no SE holds a chunk new definitions are in force at once. -/
theorem applyParts_still {w : W} (h : SesStill w) : applyParts t w = { w with b.parts := t } := by
  have hstays (e : Nat) : (ownerIn w.b.parts e != 16 && ownerIn w.b.parts e != ownerIn t e && (getSe w e).run.isSome) = false := by
    rw [(h e).1]
    simp
  have hmove : (List.range 64).foldl (fun w e => if (getSe w e).moveTo == (none : Option Nat) then w
      else modSe e (fun s => { s with moveTo := none }) w) w = w := by
    refine foldl_same (fun e => ?_) (List.range 64)
    rw [(h e).2]
    exact if_pos rfl
  have hmask : t.map (fun p => (p.1, { p.2 with seMask := ownedMask (ownerIn t) p.1 (List.range 64) 0#64 })) = t := by
    refine (List.map_congr_left fun p hp => ?_).trans (List.map_id t)
    exact Prod.ext rfl (congrArg (fun m => { p.2 with seMask := m }) (ownedMask_eq hkeys hsmall hapart hp))
  unfold applyParts
  simp only [hstays, Bool.false_eq_true, if_false, hmove]
  exact congrArg (fun p => { w with b.parts := p }) hmask

end Table

theorem sesStill_begun {s : State} {c : CmdId} {k : Cmd} (hs : Starts s c k) (hi : s.blk.ras.inj = [])
    (h : ∀ e ∈ s.blk.eng.ses, e.2.run = none ∧ e.2.moveTo = none) : SesStill (begun s c k) :=
  sesStill_of_table (by rw [(begun_keeps hs hi).blk]; exact h)

/-- A PARTITION_SET that starts where no SE holds a chunk completes with its definition in force. -/
theorem partitionStart_still {env : Env} {k : Cmd} {w : W} {t : Tbl Part} (h : SesStill w)
    (ht : t = tset w.b.parts (arg k 0x10 1 % 16) (partOfArgs k)) (hkeys : (t.map (·.1)).Pairwise (· < ·)) (hsmall : ∀ x ∈ t, x.1 < 16)
    (hapart : ∀ x ∈ t, ∀ y ∈ t, x.1 ≠ y.1 → x.2.seMask &&& y.2.seMask = 0) :
    partitionStart env k w = complete env false k.id {} { w with b.parts := t } := by
  rw [partitionStart, definedParts_still h, ← ht, applyParts_still hkeys hsmall hapart h, partitionGo]
  exact if_pos (by rw [leaving_still (w := { w with b.parts := t }) _ h]; rfl)

/-- What PARTITION_SET does to a transaction: it does not start while a patch runs (R373). -/
def partitionSetW (c : CmdId) (env : Env) (w : W) : W :=
  if setHolds w c then w
  else cmdRow c (isOp 0x84) env (fun k w => checked env k (partitionCheck w k) (partitionStart env k) w) (partitionGo env) w

theorem exec_partitionSetW (c : CmdId) (env : Env) (s : State) : exec (.partitionSet c env) s = run (partitionSetW c env) s := rfl

/-! ### Fabric commands (R390, R391) -/

/-- What an accepted FABRIC_CMD does. -/
def fabricAct (env : Env) (pk : Packet) (w : W) : W :=
  let id := fld pk.payload 0 8
  let w := sendAck pk.hdr id w
  match w.b.fabRsps.find? (fun r => r.msgid == id && r.src == pk.hdr.src) with
  | some r => sendFabric r.src r.pk.payload w
  | none =>
    if w.b.cmds.any (fun k => k.id.q == fabricQ && k.msgid.toNat == id && k.src == pk.hdr.src) then w
    else enterFabric env pk w

theorem exec_fabricCmd (rx : Rx) (env : Env) (s : State) :
    exec (.fabricCmd rx env) s = run (onPacket rx (fun pk => pk.hdr.opcode == 7) (fabricAct env)) s := rfl

theorem leaves_fabricCmd {s : State} {rx : Rx} {env : Env} {pk : Packet} {w : W} (hop : rx.pk.hdr.opcode = 7)
    (h : receive rx (openW s) = (some pk, w)) : Leaves (.fabricCmd rx env) s (fabricAct env pk w) :=
  leaves_of (exec_fabricCmd rx env s) (onPacket_receives (beq_iff_eq.mpr hop) h)

/-- An acknowledgement leaves the fabric's answers and commands. -/
theorem sendAck_keeps (h : Hdr) (id : Nat) (w : W) : (sendAck h id w).b.fabRsps = w.b.fabRsps ∧ (sendAck h id w).b.cmds = w.b.cmds := by
  obtain ⟨_, _, _, _, _, _, _, -, hsent⟩ := sends_sendTo h.src
    { vc := 0, op := 0x06, dgn := h.group.toNat, srcM := h.member.toNat / 16, dstM := h.member.toNat % 16
      sealed_ := h.flags.getLsbD 0, payload := toLe 8 id ++ [h.opcode] } w
  rw [sendAck, hsent]
  exact ⟨rfl, rfl⟩

theorem fabricAct_answered {env : Env} {pk : Packet} {w : W} {r : FabRsp}
    (h : w.b.fabRsps.find? (fun r => r.msgid == fld pk.payload 0 8 && r.src == pk.hdr.src) = some r) :
    fabricAct env pk w = sendFabric r.src r.pk.payload (sendAck pk.hdr (fld pk.payload 0 8) w) := by
  simp only [fabricAct, (sendAck_keeps pk.hdr (fld pk.payload 0 8) w).1, h]

theorem fabricAct_unanswered {env : Env} {pk : Packet} {w : W}
    (h : ∀ r ∈ w.b.fabRsps, ¬(r.msgid = fld pk.payload 0 8 ∧ r.src = pk.hdr.src)) :
    fabricAct env pk w =
      if w.b.cmds.any (fun k => k.id.q == fabricQ && k.msgid.toNat == fld pk.payload 0 8 && k.src == pk.hdr.src) then
        sendAck pk.hdr (fld pk.payload 0 8) w
      else enterFabric env pk (sendAck pk.hdr (fld pk.payload 0 8) w) := by
  have hnone : w.b.fabRsps.find? (fun r => r.msgid == fld pk.payload 0 8 && r.src == pk.hdr.src) = none :=
    List.find?_eq_none.mpr fun r hr => by simpa using h r hr
  obtain ⟨hrsps, hcmds⟩ := sendAck_keeps pk.hdr (fld pk.payload 0 8) w
  simp only [fabricAct, hrsps, hcmds, hnone]

/-- The command that a FABRIC_CMD carries. -/
def fabricCmdOf (pk : Packet) (w : W) : Cmd :=
  { id := { q := fabricQ, n := w.b.nextFabric }, slot := bytesAt pk.payload 0x10 128, ctx := fld pk.payload 0x0A 2 % 4096
    part := fld pk.payload 8 1 % 16, cls := 1, msgid := BitVec.ofNat 64 (fld pk.payload 0 8), src := pk.hdr.src, fetchedUs := nowUs w }

/-- A fabric command of an assigned opcode waits in its queue. -/
theorem enterFabric_assigned {env : Env} {pk : Packet} {w : W} (h : (opInfo (opOf (fabricCmdOf pk w))).isNone = false) :
    (enterFabric env pk w).b.cmds = w.b.cmds ++ [fabricCmdOf pk w] := by
  have hgo : enterFabric env pk w = { w with b.nextFabric := w.b.nextFabric + 1, b.cmds := w.b.cmds ++ [fabricCmdOf pk w] } :=
    if_neg (fun hstart => ne_true_of_eq_false h (Bool.and_eq_true_iff.mp hstart).1)
  rw [hgo]

/-- Settles O59: a high word lies in its low word's group, a register's write is its window's, and partitions that share no SE own
the SEs their masks name. -/
theorem registerWrites : Obligations.RegisterWrites := by
  unfold Obligations.RegisterWrites
  refine ⟨?latched, ?peak, ?bothCopies, ?inReset, ?write, ?partition, ?held, ?fabric⟩
  case latched =>
    intro s t low kind o offs hs ht hlow ho hlatch
    rw [readAccess_serves low hs] at hlatch ⊢
    rw [readAccess_serves (low + o) ht, readValue_low hlow, readValue_high hlow ho (hlatch.trans (afterRead_low hlow))]
    exact ⟨rfl, rfl⟩
  case peak =>
    intro s hs
    have hgroup : latchOf 0x10030 = none := by decide
    rw [readAccess_serves _ hs, readValue, hgroup]
    rfl
  case bothCopies =>
    intro s t a r hs h
    rw [readAccess_bothCopies a hs] at h
    obtain ⟨rfl, rfl⟩ := Prod.mk.inj h
    exact ⟨rfl, rfl, rfl⟩
  case inReset =>
    intro s f a hs
    exact readAccess_inReset f a hs
  case write =>
    intro s addr v env
    refine ⟨fun h => ⟨_, leaves_writeIgnored h, rfl, rfl, rfl, rfl⟩, fun h => ?_, fun ha hp => ?_, fun hs => ?_⟩
    · obtain h | h | h := h
      · exact blocks_writeNothing (writeReg_unserved (.inl h))
      · exact blocks_writeNothing (writeReg_unserved (.inr h))
      · exact blocks_writeNothing (writeReg_beyond h)
    · exact blocks_writeNothing (writeReg_shut ha hp)
    · have htb := writeReg_tbCfg (v := v) env hs
      have hscale := writeReg_pwrScale (v := v) env hs
      refine ⟨fun h => ?_, fun h => ?_, fun hlo hhi => ?_, ?_, ?_, ?_, fun hp => ⟨fun hen => ?_, fun hen => ?_, fun h => ?_, fun hlo hhi => ?_⟩⟩
      · exact leaves_writeIgnored (htb.trans (writeIf_reserved (Bool.or_eq_true_iff.mpr (h.imp beq_iff_eq.mpr decide_eq_true))))
      · exact leaves_writeIgnored (hscale.trans (writeIf_reserved (by simpa [vbits] using h)))
      · exact blocks_writeActs (htb.trans (writeIf_allowed (Bool.or_eq_false_iff.mpr
          ⟨beq_eq_false_iff_ne.mpr hlo, decide_eq_false (Nat.not_lt.mpr hhi)⟩))) rfl
      · exact blocks_writeActs (writeReg_elAck env hs) rfl
      · exact blocks_writeActs (writeReg_girq env hs) rfl
      · exact leads_of_blocks (blocks_writeActs (writeReg_rasStat env hs) rfl) ⟨rfl, rfl, getLsbD_w1c_all _ v⟩
      · exact leaves_writeIgnored ((writeReg_coord env hs hp).trans (if_pos hen))
      · exact blocks_writeActs ((writeReg_coord env hs hp).trans (if_neg (ne_true_of_eq_false hen))) rfl
      · exact leaves_writeIgnored ((writeReg_dpCtl env hs hp).trans (writeIf_reserved (Bool.or_eq_true_iff.mpr
          (h.imp decide_eq_true beq_iff_eq.mpr))))
      · exact blocks_writeActs ((writeReg_dpCtl env hs hp).trans (writeIf_allowed (Bool.or_eq_false_iff.mpr
          ⟨decide_eq_false (Nat.not_lt.mpr hlo), beq_eq_false_iff_ne.mpr hhi⟩))) rfl
  case partition =>
    rintro s c env k ⟨hs, hc, hr, hop⟩ hpatch hpass hses t ht hkeys hsmall hapart
    obtain ⟨-, -, hinj, -⟩ := id hc
    have hk := begun_keeps hs hinj
    have hgo := leaves_checked (exec_partitionSet (env := env) hpatch) hs (isOp_of hop) hpass
    rw [partitionStart_still (sesStill_begun hs hinj hses) (by rw [hk.blk]; exact ht) hkeys hsmall hapart, id_of_starts hs] at hgo
    exact ⟨_, hgo, finished_over _ hs hc hr rfl rfl hk.base hk.jr hk.build hk.slices (congrArg Ctx.state (hk.getCtx k.ctx)) hk.fetches
      (congrArg Ras.inj hk.ras)⟩
  case held =>
    intro s c env k hk hphase hpatch
    refine idle_of (exec_partitionSetW c env s) (if_pos ?_)
    simp only [setHolds, hk, Option.map_some, hphase, Option.getD_some]
    exact hpatch
  case fabric =>
    rintro s rx env pk w k hop hrx rfl
    have hact := leaves_fabricCmd (env := env) hop hrx
    refine ⟨fun r hr => fabricAct_answered (env := env) hr ▸ hact, fun hnew => ?_⟩
    rw [fabricAct_unanswered hnew] at hact
    refine ⟨fun hrun => ?_, fun hnone => ⟨?_, fun u => ?_⟩⟩
    · rwa [if_pos (by simpa [and_assoc] using hrun)] at hact
    · rwa [if_neg (by simpa [and_assoc] using hnone)] at hact
    · cases hassigned : (opInfo (opOf (fabricCmdOf pk u))).isNone
      · exact .inl (enterFabric_assigned hassigned)
      · exact .inr hassigned

end Sys2Proof.Machine
end
